-- ==== Sys2Proof/Word.lean ====
section
/-! DEFINITION. The word types: 64-bit registers and instruction words (R13, R16), bytes of the stores. -/
namespace Sys2Proof

/-- A 64-bit register or instruction word. -/
abbrev Word := BitVec 64

/-- A byte of a store. -/
abbrev Byte := BitVec 8

end Sys2Proof
end

