-- ==== Sys2Proof/Syntax.lean ====
section
/-! DEFINITION. The commands of the block: one constructor of `Instr` per row of spec/opcode_table.json, with the row's
operands. Instruction rows carry the operand fields of the 64-bit instruction word (R63) and where they issue. -/
namespace Sys2Proof

/-- Where and when a stream issues an instruction: logical tile, stream, the TAG field of the word (R63), and the
tile's ac counter in the issue ac (the value CTR.CYC would read, R84). -/
structure Iss where
  t   : Fin 144
  st  : Fin 8
  tag : BitVec 8
  ac  : Nat
  deriving DecidableEq, Repr

/-- The scalar-class operand fields (R66). -/
structure ScalarArgs where
  sd  : BitVec 5
  sa  : BitVec 5
  sb  : BitVec 5
  i   : Bool
  imm : BitVec 28
  deriving DecidableEq, Repr

/-- The token-class operand fields (R75). -/
structure TokArgs where
  sd    : BitVec 5
  sa    : BitVec 5
  token : BitVec 12
  n     : BitVec 16
  deriving DecidableEq, Repr

/-- The frame-class operand fields (R83). -/
structure FrameArgs where
  sd  : BitVec 5
  sa  : BitVec 5
  imm : BitVec 24
  deriving DecidableEq, Repr

/-- The counter-class operand fields (R84), with the bits between them, which only the log of an illegal word shows. -/
structure CtrArgs where
  sd  : BitVec 5
  sa  : BitVec 5
  rsv : BitVec 30
  idx : BitVec 4
  deriving DecidableEq, Repr

/-- A tile stream and the tile's ac at which something happens to it. -/
structure StreamAt where
  t  : Fin 144
  st : Fin 8
  ac : Nat
  deriving DecidableEq, Repr

/-- A tide symbol as received (R23): its 112 bits, the port it arrives on and the local time of arrival in units of
0.25 ns (R19). -/
structure TideSym where
  port : Fin 16
  bits : BitVec 112
  time : Nat
  deriving DecidableEq, Repr

/-- The vector-class operand fields (R140). -/
structure VArgs where
  vd : BitVec 6
  va : BitVec 6
  vb : BitVec 6
  vc : BitVec 6
  mr  : BitVec 4
  me : Bool
  z  : Bool
  ty : BitVec 4
  x  : BitVec 10
  deriving DecidableEq, Repr

/-- The vector memory operand fields (R156). -/
structure VMemArgs where
  v   : BitVec 6
  vi  : BitVec 6
  sa  : BitVec 5
  mr  : BitVec 4
  me  : Bool
  z   : Bool
  ty  : BitVec 4
  var : BitVec 17
  deriving DecidableEq, Repr

/-- The matrix-, layout- and post-class operand fields (R81): the register with the descriptor offset, TE, the token,
and the class-specific bits. -/
structure PostArgs where
  sa    : BitVec 5
  te    : Bool
  token : BitVec 12
  x     : BitVec 26
  deriving DecidableEq, Repr

/-- Memory words found upset at an access (R280), by local-map address: true for an uncorrectable error. What the
environment does to stored bits comes with the command that reads them. -/
abbrev Upset := List (Nat × Bool)

/-- A request at a near- or deep-tier controller (R279): requester device and source unit, read of `n` bytes or write of
bytes (poisoned or clean), and the words it finds upset. -/
structure TierReq where
  dev    : BitVec 16
  src    : BitVec 16
  write  : Bool
  addr   : BitVec 48
  n      : Nat
  data   : List Byte
  poison : Bool
  upset  : Upset
  deriving DecidableEq, Repr

/-- A fabric packet (R301, R302): the header's fields, the payload, the poison mask (one bit per 8-byte word) and the
end-to-end CRC-64 of its trailer. -/
structure FabPkt where
  opc   : BitVec 8
  vc    : BitVec 3
  pm    : Bool
  hops  : BitVec 4
  dst   : BitVec 16
  src   : BitVec 16
  len   : BitVec 13
  addr  : BitVec 48
  tag   : BitVec 32
  unit  : BitVec 16
  qid   : BitVec 16
  opnd  : BitVec 64
  opnd2 : BitVec 64
  sub   : BitVec 8
  alive : BitVec 8
  first : Bool
  last  : Bool
  e2e   : Bool
  rep   : Bool
  nak   : BitVec 4
  flags : BitVec 8
  kind  : BitVec 4
  payload : List Byte
  mask  : List Bool
  crc   : BitVec 64
  deriving DecidableEq, Repr

/-- What arrives on a link beside the symbols with rows of their own: a packet with its link sequence number and link CRC
(R298), or a control symbol of another kind (R297). -/
inductive LinkUnit where
  | packet (p : FabPkt) (seq : BitVec 32) (crc : BitVec 32)
  | symbol (kind : BitVec 16)
  deriving DecidableEq, Repr

/-- A link: port × 2 + half (R291). -/
abbrev LinkId := Fin 32

/-- Where a received packet waits: a link, or 32 for packets this device addresses to itself. -/
abbrev RxId := Fin 33

/-- What the power controller counts and measures in 1 µs (R372, R373, R382). By tile the counts of array rows, array loads, vector
issues, special-function issues, sparse-engine products, layout bytes and tile-memory lines; by die the near-tier, deep-tier, fabric
and host bytes; by die the hottest junction in °C; by die the measured core-rail energy in nJ; the input energy and the energy of the
memory and auxiliary rails in nJ; local time in ns. -/
structure PwrSample where
  tiles : List (Fin 144 × List Nat)
  bytes : List (List Nat)
  temps : List Nat
  dies  : List Nat
  input : Nat
  aux   : Nat
  time  : Nat
  deriving DecidableEq, Repr

/-- What the Watch sampler compares (R397): the hottest junction with its sensor, the coolant inlet, and the ports on which a
control symbol arrived since the last sample. -/
structure WatchData where
  junc   : Nat
  sensor : BitVec 8
  cool   : Nat
  ports  : BitVec 16
  deriving DecidableEq, Repr

/-- What JOB_START gives one tile (R415): start PCs and CFG words by stream, and the mask of streams to start. -/
structure JobTile where
  t    : Fin 144
  pcs  : List (Fin 8 × BitVec 23)
  cfgs : List (Fin 8 × BitVec 64)
  mask : BitVec 8
  deriving DecidableEq, Repr

/-- A register image of a configuration command (R415): local-map address and value; a route entry is a 4-byte register. -/
structure RegImage where
  addr : BitVec 48
  val  : BitVec 64
  deriving DecidableEq, Repr

/-- A master of the local map as register writes name it (R10, R284): device and source unit (R449). -/
structure Master where
  dev : BitVec 16
  src : BitVec 16
  deriving DecidableEq, Repr

/-- A host write of PCI Express configuration space (R403 to R405, R408): Max Payload Size and Max Read Request Size in bytes. -/
inductive CfgWrite where
  | busMaster (on : Bool)
  | d3hot (on : Bool)
  | bar2Size (log2 : Nat)
  | aspmL1 (on : Bool)
  | payload (bytes : Nat)
  | readRequest (bytes : Nat)
  | tag10 (on : Bool)
  deriving DecidableEq, Repr

/-- The commands, in the table's order. -/
inductive Instr where
  -- tide unit
  | tideMarkRx (sym : TideSym)
  | tideJump (time : Nat)
  | pendingTideTake (time : Nat)
  | tideDelivery (time : Nat)
  | missWindowClose (time : Nat)
  | masterMarkEmit (time : Nat)
  | masterTideTake (time : Nat)
  | echoSend (time : Nat)
  | tideEchoRx (sym : TideSym)
  | linkDelayMeasure (port : Fin 16) (m : Option (Nat × Nat)) (time : Nat)
  | tideCtlEnable (m : Master) (v : BitVec 1) (time : Nat)
  | tideCtlRole (m : Master) (v : BitVec 2) (time : Nat)
  | tidePeriodWrite (m : Master) (v : BitVec 64)
  | tideLeadWrite (m : Master) (v : BitVec 64)
  | tideLoad (m : Master) (v : BitVec 64)
  -- stream control and events
  | tsqCtlStart (m : Master) (t : Fin 144) (mask : BitVec 8)
  | tsqCtlHalt (m : Master) (t : Fin 144) (mask : BitVec 8)
  | tsqCtlResume (m : Master) (t : Fin 144) (mask : BitVec 8)
  | tsqCtlUnfreeze (m : Master) (t : Fin 144)
  | tsqTokenWrite (m : Master) (t : Fin 144) (k : BitVec 12) (v : BitVec 64)
  | tsqSregWrite (m : Master) (t : Fin 144) (st : Fin 8) (n : BitVec 5) (v : BitVec 64)
  | fenceDrainEnd (p : StreamAt)
  | streamBreak (p : StreamAt)
  | tokenWaitSatisfied (p : StreamAt)
  | frameWaitEnd (p : StreamAt)
  | queueSpaceFree (p : StreamAt)
  | comparatorFire (t : Fin 144) (j : Fin 4) (ac : Nat)
  | tokenTimeout (p : StreamAt)
  | vectorWriteback (t : Fin 144) (ac : Nat)
  | illegalInsn (i : Iss) (word : BitVec 64)
  -- scalar
  | sAdd (i : Iss) (a : ScalarArgs)
  | sSub (i : Iss) (a : ScalarArgs)
  | sMul (i : Iss) (a : ScalarArgs)
  | sMad (i : Iss) (a : ScalarArgs)
  | sAnd (i : Iss) (a : ScalarArgs)
  | sOr (i : Iss) (a : ScalarArgs)
  | sXor (i : Iss) (a : ScalarArgs)
  | sShl (i : Iss) (a : ScalarArgs)
  | sShr (i : Iss) (a : ScalarArgs)
  | sSra (i : Iss) (a : ScalarArgs)
  | sMin (i : Iss) (a : ScalarArgs)
  | sMax (i : Iss) (a : ScalarArgs)
  | sMinu (i : Iss) (a : ScalarArgs)
  | sMaxu (i : Iss) (a : ScalarArgs)
  | sCeq (i : Iss) (a : ScalarArgs)
  | sClt (i : Iss) (a : ScalarArgs)
  | sCltu (i : Iss) (a : ScalarArgs)
  | sIns (i : Iss) (a : ScalarArgs)
  -- control
  | nop (i : Iss)
  | halt (i : Iss)
  | loop (i : Iss) (sa : BitVec 5) (imm : Bool) (body : BitVec 14) (count : BitVec 24)
  | skipZ (i : Iss) (sa : BitVec 5) (n : BitVec 24)
  | skipNz (i : Iss) (sa : BitVec 5) (n : BitVec 24)
  | lidx (i : Iss) (sd : BitVec 5) (level : BitVec 2)
  -- tokens
  | tokWait (i : Iss) (a : TokArgs)
  | tokSet (i : Iss) (a : TokArgs)
  | tokClr (i : Iss) (a : TokArgs)
  | tokRead (i : Iss) (a : TokArgs)
  -- frames
  | frameOpen (i : Iss) (a : FrameArgs)
  | frameOpenA (i : Iss) (a : FrameArgs)
  | frameClose (i : Iss) (a : FrameArgs) (time : Nat)
  | frameStat (i : Iss) (a : FrameArgs)
  -- counters
  | ctrRead (i : Iss) (a : CtrArgs)
  | ctrClr (i : Iss) (a : CtrArgs)
  | ctrTide (i : Iss) (a : CtrArgs)
  | ctrCyc (i : Iss) (a : CtrArgs)
  | cmpSet (i : Iss) (a : CtrArgs)
  | cmpArm (i : Iss) (a : CtrArgs)
  -- matrix array
  | mma (i : Iss) (a : PostArgs)
  | mmaLoads (i : Iss) (a : PostArgs)
  | mmaEw (i : Iss) (a : PostArgs)
  | mmaMp (i : Iss) (a : PostArgs)
  | mxaCommandStart (t : Fin 144) (ac : Nat) (upset : Upset)
  | mxaPacketDelivery (t : Fin 144) (ac : Nat)
  | mxaCommandComplete (t : Fin 144) (ac stallTm stallFtq : Nat)
  | mxaEpisodeEnd (t : Fin 144) (ac : Nat)
  | mxaCtlWrite (m : Master) (t : Fin 144) (v : BitVec 64)
  -- vector engines
  | vmov (i : Iss) (a : VArgs)
  | vand (i : Iss) (a : VArgs)
  | vor (i : Iss) (a : VArgs)
  | vxor (i : Iss) (a : VArgs)
  | vnot (i : Iss) (a : VArgs)
  | vshl (i : Iss) (a : VArgs)
  | vshr (i : Iss) (a : VArgs)
  | vmset (i : Iss) (a : VArgs)
  | vmand (i : Iss) (a : VArgs)
  | vmor (i : Iss) (a : VArgs)
  | vmnot (i : Iss) (a : VArgs)
  | vadd (i : Iss) (a : VArgs)
  | vsub (i : Iss) (a : VArgs)
  | vmul (i : Iss) (a : VArgs)
  | vmin (i : Iss) (a : VArgs)
  | vmax (i : Iss) (a : VArgs)
  | vfma (i : Iss) (a : VArgs)
  | vcmp (i : Iss) (a : VArgs)
  | vcvt (i : Iss) (a : VArgs)
  | vbcast (i : Iss) (a : VArgs)
  | vmovS (i : Iss) (a : VArgs)
  | vsetvl (i : Iss) (a : VArgs)
  | vstatS (i : Iss) (a : VArgs)
  | vperm (i : Iss) (a : VArgs)
  | vshuf (i : Iss) (a : VArgs)
  | vredSum (i : Iss) (a : VArgs)
  | vredProd (i : Iss) (a : VArgs)
  | vredMax (i : Iss) (a : VArgs)
  | vredMin (i : Iss) (a : VArgs)
  | vargMax (i : Iss) (a : VArgs)
  | vargMin (i : Iss) (a : VArgs)
  | vscanSum (i : Iss) (a : VArgs)
  | vscanProd (i : Iss) (a : VArgs)
  | vscanMax (i : Iss) (a : VArgs)
  | vscanMin (i : Iss) (a : VArgs)
  | vscanLr (i : Iss) (a : VArgs)
  | vld (i : Iss) (a : VMemArgs) (upset : Upset)
  | vst (i : Iss) (a : VMemArgs)
  | vgather (i : Iss) (a : VMemArgs) (upset : Upset)
  | vscatter (i : Iss) (a : VMemArgs)
  | vgatherN (i : Iss) (a : VMemArgs)
  | vscatterN (i : Iss) (a : VMemArgs)
  | detachedComplete (t : Fin 144) (e : Fin 2) (ac : Nat) (upset : Upset)
  | ftqPop (i : Iss) (a : VArgs)
  | ftqDrop (i : Iss) (a : VArgs)
  | ftqCtlWrite (m : Master) (t : Fin 144) (v : BitVec 64)
  | tileLinkArrival (t : Fin 144) (e : Fin 2) (ac : Nat)
  -- special functions: `ecc` holds the byte offsets of the active bank's words found uncorrectable (R181)
  | vsf (i : Iss) (a : VArgs)
  | vsfU (i : Iss) (a : VArgs) (ecc : List Nat)
  | vsfFuse (i : Iss) (a : VArgs) (ecc : List Nat)
  | vnormRms (i : Iss) (a : VArgs)
  | vnormMv (i : Iss) (a : VArgs)
  | vsmaxP1 (i : Iss) (a : VArgs)
  | vsmaxP2 (i : Iss) (a : VArgs)
  | vsfArm (i : Iss) (a : VArgs)
  | sfuSwapArm (m : Master) (t : Fin 144) (v : BitVec 64)
  | sfuSwapDisarm (m : Master) (t : Fin 144) (v : BitVec 64)
  | sfuSwap (t : Fin 144) (ac : Nat)
  -- sparse engine
  | spMm (i : Iss) (a : PostArgs)
  | spSpgemm (i : Iss) (a : PostArgs)
  | spMerge (i : Iss) (a : PostArgs)
  | spHarrow (i : Iss) (a : PostArgs)
  | spSort (i : Iss) (a : PostArgs)
  | speCommandStart (t : Fin 144) (ac : Nat) (upset : Upset)
  | speCommandComplete (t : Fin 144) (ac stallTm stallFtq : Nat)
  -- layout engine
  | lxCopy (i : Iss) (a : PostArgs)
  | lxCvt (i : Iss) (a : PostArgs)
  | lxWin (i : Iss) (a : PostArgs)
  | lxPrune (i : Iss) (a : PostArgs)
  | lxGather (i : Iss) (a : PostArgs)
  | lxScat (i : Iss) (a : PostArgs)
  | lxFp64s (i : Iss) (a : PostArgs)
  | lxFill (i : Iss) (a : PostArgs)
  | lxeCommandStart (t : Fin 144) (ac : Nat) (upset : Upset)
  | lxeCommandComplete (t : Fin 144) (ac stallTm : Nat)
  | lxeCtlWrite (m : Master) (t : Fin 144) (v : BitVec 64)
  -- memory system
  | tierRequest (r : TierReq)
  | memScrubStep (tier : Fin 3) (t : Fin 144) (upset : Option Bool) (cancelled : Bool)
  | memScrubLag (t : Fin 144) (elapsedMs : Nat)
  | memScrubWrite (v : BitVec 64)
  -- fabric: links
  | fabPortCfgWrite (p : Fin 16) (v : BitVec 64)
  | linkTrainingComplete (l : LinkId)
  | linkPacketRx (l : LinkId) (u : LinkUnit) (corr uncorr : Nat)
  | linkAcknowledge (l : LinkId) (seq : BitVec 32)
  | linkReplayRequest (l : LinkId) (seq : BitVec 32)
  | creditReturn (l : LinkId) (vc : BitVec 3) (n : Nat)
  | packetForward (l : RxId) (vc : BitVec 3)
  -- fabric: packets for this device, taken from the front of a virtual channel's buffer
  | read (l : RxId) (vc : BitVec 3) (upset : Upset)
  | write (l : RxId) (vc : BitVec 3)
  | atomic (l : RxId) (vc : BitVec 3) (upset : Upset)
  | sacc (l : RxId) (vc : BitVec 3) (upset : Upset)
  | tokenInc (l : RxId) (vc : BitVec 3)
  | msg (l : RxId) (vc : BitVec 3)
  | credit (l : RxId) (vc : BitVec 3)
  | rdata (l : RxId) (vc : BitVec 3)
  | adata (l : RxId) (vc : BitVec 3)
  | ack (l : RxId) (vc : BitVec 3)
  | nak (l : RxId) (vc : BitVec 3)
  | mgmt (l : RxId) (vc : BitVec 3)
  | fabReqTimeout (tag : BitVec 32)
  | fabIdWrite (v : BitVec 64)
  | fabMcrcData8 (v : BitVec 32)
  | fabMcrcData16 (v : BitVec 32)
  | fabMcrcData32 (v : BitVec 32)
  | fabMcrcInit (v : BitVec 32)
  | fabMcrcValueWrite (v : BitVec 32)
  -- hardware queues
  | qPost (i : Iss) (a : PostArgs)
  | queDbTail (m : Master) (q : BitVec 16) (v : BitVec 32)
  | queDbHead (m : Master) (q : BitVec 16) (v : BitVec 32)
  | queueEnable (m : Master) (q : BitVec 16)
  | queueDisable (m : Master) (q : BitVec 16)
  | resetAlive (m : Master) (q : BitVec 16)
  | queueDrainEnd (q : BitVec 16)
  | queuePacketSend (upset : Upset)
  | queueDescComplete (q : BitVec 16)
  -- gradient exchange
  | grPost (i : Iss) (a : PostArgs)
  | greBucketStart (c : Fin 256) (upset : Upset)
  | greDeadline (c : Fin 256)
  | greLateResolved (c : Fin 256) (upset : Upset)
  | greMessageRx (c : Fin 256) (link : Fin 5)
  | greRerun (c : Fin 256) (upset : Upset)
  | greBucketComplete (c : Fin 256)
  | greStall (c : Fin 256)
  | greChanEnable (m : Master) (c : Fin 256) (v : BitVec 64)
  | greChanDisable (m : Master) (c : Fin 256) (v : BitVec 64)
  -- power and thermal control
  | pwrActivityEstimate (p : PwrSample)
  | pwrControlInterval (time : Nat)
  | frequencyIncreaseApply
  | pwrCalibration
  | junctionStep (temps : List Nat)
  | thermalTrip (die : Fin 4) (sensor : Fin 16) (temp : Nat)
  | coolantSample (inlet outlet : Nat)
  | droopTrip (die : Fin 4) (supply : Nat) (time : Nat)
  | droopStretchEnd (die : Fin 4) (supplies : List Nat) (time : Nat)
  | pwrBrake (time : Nat)
  | pwrCtlWrite (v : BitVec 64)
  | budgetRound
  | budgetDecreaseRx
  | budgetIncreaseRx
  | budgetHoldRx
  | budgetAckRx (i : Fin 256)
  | budgetMasterLost
  | pwrStateEnter (wake : Bool)
  | watchSample (w : WatchData)
  | powerWake (causes : BitVec 9) (detail : BitVec 8)
  -- host attachment and mailboxes
  | hostLinkTraining (width rate : Nat) (flit : Bool)
  | hostBarRead (bar2 : Bool) (off n : Nat) (upset : Upset)
  | hostBarWrite (bar2 : Bool) (off : Nat) (data : List Byte) (poison : Bool)
  | msixPendingSend (v : Fin 64)
  | send (c : Fin 24)
  | take (c : Fin 24)
  | reply (c : Fin 24)
  | release (c : Fin 24)
  -- mailbox commands as firmware carries them out; arguments whose layout each firmware release gives are operands
  | queryInfo (c : Fin 24)
  | queryEvents (c : Fin 24) (pos : BitVec 32) (n : Nat)
  | queryState (c : Fin 24)
  | alloc (c : Fin 24) (region : Fin 3) (size : Nat) (place : Option Nat)
  | free (c : Fin 24) (handle : BitVec 32)
  | tensorCreate (c : Fin 24) (image window : List (BitVec 64)) (dest : BitVec 64)
  | jobStart (c : Fin 24) (tiles : List JobTile)
  | jobReset (c : Fin 24)
  | jobResetComplete
  | tileReset (c : Fin 24) (t : BitVec 8)
  | queueConfig (c : Fin 24) (q : BitVec 16) (image : List (BitVec 64)) (cmd : BitVec 2)
  | chanConfig (c : Fin 24) (images : List RegImage)
  | tideConfig (c : Fin 24) (images : List RegImage) (time : Nat)
  | fabricConfig (c : Fin 24) (images : List RegImage)
  | portReset (c : Fin 24) (port : BitVec 8) (half : Bool)
  | fwUpdateBegin (c : Fin 24)
  | fwUpdateData (c : Fin 24)
  | fwUpdateCommit (c : Fin 24)
  | healthConfirm (c : Fin 24)
  | attest (c : Fin 24)
  | powerLimit (c : Fin 24) (cap fmax : BitVec 16)
  | budgetConfig (c : Fin 24) (images : List RegImage)
  | settingsSave (c : Fin 24)
  | factoryRead (c : Fin 24)
  | warmReset (c : Fin 24)
  | mgpRestart (c : Fin 24)
  -- resets and firmware
  | coldReset
  | flr
  | warmResetStart
  | mgpRestartStart
  | firmwareStart
  | mgpTrialExpire
  | mgpTrialStop (m : Master)
  | mgpMeasExt (m : Master) (index : BitVec 3)
  | mgpAttGo (m : Master)
  | attestReportDone (late : Bool)
  -- event unit
  | eventAccept (sameNs : Nat)
  | evtSwCommit
  | evtCtlWrite (v : BitVec 64)
  | evtRdWrite (v : BitVec 64)
  | auditAccept (sameNs : Nat)
  | evtAuditRdWrite (v : BitVec 64)
  | evtCapEnable (v : BitVec 64)
  | captureFreeze
  | evtRngRead
  | evtReplayGo
  | evtReplayStop
  | replayTide (time : Nat) (stuck : Bool)
  | mgpWdtExpire
  | mgpWdtKick (m : Master)
  | dcpHeartbeatCheck (die : Fin 4)
  | dcpAliveCheck
  -- register writes
  | mbxWinWrite (bar2 : Bool) (v : BitVec 64)
  | registerWrite (m : Master) (addr : BitVec 48) (data : List Byte) (time : Nat)
  -- module
  | standbyUp
  | pwrEnAssert (lowMs : Nat) (failed : Option (BitVec 8))
  | pwrEnDeassert
  | inputUndervoltage
  | modWake
  | smbAlertResponse
  | mbWrite (pec : Bool) (ch : BitVec 8) (off : BitVec 16) (data : List Byte)
  | mbCtlSend (pec : Bool) (ch : BitVec 8)
  | mbCtlRelease (pec : Bool) (ch : BitVec 8)
  | mbRead (pec : Bool) (ch : BitVec 8) (off : BitVec 16) (n : Nat)
  | mbStatus (pec : Bool) (ch : BitVec 8)
  | flErase (pec : Bool) (addr : BitVec 32)
  | flWrite (pec : Bool) (addr : BitVec 32) (data : List Byte)
  | flRead (pec : Bool) (addr : BitVec 32) (n : Nat)
  | flStatus (pec : Bool)
  | flashOpComplete (verifyErr : Bool)
  | linkFailure (l : LinkId)
  | pwrBrakeRelease (time : Nat)
  | pcieConfigWrite (w : CfgWrite)
  | lowPowerEntryComplete
  deriving DecidableEq, Repr

end Sys2Proof
end

