-- ==== Sys2Proof/Config.lean ====
section
/-! DEFINITION. What the manual leaves open and the model leaves free (opaque constants: no proof can see a value of
them). Each one is named in the assumption log. -/
namespace Sys2Proof.Config

/-- The flywheel's period in ps, as far as R36 leaves it open (any before 64 accepted marks; within the residual error after):
free, by a fresh number (log entry 26). -/
opaque flyPeriod : Nat → Nat

/-- The on-die entropy source of EVT_RNG (R460): a fresh 64-bit value for each read. Free value. -/
opaque entropy : Nat → BitVec 64

/-- Byte `k` of a descriptor block whose offset is not a multiple of 64 or does not lie in tile memory (R81 asks for a
multiple of 64 and states nothing else): free, by a fresh number (log entry 29). -/
opaque strayDesc : Nat → Nat → Byte

/-- The 16 random bits of a stochastic rounding in MMA.EW (R126 states them from m and n, which R121 does not give an
element of MMA.EW): free, by seed and element (log entry 30). -/
opaque ewRound : BitVec 64 → Nat → BitVec 16

/-- The built-in function of a code at an FP32 argument for which the manual states no exact result (R182 gives the
reduction and error bounds, not the coefficients): free (log entry 33). -/
opaque sfuTable : Nat → BitVec 32 → BitVec 32

/-- What the Mirjor T2 returned for a function code at an FP32 argument (R203 gives no tables): free (log entry 34). -/
opaque sfuT2 : Nat → BitVec 32 → BitVec 32

/-- A micro-program's result at an argument to which its range reduction gives no k and m (RMODE 2 at a ≤ 0, R191): free
(log entry 35). -/
opaque sfuNoReduce : BitVec 32 → BitVec 32

/-- Byte `k` of a spill area after a command of more than one merge pass (R227 gives the area, not its layout): free, by a
fresh number (log entry 37). -/
opaque spillByte : Nat → Nat → Byte

/-- The level frequency in MHz of a table entry that R384 does not print (it is in the firmware image): free (log entry 42). -/
opaque levelFreq : Nat → Nat

/-- A correction factor's new value where the millisecond's estimate is 0 (R373 divides by it): free (log entry 43). -/
opaque calNoEstimate : Nat → Nat → Nat

/-- The assertion duration that PWR_BRAKE reports when it is logged, at the assertion (R376, R401): free, by a fresh number
(log entry 44). -/
opaque brakeUs : Nat → Nat

/-- Energies of the factory record in pJ, in a part of it whose layout the manual leaves to firmware (R372, R383, R435): free (log
entry 45). `eventPj`: an array row, an array load, a vector issue, a special-function issue, a sparse-engine product, a layout byte, a
tile-memory line (0 to 6). `uncorePj`: a near-tier, deep-tier, fabric and host byte (0 to 3). `transportPj`: a byte that a queue moves
over the fabric, in the near tier, in the deep tier (0 to 2). -/
opaque eventPj : Nat → Nat
opaque uncorePj : Nat → Nat
opaque transportPj : Nat → Nat

/-- The leakage term of a die's uncore estimate for 1 µs in pJ, by die, hottest junction in °C and rail voltage in mV (R372 gives no
formula): free (log entry 45). -/
opaque leakPj : Nat → Nat → Nat → Nat

/-- ML-DSA-87 verification (R429, R435): under key 0 or 1 (firmware root keys) or 2 (factory key), of a digest, with signature
bytes. The manual names the standard and gives no keys: free (log entry 48). -/
opaque sigValid : Nat → Nat → List Byte → Bool

/-- Byte `k` of the ML-DSA-87 signature the key unit makes over a digest (R444): free (log entry 48). -/
opaque signByte : Nat → Nat → Byte

/-- Word `k` of the public identity key derived from the device's SRAM function (R442): free (log entry 12). -/
opaque idKey : Nat → BitVec 64

/-- The reply payload in which a firmware release returns values it is asked for (R415 gives no layout): by command code and
values: free (log entry 51). -/
opaque replyLayout : Nat → List Nat → List Byte

/-- The settings VERSION an attestation report states where no settings copy was applied (R444): free (log entry 52). -/
opaque noSettings : Nat

/-- The integer X whose digits LX.FP64S writes for a NaN in a group whose given exponent is finite (R255 states none): by the
element's pattern: free (log entry 57). -/
opaque slicedNan : Nat → Int

/-- The straps ADDR1 and ADDR0 of the SMBus unit, which the system sets (R472, R478): free (log entry 69). -/
opaque smbStraps : Fin 4

/-- A byte of flash after an operation that ended with a verify error (R478 states none): free, by a fresh number and its
offset (log entry 70). -/
opaque flashUnverified : Nat → Nat → Byte

end Sys2Proof.Config
end

