-- ==== Sys2Proof/Machine/Bits.lean ====
section
/-! DEFINITION. Bit-field helpers: where a field of a 64-bit register lies, reading and writing it, and the small
saturating and signed helpers the units use (R13, R14). -/
namespace Sys2Proof.Machine

/-- Where a field lies: the register's local-map address, its lowest bit and its width. -/
structure Field where
  addr  : Nat
  lo    : Nat
  width : Nat
  deriving DecidableEq, Repr

/-- Bits [lo + width - 1 : lo] of a number. -/
def bitsOf (x lo width : Nat) : Nat := (x >>> lo) % 2 ^ width

/-- The word with bits [lo + width - 1 : lo] replaced by the low bits of `v`. -/
def putBits (w : Word) (lo width v : Nat) : Word :=
  let mask : Word := BitVec.ofNat 64 ((2 ^ width - 1) <<< lo)
  (w &&& ~~~ mask) ||| BitVec.ofNat 64 ((v % 2 ^ width) <<< lo)

/-- A `w`-bit number read as two's complement. -/
def toSigned (w x : Nat) : Int :=
  if (x % 2 ^ w) * 2 < 2 ^ w then (x % 2 ^ w : Nat) else ((x % 2 ^ w : Nat) : Int) - ((2 ^ w : Nat) : Int)

/-- The `w`-bit two's complement pattern of an integer, as a number. -/
def ofSigned (w : Nat) (i : Int) : Nat := (i % ((2 ^ w : Nat) : Int)).toNat

/-- Addition that stops at the largest `w`-bit number (the manual's "saturating"). -/
def satAdd (w x y : Nat) : Nat := min (x + y) (2 ^ w - 1)

/-- 1 for true, 0 for false. -/
def b2n (b : Bool) : Nat := if b then 1 else 0

/-- The number whose little-endian bytes are given (R13). -/
def leNat : List Byte → Nat
  | [] => 0
  | b :: bs => b.toNat + 256 * leNat bs

/-- The `n` little-endian bytes of a number (R13). -/
def leBytes : Nat → Nat → List Byte
  | 0, _ => []
  | n + 1, x => BitVec.ofNat 8 x :: leBytes n (x / 256)

end Sys2Proof.Machine
end

