-- ==== Sys2Proof/Machine/RegMap.lean ====
section
/-! DEFINITION. The register map: where every register of the manual lies in the local map (R268 to R270), where each
of its fields lies, and the table of access codes and reset values (R14). Written from the register tables of the
chapters; the rule of each block is named at its table. Addresses are local-map byte addresses. -/
namespace Sys2Proof.Machine

namespace R

/-! TIDE registers, R54. -/
def TIDE_CTL : Nat := 0x38000000000
def TIDE_PERIOD : Nat := 0x38000000008
def TIDE_LEAD : Nat := 0x38000000010
def TIDE_IDS : Nat := 0x38000000018
def TIDE_TREE : Nat := 0x38000000020
def TIDE_COUNT : Nat := 0x38000000028
def TIDE_LOAD : Nat := 0x38000000030
def TIDE_STATUS : Nat := 0x38000000038
def TIDE_TIME : Nat := 0x38000000040
def TIDE_INSTANT : Nat := 0x38000000048
def TIDE_OFFSET : Nat := 0x38000000050
def TIDE_OFFSET_EXT : Nat := 0x38000000058
def TIDE_ERRCNT0 : Nat := 0x38000000060
def TIDE_ERRCNT1 : Nat := 0x38000000068
def TIDE_SLACK : Nat := 0x38000000070
def TIDE_LINK (p : Nat) : Nat := 0x38000000100 + p * 8

/-! TSQ registers, R98. -/
def TSQ_CTL (t : Nat) : Nat := 0x30000000000 + t * 0x800000
def TSQ_STREAM_START (t s : Nat) : Nat := 0x30000000100 + t * 0x800000 + s * 0x80
def TSQ_STREAM_CFG (t s : Nat) : Nat := 0x30000000108 + t * 0x800000 + s * 0x80
def TSQ_STREAM_STATUS (t s : Nat) : Nat := 0x30000000110 + t * 0x800000 + s * 0x80
def TSQ_STREAM_ICOUNT (t s : Nat) : Nat := 0x30000000118 + t * 0x800000 + s * 0x80
def TSQ_STREAM_BRK_COUNT (t s : Nat) : Nat := 0x30000000120 + t * 0x800000 + s * 0x80
def TSQ_STREAM_BRK_TAG (t s : Nat) : Nat := 0x30000000128 + t * 0x800000 + s * 0x80
def TSQ_STREAM_SLIP (t s : Nat) : Nat := 0x30000000130 + t * 0x800000 + s * 0x80
def TSQ_STREAM_FRAME (t s : Nat) : Nat := 0x30000000138 + t * 0x800000 + s * 0x80
def TSQ_STREAM_LATE (t s : Nat) : Nat := 0x30000000140 + t * 0x800000 + s * 0x80
def TSQ_EVCNT_SEL (t i : Nat) : Nat := 0x30000000600 + t * 0x800000 + i * 0x10
def TSQ_EVCNT_VALUE (t i : Nat) : Nat := 0x30000000608 + t * 0x800000 + i * 0x10
def TSQ_CMP_CTL (t j : Nat) : Nat := 0x30000000700 + t * 0x800000 + j * 0x10
def TSQ_CMP_VALUE (t j : Nat) : Nat := 0x30000000708 + t * 0x800000 + j * 0x10
def TSQ_AUDIT_CNT (t : Nat) : Nat := 0x30000000800 + t * 0x800000
def TSQ_QDEPTH (t : Nat) : Nat := 0x30000000808 + t * 0x800000
def TSQ_SREG (t s n : Nat) : Nat := 0x30000001000 + t * 0x800000 + s * 0x100 + n * 8
def TSQ_TOKEN (t k : Nat) : Nat := 0x30000002000 + t * 0x800000 + k * 8

/-! MXA registers, R136. -/
def MXA_CTL (t : Nat) : Nat := 0x30000100000 + t * 0x800000
def MXA_STATUS (t : Nat) : Nat := 0x30000100008 + t * 0x800000
def MXA_REJECT (t : Nat) : Nat := 0x30000100010 + t * 0x800000
def MXA_CNT_CMDS (t : Nat) : Nat := 0x30000100020 + t * 0x800000
def MXA_CNT_STREAM_AC (t : Nat) : Nat := 0x30000100028 + t * 0x800000
def MXA_CNT_LOAD_AC (t : Nat) : Nat := 0x30000100030 + t * 0x800000
def MXA_CNT_STALL_TM (t : Nat) : Nat := 0x30000100038 + t * 0x800000
def MXA_CNT_STALL_FTQ (t : Nat) : Nat := 0x30000100040 + t * 0x800000
def MXA_CNT_PACKETS (t : Nat) : Nat := 0x30000100048 + t * 0x800000

/-! VXE registers, R178. -/
def VXE_CENSUS_CTL (t : Nat) : Nat := 0x30000200000 + t * 0x800000
def VXE_CENSUS_TIDE (t : Nat) : Nat := 0x30000200008 + t * 0x800000
def VXE_CENSUS_CONV (t f : Nat) : Nat := 0x30000200100 + t * 0x800000 + f * 0x20
def VXE_CENSUS_SAT (t f : Nat) : Nat := 0x30000200108 + t * 0x800000 + f * 0x20
def VXE_CENSUS_VANISH (t f : Nat) : Nat := 0x30000200110 + t * 0x800000 + f * 0x20
def VXE_STATUS (t e : Nat) : Nat := 0x30000201000 + t * 0x800000 + e * 0x1000
def VXE_VL (t e : Nat) : Nat := 0x30000201008 + t * 0x800000 + e * 0x1000
def VXE_LINK (t e : Nat) : Nat := 0x30000201020 + t * 0x800000 + e * 0x1000
def VXE_FAULT_INFO (t e : Nat) : Nat := 0x30000201028 + t * 0x800000 + e * 0x1000
def VXE_FAULT_ADDR (t e : Nat) : Nat := 0x30000201030 + t * 0x800000 + e * 0x1000
def VXE_FAULT_CNT (t e : Nat) : Nat := 0x30000201038 + t * 0x800000 + e * 0x1000
def VXE_POISON_CNT (t e : Nat) : Nat := 0x30000201040 + t * 0x800000 + e * 0x1000
def VXE_CARRY (t e c : Nat) : Nat := 0x30000201010 + t * 0x800000 + e * 0x1000 + c * 8

/-! FTQ registers, R179. -/
def FTQ_CTL (t : Nat) : Nat := 0x30000300000 + t * 0x800000
def FTQ_STATUS (t : Nat) : Nat := 0x30000300008 + t * 0x800000
def FTQ_BANK (t b : Nat) : Nat := 0x30000300010 + t * 0x800000 + b * 8
def FTQ_CNT_PACKETS (t : Nat) : Nat := 0x30000300020 + t * 0x800000
def FTQ_CNT_DROPS (t : Nat) : Nat := 0x30000300028 + t * 0x800000
def FTQ_CNT_PARITY (t : Nat) : Nat := 0x30000300030 + t * 0x800000
def FTQ_CNT_UNDERRUN (t : Nat) : Nat := 0x30000300038 + t * 0x800000

/-! SFU registers, R206. -/
def SFU_CTL (t : Nat) : Nat := 0x30000400000 + t * 0x800000
def SFU_STATUS (t : Nat) : Nat := 0x30000400008 + t * 0x800000
def SFU_SWAP (t : Nat) : Nat := 0x30000400010 + t * 0x800000
def SFU_CNT_SWAPS (t : Nat) : Nat := 0x30000400018 + t * 0x800000
def SFU_CNT_RESULTS (t : Nat) : Nat := 0x30000400020 + t * 0x800000
def SFU_ROM_ID (t : Nat) : Nat := 0x30000400028 + t * 0x800000

/-! SPE registers, R237. -/
def SPE_CTL (t : Nat) : Nat := 0x30000500000 + t * 0x800000
def SPE_STATUS (t : Nat) : Nat := 0x30000500008 + t * 0x800000
def SPE_REJECT (t : Nat) : Nat := 0x30000500010 + t * 0x800000
def SPE_OOR_INFO (t : Nat) : Nat := 0x30000500018 + t * 0x800000
def SPE_QDEPTH (t : Nat) : Nat := 0x30000500020 + t * 0x800000
def SPE_CNT_ABSENT (t : Nat) : Nat := 0x30000500040 + t * 0x800000
def SPE_CNT_ARRAY (t : Nat) : Nat := 0x30000500048 + t * 0x800000
def SPE_CNT_GRID (t : Nat) : Nat := 0x30000500050 + t * 0x800000
def SPE_CNT_MATCH (t : Nat) : Nat := 0x30000500058 + t * 0x800000
def SPE_CNT_MALFORMED (t : Nat) : Nat := 0x30000500060 + t * 0x800000
def SPE_CNT_OOR (t : Nat) : Nat := 0x30000500068 + t * 0x800000
def SPE_CNT_DUP (t : Nat) : Nat := 0x30000500070 + t * 0x800000
def SPE_CNT_BADPTR (t : Nat) : Nat := 0x30000500078 + t * 0x800000
def SPE_CNT_PRODUCTS (t : Nat) : Nat := 0x30000500080 + t * 0x800000
def SPE_CNT_PARTIALS (t : Nat) : Nat := 0x30000500088 + t * 0x800000
def SPE_CNT_PASSES (t : Nat) : Nat := 0x30000500090 + t * 0x800000
def SPE_CNT_HARROW_BLOCKS (t : Nat) : Nat := 0x30000500098 + t * 0x800000
def SPE_CNT_HARROW_MARKED (t : Nat) : Nat := 0x300005000A0 + t * 0x800000

/-! LXE registers, R265. -/
def LXE_CTL (t : Nat) : Nat := 0x30000600000 + t * 0x800000
def LXE_STATUS (t : Nat) : Nat := 0x30000600008 + t * 0x800000
def LXE_REJECT (t : Nat) : Nat := 0x30000600010 + t * 0x800000
def LXE_IDX_INFO (t : Nat) : Nat := 0x30000600018 + t * 0x800000
def LXE_CNT_CMDS (t : Nat) : Nat := 0x30000600040 + t * 0x800000
def LXE_CNT_BYTES_RD (t : Nat) : Nat := 0x30000600048 + t * 0x800000
def LXE_CNT_BYTES_WR (t : Nat) : Nat := 0x30000600050 + t * 0x800000
def LXE_CNT_IDX_NEG (t : Nat) : Nat := 0x30000600058 + t * 0x800000
def LXE_CNT_IDX_OOR (t : Nat) : Nat := 0x30000600060 + t * 0x800000
def LXE_CNT_IDX_COALESCED (t : Nat) : Nat := 0x30000600068 + t * 0x800000
def LXE_CNT_PRUNE_DROP (t : Nat) : Nat := 0x30000600070 + t * 0x800000
def LXE_CNT_STAGED (t : Nat) : Nat := 0x30000600078 + t * 0x800000
def LXE_CNT_ACCESS_ERR (t : Nat) : Nat := 0x30000600080 + t * 0x800000
def LXE_CNT_SAT64 (t : Nat) : Nat := 0x30000600088 + t * 0x800000
def LXE_CNT_POISON (t : Nat) : Nat := 0x30000600090 + t * 0x800000
def LXE_CNT_STALL_TM (t : Nat) : Nat := 0x30000600098 + t * 0x800000

/-! MEM registers, R290. -/
def MEM_CTL : Nat := 0x38001000000
def MEM_SCRUB : Nat := 0x38001000008
def MEM_STATUS : Nat := 0x38001000010
def MEM_ERR_INFO : Nat := 0x38001000018
def MEM_ERR_ADDR : Nat := 0x38001000020
def MEM_CAP : Nat := 0x38001000028
def MEM_SCRUB_POS_NEAR : Nat := 0x38001000030
def MEM_SCRUB_POS_DEEP : Nat := 0x38001000038
def MEM_CNT_CE_TILE : Nat := 0x38001000040
def MEM_CNT_UE_TILE : Nat := 0x38001000048
def MEM_CNT_CE_NEAR : Nat := 0x38001000050
def MEM_CNT_UE_NEAR : Nat := 0x38001000058
def MEM_CNT_CE_DEEP : Nat := 0x38001000060
def MEM_CNT_UE_DEEP : Nat := 0x38001000068
def MEM_CNT_POISON_RD : Nat := 0x38001000070
def MEM_CNT_POISON_WR : Nat := 0x38001000078
def MEM_CNT_UNMAPPED : Nat := 0x38001000080
def MEM_CNT_SCRUB_NEAR : Nat := 0x38001000088
def MEM_CNT_SCRUB_DEEP : Nat := 0x38001000090
def MEM_CNT_SCRUB_UE : Nat := 0x38001000098
def MEM_DEV_ERR (d : Nat) : Nat := 0x38001000100 + d * 8

/-! FAB registers, R328. -/
def FAB_ID : Nat := 0x38002000000
def FAB_CTL : Nat := 0x38002000008
def FAB_STATUS : Nat := 0x38002000010
def FAB_CNT_RX_LOCAL : Nat := 0x38002000040
def FAB_CNT_FWD : Nat := 0x38002000048
def FAB_CNT_TX_LOCAL : Nat := 0x38002000050
def FAB_CNT_DROP_NO_ROUTE : Nat := 0x38002000058
def FAB_CNT_DROP_HOP : Nat := 0x38002000060
def FAB_CNT_REQ_TIMEOUT : Nat := 0x38002000068
def FAB_CNT_LATE_RSP : Nat := 0x38002000070
def FAB_CNT_NAK_TX : Nat := 0x38002000078
def FAB_CNT_NAK_RX : Nat := 0x38002000080
def FAB_CNT_POISON_RX : Nat := 0x38002000088
def FAB_PORT_CFG (p : Nat) : Nat := 0x38002000100 + p * 0x40
def FAB_PORT_STATUS (p : Nat) : Nat := 0x38002000108 + p * 0x40
def FAB_PORT_CNT_FEC (p : Nat) : Nat := 0x38002000110 + p * 0x40
def FAB_PORT_CNT_LINK (p : Nat) : Nat := 0x38002000118 + p * 0x40
def FAB_PORT_CNT_BYTES (p : Nat) : Nat := 0x38002000120 + p * 0x40
def FAB_PORT_CNT_DOWN (p : Nat) : Nat := 0x38002000128 + p * 0x40
def FAB_MCRC_DATA8 : Nat := 0x38002000800
def FAB_MCRC_DATA16 : Nat := 0x38002000808
def FAB_MCRC_DATA32 : Nat := 0x38002000810
def FAB_MCRC_INIT : Nat := 0x38002000818
def FAB_MCRC_VALUE : Nat := 0x38002000820
def FAB_MCRC_RESULT : Nat := 0x38002000828
def FAB_ROUTE (id : Nat) : Nat := 0x38002100000 + (id / 2) * 8

/-! QUE registers, R329. -/
def QUE_CTL : Nat := 0x38003000000
def QUE_CTX_BASE : Nat := 0x38003000008
def QUE_STATUS : Nat := 0x38003000010
def QUE_REJECT : Nat := 0x38003000018
def QUE_QCTL : Nat := 0x38003000020
def QUE_CNT_DESC_DONE : Nat := 0x38003000040
def QUE_CNT_MSG_RX : Nat := 0x38003000048
def QUE_CNT_RETRANSMITS : Nat := 0x38003000050
def QUE_CNT_REPEATS : Nat := 0x38003000058
def QUE_CNT_GAPS : Nat := 0x38003000060
def QUE_CNT_CRC_FAIL : Nat := 0x38003000068
def QUE_CNT_RX_REJECT : Nat := 0x38003000070
def QUE_CNT_RESTARTS : Nat := 0x38003000078
def QUE_CNT_CREDIT_WAIT : Nat := 0x38003000080
def QUE_DB (q : Nat) : Nat := 0x38003100000 + q * 8

/-! GRE registers, R357. -/
def GRE_CTL : Nat := 0x38004000000
def GRE_STATUS : Nat := 0x38004000008
def GRE_REJECT : Nat := 0x38004000010
def GRE_ERR_INFO : Nat := 0x38004000018
def GRE_CNT_BUCKETS : Nat := 0x38004000040
def GRE_CNT_BLOCKS : Nat := 0x38004000048
def GRE_CNT_BYTES_TX : Nat := 0x38004000050
def GRE_CNT_SELF_LATE : Nat := 0x38004000058
def GRE_CNT_CARRIED : Nat := 0x38004000060
def GRE_CNT_DROPPED : Nat := 0x38004000068
def GRE_CNT_CARRY_FULL : Nat := 0x38004000070
def GRE_CNT_RERUN_BLOCKS : Nat := 0x38004000078
def GRE_CNT_NF_BLOCKS : Nat := 0x38004000080
def GRE_CNT_POISON : Nat := 0x38004000088
def GRE_CNT_CARRY_MISMATCH : Nat := 0x38004000090
def GRE_CHAN_CFG (c : Nat) : Nat := 0x38004001000 + c * 0x40
def GRE_CHAN_LINK (c : Nat) : Nat := 0x38004001008 + c * 0x40
def GRE_CHAN_INIT (c : Nat) : Nat := 0x38004001010 + c * 0x40
def GRE_CHAN_SEQ (c : Nat) : Nat := 0x38004001018 + c * 0x40
def GRE_CHAN_STATE (c : Nat) : Nat := 0x38004001020 + c * 0x40

/-! PWR registers, R402. -/
def PWR_CTL : Nat := 0x38005000000
def PWR_HOST : Nat := 0x38005000008
def PWR_STATUS : Nat := 0x38005000010
def PWR_POWER : Nat := 0x38005000018
def PWR_STATE : Nat := 0x38005000020
def PWR_WATCH_THR : Nat := 0x38005000028
def PWR_WAKE : Nat := 0x38005000030
def PWR_WAKE_MASK : Nat := 0x38005000038
def PWR_ENERGY_DEV : Nat := 0x38005000040
def PWR_ENERGY_DIE (d : Nat) : Nat := 0x38005000048 + d * 8
def PWR_CAL (d : Nat) : Nat := 0x38005000068 + d * 8
def PWR_QENERGY : Nat := 0x38005000088
def PWR_THR_TIME (r : Nat) : Nat := 0x38005000100 + r * 8
def PWR_GRP_CTL : Nat := 0x38005000200
def PWR_GRP_CFG : Nat := 0x38005000208
def PWR_GRP_BUDGET : Nat := 0x38005000210
def PWR_GRP_STATUS : Nat := 0x38005000218
def PWR_GRP_MEMBER (i : Nat) : Nat := 0x38005000400 + i * 8
def PWR_TILE_ENERGY (t : Nat) : Nat := 0x38005001000 + t * 8
def PWR_GRP_ACK (i : Nat) : Nat := 0x38005004800 + i * 8
def PWR_GRP_INBOX (i w : Nat) : Nat := 0x38005002000 + i * 0x20 + w * 8
def PWR_GRP_MOVE (w : Nat) : Nat := 0x38005004000 + w * 8
def PWR_VF (d s : Nat) : Nat := 0x38005008000 + d * 0x100 + (s / 4) * 8

/-! MBX registers, R425. -/
def MBX_CH_CTL (c : Nat) : Nat := 0x38006000800 + c * 0x1000
def MBX_CH_STATUS (c : Nat) : Nat := 0x38006000808 + c * 0x1000
def MBX_CH_CNT (c : Nat) : Nat := 0x38006000810 + c * 0x1000
def MBX_DB (a : Nat) : Nat := 0x38006020000 + a * 0x10
def MBX_DB_MASK (a : Nat) : Nat := 0x38006020008 + a * 0x10
def MBX_HOST : Nat := 0x38006030000
def MBX_WIN : Nat := 0x38006030008
def MBX_BAR2 : Nat := 0x38006030010
def MBX_STATUS : Nat := 0x38006030018
def MBX_CNT_HOST_ERR : Nat := 0x38006030020
def MBX_MSIX (v w : Nat) : Nat := 0x38006F00000 + v * 0x10 + w * 8
def MBX_PBA : Nat := 0x38006F80000

/-! MGP registers, R447. -/
def MGP_BOOT : Nat := 0x38007001000
def MGP_TRIAL : Nat := 0x38007001008
def MGP_MEAS (i w : Nat) : Nat := 0x38007001100 + i * 0x40 + w * 8
def MGP_MEAS_EXT_DATA (w : Nat) : Nat := 0x38007001300 + w * 8
def MGP_MEAS_EXT : Nat := 0x38007001340
def MGP_ATT_NONCE (w : Nat) : Nat := 0x38007001400 + w * 8
def MGP_ATT_DEST : Nat := 0x38007001440
def MGP_ATT_CTL : Nat := 0x38007001448
def MGP_IDKEY (w : Nat) : Nat := 0x38007002000 + w * 8

/-! DIAG registers, R466. -/
def DIAG_PTILE (p : Nat) : Nat := 0x39000700000 + p * 0x800000

/-! EVT registers, R468. -/
def EVT_CTL : Nat := 0x38009000000
def EVT_RING_BASE : Nat := 0x38009000008
def EVT_WR : Nat := 0x38009000010
def EVT_RD : Nat := 0x38009000018
def EVT_STATUS : Nat := 0x38009000020
def EVT_SW_COMMIT : Nat := 0x38009000060
def EVT_AUDIT : Nat := 0x38009000080
def EVT_AUDIT_WR : Nat := 0x38009000088
def EVT_AUDIT_RD : Nat := 0x38009000090
def EVT_CAP_CTL : Nat := 0x38009000100
def EVT_CAP_BASE : Nat := 0x38009000108
def EVT_CAP_SIZE : Nat := 0x38009000110
def EVT_CAP_WR : Nat := 0x38009000118
def EVT_CAP_OLDEST : Nat := 0x38009000120
def EVT_CAP_LOST : Nat := 0x38009000130
def EVT_REPLAY_BASE : Nat := 0x38009000188
def EVT_REPLAY_SIZE : Nat := 0x38009000190
def EVT_REPLAY_START : Nat := 0x38009000198
def EVT_REPLAY_END : Nat := 0x380090001A0
def EVT_REPLAY_POS : Nat := 0x380090001A8
def EVT_REPLAY_DIV : Nat := 0x380090001B0
def EVT_REPLAY_DIVSEQ : Nat := 0x380090001B8
def EVT_RNG : Nat := 0x38009000200
def EVT_CNT : Nat := 0x38009000028
def EVT_SW (w : Nat) : Nat := 0x38009000040 + w * 8
def EVT_CAP_STATUS : Nat := 0x38009000128
def EVT_REPLAY_CTL : Nat := 0x38009000180

/-! MGP registers, R468. -/
def MGP_WDT : Nat := 0x38007003000
def MGP_HB : Nat := 0x38007003008

/-! DCP registers, R468. -/
def DCP_HB (d : Nat) : Nat := 0x38008000100 + d * 0x400000
def DCP_ALIVE (d : Nat) : Nat := 0x38008000108 + d * 0x400000

end R

namespace F

/-! Fields of the TIDE registers. -/
def TIDE_CTL_ENABLE : Field := ⟨R.TIDE_CTL, 0, 1⟩
def TIDE_CTL_ROLE : Field := ⟨R.TIDE_CTL, 1, 2⟩
def TIDE_CTL_COAST_EN : Field := ⟨R.TIDE_CTL, 3, 1⟩
def TIDE_CTL_RESYNC_N : Field := ⟨R.TIDE_CTL, 4, 4⟩
def TIDE_CTL_COAST_MAX : Field := ⟨R.TIDE_CTL, 8, 8⟩
def TIDE_CTL_ECHO_EVERY : Field := ⟨R.TIDE_CTL, 16, 8⟩
def TIDE_PERIOD_PERIOD : Field := ⟨R.TIDE_PERIOD, 0, 27⟩
def TIDE_LEAD_LEAD : Field := ⟨R.TIDE_LEAD, 0, 11⟩
def TIDE_LEAD_WINDOW : Field := ⟨R.TIDE_LEAD, 16, 11⟩
def TIDE_IDS_MASTER_ID : Field := ⟨R.TIDE_IDS, 0, 16⟩
def TIDE_IDS_BACKUP_ID : Field := ⟨R.TIDE_IDS, 16, 16⟩
def TIDE_TREE_UP_A : Field := ⟨R.TIDE_TREE, 0, 4⟩
def TIDE_TREE_UP_A_EN : Field := ⟨R.TIDE_TREE, 4, 1⟩
def TIDE_TREE_UP_B : Field := ⟨R.TIDE_TREE, 8, 4⟩
def TIDE_TREE_UP_B_EN : Field := ⟨R.TIDE_TREE, 12, 1⟩
def TIDE_TREE_DOWN_A : Field := ⟨R.TIDE_TREE, 16, 16⟩
def TIDE_TREE_DOWN_B : Field := ⟨R.TIDE_TREE, 32, 16⟩
def TIDE_COUNT_COUNT : Field := ⟨R.TIDE_COUNT, 0, 48⟩
def TIDE_LOAD_VALUE : Field := ⟨R.TIDE_LOAD, 0, 48⟩
def TIDE_STATUS_STATE : Field := ⟨R.TIDE_STATUS, 0, 3⟩
def TIDE_STATUS_EPOCH : Field := ⟨R.TIDE_STATUS, 8, 8⟩
def TIDE_STATUS_SOURCE : Field := ⟨R.TIDE_STATUS, 16, 16⟩
def TIDE_STATUS_CFG_ERR : Field := ⟨R.TIDE_STATUS, 32, 1⟩
def TIDE_STATUS_TAKEOVER : Field := ⟨R.TIDE_STATUS, 33, 1⟩
def TIDE_STATUS_DEPOSED : Field := ⟨R.TIDE_STATUS, 34, 1⟩
def TIDE_STATUS_DUAL_MASTER : Field := ⟨R.TIDE_STATUS, 35, 1⟩
def TIDE_STATUS_JUMPED : Field := ⟨R.TIDE_STATUS, 36, 1⟩
def TIDE_STATUS_COAST_LIMIT : Field := ⟨R.TIDE_STATUS, 37, 1⟩
def TIDE_STATUS_MISS_RUN : Field := ⟨R.TIDE_STATUS, 40, 8⟩
def TIDE_TIME_TIME : Field := ⟨R.TIDE_TIME, 0, 64⟩
def TIDE_INSTANT_LAST : Field := ⟨R.TIDE_INSTANT, 0, 64⟩
def TIDE_OFFSET_LAST : Field := ⟨R.TIDE_OFFSET, 0, 32⟩
def TIDE_OFFSET_EXT_MAX_ABS : Field := ⟨R.TIDE_OFFSET_EXT, 0, 32⟩
def TIDE_ERRCNT0_MISSED : Field := ⟨R.TIDE_ERRCNT0, 0, 16⟩
def TIDE_ERRCNT0_REPEAT : Field := ⟨R.TIDE_ERRCNT0, 16, 16⟩
def TIDE_ERRCNT0_GAP : Field := ⟨R.TIDE_ERRCNT0, 32, 16⟩
def TIDE_ERRCNT0_STALE_EPOCH : Field := ⟨R.TIDE_ERRCNT0, 48, 16⟩
def TIDE_ERRCNT1_REJECT : Field := ⟨R.TIDE_ERRCNT1, 0, 16⟩
def TIDE_ERRCNT1_LATE : Field := ⟨R.TIDE_ERRCNT1, 16, 16⟩
def TIDE_ERRCNT1_JUMP : Field := ⟨R.TIDE_ERRCNT1, 32, 16⟩
def TIDE_ERRCNT1_DUAL : Field := ⟨R.TIDE_ERRCNT1, 48, 16⟩
def TIDE_SLACK_SLACK : Field := ⟨R.TIDE_SLACK, 0, 32⟩
def TIDE_SLACK_OVERRUN_STREAMS : Field := ⟨R.TIDE_SLACK, 32, 16⟩
def TIDE_LINK_DELAY (p : Nat) : Field := ⟨(R.TIDE_LINK p), 0, 24⟩
def TIDE_LINK_VALID (p : Nat) : Field := ⟨(R.TIDE_LINK p), 24, 1⟩
def TIDE_LINK_NBR_SKEW (p : Nat) : Field := ⟨(R.TIDE_LINK p), 32, 32⟩

/-! Fields of the TSQ registers. -/
def TSQ_CTL_START (t : Nat) : Field := ⟨(R.TSQ_CTL t), 0, 8⟩
def TSQ_CTL_HALT (t : Nat) : Field := ⟨(R.TSQ_CTL t), 8, 8⟩
def TSQ_CTL_RESUME (t : Nat) : Field := ⟨(R.TSQ_CTL t), 16, 8⟩
def TSQ_CTL_STEP (t : Nat) : Field := ⟨(R.TSQ_CTL t), 24, 1⟩
def TSQ_CTL_UNFREEZE (t : Nat) : Field := ⟨(R.TSQ_CTL t), 25, 1⟩
def TSQ_CTL_AUDIT_EN (t : Nat) : Field := ⟨(R.TSQ_CTL t), 32, 1⟩
def TSQ_CTL_CFG_ERR (t : Nat) : Field := ⟨(R.TSQ_CTL t), 33, 1⟩
def TSQ_STREAM_START_PC (t s : Nat) : Field := ⟨(R.TSQ_STREAM_START t s), 0, 23⟩
def TSQ_STREAM_CFG_VXE (t s : Nat) : Field := ⟨(R.TSQ_STREAM_CFG t s), 0, 2⟩
def TSQ_STREAM_CFG_WAIT_TMO (t s : Nat) : Field := ⟨(R.TSQ_STREAM_CFG t s), 16, 16⟩
def TSQ_STREAM_CFG_SLIP_LIMIT (t s : Nat) : Field := ⟨(R.TSQ_STREAM_CFG t s), 32, 32⟩
def TSQ_STREAM_STATUS_STATE (t s : Nat) : Field := ⟨(R.TSQ_STREAM_STATUS t s), 0, 4⟩
def TSQ_STREAM_STATUS_LOOP_DEPTH (t s : Nat) : Field := ⟨(R.TSQ_STREAM_STATUS t s), 4, 3⟩
def TSQ_STREAM_STATUS_PC (t s : Nat) : Field := ⟨(R.TSQ_STREAM_STATUS t s), 8, 23⟩
def TSQ_STREAM_STATUS_WAIT_TOKEN (t s : Nat) : Field := ⟨(R.TSQ_STREAM_STATUS t s), 32, 12⟩
def TSQ_STREAM_STATUS_HALT_REASON (t s : Nat) : Field := ⟨(R.TSQ_STREAM_STATUS t s), 44, 4⟩
def TSQ_STREAM_ICOUNT_ICOUNT (t s : Nat) : Field := ⟨(R.TSQ_STREAM_ICOUNT t s), 0, 48⟩
def TSQ_STREAM_BRK_COUNT_COUNT (t s : Nat) : Field := ⟨(R.TSQ_STREAM_BRK_COUNT t s), 0, 48⟩
def TSQ_STREAM_BRK_TAG_VALUE (t s : Nat) : Field := ⟨(R.TSQ_STREAM_BRK_TAG t s), 0, 8⟩
def TSQ_STREAM_BRK_TAG_MASK (t s : Nat) : Field := ⟨(R.TSQ_STREAM_BRK_TAG t s), 8, 8⟩
def TSQ_STREAM_BRK_TAG_EN (t s : Nat) : Field := ⟨(R.TSQ_STREAM_BRK_TAG t s), 16, 1⟩
def TSQ_STREAM_SLIP_SLIP (t s : Nat) : Field := ⟨(R.TSQ_STREAM_SLIP t s), 0, 32⟩
def TSQ_STREAM_SLIP_SLIP_TOTAL (t s : Nat) : Field := ⟨(R.TSQ_STREAM_SLIP t s), 32, 32⟩
def TSQ_STREAM_FRAME_TARGET (t s : Nat) : Field := ⟨(R.TSQ_STREAM_FRAME t s), 0, 48⟩
def TSQ_STREAM_FRAME_OPEN (t s : Nat) : Field := ⟨(R.TSQ_STREAM_FRAME t s), 48, 1⟩
def TSQ_STREAM_LATE_LATE_OPENS (t s : Nat) : Field := ⟨(R.TSQ_STREAM_LATE t s), 0, 16⟩
def TSQ_EVCNT_SEL_SEL (t i : Nat) : Field := ⟨(R.TSQ_EVCNT_SEL t i), 0, 8⟩
def TSQ_EVCNT_SEL_STREAM (t i : Nat) : Field := ⟨(R.TSQ_EVCNT_SEL t i), 8, 3⟩
def TSQ_EVCNT_SEL_FILT (t i : Nat) : Field := ⟨(R.TSQ_EVCNT_SEL t i), 11, 1⟩
def TSQ_EVCNT_SEL_FROZEN (t i : Nat) : Field := ⟨(R.TSQ_EVCNT_SEL t i), 12, 1⟩
def TSQ_EVCNT_VALUE_VALUE (t i : Nat) : Field := ⟨(R.TSQ_EVCNT_VALUE t i), 0, 48⟩
def TSQ_CMP_CTL_SRC (t j : Nat) : Field := ⟨(R.TSQ_CMP_CTL t j), 0, 4⟩
def TSQ_CMP_CTL_COND (t j : Nat) : Field := ⟨(R.TSQ_CMP_CTL t j), 4, 1⟩
def TSQ_CMP_CTL_LOG (t j : Nat) : Field := ⟨(R.TSQ_CMP_CTL t j), 5, 1⟩
def TSQ_CMP_CTL_FREEZE (t j : Nat) : Field := ⟨(R.TSQ_CMP_CTL t j), 6, 1⟩
def TSQ_CMP_CTL_BRK_STREAMS (t j : Nat) : Field := ⟨(R.TSQ_CMP_CTL t j), 8, 8⟩
def TSQ_CMP_CTL_ARMED (t j : Nat) : Field := ⟨(R.TSQ_CMP_CTL t j), 16, 1⟩
def TSQ_CMP_CTL_FIRED (t j : Nat) : Field := ⟨(R.TSQ_CMP_CTL t j), 17, 1⟩
def TSQ_CMP_VALUE_VALUE (t j : Nat) : Field := ⟨(R.TSQ_CMP_VALUE t j), 0, 48⟩
def TSQ_AUDIT_CNT_RECORDS (t : Nat) : Field := ⟨(R.TSQ_AUDIT_CNT t), 0, 32⟩
def TSQ_AUDIT_CNT_DROPPED (t : Nat) : Field := ⟨(R.TSQ_AUDIT_CNT t), 32, 32⟩
def TSQ_QDEPTH_MXA (t : Nat) : Field := ⟨(R.TSQ_QDEPTH t), 0, 5⟩
def TSQ_QDEPTH_LXE (t : Nat) : Field := ⟨(R.TSQ_QDEPTH t), 8, 6⟩
def TSQ_QDEPTH_POST (t : Nat) : Field := ⟨(R.TSQ_QDEPTH t), 16, 6⟩
def TSQ_SREG_VALUE (t s n : Nat) : Field := ⟨(R.TSQ_SREG t s n), 0, 64⟩
def TSQ_TOKEN_COUNT (t k : Nat) : Field := ⟨(R.TSQ_TOKEN t k), 0, 16⟩
def TSQ_TOKEN_FLAGS (t k : Nat) : Field := ⟨(R.TSQ_TOKEN t k), 16, 8⟩

/-! Fields of the MXA registers. -/
def MXA_CTL_RAMP_LEN (t : Nat) : Field := ⟨(R.MXA_CTL t), 0, 8⟩
def MXA_STATUS_BUSY (t : Nat) : Field := ⟨(R.MXA_STATUS t), 0, 1⟩
def MXA_STATUS_STAT_VALID (t : Nat) : Field := ⟨(R.MXA_STATUS t), 1, 1⟩
def MXA_STATUS_CONT_HELD (t : Nat) : Field := ⟨(R.MXA_STATUS t), 2, 1⟩
def MXA_STATUS_CFG_ERR (t : Nat) : Field := ⟨(R.MXA_STATUS t), 8, 1⟩
def MXA_STATUS_NV (t : Nat) : Field := ⟨(R.MXA_STATUS t), 9, 1⟩
def MXA_STATUS_OF (t : Nat) : Field := ⟨(R.MXA_STATUS t), 10, 1⟩
def MXA_STATUS_INT_WRAP (t : Nat) : Field := ⟨(R.MXA_STATUS t), 11, 1⟩
def MXA_STATUS_MX_NAN (t : Nat) : Field := ⟨(R.MXA_STATUS t), 12, 1⟩
def MXA_STATUS_MP_NONFINITE (t : Nat) : Field := ⟨(R.MXA_STATUS t), 13, 1⟩
def MXA_STATUS_POISON (t : Nat) : Field := ⟨(R.MXA_STATUS t), 14, 1⟩
def MXA_STATUS_REJECT (t : Nat) : Field := ⟨(R.MXA_STATUS t), 15, 1⟩
def MXA_REJECT_REASON (t : Nat) : Field := ⟨(R.MXA_REJECT t), 0, 4⟩
def MXA_REJECT_OP (t : Nat) : Field := ⟨(R.MXA_REJECT t), 8, 8⟩
def MXA_REJECT_TOKEN (t : Nat) : Field := ⟨(R.MXA_REJECT t), 16, 12⟩
def MXA_REJECT_COUNT (t : Nat) : Field := ⟨(R.MXA_REJECT t), 32, 32⟩
def MXA_CNT_CMDS_VALUE (t : Nat) : Field := ⟨(R.MXA_CNT_CMDS t), 0, 64⟩
def MXA_CNT_STREAM_AC_VALUE (t : Nat) : Field := ⟨(R.MXA_CNT_STREAM_AC t), 0, 64⟩
def MXA_CNT_LOAD_AC_VALUE (t : Nat) : Field := ⟨(R.MXA_CNT_LOAD_AC t), 0, 64⟩
def MXA_CNT_STALL_TM_VALUE (t : Nat) : Field := ⟨(R.MXA_CNT_STALL_TM t), 0, 64⟩
def MXA_CNT_STALL_FTQ_VALUE (t : Nat) : Field := ⟨(R.MXA_CNT_STALL_FTQ t), 0, 64⟩
def MXA_CNT_PACKETS_VALUE (t : Nat) : Field := ⟨(R.MXA_CNT_PACKETS t), 0, 64⟩

/-! Fields of the VXE registers. -/
def VXE_CENSUS_CTL_EN (t : Nat) : Field := ⟨(R.VXE_CENSUS_CTL t), 0, 1⟩
def VXE_CENSUS_TIDE_TIDE (t : Nat) : Field := ⟨(R.VXE_CENSUS_TIDE t), 0, 48⟩
def VXE_CENSUS_CONV_CONV (t f : Nat) : Field := ⟨(R.VXE_CENSUS_CONV t f), 0, 48⟩
def VXE_CENSUS_SAT_SAT (t f : Nat) : Field := ⟨(R.VXE_CENSUS_SAT t f), 0, 48⟩
def VXE_CENSUS_VANISH_VANISH (t f : Nat) : Field := ⟨(R.VXE_CENSUS_VANISH t f), 0, 48⟩
def VXE_STATUS_NV (t e : Nat) : Field := ⟨(R.VXE_STATUS t e), 0, 1⟩
def VXE_STATUS_DZ (t e : Nat) : Field := ⟨(R.VXE_STATUS t e), 1, 1⟩
def VXE_STATUS_OF (t e : Nat) : Field := ⟨(R.VXE_STATUS t e), 2, 1⟩
def VXE_STATUS_UF (t e : Nat) : Field := ⟨(R.VXE_STATUS t e), 3, 1⟩
def VXE_STATUS_NX (t e : Nat) : Field := ⟨(R.VXE_STATUS t e), 4, 1⟩
def VXE_STATUS_OOR_LANE (t e : Nat) : Field := ⟨(R.VXE_STATUS t e), 5, 1⟩
def VXE_STATUS_EMPTY (t e : Nat) : Field := ⟨(R.VXE_STATUS t e), 6, 1⟩
def VXE_STATUS_SAT (t e : Nat) : Field := ⟨(R.VXE_STATUS t e), 7, 1⟩
def VXE_STATUS_MEM_FAULT (t e : Nat) : Field := ⟨(R.VXE_STATUS t e), 8, 1⟩
def VXE_STATUS_POISON (t e : Nat) : Field := ⟨(R.VXE_STATUS t e), 9, 1⟩
def VXE_STATUS_POISON_ESCAPE (t e : Nat) : Field := ⟨(R.VXE_STATUS t e), 10, 1⟩
def VXE_STATUS_LINK_OVERRUN (t e : Nat) : Field := ⟨(R.VXE_STATUS t e), 11, 1⟩
def VXE_STATUS_LINK_UNDERRUN (t e : Nat) : Field := ⟨(R.VXE_STATUS t e), 12, 1⟩
def VXE_STATUS_LINK_DROP (t e : Nat) : Field := ⟨(R.VXE_STATUS t e), 13, 1⟩
def VXE_VL_VL (t e : Nat) : Field := ⟨(R.VXE_VL t e), 0, 9⟩
def VXE_LINK_TOKEN (t e : Nat) : Field := ⟨(R.VXE_LINK t e), 0, 12⟩
def VXE_LINK_TOK_EN (t e : Nat) : Field := ⟨(R.VXE_LINK t e), 12, 1⟩
def VXE_LINK_DEPTH (t e : Nat) : Field := ⟨(R.VXE_LINK t e), 16, 3⟩
def VXE_FAULT_INFO_VALID (t e : Nat) : Field := ⟨(R.VXE_FAULT_INFO t e), 0, 1⟩
def VXE_FAULT_INFO_KIND (t e : Nat) : Field := ⟨(R.VXE_FAULT_INFO t e), 1, 2⟩
def VXE_FAULT_INFO_STREAM (t e : Nat) : Field := ⟨(R.VXE_FAULT_INFO t e), 4, 3⟩
def VXE_FAULT_INFO_OP (t e : Nat) : Field := ⟨(R.VXE_FAULT_INFO t e), 8, 8⟩
def VXE_FAULT_INFO_ELEMENT (t e : Nat) : Field := ⟨(R.VXE_FAULT_INFO t e), 16, 10⟩
def VXE_FAULT_INFO_PC (t e : Nat) : Field := ⟨(R.VXE_FAULT_INFO t e), 32, 23⟩
def VXE_FAULT_ADDR_ADDR (t e : Nat) : Field := ⟨(R.VXE_FAULT_ADDR t e), 0, 64⟩
def VXE_FAULT_CNT_ELEMENTS (t e : Nat) : Field := ⟨(R.VXE_FAULT_CNT t e), 0, 32⟩
def VXE_FAULT_CNT_INSNS (t e : Nat) : Field := ⟨(R.VXE_FAULT_CNT t e), 32, 32⟩
def VXE_POISON_CNT_IN (t e : Nat) : Field := ⟨(R.VXE_POISON_CNT t e), 0, 32⟩
def VXE_POISON_CNT_ESCAPES (t e : Nat) : Field := ⟨(R.VXE_POISON_CNT t e), 32, 32⟩
def VXE_CARRY_VALUE (t e c : Nat) : Field := ⟨(R.VXE_CARRY t e c), 0, 32⟩
def VXE_CARRY_POISON (t e c : Nat) : Field := ⟨(R.VXE_CARRY t e c), 32, 1⟩

/-! Fields of the FTQ registers. -/
def FTQ_CTL_CONSUMER (t : Nat) : Field := ⟨(R.FTQ_CTL t), 0, 2⟩
def FTQ_CTL_PKT_TOK_EN (t : Nat) : Field := ⟨(R.FTQ_CTL t), 2, 1⟩
def FTQ_CTL_PKT_TOKEN0 (t : Nat) : Field := ⟨(R.FTQ_CTL t), 16, 12⟩
def FTQ_CTL_PKT_TOKEN1 (t : Nat) : Field := ⟨(R.FTQ_CTL t), 32, 12⟩
def FTQ_STATUS_BANK0 (t : Nat) : Field := ⟨(R.FTQ_STATUS t), 0, 2⟩
def FTQ_STATUS_BANK1 (t : Nat) : Field := ⟨(R.FTQ_STATUS t), 2, 2⟩
def FTQ_STATUS_NEXT_FILL (t : Nat) : Field := ⟨(R.FTQ_STATUS t), 4, 1⟩
def FTQ_STATUS_CFG_ERR (t : Nat) : Field := ⟨(R.FTQ_STATUS t), 8, 1⟩
def FTQ_STATUS_UNDERRUN (t : Nat) : Field := ⟨(R.FTQ_STATUS t), 9, 1⟩
def FTQ_STATUS_PARITY (t : Nat) : Field := ⟨(R.FTQ_STATUS t), 10, 1⟩
def FTQ_STATUS_POISON (t : Nat) : Field := ⟨(R.FTQ_STATUS t), 11, 1⟩
def FTQ_BANK_SEQ (t b : Nat) : Field := ⟨(R.FTQ_BANK t b), 0, 32⟩
def FTQ_BANK_LEN (t b : Nat) : Field := ⟨(R.FTQ_BANK t b), 32, 16⟩
def FTQ_BANK_POS (t b : Nat) : Field := ⟨(R.FTQ_BANK t b), 48, 16⟩
def FTQ_CNT_PACKETS_VALUE (t : Nat) : Field := ⟨(R.FTQ_CNT_PACKETS t), 0, 64⟩
def FTQ_CNT_DROPS_VALUE (t : Nat) : Field := ⟨(R.FTQ_CNT_DROPS t), 0, 64⟩
def FTQ_CNT_PARITY_VALUE (t : Nat) : Field := ⟨(R.FTQ_CNT_PARITY t), 0, 64⟩
def FTQ_CNT_UNDERRUN_VALUE (t : Nat) : Field := ⟨(R.FTQ_CNT_UNDERRUN t), 0, 64⟩

/-! Fields of the SFU registers. -/
def SFU_CTL_T2_COMPAT (t : Nat) : Field := ⟨(R.SFU_CTL t), 0, 1⟩
def SFU_STATUS_ACTIVE (t : Nat) : Field := ⟨(R.SFU_STATUS t), 0, 1⟩
def SFU_STATUS_ARMED (t : Nat) : Field := ⟨(R.SFU_STATUS t), 1, 1⟩
def SFU_STATUS_REARM (t : Nat) : Field := ⟨(R.SFU_STATUS t), 8, 1⟩
def SFU_STATUS_BAD_PROGRAM (t : Nat) : Field := ⟨(R.SFU_STATUS t), 9, 1⟩
def SFU_STATUS_TABLE_ECC (t : Nat) : Field := ⟨(R.SFU_STATUS t), 10, 1⟩
def SFU_STATUS_BAD_SLOT (t : Nat) : Field := ⟨(R.SFU_STATUS t), 16, 5⟩
def SFU_SWAP_TOKEN (t : Nat) : Field := ⟨(R.SFU_SWAP t), 0, 12⟩
def SFU_SWAP_N (t : Nat) : Field := ⟨(R.SFU_SWAP t), 16, 16⟩
def SFU_SWAP_ARM (t : Nat) : Field := ⟨(R.SFU_SWAP t), 32, 1⟩
def SFU_SWAP_DISARM (t : Nat) : Field := ⟨(R.SFU_SWAP t), 33, 1⟩
def SFU_CNT_SWAPS_VALUE (t : Nat) : Field := ⟨(R.SFU_CNT_SWAPS t), 0, 64⟩
def SFU_CNT_RESULTS_VALUE (t : Nat) : Field := ⟨(R.SFU_CNT_RESULTS t), 0, 64⟩
def SFU_ROM_ID_BUILTIN_VER (t : Nat) : Field := ⟨(R.SFU_ROM_ID t), 0, 16⟩
def SFU_ROM_ID_T2_VER (t : Nat) : Field := ⟨(R.SFU_ROM_ID t), 16, 16⟩

/-! Fields of the SPE registers. -/
def SPE_CTL_THRESH (t : Nat) : Field := ⟨(R.SPE_CTL t), 0, 16⟩
def SPE_STATUS_BUSY (t : Nat) : Field := ⟨(R.SPE_STATUS t), 0, 1⟩
def SPE_STATUS_REJECT (t : Nat) : Field := ⟨(R.SPE_STATUS t), 8, 1⟩
def SPE_STATUS_MALFORMED_24 (t : Nat) : Field := ⟨(R.SPE_STATUS t), 9, 1⟩
def SPE_STATUS_OOR_INDEX (t : Nat) : Field := ⟨(R.SPE_STATUS t), 10, 1⟩
def SPE_STATUS_DUP_INDEX (t : Nat) : Field := ⟨(R.SPE_STATUS t), 11, 1⟩
def SPE_STATUS_BAD_PTR (t : Nat) : Field := ⟨(R.SPE_STATUS t), 12, 1⟩
def SPE_STATUS_OUT_FULL (t : Nat) : Field := ⟨(R.SPE_STATUS t), 13, 1⟩
def SPE_STATUS_SPILL_FULL (t : Nat) : Field := ⟨(R.SPE_STATUS t), 14, 1⟩
def SPE_STATUS_POISON (t : Nat) : Field := ⟨(R.SPE_STATUS t), 15, 1⟩
def SPE_STATUS_NV (t : Nat) : Field := ⟨(R.SPE_STATUS t), 16, 1⟩
def SPE_STATUS_OF (t : Nat) : Field := ⟨(R.SPE_STATUS t), 17, 1⟩
def SPE_STATUS_HARROW_NAN (t : Nat) : Field := ⟨(R.SPE_STATUS t), 18, 1⟩
def SPE_REJECT_REASON (t : Nat) : Field := ⟨(R.SPE_REJECT t), 0, 4⟩
def SPE_REJECT_OP (t : Nat) : Field := ⟨(R.SPE_REJECT t), 8, 8⟩
def SPE_REJECT_TOKEN (t : Nat) : Field := ⟨(R.SPE_REJECT t), 16, 12⟩
def SPE_REJECT_COUNT (t : Nat) : Field := ⟨(R.SPE_REJECT t), 32, 32⟩
def SPE_OOR_INFO_VALID (t : Nat) : Field := ⟨(R.SPE_OOR_INFO t), 0, 1⟩
def SPE_OOR_INFO_KIND (t : Nat) : Field := ⟨(R.SPE_OOR_INFO t), 1, 3⟩
def SPE_OOR_INFO_OP (t : Nat) : Field := ⟨(R.SPE_OOR_INFO t), 8, 8⟩
def SPE_OOR_INFO_TOKEN (t : Nat) : Field := ⟨(R.SPE_OOR_INFO t), 16, 12⟩
def SPE_OOR_INFO_INDEX (t : Nat) : Field := ⟨(R.SPE_OOR_INFO t), 32, 32⟩
def SPE_QDEPTH_DEPTH (t : Nat) : Field := ⟨(R.SPE_QDEPTH t), 0, 5⟩
def SPE_CNT_ABSENT_VALUE (t : Nat) : Field := ⟨(R.SPE_CNT_ABSENT t), 0, 64⟩
def SPE_CNT_ARRAY_VALUE (t : Nat) : Field := ⟨(R.SPE_CNT_ARRAY t), 0, 64⟩
def SPE_CNT_GRID_VALUE (t : Nat) : Field := ⟨(R.SPE_CNT_GRID t), 0, 64⟩
def SPE_CNT_MATCH_VALUE (t : Nat) : Field := ⟨(R.SPE_CNT_MATCH t), 0, 64⟩
def SPE_CNT_MALFORMED_VALUE (t : Nat) : Field := ⟨(R.SPE_CNT_MALFORMED t), 0, 64⟩
def SPE_CNT_OOR_VALUE (t : Nat) : Field := ⟨(R.SPE_CNT_OOR t), 0, 64⟩
def SPE_CNT_DUP_VALUE (t : Nat) : Field := ⟨(R.SPE_CNT_DUP t), 0, 64⟩
def SPE_CNT_BADPTR_VALUE (t : Nat) : Field := ⟨(R.SPE_CNT_BADPTR t), 0, 64⟩
def SPE_CNT_PRODUCTS_VALUE (t : Nat) : Field := ⟨(R.SPE_CNT_PRODUCTS t), 0, 64⟩
def SPE_CNT_PARTIALS_VALUE (t : Nat) : Field := ⟨(R.SPE_CNT_PARTIALS t), 0, 64⟩
def SPE_CNT_PASSES_VALUE (t : Nat) : Field := ⟨(R.SPE_CNT_PASSES t), 0, 64⟩
def SPE_CNT_HARROW_BLOCKS_VALUE (t : Nat) : Field := ⟨(R.SPE_CNT_HARROW_BLOCKS t), 0, 64⟩
def SPE_CNT_HARROW_MARKED_VALUE (t : Nat) : Field := ⟨(R.SPE_CNT_HARROW_MARKED t), 0, 64⟩

/-! Fields of the LXE registers. -/
def LXE_CTL_STAGE_BASE (t : Nat) : Field := ⟨(R.LXE_CTL t), 0, 11⟩
def LXE_CTL_STAGE_SIZE (t : Nat) : Field := ⟨(R.LXE_CTL t), 16, 11⟩
def LXE_STATUS_BUSY (t : Nat) : Field := ⟨(R.LXE_STATUS t), 0, 1⟩
def LXE_STATUS_CFG_ERR (t : Nat) : Field := ⟨(R.LXE_STATUS t), 8, 1⟩
def LXE_STATUS_REJECT (t : Nat) : Field := ⟨(R.LXE_STATUS t), 9, 1⟩
def LXE_STATUS_IDX (t : Nat) : Field := ⟨(R.LXE_STATUS t), 10, 1⟩
def LXE_STATUS_ACCESS_ERR (t : Nat) : Field := ⟨(R.LXE_STATUS t), 11, 1⟩
def LXE_STATUS_POISON (t : Nat) : Field := ⟨(R.LXE_STATUS t), 12, 1⟩
def LXE_STATUS_NV (t : Nat) : Field := ⟨(R.LXE_STATUS t), 13, 1⟩
def LXE_STATUS_OF (t : Nat) : Field := ⟨(R.LXE_STATUS t), 14, 1⟩
def LXE_STATUS_SAT (t : Nat) : Field := ⟨(R.LXE_STATUS t), 15, 1⟩
def LXE_STATUS_ACC_WRAP (t : Nat) : Field := ⟨(R.LXE_STATUS t), 16, 1⟩
def LXE_STATUS_ERI_SAT (t : Nat) : Field := ⟨(R.LXE_STATUS t), 17, 1⟩
def LXE_STATUS_SAT64 (t : Nat) : Field := ⟨(R.LXE_STATUS t), 18, 1⟩
def LXE_STATUS_NONFINITE64 (t : Nat) : Field := ⟨(R.LXE_STATUS t), 19, 1⟩
def LXE_REJECT_REASON (t : Nat) : Field := ⟨(R.LXE_REJECT t), 0, 4⟩
def LXE_REJECT_OP (t : Nat) : Field := ⟨(R.LXE_REJECT t), 8, 8⟩
def LXE_REJECT_TOKEN (t : Nat) : Field := ⟨(R.LXE_REJECT t), 16, 12⟩
def LXE_REJECT_COUNT (t : Nat) : Field := ⟨(R.LXE_REJECT t), 32, 32⟩
def LXE_IDX_INFO_VALID (t : Nat) : Field := ⟨(R.LXE_IDX_INFO t), 0, 1⟩
def LXE_IDX_INFO_KIND (t : Nat) : Field := ⟨(R.LXE_IDX_INFO t), 1, 2⟩
def LXE_IDX_INFO_OP (t : Nat) : Field := ⟨(R.LXE_IDX_INFO t), 8, 8⟩
def LXE_IDX_INFO_TOKEN (t : Nat) : Field := ⟨(R.LXE_IDX_INFO t), 16, 12⟩
def LXE_IDX_INFO_INDEX (t : Nat) : Field := ⟨(R.LXE_IDX_INFO t), 32, 32⟩
def LXE_CNT_CMDS_VALUE (t : Nat) : Field := ⟨(R.LXE_CNT_CMDS t), 0, 64⟩
def LXE_CNT_BYTES_RD_VALUE (t : Nat) : Field := ⟨(R.LXE_CNT_BYTES_RD t), 0, 64⟩
def LXE_CNT_BYTES_WR_VALUE (t : Nat) : Field := ⟨(R.LXE_CNT_BYTES_WR t), 0, 64⟩
def LXE_CNT_IDX_NEG_VALUE (t : Nat) : Field := ⟨(R.LXE_CNT_IDX_NEG t), 0, 64⟩
def LXE_CNT_IDX_OOR_VALUE (t : Nat) : Field := ⟨(R.LXE_CNT_IDX_OOR t), 0, 64⟩
def LXE_CNT_IDX_COALESCED_VALUE (t : Nat) : Field := ⟨(R.LXE_CNT_IDX_COALESCED t), 0, 64⟩
def LXE_CNT_PRUNE_DROP_VALUE (t : Nat) : Field := ⟨(R.LXE_CNT_PRUNE_DROP t), 0, 64⟩
def LXE_CNT_STAGED_VALUE (t : Nat) : Field := ⟨(R.LXE_CNT_STAGED t), 0, 64⟩
def LXE_CNT_ACCESS_ERR_VALUE (t : Nat) : Field := ⟨(R.LXE_CNT_ACCESS_ERR t), 0, 64⟩
def LXE_CNT_SAT64_VALUE (t : Nat) : Field := ⟨(R.LXE_CNT_SAT64 t), 0, 64⟩
def LXE_CNT_POISON_VALUE (t : Nat) : Field := ⟨(R.LXE_CNT_POISON t), 0, 64⟩
def LXE_CNT_STALL_TM_VALUE (t : Nat) : Field := ⟨(R.LXE_CNT_STALL_TM t), 0, 64⟩

/-! Fields of the MEM registers. -/
def MEM_CTL_SCRUB_NEAR_EN : Field := ⟨R.MEM_CTL, 0, 1⟩
def MEM_CTL_SCRUB_DEEP_EN : Field := ⟨R.MEM_CTL, 1, 1⟩
def MEM_CTL_SCRUB_TILE_EN : Field := ⟨R.MEM_CTL, 2, 1⟩
def MEM_CTL_CE_WB_EN : Field := ⟨R.MEM_CTL, 3, 1⟩
def MEM_CTL_CE_LOG_THRESH : Field := ⟨R.MEM_CTL, 16, 16⟩
def MEM_SCRUB_NEAR_HOURS : Field := ⟨R.MEM_SCRUB, 0, 14⟩
def MEM_SCRUB_DEEP_HOURS : Field := ⟨R.MEM_SCRUB, 16, 14⟩
def MEM_SCRUB_TILE_MS : Field := ⟨R.MEM_SCRUB, 32, 16⟩
def MEM_STATUS_CFG_ERR : Field := ⟨R.MEM_STATUS, 0, 1⟩
def MEM_STATUS_CE_TILE : Field := ⟨R.MEM_STATUS, 1, 1⟩
def MEM_STATUS_UE_TILE : Field := ⟨R.MEM_STATUS, 2, 1⟩
def MEM_STATUS_CE_NEAR : Field := ⟨R.MEM_STATUS, 3, 1⟩
def MEM_STATUS_UE_NEAR : Field := ⟨R.MEM_STATUS, 4, 1⟩
def MEM_STATUS_CE_DEEP : Field := ⟨R.MEM_STATUS, 5, 1⟩
def MEM_STATUS_UE_DEEP : Field := ⟨R.MEM_STATUS, 6, 1⟩
def MEM_STATUS_POISON_RD : Field := ⟨R.MEM_STATUS, 7, 1⟩
def MEM_STATUS_UNMAPPED : Field := ⟨R.MEM_STATUS, 8, 1⟩
def MEM_STATUS_SCRUB_UE : Field := ⟨R.MEM_STATUS, 9, 1⟩
def MEM_STATUS_SCRUB_LAG : Field := ⟨R.MEM_STATUS, 10, 1⟩
def MEM_ERR_INFO_VALID : Field := ⟨R.MEM_ERR_INFO, 0, 1⟩
def MEM_ERR_INFO_TIER : Field := ⟨R.MEM_ERR_INFO, 1, 2⟩
def MEM_ERR_INFO_KIND : Field := ⟨R.MEM_ERR_INFO, 3, 2⟩
def MEM_ERR_INFO_SOURCE : Field := ⟨R.MEM_ERR_INFO, 8, 16⟩
def MEM_ERR_ADDR_OFFSET : Field := ⟨R.MEM_ERR_ADDR, 0, 48⟩
def MEM_ERR_ADDR_REQ_DEV : Field := ⟨R.MEM_ERR_ADDR, 48, 16⟩
def MEM_CAP_NEAR_GB : Field := ⟨R.MEM_CAP, 0, 16⟩
def MEM_CAP_DEEP_GB : Field := ⟨R.MEM_CAP, 16, 16⟩
def MEM_CAP_STACKS : Field := ⟨R.MEM_CAP, 32, 8⟩
def MEM_CAP_PKGS : Field := ⟨R.MEM_CAP, 40, 8⟩
def MEM_SCRUB_POS_NEAR_OFFSET : Field := ⟨R.MEM_SCRUB_POS_NEAR, 0, 48⟩
def MEM_SCRUB_POS_DEEP_OFFSET : Field := ⟨R.MEM_SCRUB_POS_DEEP, 0, 48⟩
def MEM_CNT_CE_TILE_VALUE : Field := ⟨R.MEM_CNT_CE_TILE, 0, 64⟩
def MEM_CNT_UE_TILE_VALUE : Field := ⟨R.MEM_CNT_UE_TILE, 0, 64⟩
def MEM_CNT_CE_NEAR_VALUE : Field := ⟨R.MEM_CNT_CE_NEAR, 0, 64⟩
def MEM_CNT_UE_NEAR_VALUE : Field := ⟨R.MEM_CNT_UE_NEAR, 0, 64⟩
def MEM_CNT_CE_DEEP_VALUE : Field := ⟨R.MEM_CNT_CE_DEEP, 0, 64⟩
def MEM_CNT_UE_DEEP_VALUE : Field := ⟨R.MEM_CNT_UE_DEEP, 0, 64⟩
def MEM_CNT_POISON_RD_VALUE : Field := ⟨R.MEM_CNT_POISON_RD, 0, 64⟩
def MEM_CNT_POISON_WR_VALUE : Field := ⟨R.MEM_CNT_POISON_WR, 0, 64⟩
def MEM_CNT_UNMAPPED_VALUE : Field := ⟨R.MEM_CNT_UNMAPPED, 0, 64⟩
def MEM_CNT_SCRUB_NEAR_VALUE : Field := ⟨R.MEM_CNT_SCRUB_NEAR, 0, 64⟩
def MEM_CNT_SCRUB_DEEP_VALUE : Field := ⟨R.MEM_CNT_SCRUB_DEEP, 0, 64⟩
def MEM_CNT_SCRUB_UE_VALUE : Field := ⟨R.MEM_CNT_SCRUB_UE, 0, 64⟩
def MEM_DEV_ERR_CE (d : Nat) : Field := ⟨(R.MEM_DEV_ERR d), 0, 32⟩
def MEM_DEV_ERR_UE (d : Nat) : Field := ⟨(R.MEM_DEV_ERR d), 32, 32⟩

/-! Fields of the FAB registers. -/
def FAB_ID_ID : Field := ⟨R.FAB_ID, 0, 16⟩
def FAB_ID_VALID : Field := ⟨R.FAB_ID, 16, 1⟩
def FAB_CTL_REQ_TMO : Field := ⟨R.FAB_CTL, 0, 16⟩
def FAB_CTL_HOP_MAX : Field := ⟨R.FAB_CTL, 16, 4⟩
def FAB_STATUS_CFG_ERR : Field := ⟨R.FAB_STATUS, 0, 1⟩
def FAB_STATUS_NO_ROUTE : Field := ⟨R.FAB_STATUS, 1, 1⟩
def FAB_STATUS_HOP_LIMIT : Field := ⟨R.FAB_STATUS, 2, 1⟩
def FAB_STATUS_REQ_TIMEOUT : Field := ⟨R.FAB_STATUS, 3, 1⟩
def FAB_STATUS_LATE_RSP : Field := ⟨R.FAB_STATUS, 4, 1⟩
def FAB_STATUS_LINK_DOWN : Field := ⟨R.FAB_STATUS, 5, 1⟩
def FAB_STATUS_NAK_RX : Field := ⟨R.FAB_STATUS, 6, 1⟩
def FAB_STATUS_POISON_RX : Field := ⟨R.FAB_STATUS, 7, 1⟩
def FAB_STATUS_OUTSTANDING : Field := ⟨R.FAB_STATUS, 16, 32⟩
def FAB_CNT_RX_LOCAL_VALUE : Field := ⟨R.FAB_CNT_RX_LOCAL, 0, 64⟩
def FAB_CNT_FWD_VALUE : Field := ⟨R.FAB_CNT_FWD, 0, 64⟩
def FAB_CNT_TX_LOCAL_VALUE : Field := ⟨R.FAB_CNT_TX_LOCAL, 0, 64⟩
def FAB_CNT_DROP_NO_ROUTE_VALUE : Field := ⟨R.FAB_CNT_DROP_NO_ROUTE, 0, 64⟩
def FAB_CNT_DROP_HOP_VALUE : Field := ⟨R.FAB_CNT_DROP_HOP, 0, 64⟩
def FAB_CNT_REQ_TIMEOUT_VALUE : Field := ⟨R.FAB_CNT_REQ_TIMEOUT, 0, 64⟩
def FAB_CNT_LATE_RSP_VALUE : Field := ⟨R.FAB_CNT_LATE_RSP, 0, 64⟩
def FAB_CNT_NAK_TX_VALUE : Field := ⟨R.FAB_CNT_NAK_TX, 0, 64⟩
def FAB_CNT_NAK_RX_VALUE : Field := ⟨R.FAB_CNT_NAK_RX, 0, 64⟩
def FAB_CNT_POISON_RX_VALUE : Field := ⟨R.FAB_CNT_POISON_RX, 0, 64⟩
def FAB_PORT_CFG_EN (p : Nat) : Field := ⟨(R.FAB_PORT_CFG p), 0, 1⟩
def FAB_PORT_CFG_SPLIT (p : Nat) : Field := ⟨(R.FAB_PORT_CFG p), 1, 1⟩
def FAB_PORT_CFG_MEDIUM (p : Nat) : Field := ⟨(R.FAB_PORT_CFG p), 2, 1⟩
def FAB_PORT_CFG_FEC (p : Nat) : Field := ⟨(R.FAB_PORT_CFG p), 3, 2⟩
def FAB_PORT_CFG_AUTO_RETRAIN (p : Nat) : Field := ⟨(R.FAB_PORT_CFG p), 5, 1⟩
def FAB_PORT_CFG_REPLAY_MAX (p : Nat) : Field := ⟨(R.FAB_PORT_CFG p), 8, 4⟩
def FAB_PORT_STATUS_STATE0 (p : Nat) : Field := ⟨(R.FAB_PORT_STATUS p), 0, 3⟩
def FAB_PORT_STATUS_STATE1 (p : Nat) : Field := ⟨(R.FAB_PORT_STATUS p), 3, 3⟩
def FAB_PORT_STATUS_LANES_UP (p : Nat) : Field := ⟨(R.FAB_PORT_STATUS p), 6, 8⟩
def FAB_PORT_CNT_FEC_CORR (p : Nat) : Field := ⟨(R.FAB_PORT_CNT_FEC p), 0, 32⟩
def FAB_PORT_CNT_FEC_UNCORR (p : Nat) : Field := ⟨(R.FAB_PORT_CNT_FEC p), 32, 32⟩
def FAB_PORT_CNT_LINK_CRC_FAIL (p : Nat) : Field := ⟨(R.FAB_PORT_CNT_LINK p), 0, 32⟩
def FAB_PORT_CNT_LINK_REPLAYS (p : Nat) : Field := ⟨(R.FAB_PORT_CNT_LINK p), 32, 32⟩
def FAB_PORT_CNT_BYTES_TX (p : Nat) : Field := ⟨(R.FAB_PORT_CNT_BYTES p), 0, 64⟩
def FAB_PORT_CNT_DOWN_DOWNS (p : Nat) : Field := ⟨(R.FAB_PORT_CNT_DOWN p), 0, 32⟩
def FAB_MCRC_DATA8_DATA : Field := ⟨R.FAB_MCRC_DATA8, 0, 8⟩
def FAB_MCRC_DATA16_DATA : Field := ⟨R.FAB_MCRC_DATA16, 0, 16⟩
def FAB_MCRC_DATA32_DATA : Field := ⟨R.FAB_MCRC_DATA32, 0, 32⟩
def FAB_MCRC_INIT_ANY : Field := ⟨R.FAB_MCRC_INIT, 0, 32⟩
def FAB_MCRC_VALUE_VALUE : Field := ⟨R.FAB_MCRC_VALUE, 0, 32⟩
def FAB_MCRC_RESULT_RESULT : Field := ⟨R.FAB_MCRC_RESULT, 0, 32⟩
def FAB_ROUTE_PORT (id : Nat) : Field := ⟨(R.FAB_ROUTE id), 32 * (id % 2) + 0, 4⟩
def FAB_ROUTE_HALF (id : Nat) : Field := ⟨(R.FAB_ROUTE id), 32 * (id % 2) + 4, 1⟩
def FAB_ROUTE_VALID (id : Nat) : Field := ⟨(R.FAB_ROUTE id), 32 * (id % 2) + 5, 1⟩
def FAB_ROUTE_ALT_PORT (id : Nat) : Field := ⟨(R.FAB_ROUTE id), 32 * (id % 2) + 6, 4⟩
def FAB_ROUTE_ALT_HALF (id : Nat) : Field := ⟨(R.FAB_ROUTE id), 32 * (id % 2) + 10, 1⟩
def FAB_ROUTE_ALT_EN (id : Nat) : Field := ⟨(R.FAB_ROUTE id), 32 * (id % 2) + 11, 1⟩
def FAB_ROUTE_LAYER_UP (id : Nat) : Field := ⟨(R.FAB_ROUTE id), 32 * (id % 2) + 12, 4⟩

/-! Fields of the QUE registers. -/
def QUE_CTL_EN : Field := ⟨R.QUE_CTL, 0, 1⟩
def QUE_CTX_BASE_BASE : Field := ⟨R.QUE_CTX_BASE, 0, 48⟩
def QUE_STATUS_CFG_ERR : Field := ⟨R.QUE_STATUS, 0, 1⟩
def QUE_STATUS_REJECT : Field := ⟨R.QUE_STATUS, 1, 1⟩
def QUE_STATUS_QUEUE_ERROR : Field := ⟨R.QUE_STATUS, 2, 1⟩
def QUE_STATUS_RX_REJECT : Field := ⟨R.QUE_STATUS, 3, 1⟩
def QUE_STATUS_ACTIVE_QUEUES : Field := ⟨R.QUE_STATUS, 16, 17⟩
def QUE_REJECT_REASON : Field := ⟨R.QUE_REJECT, 0, 4⟩
def QUE_REJECT_QID : Field := ⟨R.QUE_REJECT, 16, 16⟩
def QUE_REJECT_COUNT : Field := ⟨R.QUE_REJECT, 32, 32⟩
def QUE_QCTL_QID : Field := ⟨R.QUE_QCTL, 0, 16⟩
def QUE_QCTL_CMD : Field := ⟨R.QUE_QCTL, 16, 2⟩
def QUE_CNT_DESC_DONE_VALUE : Field := ⟨R.QUE_CNT_DESC_DONE, 0, 64⟩
def QUE_CNT_MSG_RX_VALUE : Field := ⟨R.QUE_CNT_MSG_RX, 0, 64⟩
def QUE_CNT_RETRANSMITS_VALUE : Field := ⟨R.QUE_CNT_RETRANSMITS, 0, 64⟩
def QUE_CNT_REPEATS_VALUE : Field := ⟨R.QUE_CNT_REPEATS, 0, 64⟩
def QUE_CNT_GAPS_VALUE : Field := ⟨R.QUE_CNT_GAPS, 0, 64⟩
def QUE_CNT_CRC_FAIL_VALUE : Field := ⟨R.QUE_CNT_CRC_FAIL, 0, 64⟩
def QUE_CNT_RX_REJECT_VALUE : Field := ⟨R.QUE_CNT_RX_REJECT, 0, 64⟩
def QUE_CNT_RESTARTS_VALUE : Field := ⟨R.QUE_CNT_RESTARTS, 0, 64⟩
def QUE_CNT_CREDIT_WAIT_VALUE : Field := ⟨R.QUE_CNT_CREDIT_WAIT, 0, 64⟩
def QUE_DB_INDEX (q : Nat) : Field := ⟨(R.QUE_DB q), 0, 32⟩

/-! Fields of the GRE registers. -/
def GRE_CTL_EN : Field := ⟨R.GRE_CTL, 0, 1⟩
def GRE_CTL_STALL_TIDES : Field := ⟨R.GRE_CTL, 8, 8⟩
def GRE_STATUS_CFG_ERR : Field := ⟨R.GRE_STATUS, 0, 1⟩
def GRE_STATUS_REJECT : Field := ⟨R.GRE_STATUS, 1, 1⟩
def GRE_STATUS_SELF_LATE : Field := ⟨R.GRE_STATUS, 2, 1⟩
def GRE_STATUS_RERUN : Field := ⟨R.GRE_STATUS, 3, 1⟩
def GRE_STATUS_NONFINITE : Field := ⟨R.GRE_STATUS, 4, 1⟩
def GRE_STATUS_POISON : Field := ⟨R.GRE_STATUS, 5, 1⟩
def GRE_STATUS_MISMATCH : Field := ⟨R.GRE_STATUS, 6, 1⟩
def GRE_STATUS_STALL : Field := ⟨R.GRE_STATUS, 7, 1⟩
def GRE_STATUS_CHAN_ERROR : Field := ⟨R.GRE_STATUS, 8, 1⟩
def GRE_STATUS_CARRY_FULL : Field := ⟨R.GRE_STATUS, 9, 1⟩
def GRE_STATUS_OF : Field := ⟨R.GRE_STATUS, 10, 1⟩
def GRE_STATUS_CARRY_MISMATCH : Field := ⟨R.GRE_STATUS, 11, 1⟩
def GRE_STATUS_OUTSTANDING : Field := ⟨R.GRE_STATUS, 16, 11⟩
def GRE_REJECT_REASON : Field := ⟨R.GRE_REJECT, 0, 4⟩
def GRE_REJECT_CHAN : Field := ⟨R.GRE_REJECT, 8, 8⟩
def GRE_REJECT_TOKEN : Field := ⟨R.GRE_REJECT, 16, 12⟩
def GRE_REJECT_COUNT : Field := ⟨R.GRE_REJECT, 32, 32⟩
def GRE_ERR_INFO_VALID : Field := ⟨R.GRE_ERR_INFO, 0, 1⟩
def GRE_ERR_INFO_KIND : Field := ⟨R.GRE_ERR_INFO, 1, 2⟩
def GRE_ERR_INFO_CHAN : Field := ⟨R.GRE_ERR_INFO, 8, 8⟩
def GRE_ERR_INFO_LINK : Field := ⟨R.GRE_ERR_INFO, 16, 3⟩
def GRE_ERR_INFO_SEQ : Field := ⟨R.GRE_ERR_INFO, 32, 32⟩
def GRE_CNT_BUCKETS_VALUE : Field := ⟨R.GRE_CNT_BUCKETS, 0, 64⟩
def GRE_CNT_BLOCKS_VALUE : Field := ⟨R.GRE_CNT_BLOCKS, 0, 64⟩
def GRE_CNT_BYTES_TX_VALUE : Field := ⟨R.GRE_CNT_BYTES_TX, 0, 64⟩
def GRE_CNT_SELF_LATE_VALUE : Field := ⟨R.GRE_CNT_SELF_LATE, 0, 64⟩
def GRE_CNT_CARRIED_VALUE : Field := ⟨R.GRE_CNT_CARRIED, 0, 64⟩
def GRE_CNT_DROPPED_VALUE : Field := ⟨R.GRE_CNT_DROPPED, 0, 64⟩
def GRE_CNT_CARRY_FULL_VALUE : Field := ⟨R.GRE_CNT_CARRY_FULL, 0, 64⟩
def GRE_CNT_RERUN_BLOCKS_VALUE : Field := ⟨R.GRE_CNT_RERUN_BLOCKS, 0, 64⟩
def GRE_CNT_NF_BLOCKS_VALUE : Field := ⟨R.GRE_CNT_NF_BLOCKS, 0, 64⟩
def GRE_CNT_POISON_VALUE : Field := ⟨R.GRE_CNT_POISON, 0, 64⟩
def GRE_CNT_CARRY_MISMATCH_VALUE : Field := ⟨R.GRE_CNT_CARRY_MISMATCH, 0, 64⟩
def GRE_CHAN_CFG_EN (c : Nat) : Field := ⟨(R.GRE_CHAN_CFG c), 0, 1⟩
def GRE_CHAN_CFG_TOPO (c : Nat) : Field := ⟨(R.GRE_CHAN_CFG c), 1, 2⟩
def GRE_CHAN_CFG_POLICY (c : Nat) : Field := ⟨(R.GRE_CHAN_CFG c), 3, 1⟩
def GRE_CHAN_CFG_BITTERN (c : Nat) : Field := ⟨(R.GRE_CHAN_CFG c), 4, 1⟩
def GRE_CHAN_CFG_CHILDREN (c : Nat) : Field := ⟨(R.GRE_CHAN_CFG c), 5, 3⟩
def GRE_CHAN_CFG_MARGIN (c : Nat) : Field := ⟨(R.GRE_CHAN_CFG c), 8, 4⟩
def GRE_CHAN_CFG_P (c : Nat) : Field := ⟨(R.GRE_CHAN_CFG c), 16, 15⟩
def GRE_CHAN_CFG_POS (c : Nat) : Field := ⟨(R.GRE_CHAN_CFG c), 32, 15⟩
def GRE_CHAN_CFG_ROOT_ID (c : Nat) : Field := ⟨(R.GRE_CHAN_CFG c), 48, 16⟩
def GRE_CHAN_LINK_QBASE (c : Nat) : Field := ⟨(R.GRE_CHAN_LINK c), 0, 10⟩
def GRE_CHAN_LINK_P_IN (c : Nat) : Field := ⟨(R.GRE_CHAN_LINK c), 16, 15⟩
def GRE_CHAN_INIT_DEFAULT_E (c : Nat) : Field := ⟨(R.GRE_CHAN_INIT c), 0, 16⟩
def GRE_CHAN_SEQ_NEXT_SEQ (c : Nat) : Field := ⟨(R.GRE_CHAN_SEQ c), 0, 32⟩
def GRE_CHAN_SEQ_DONE_SEQ (c : Nat) : Field := ⟨(R.GRE_CHAN_SEQ c), 32, 32⟩
def GRE_CHAN_STATE_STATE (c : Nat) : Field := ⟨(R.GRE_CHAN_STATE c), 0, 2⟩
def GRE_CHAN_STATE_ERR_KIND (c : Nat) : Field := ⟨(R.GRE_CHAN_STATE c), 8, 8⟩
def GRE_CHAN_STATE_OUTSTANDING (c : Nat) : Field := ⟨(R.GRE_CHAN_STATE c), 16, 7⟩

/-! Fields of the PWR registers. -/
def PWR_CTL_LEVEL_EN : Field := ⟨R.PWR_CTL, 0, 1⟩
def PWR_CTL_BUDGET_EN : Field := ⟨R.PWR_CTL, 1, 1⟩
def PWR_CTL_CAP : Field := ⟨R.PWR_CTL, 16, 12⟩
def PWR_CTL_DROOP_MV : Field := ⟨R.PWR_CTL, 32, 7⟩
def PWR_CTL_JUNC_THROTTLE : Field := ⟨R.PWR_CTL, 40, 8⟩
def PWR_CTL_COOL_IN_MAX : Field := ⟨R.PWR_CTL, 48, 8⟩
def PWR_CTL_COOL_OUT_MAX : Field := ⟨R.PWR_CTL, 56, 8⟩
def PWR_HOST_FMAX : Field := ⟨R.PWR_HOST, 0, 12⟩
def PWR_HOST_BRAKE : Field := ⟨R.PWR_HOST, 16, 1⟩
def PWR_STATUS_FREQ : Field := ⟨R.PWR_STATUS, 0, 12⟩
def PWR_STATUS_CAP_EFF : Field := ⟨R.PWR_STATUS, 12, 12⟩
def PWR_STATUS_REASONS : Field := ⟨R.PWR_STATUS, 24, 7⟩
def PWR_STATUS_CFG_ERR : Field := ⟨R.PWR_STATUS, 32, 1⟩
def PWR_STATUS_CAL_RANGE : Field := ⟨R.PWR_STATUS, 33, 1⟩
def PWR_STATUS_JUNC_CRIT : Field := ⟨R.PWR_STATUS, 34, 1⟩
def PWR_STATUS_LEVEL_BREACH : Field := ⟨R.PWR_STATUS, 35, 1⟩
def PWR_STATUS_MASTER_LOST : Field := ⟨R.PWR_STATUS, 36, 1⟩
def PWR_STATUS_LATE_MOVE : Field := ⟨R.PWR_STATUS, 37, 1⟩
def PWR_POWER_P_EST : Field := ⟨R.PWR_POWER, 0, 16⟩
def PWR_POWER_P_MEAS : Field := ⟨R.PWR_POWER, 16, 16⟩
def PWR_POWER_TJ_MAX : Field := ⟨R.PWR_POWER, 32, 8⟩
def PWR_POWER_COOL_IN : Field := ⟨R.PWR_POWER, 40, 8⟩
def PWR_POWER_COOL_OUT : Field := ⟨R.PWR_POWER, 48, 8⟩
def PWR_STATE_NEXT : Field := ⟨R.PWR_STATE, 0, 2⟩
def PWR_STATE_CUR : Field := ⟨R.PWR_STATE, 2, 2⟩
def PWR_STATE_REFUSE : Field := ⟨R.PWR_STATE, 4, 4⟩
def PWR_STATE_REFUSED : Field := ⟨R.PWR_STATE, 8, 1⟩
def PWR_STATE_WATCH_MS : Field := ⟨R.PWR_STATE, 16, 14⟩
def PWR_WATCH_THR_JUNC_HI : Field := ⟨R.PWR_WATCH_THR, 0, 8⟩
def PWR_WATCH_THR_COOL_HI : Field := ⟨R.PWR_WATCH_THR, 8, 8⟩
def PWR_WATCH_THR_DB_EN : Field := ⟨R.PWR_WATCH_THR, 16, 1⟩
def PWR_WATCH_THR_HB_PORTS : Field := ⟨R.PWR_WATCH_THR, 32, 16⟩
def PWR_WAKE_TIDE : Field := ⟨R.PWR_WAKE, 0, 48⟩
def PWR_WAKE_CAUSE : Field := ⟨R.PWR_WAKE, 48, 4⟩
def PWR_WAKE_FROM : Field := ⟨R.PWR_WAKE, 52, 2⟩
def PWR_WAKE_DETAIL : Field := ⟨R.PWR_WAKE, 56, 8⟩
def PWR_WAKE_MASK_SEEN : Field := ⟨R.PWR_WAKE_MASK, 0, 9⟩
def PWR_WAKE_MASK_ABORTED : Field := ⟨R.PWR_WAKE_MASK, 16, 1⟩
def PWR_ENERGY_DEV_UJ : Field := ⟨R.PWR_ENERGY_DEV, 0, 64⟩
def PWR_ENERGY_DIE_UJ (d : Nat) : Field := ⟨(R.PWR_ENERGY_DIE d), 0, 64⟩
def PWR_CAL_K (d : Nat) : Field := ⟨(R.PWR_CAL d), 0, 16⟩
def PWR_QENERGY_BASE : Field := ⟨R.PWR_QENERGY, 0, 48⟩
def PWR_QENERGY_EN : Field := ⟨R.PWR_QENERGY, 63, 1⟩
def PWR_THR_TIME_NS (r : Nat) : Field := ⟨(R.PWR_THR_TIME r), 0, 64⟩
def PWR_GRP_CTL_MASTER_ID : Field := ⟨R.PWR_GRP_CTL, 0, 16⟩
def PWR_GRP_CTL_INDEX : Field := ⟨R.PWR_GRP_CTL, 16, 8⟩
def PWR_GRP_CTL_IS_MASTER : Field := ⟨R.PWR_GRP_CTL, 24, 1⟩
def PWR_GRP_CTL_MOVE_LEAD : Field := ⟨R.PWR_GRP_CTL, 32, 4⟩
def PWR_GRP_CTL_MOVE_MAX : Field := ⟨R.PWR_GRP_CTL, 40, 11⟩
def PWR_GRP_CTL_MASTER_TMO : Field := ⟨R.PWR_GRP_CTL, 56, 8⟩
def PWR_GRP_CFG_MEMBERS : Field := ⟨R.PWR_GRP_CFG, 0, 9⟩
def PWR_GRP_CFG_SLACK_LO : Field := ⟨R.PWR_GRP_CFG, 16, 10⟩
def PWR_GRP_CFG_SLACK_HI : Field := ⟨R.PWR_GRP_CFG, 32, 10⟩
def PWR_GRP_BUDGET_BUDGET : Field := ⟨R.PWR_GRP_BUDGET, 0, 20⟩
def PWR_GRP_STATUS_ROUND : Field := ⟨R.PWR_GRP_STATUS, 0, 32⟩
def PWR_GRP_STATUS_DISCARDED : Field := ⟨R.PWR_GRP_STATUS, 32, 16⟩
def PWR_GRP_MEMBER_DEVICE_ID (i : Nat) : Field := ⟨(R.PWR_GRP_MEMBER i), 0, 16⟩
def PWR_GRP_MEMBER_VALID (i : Nat) : Field := ⟨(R.PWR_GRP_MEMBER i), 16, 1⟩
def PWR_TILE_ENERGY_UJ (t : Nat) : Field := ⟨(R.PWR_TILE_ENERGY t), 0, 64⟩
def PWR_GRP_ACK_ROUND (i : Nat) : Field := ⟨(R.PWR_GRP_ACK i), 0, 32⟩
def PWR_GRP_ACK_CAP_EFF (i : Nat) : Field := ⟨(R.PWR_GRP_ACK i), 32, 12⟩
def PWR_GRP_INBOX_REPORT (i w : Nat) : Field := ⟨(R.PWR_GRP_INBOX i w), 0, 64⟩
def PWR_GRP_MOVE_MOVE (w : Nat) : Field := ⟨(R.PWR_GRP_MOVE w), 0, 64⟩
def PWR_VF_MV (d s : Nat) : Field := ⟨(R.PWR_VF d s), 16 * (s % 4), 16⟩

/-! Fields of the MBX registers. -/
def MBX_CH_CTL_SEND (c : Nat) : Field := ⟨(R.MBX_CH_CTL c), 0, 1⟩
def MBX_CH_CTL_TAKE (c : Nat) : Field := ⟨(R.MBX_CH_CTL c), 1, 1⟩
def MBX_CH_CTL_REPLY (c : Nat) : Field := ⟨(R.MBX_CH_CTL c), 2, 1⟩
def MBX_CH_CTL_RELEASE (c : Nat) : Field := ⟨(R.MBX_CH_CTL c), 3, 1⟩
def MBX_CH_STATUS_STATE (c : Nat) : Field := ⟨(R.MBX_CH_STATUS c), 0, 2⟩
def MBX_CH_STATUS_SECURE (c : Nat) : Field := ⟨(R.MBX_CH_STATUS c), 8, 1⟩
def MBX_CH_STATUS_RX_AGENT (c : Nat) : Field := ⟨(R.MBX_CH_STATUS c), 16, 4⟩
def MBX_CH_STATUS_TX_AGENT (c : Nat) : Field := ⟨(R.MBX_CH_STATUS c), 24, 4⟩
def MBX_CH_STATUS_OVERSEND (c : Nat) : Field := ⟨(R.MBX_CH_STATUS c), 32, 1⟩
def MBX_CH_STATUS_WRITE_IGNORED (c : Nat) : Field := ⟨(R.MBX_CH_STATUS c), 33, 1⟩
def MBX_CH_CNT_SENT (c : Nat) : Field := ⟨(R.MBX_CH_CNT c), 0, 32⟩
def MBX_CH_CNT_ABORTED (c : Nat) : Field := ⟨(R.MBX_CH_CNT c), 32, 32⟩
def MBX_DB_BITS (a : Nat) : Field := ⟨(R.MBX_DB a), 0, 32⟩
def MBX_DB_MASK_MASK (a : Nat) : Field := ⟨(R.MBX_DB_MASK a), 0, 32⟩
def MBX_HOST_FW_READY : Field := ⟨R.MBX_HOST, 0, 1⟩
def MBX_HOST_RESET_DONE : Field := ⟨R.MBX_HOST, 1, 1⟩
def MBX_HOST_LAST_RESET : Field := ⟨R.MBX_HOST, 8, 4⟩
def MBX_WIN_BASE : Field := ⟨R.MBX_WIN, 24, 24⟩
def MBX_BAR2_BASE : Field := ⟨R.MBX_BAR2, 0, 64⟩
def MBX_STATUS_CFG_ERR : Field := ⟨R.MBX_STATUS, 0, 1⟩
def MBX_STATUS_HOST_ERR : Field := ⟨R.MBX_STATUS, 1, 1⟩
def MBX_STATUS_REG_WRITE_IN_JOB : Field := ⟨R.MBX_STATUS, 2, 1⟩
def MBX_CNT_HOST_ERR_VALUE : Field := ⟨R.MBX_CNT_HOST_ERR, 0, 64⟩
def MBX_MSIX_ENTRY (v w : Nat) : Field := ⟨(R.MBX_MSIX v w), 0, 64⟩
def MBX_PBA_PENDING : Field := ⟨R.MBX_PBA, 0, 64⟩

/-! Fields of the MGP registers. -/
def MGP_BOOT_SLOT : Field := ⟨R.MGP_BOOT, 0, 1⟩
def MGP_BOOT_TRIAL : Field := ⟨R.MGP_BOOT, 1, 2⟩
def MGP_BOOT_FALLBACK : Field := ⟨R.MGP_BOOT, 3, 1⟩
def MGP_BOOT_ROM_STATUS : Field := ⟨R.MGP_BOOT, 4, 4⟩
def MGP_BOOT_FAIL_STAGE : Field := ⟨R.MGP_BOOT, 8, 8⟩
def MGP_BOOT_FAIL_BLOCK : Field := ⟨R.MGP_BOOT, 16, 16⟩
def MGP_TRIAL_REMAIN_MS : Field := ⟨R.MGP_TRIAL, 0, 17⟩
def MGP_TRIAL_ARMED : Field := ⟨R.MGP_TRIAL, 17, 1⟩
def MGP_TRIAL_STOP : Field := ⟨R.MGP_TRIAL, 18, 1⟩
def MGP_TRIAL_EXPIRED : Field := ⟨R.MGP_TRIAL, 19, 1⟩
def MGP_MEAS_VALUE (i w : Nat) : Field := ⟨(R.MGP_MEAS i w), 0, 64⟩
def MGP_MEAS_EXT_DATA_DATA (w : Nat) : Field := ⟨(R.MGP_MEAS_EXT_DATA w), 0, 64⟩
def MGP_MEAS_EXT_INDEX : Field := ⟨R.MGP_MEAS_EXT, 0, 3⟩
def MGP_ATT_NONCE_NONCE (w : Nat) : Field := ⟨(R.MGP_ATT_NONCE w), 0, 64⟩
def MGP_ATT_DEST_DEST : Field := ⟨R.MGP_ATT_DEST, 0, 64⟩
def MGP_ATT_CTL_GO : Field := ⟨R.MGP_ATT_CTL, 0, 1⟩
def MGP_ATT_CTL_BUSY : Field := ⟨R.MGP_ATT_CTL, 1, 1⟩
def MGP_ATT_CTL_DONE : Field := ⟨R.MGP_ATT_CTL, 2, 1⟩
def MGP_ATT_CTL_EXT_REFUSED : Field := ⟨R.MGP_ATT_CTL, 3, 1⟩
def MGP_ATT_CTL_WRITE_ERR : Field := ⟨R.MGP_ATT_CTL, 4, 1⟩
def MGP_ATT_CTL_SEQ : Field := ⟨R.MGP_ATT_CTL, 32, 32⟩
def MGP_IDKEY_KEY (w : Nat) : Field := ⟨(R.MGP_IDKEY w), 0, 64⟩

/-! Fields of the DIAG registers. -/
def DIAG_PTILE_LOGICAL (p : Nat) : Field := ⟨(R.DIAG_PTILE p), 0, 8⟩
def DIAG_PTILE_ENABLED (p : Nat) : Field := ⟨(R.DIAG_PTILE p), 8, 1⟩
def DIAG_PTILE_POS (p : Nat) : Field := ⟨(R.DIAG_PTILE p), 16, 6⟩
def DIAG_PTILE_DIE (p : Nat) : Field := ⟨(R.DIAG_PTILE p), 22, 2⟩

/-! Fields of the EVT registers. -/
def EVT_CTL_EN : Field := ⟨R.EVT_CTL, 0, 1⟩
def EVT_CTL_STOP_FULL : Field := ⟨R.EVT_CTL, 1, 1⟩
def EVT_CTL_LOG2 : Field := ⟨R.EVT_CTL, 16, 5⟩
def EVT_RING_BASE_BASE : Field := ⟨R.EVT_RING_BASE, 0, 48⟩
def EVT_WR_WR : Field := ⟨R.EVT_WR, 0, 32⟩
def EVT_RD_RD : Field := ⟨R.EVT_RD, 0, 32⟩
def EVT_STATUS_CFG_ERR : Field := ⟨R.EVT_STATUS, 0, 1⟩
def EVT_STATUS_LOST : Field := ⟨R.EVT_STATUS, 1, 1⟩
def EVT_STATUS_REPLAY_RUN : Field := ⟨R.EVT_STATUS, 2, 1⟩
def EVT_SW_COMMIT_COMMIT : Field := ⟨R.EVT_SW_COMMIT, 0, 1⟩
def EVT_AUDIT_BASE : Field := ⟨R.EVT_AUDIT, 0, 48⟩
def EVT_AUDIT_LOG2 : Field := ⟨R.EVT_AUDIT, 48, 5⟩
def EVT_AUDIT_WR_WR : Field := ⟨R.EVT_AUDIT_WR, 0, 32⟩
def EVT_AUDIT_RD_RD : Field := ⟨R.EVT_AUDIT_RD, 0, 32⟩
def EVT_CAP_CTL_CLASSES : Field := ⟨R.EVT_CAP_CTL, 0, 7⟩
def EVT_CAP_CTL_MODE : Field := ⟨R.EVT_CAP_CTL, 7, 1⟩
def EVT_CAP_CTL_EN : Field := ⟨R.EVT_CAP_CTL, 8, 1⟩
def EVT_CAP_CTL_TRIG_EN : Field := ⟨R.EVT_CAP_CTL, 9, 1⟩
def EVT_CAP_CTL_TRIG_CODE : Field := ⟨R.EVT_CAP_CTL, 16, 16⟩
def EVT_CAP_CTL_TRIG_DELAY : Field := ⟨R.EVT_CAP_CTL, 32, 16⟩
def EVT_CAP_BASE_BASE : Field := ⟨R.EVT_CAP_BASE, 0, 48⟩
def EVT_CAP_SIZE_SIZE : Field := ⟨R.EVT_CAP_SIZE, 0, 48⟩
def EVT_CAP_WR_WR : Field := ⟨R.EVT_CAP_WR, 0, 48⟩
def EVT_CAP_OLDEST_POS : Field := ⟨R.EVT_CAP_OLDEST, 0, 48⟩
def EVT_CAP_LOST_RECORDS : Field := ⟨R.EVT_CAP_LOST, 0, 64⟩
def EVT_REPLAY_BASE_BASE : Field := ⟨R.EVT_REPLAY_BASE, 0, 48⟩
def EVT_REPLAY_SIZE_SIZE : Field := ⟨R.EVT_REPLAY_SIZE, 0, 48⟩
def EVT_REPLAY_START_POS : Field := ⟨R.EVT_REPLAY_START, 0, 48⟩
def EVT_REPLAY_END_POS : Field := ⟨R.EVT_REPLAY_END, 0, 48⟩
def EVT_REPLAY_POS_POS : Field := ⟨R.EVT_REPLAY_POS, 0, 48⟩
def EVT_REPLAY_DIV_TIDE : Field := ⟨R.EVT_REPLAY_DIV, 0, 48⟩
def EVT_REPLAY_DIVSEQ_SEQ : Field := ⟨R.EVT_REPLAY_DIVSEQ, 0, 32⟩
def EVT_REPLAY_DIVSEQ_COUNT : Field := ⟨R.EVT_REPLAY_DIVSEQ, 32, 32⟩
def EVT_RNG_VALUE : Field := ⟨R.EVT_RNG, 0, 64⟩
def EVT_CNT_OVERWRITTEN : Field := ⟨R.EVT_CNT, 0, 16⟩
def EVT_CNT_FULL_DROP : Field := ⟨R.EVT_CNT, 16, 16⟩
def EVT_CNT_SRC_DROP : Field := ⟨R.EVT_CNT, 32, 16⟩
def EVT_CNT_PRE_DROP : Field := ⟨R.EVT_CNT, 48, 16⟩
def EVT_SW_RECORD (w : Nat) : Field := ⟨(R.EVT_SW w), 0, 64⟩
def EVT_CAP_STATUS_FROZEN : Field := ⟨R.EVT_CAP_STATUS, 0, 1⟩
def EVT_CAP_STATUS_FULL : Field := ⟨R.EVT_CAP_STATUS, 1, 1⟩
def EVT_CAP_STATUS_FREEZE_TIDE : Field := ⟨R.EVT_CAP_STATUS, 16, 48⟩
def EVT_REPLAY_CTL_GO : Field := ⟨R.EVT_REPLAY_CTL, 0, 1⟩
def EVT_REPLAY_CTL_STOP : Field := ⟨R.EVT_REPLAY_CTL, 1, 1⟩

/-! Fields of the MGP registers. -/
def MGP_WDT_TIMEOUT_MS : Field := ⟨R.MGP_WDT, 0, 16⟩
def MGP_WDT_EN : Field := ⟨R.MGP_WDT, 16, 1⟩
def MGP_WDT_KICK : Field := ⟨R.MGP_WDT, 17, 1⟩
def MGP_WDT_EXPIRED : Field := ⟨R.MGP_WDT, 18, 1⟩
def MGP_WDT_REMAIN_MS : Field := ⟨R.MGP_WDT, 32, 16⟩
def MGP_HB_COUNT : Field := ⟨R.MGP_HB, 0, 32⟩

/-! Fields of the DCP registers. -/
def DCP_HB_PERIOD_MS (d : Nat) : Field := ⟨(R.DCP_HB d), 0, 16⟩
def DCP_HB_MISS_MAX (d : Nat) : Field := ⟨(R.DCP_HB d), 16, 4⟩
def DCP_HB_EN (d : Nat) : Field := ⟨(R.DCP_HB d), 20, 1⟩
def DCP_HB_MISSES (d : Nat) : Field := ⟨(R.DCP_HB d), 32, 4⟩
def DCP_ALIVE_COUNT (d : Nat) : Field := ⟨(R.DCP_ALIVE d), 0, 32⟩

end F

/-- The access codes of R14. -/
inductive Access where
  | ro | rw | wo | w1c | w1s | rc
  deriving DecidableEq, Repr

/-- One field of a register row: name, lowest bit, width, access code, reset value. -/
structure FieldRow where
  name   : String
  lo     : Nat
  width  : Nat
  access : Access
  reset  : Nat
  deriving DecidableEq, Repr

/-- One row of a register table: the register's name, its offset in its block, the two index strides and counts
(stride 0 and count 1 where a register has no such index), and its fields. Bits of no field are reserved (R15). -/
structure RegRow where
  name : String
  off  : Nat
  s0   : Nat
  n0   : Nat
  s1   : Nat
  n1   : Nat
  flds : List FieldRow
  deriving DecidableEq, Repr

/-- The TIDE_ registers (R54). -/
def rowsTIDE : List RegRow :=
  [ ⟨"TIDE_CTL", 0x0, 0x0, 1, 0x0, 1, [⟨"ENABLE", 0, 1, .rw, 0⟩, ⟨"ROLE", 1, 2, .rw, 0⟩, ⟨"COAST_EN", 3, 1, .rw, 1⟩, ⟨"RESYNC_N", 4, 4, .rw, 3⟩, ⟨"COAST_MAX", 8, 8, .rw, 8⟩, ⟨"ECHO_EVERY", 16, 8, .rw, 16⟩]⟩
  , ⟨"TIDE_PERIOD", 0x8, 0x0, 1, 0x0, 1, [⟨"PERIOD", 0, 27, .rw, 0x4E20⟩]⟩
  , ⟨"TIDE_LEAD", 0x10, 0x0, 1, 0x0, 1, [⟨"LEAD", 0, 11, .rw, 800⟩, ⟨"WINDOW", 16, 11, .rw, 100⟩]⟩
  , ⟨"TIDE_IDS", 0x18, 0x0, 1, 0x0, 1, [⟨"MASTER_ID", 0, 16, .rw, 0⟩, ⟨"BACKUP_ID", 16, 16, .rw, 0⟩]⟩
  , ⟨"TIDE_TREE", 0x20, 0x0, 1, 0x0, 1, [⟨"UP_A", 0, 4, .rw, 0⟩, ⟨"UP_A_EN", 4, 1, .rw, 0⟩, ⟨"UP_B", 8, 4, .rw, 0⟩, ⟨"UP_B_EN", 12, 1, .rw, 0⟩, ⟨"DOWN_A", 16, 16, .rw, 0⟩, ⟨"DOWN_B", 32, 16, .rw, 0⟩]⟩
  , ⟨"TIDE_COUNT", 0x28, 0x0, 1, 0x0, 1, [⟨"COUNT", 0, 48, .ro, 0⟩]⟩
  , ⟨"TIDE_LOAD", 0x30, 0x0, 1, 0x0, 1, [⟨"VALUE", 0, 48, .wo, 0⟩]⟩
  , ⟨"TIDE_STATUS", 0x38, 0x0, 1, 0x0, 1, [⟨"STATE", 0, 3, .ro, 0⟩, ⟨"EPOCH", 8, 8, .ro, 0⟩, ⟨"SOURCE", 16, 16, .ro, 0⟩, ⟨"CFG_ERR", 32, 1, .w1c, 0⟩, ⟨"TAKEOVER", 33, 1, .w1c, 0⟩, ⟨"DEPOSED", 34, 1, .w1c, 0⟩, ⟨"DUAL_MASTER", 35, 1, .w1c, 0⟩, ⟨"JUMPED", 36, 1, .w1c, 0⟩, ⟨"COAST_LIMIT", 37, 1, .w1c, 0⟩, ⟨"MISS_RUN", 40, 8, .ro, 0⟩]⟩
  , ⟨"TIDE_TIME", 0x40, 0x0, 1, 0x0, 1, [⟨"TIME", 0, 64, .ro, 0⟩]⟩
  , ⟨"TIDE_INSTANT", 0x48, 0x0, 1, 0x0, 1, [⟨"LAST", 0, 64, .ro, 0⟩]⟩
  , ⟨"TIDE_OFFSET", 0x50, 0x0, 1, 0x0, 1, [⟨"LAST", 0, 32, .ro, 0⟩]⟩
  , ⟨"TIDE_OFFSET_EXT", 0x58, 0x0, 1, 0x0, 1, [⟨"MAX_ABS", 0, 32, .rc, 0⟩]⟩
  , ⟨"TIDE_ERRCNT0", 0x60, 0x0, 1, 0x0, 1, [⟨"MISSED", 0, 16, .rc, 0⟩, ⟨"REPEAT", 16, 16, .rc, 0⟩, ⟨"GAP", 32, 16, .rc, 0⟩, ⟨"STALE_EPOCH", 48, 16, .rc, 0⟩]⟩
  , ⟨"TIDE_ERRCNT1", 0x68, 0x0, 1, 0x0, 1, [⟨"REJECT", 0, 16, .rc, 0⟩, ⟨"LATE", 16, 16, .rc, 0⟩, ⟨"JUMP", 32, 16, .rc, 0⟩, ⟨"DUAL", 48, 16, .rc, 0⟩]⟩
  , ⟨"TIDE_SLACK", 0x70, 0x0, 1, 0x0, 1, [⟨"SLACK", 0, 32, .ro, 0⟩, ⟨"OVERRUN_STREAMS", 32, 16, .ro, 0⟩]⟩
  , ⟨"TIDE_LINK", 0x100, 0x8, 16, 0x0, 1, [⟨"DELAY", 0, 24, .ro, 0⟩, ⟨"VALID", 24, 1, .ro, 0⟩, ⟨"NBR_SKEW", 32, 32, .ro, 0⟩]⟩ ]

/-- The TSQ_ registers (R98). -/
def rowsTSQ : List RegRow :=
  [ ⟨"TSQ_CTL", 0x0, 0x0, 1, 0x0, 1, [⟨"START", 0, 8, .w1s, 0⟩, ⟨"HALT", 8, 8, .w1s, 0⟩, ⟨"RESUME", 16, 8, .w1s, 0⟩, ⟨"STEP", 24, 1, .rw, 0⟩, ⟨"UNFREEZE", 25, 1, .w1s, 0⟩, ⟨"AUDIT_EN", 32, 1, .rw, 0⟩, ⟨"CFG_ERR", 33, 1, .w1c, 0⟩]⟩
  , ⟨"TSQ_STREAM_START", 0x100, 0x80, 8, 0x0, 1, [⟨"PC", 0, 23, .rw, 0⟩]⟩
  , ⟨"TSQ_STREAM_CFG", 0x108, 0x80, 8, 0x0, 1, [⟨"VXE", 0, 2, .rw, 0⟩, ⟨"WAIT_TMO", 16, 16, .rw, 0⟩, ⟨"SLIP_LIMIT", 32, 32, .rw, 0⟩]⟩
  , ⟨"TSQ_STREAM_STATUS", 0x110, 0x80, 8, 0x0, 1, [⟨"STATE", 0, 4, .ro, 0⟩, ⟨"LOOP_DEPTH", 4, 3, .ro, 0⟩, ⟨"PC", 8, 23, .ro, 0⟩, ⟨"WAIT_TOKEN", 32, 12, .ro, 0⟩, ⟨"HALT_REASON", 44, 4, .ro, 0⟩]⟩
  , ⟨"TSQ_STREAM_ICOUNT", 0x118, 0x80, 8, 0x0, 1, [⟨"ICOUNT", 0, 48, .ro, 0⟩]⟩
  , ⟨"TSQ_STREAM_BRK_COUNT", 0x120, 0x80, 8, 0x0, 1, [⟨"COUNT", 0, 48, .rw, 0⟩]⟩
  , ⟨"TSQ_STREAM_BRK_TAG", 0x128, 0x80, 8, 0x0, 1, [⟨"VALUE", 0, 8, .rw, 0⟩, ⟨"MASK", 8, 8, .rw, 0⟩, ⟨"EN", 16, 1, .rw, 0⟩]⟩
  , ⟨"TSQ_STREAM_SLIP", 0x130, 0x80, 8, 0x0, 1, [⟨"SLIP", 0, 32, .ro, 0⟩, ⟨"SLIP_TOTAL", 32, 32, .ro, 0⟩]⟩
  , ⟨"TSQ_STREAM_FRAME", 0x138, 0x80, 8, 0x0, 1, [⟨"TARGET", 0, 48, .ro, 0⟩, ⟨"OPEN", 48, 1, .ro, 0⟩]⟩
  , ⟨"TSQ_STREAM_LATE", 0x140, 0x80, 8, 0x0, 1, [⟨"LATE_OPENS", 0, 16, .ro, 0⟩]⟩
  , ⟨"TSQ_EVCNT_SEL", 0x600, 0x10, 8, 0x0, 1, [⟨"SEL", 0, 8, .rw, 0⟩, ⟨"STREAM", 8, 3, .rw, 0⟩, ⟨"FILT", 11, 1, .rw, 0⟩, ⟨"FROZEN", 12, 1, .ro, 0⟩]⟩
  , ⟨"TSQ_EVCNT_VALUE", 0x608, 0x10, 8, 0x0, 1, [⟨"VALUE", 0, 48, .rw, 0⟩]⟩
  , ⟨"TSQ_CMP_CTL", 0x700, 0x10, 4, 0x0, 1, [⟨"SRC", 0, 4, .rw, 0⟩, ⟨"COND", 4, 1, .rw, 0⟩, ⟨"LOG", 5, 1, .rw, 0⟩, ⟨"FREEZE", 6, 1, .rw, 0⟩, ⟨"BRK_STREAMS", 8, 8, .rw, 0⟩, ⟨"ARMED", 16, 1, .rw, 0⟩, ⟨"FIRED", 17, 1, .w1c, 0⟩]⟩
  , ⟨"TSQ_CMP_VALUE", 0x708, 0x10, 4, 0x0, 1, [⟨"VALUE", 0, 48, .rw, 0⟩]⟩
  , ⟨"TSQ_AUDIT_CNT", 0x800, 0x0, 1, 0x0, 1, [⟨"RECORDS", 0, 32, .rc, 0⟩, ⟨"DROPPED", 32, 32, .rc, 0⟩]⟩
  , ⟨"TSQ_QDEPTH", 0x808, 0x0, 1, 0x0, 1, [⟨"MXA", 0, 5, .ro, 0⟩, ⟨"LXE", 8, 6, .ro, 0⟩, ⟨"POST", 16, 6, .ro, 0⟩]⟩
  , ⟨"TSQ_SREG", 0x1000, 0x100, 8, 0x8, 32, [⟨"VALUE", 0, 64, .rw, 0⟩]⟩
  , ⟨"TSQ_TOKEN", 0x2000, 0x8, 4096, 0x0, 1, [⟨"COUNT", 0, 16, .rw, 0⟩, ⟨"FLAGS", 16, 8, .rw, 0⟩]⟩ ]

/-- The MXA_ registers (R136). -/
def rowsMXA : List RegRow :=
  [ ⟨"MXA_CTL", 0x0, 0x0, 1, 0x0, 1, [⟨"RAMP_LEN", 0, 8, .rw, 48⟩]⟩
  , ⟨"MXA_STATUS", 0x8, 0x0, 1, 0x0, 1, [⟨"BUSY", 0, 1, .ro, 0⟩, ⟨"STAT_VALID", 1, 1, .ro, 0⟩, ⟨"CONT_HELD", 2, 1, .ro, 0⟩, ⟨"CFG_ERR", 8, 1, .w1c, 0⟩, ⟨"NV", 9, 1, .w1c, 0⟩, ⟨"OF", 10, 1, .w1c, 0⟩, ⟨"INT_WRAP", 11, 1, .w1c, 0⟩, ⟨"MX_NAN", 12, 1, .w1c, 0⟩, ⟨"MP_NONFINITE", 13, 1, .w1c, 0⟩, ⟨"POISON", 14, 1, .w1c, 0⟩, ⟨"REJECT", 15, 1, .w1c, 0⟩]⟩
  , ⟨"MXA_REJECT", 0x10, 0x0, 1, 0x0, 1, [⟨"REASON", 0, 4, .ro, 0⟩, ⟨"OP", 8, 8, .ro, 0⟩, ⟨"TOKEN", 16, 12, .ro, 0⟩, ⟨"COUNT", 32, 32, .rc, 0⟩]⟩
  , ⟨"MXA_CNT_CMDS", 0x20, 0x0, 1, 0x0, 1, [⟨"VALUE", 0, 64, .rc, 0⟩]⟩
  , ⟨"MXA_CNT_STREAM_AC", 0x28, 0x0, 1, 0x0, 1, [⟨"VALUE", 0, 64, .rc, 0⟩]⟩
  , ⟨"MXA_CNT_LOAD_AC", 0x30, 0x0, 1, 0x0, 1, [⟨"VALUE", 0, 64, .rc, 0⟩]⟩
  , ⟨"MXA_CNT_STALL_TM", 0x38, 0x0, 1, 0x0, 1, [⟨"VALUE", 0, 64, .rc, 0⟩]⟩
  , ⟨"MXA_CNT_STALL_FTQ", 0x40, 0x0, 1, 0x0, 1, [⟨"VALUE", 0, 64, .rc, 0⟩]⟩
  , ⟨"MXA_CNT_PACKETS", 0x48, 0x0, 1, 0x0, 1, [⟨"VALUE", 0, 64, .rc, 0⟩]⟩ ]

/-- The VXE_ registers (R178). -/
def rowsVXE : List RegRow :=
  [ ⟨"VXE_CENSUS_CTL", 0x0, 0x0, 1, 0x0, 1, [⟨"EN", 0, 1, .rw, 1⟩]⟩
  , ⟨"VXE_CENSUS_TIDE", 0x8, 0x0, 1, 0x0, 1, [⟨"TIDE", 0, 48, .ro, 0⟩]⟩
  , ⟨"VXE_CENSUS_CONV", 0x100, 0x20, 10, 0x0, 1, [⟨"CONV", 0, 48, .ro, 0⟩]⟩
  , ⟨"VXE_CENSUS_SAT", 0x108, 0x20, 10, 0x0, 1, [⟨"SAT", 0, 48, .ro, 0⟩]⟩
  , ⟨"VXE_CENSUS_VANISH", 0x110, 0x20, 10, 0x0, 1, [⟨"VANISH", 0, 48, .ro, 0⟩]⟩
  , ⟨"VXE_STATUS", 0x1000, 0x1000, 2, 0x0, 1, [⟨"NV", 0, 1, .w1c, 0⟩, ⟨"DZ", 1, 1, .w1c, 0⟩, ⟨"OF", 2, 1, .w1c, 0⟩, ⟨"UF", 3, 1, .w1c, 0⟩, ⟨"NX", 4, 1, .w1c, 0⟩, ⟨"OOR_LANE", 5, 1, .w1c, 0⟩, ⟨"EMPTY", 6, 1, .w1c, 0⟩, ⟨"SAT", 7, 1, .w1c, 0⟩, ⟨"MEM_FAULT", 8, 1, .w1c, 0⟩, ⟨"POISON", 9, 1, .w1c, 0⟩, ⟨"POISON_ESCAPE", 10, 1, .w1c, 0⟩, ⟨"LINK_OVERRUN", 11, 1, .w1c, 0⟩, ⟨"LINK_UNDERRUN", 12, 1, .w1c, 0⟩, ⟨"LINK_DROP", 13, 1, .w1c, 0⟩]⟩
  , ⟨"VXE_VL", 0x1008, 0x1000, 2, 0x0, 1, [⟨"VL", 0, 9, .ro, 256⟩]⟩
  , ⟨"VXE_LINK", 0x1020, 0x1000, 2, 0x0, 1, [⟨"TOKEN", 0, 12, .rw, 0⟩, ⟨"TOK_EN", 12, 1, .rw, 0⟩, ⟨"DEPTH", 16, 3, .ro, 0⟩]⟩
  , ⟨"VXE_FAULT_INFO", 0x1028, 0x1000, 2, 0x0, 1, [⟨"VALID", 0, 1, .w1c, 0⟩, ⟨"KIND", 1, 2, .ro, 0⟩, ⟨"STREAM", 4, 3, .ro, 0⟩, ⟨"OP", 8, 8, .ro, 0⟩, ⟨"ELEMENT", 16, 10, .ro, 0⟩, ⟨"PC", 32, 23, .ro, 0⟩]⟩
  , ⟨"VXE_FAULT_ADDR", 0x1030, 0x1000, 2, 0x0, 1, [⟨"ADDR", 0, 64, .ro, 0⟩]⟩
  , ⟨"VXE_FAULT_CNT", 0x1038, 0x1000, 2, 0x0, 1, [⟨"ELEMENTS", 0, 32, .rc, 0⟩, ⟨"INSNS", 32, 32, .rc, 0⟩]⟩
  , ⟨"VXE_POISON_CNT", 0x1040, 0x1000, 2, 0x0, 1, [⟨"IN", 0, 32, .rc, 0⟩, ⟨"ESCAPES", 32, 32, .rc, 0⟩]⟩
  , ⟨"VXE_CARRY", 0x1010, 0x1000, 2, 0x8, 2, [⟨"VALUE", 0, 32, .ro, 0⟩, ⟨"POISON", 32, 1, .ro, 0⟩]⟩ ]

/-- The FTQ_ registers (R179). -/
def rowsFTQ : List RegRow :=
  [ ⟨"FTQ_CTL", 0x0, 0x0, 1, 0x0, 1, [⟨"CONSUMER", 0, 2, .rw, 0⟩, ⟨"PKT_TOK_EN", 2, 1, .rw, 0⟩, ⟨"PKT_TOKEN0", 16, 12, .rw, 0⟩, ⟨"PKT_TOKEN1", 32, 12, .rw, 0⟩]⟩
  , ⟨"FTQ_STATUS", 0x8, 0x0, 1, 0x0, 1, [⟨"BANK0", 0, 2, .ro, 0⟩, ⟨"BANK1", 2, 2, .ro, 0⟩, ⟨"NEXT_FILL", 4, 1, .ro, 0⟩, ⟨"CFG_ERR", 8, 1, .w1c, 0⟩, ⟨"UNDERRUN", 9, 1, .w1c, 0⟩, ⟨"PARITY", 10, 1, .w1c, 0⟩, ⟨"POISON", 11, 1, .w1c, 0⟩]⟩
  , ⟨"FTQ_BANK", 0x10, 0x8, 2, 0x0, 1, [⟨"SEQ", 0, 32, .ro, 0⟩, ⟨"LEN", 32, 16, .ro, 0⟩, ⟨"POS", 48, 16, .ro, 0⟩]⟩
  , ⟨"FTQ_CNT_PACKETS", 0x20, 0x0, 1, 0x0, 1, [⟨"VALUE", 0, 64, .rc, 0⟩]⟩
  , ⟨"FTQ_CNT_DROPS", 0x28, 0x0, 1, 0x0, 1, [⟨"VALUE", 0, 64, .rc, 0⟩]⟩
  , ⟨"FTQ_CNT_PARITY", 0x30, 0x0, 1, 0x0, 1, [⟨"VALUE", 0, 64, .rc, 0⟩]⟩
  , ⟨"FTQ_CNT_UNDERRUN", 0x38, 0x0, 1, 0x0, 1, [⟨"VALUE", 0, 64, .rc, 0⟩]⟩ ]

/-- The SFU_ registers (R206). -/
def rowsSFU : List RegRow :=
  [ ⟨"SFU_CTL", 0x0, 0x0, 1, 0x0, 1, [⟨"T2_COMPAT", 0, 1, .rw, 0⟩]⟩
  , ⟨"SFU_STATUS", 0x8, 0x0, 1, 0x0, 1, [⟨"ACTIVE", 0, 1, .ro, 0⟩, ⟨"ARMED", 1, 1, .ro, 0⟩, ⟨"REARM", 8, 1, .w1c, 0⟩, ⟨"BAD_PROGRAM", 9, 1, .w1c, 0⟩, ⟨"TABLE_ECC", 10, 1, .w1c, 0⟩, ⟨"BAD_SLOT", 16, 5, .ro, 0⟩]⟩
  , ⟨"SFU_SWAP", 0x10, 0x0, 1, 0x0, 1, [⟨"TOKEN", 0, 12, .rw, 0⟩, ⟨"N", 16, 16, .rw, 0⟩, ⟨"ARM", 32, 1, .w1s, 0⟩, ⟨"DISARM", 33, 1, .w1s, 0⟩]⟩
  , ⟨"SFU_CNT_SWAPS", 0x18, 0x0, 1, 0x0, 1, [⟨"VALUE", 0, 64, .rc, 0⟩]⟩
  , ⟨"SFU_CNT_RESULTS", 0x20, 0x0, 1, 0x0, 1, [⟨"VALUE", 0, 64, .rc, 0⟩]⟩
  , ⟨"SFU_ROM_ID", 0x28, 0x0, 1, 0x0, 1, [⟨"BUILTIN_VER", 0, 16, .ro, 263⟩, ⟨"T2_VER", 16, 16, .ro, 515⟩]⟩ ]

/-- The SPE_ registers (R237). -/
def rowsSPE : List RegRow :=
  [ ⟨"SPE_CTL", 0x0, 0x0, 1, 0x0, 1, [⟨"THRESH", 0, 16, .rw, 64⟩]⟩
  , ⟨"SPE_STATUS", 0x8, 0x0, 1, 0x0, 1, [⟨"BUSY", 0, 1, .ro, 0⟩, ⟨"REJECT", 8, 1, .w1c, 0⟩, ⟨"MALFORMED_24", 9, 1, .w1c, 0⟩, ⟨"OOR_INDEX", 10, 1, .w1c, 0⟩, ⟨"DUP_INDEX", 11, 1, .w1c, 0⟩, ⟨"BAD_PTR", 12, 1, .w1c, 0⟩, ⟨"OUT_FULL", 13, 1, .w1c, 0⟩, ⟨"SPILL_FULL", 14, 1, .w1c, 0⟩, ⟨"POISON", 15, 1, .w1c, 0⟩, ⟨"NV", 16, 1, .w1c, 0⟩, ⟨"OF", 17, 1, .w1c, 0⟩, ⟨"HARROW_NAN", 18, 1, .w1c, 0⟩]⟩
  , ⟨"SPE_REJECT", 0x10, 0x0, 1, 0x0, 1, [⟨"REASON", 0, 4, .ro, 0⟩, ⟨"OP", 8, 8, .ro, 0⟩, ⟨"TOKEN", 16, 12, .ro, 0⟩, ⟨"COUNT", 32, 32, .rc, 0⟩]⟩
  , ⟨"SPE_OOR_INFO", 0x18, 0x0, 1, 0x0, 1, [⟨"VALID", 0, 1, .w1c, 0⟩, ⟨"KIND", 1, 3, .ro, 0⟩, ⟨"OP", 8, 8, .ro, 0⟩, ⟨"TOKEN", 16, 12, .ro, 0⟩, ⟨"INDEX", 32, 32, .ro, 0⟩]⟩
  , ⟨"SPE_QDEPTH", 0x20, 0x0, 1, 0x0, 1, [⟨"DEPTH", 0, 5, .ro, 0⟩]⟩
  , ⟨"SPE_CNT_ABSENT", 0x40, 0x0, 1, 0x0, 1, [⟨"VALUE", 0, 64, .rc, 0⟩]⟩
  , ⟨"SPE_CNT_ARRAY", 0x48, 0x0, 1, 0x0, 1, [⟨"VALUE", 0, 64, .rc, 0⟩]⟩
  , ⟨"SPE_CNT_GRID", 0x50, 0x0, 1, 0x0, 1, [⟨"VALUE", 0, 64, .rc, 0⟩]⟩
  , ⟨"SPE_CNT_MATCH", 0x58, 0x0, 1, 0x0, 1, [⟨"VALUE", 0, 64, .rc, 0⟩]⟩
  , ⟨"SPE_CNT_MALFORMED", 0x60, 0x0, 1, 0x0, 1, [⟨"VALUE", 0, 64, .rc, 0⟩]⟩
  , ⟨"SPE_CNT_OOR", 0x68, 0x0, 1, 0x0, 1, [⟨"VALUE", 0, 64, .rc, 0⟩]⟩
  , ⟨"SPE_CNT_DUP", 0x70, 0x0, 1, 0x0, 1, [⟨"VALUE", 0, 64, .rc, 0⟩]⟩
  , ⟨"SPE_CNT_BADPTR", 0x78, 0x0, 1, 0x0, 1, [⟨"VALUE", 0, 64, .rc, 0⟩]⟩
  , ⟨"SPE_CNT_PRODUCTS", 0x80, 0x0, 1, 0x0, 1, [⟨"VALUE", 0, 64, .rc, 0⟩]⟩
  , ⟨"SPE_CNT_PARTIALS", 0x88, 0x0, 1, 0x0, 1, [⟨"VALUE", 0, 64, .rc, 0⟩]⟩
  , ⟨"SPE_CNT_PASSES", 0x90, 0x0, 1, 0x0, 1, [⟨"VALUE", 0, 64, .rc, 0⟩]⟩
  , ⟨"SPE_CNT_HARROW_BLOCKS", 0x98, 0x0, 1, 0x0, 1, [⟨"VALUE", 0, 64, .rc, 0⟩]⟩
  , ⟨"SPE_CNT_HARROW_MARKED", 0xA0, 0x0, 1, 0x0, 1, [⟨"VALUE", 0, 64, .rc, 0⟩]⟩ ]

/-- The LXE_ registers (R265). -/
def rowsLXE : List RegRow :=
  [ ⟨"LXE_CTL", 0x0, 0x0, 1, 0x0, 1, [⟨"STAGE_BASE", 0, 11, .rw, 0⟩, ⟨"STAGE_SIZE", 16, 11, .rw, 0⟩]⟩
  , ⟨"LXE_STATUS", 0x8, 0x0, 1, 0x0, 1, [⟨"BUSY", 0, 1, .ro, 0⟩, ⟨"CFG_ERR", 8, 1, .w1c, 0⟩, ⟨"REJECT", 9, 1, .w1c, 0⟩, ⟨"IDX", 10, 1, .w1c, 0⟩, ⟨"ACCESS_ERR", 11, 1, .w1c, 0⟩, ⟨"POISON", 12, 1, .w1c, 0⟩, ⟨"NV", 13, 1, .w1c, 0⟩, ⟨"OF", 14, 1, .w1c, 0⟩, ⟨"SAT", 15, 1, .w1c, 0⟩, ⟨"ACC_WRAP", 16, 1, .w1c, 0⟩, ⟨"ERI_SAT", 17, 1, .w1c, 0⟩, ⟨"SAT64", 18, 1, .w1c, 0⟩, ⟨"NONFINITE64", 19, 1, .w1c, 0⟩]⟩
  , ⟨"LXE_REJECT", 0x10, 0x0, 1, 0x0, 1, [⟨"REASON", 0, 4, .ro, 0⟩, ⟨"OP", 8, 8, .ro, 0⟩, ⟨"TOKEN", 16, 12, .ro, 0⟩, ⟨"COUNT", 32, 32, .rc, 0⟩]⟩
  , ⟨"LXE_IDX_INFO", 0x18, 0x0, 1, 0x0, 1, [⟨"VALID", 0, 1, .w1c, 0⟩, ⟨"KIND", 1, 2, .ro, 0⟩, ⟨"OP", 8, 8, .ro, 0⟩, ⟨"TOKEN", 16, 12, .ro, 0⟩, ⟨"INDEX", 32, 32, .ro, 0⟩]⟩
  , ⟨"LXE_CNT_CMDS", 0x40, 0x0, 1, 0x0, 1, [⟨"VALUE", 0, 64, .rc, 0⟩]⟩
  , ⟨"LXE_CNT_BYTES_RD", 0x48, 0x0, 1, 0x0, 1, [⟨"VALUE", 0, 64, .rc, 0⟩]⟩
  , ⟨"LXE_CNT_BYTES_WR", 0x50, 0x0, 1, 0x0, 1, [⟨"VALUE", 0, 64, .rc, 0⟩]⟩
  , ⟨"LXE_CNT_IDX_NEG", 0x58, 0x0, 1, 0x0, 1, [⟨"VALUE", 0, 64, .rc, 0⟩]⟩
  , ⟨"LXE_CNT_IDX_OOR", 0x60, 0x0, 1, 0x0, 1, [⟨"VALUE", 0, 64, .rc, 0⟩]⟩
  , ⟨"LXE_CNT_IDX_COALESCED", 0x68, 0x0, 1, 0x0, 1, [⟨"VALUE", 0, 64, .rc, 0⟩]⟩
  , ⟨"LXE_CNT_PRUNE_DROP", 0x70, 0x0, 1, 0x0, 1, [⟨"VALUE", 0, 64, .rc, 0⟩]⟩
  , ⟨"LXE_CNT_STAGED", 0x78, 0x0, 1, 0x0, 1, [⟨"VALUE", 0, 64, .rc, 0⟩]⟩
  , ⟨"LXE_CNT_ACCESS_ERR", 0x80, 0x0, 1, 0x0, 1, [⟨"VALUE", 0, 64, .rc, 0⟩]⟩
  , ⟨"LXE_CNT_SAT64", 0x88, 0x0, 1, 0x0, 1, [⟨"VALUE", 0, 64, .rc, 0⟩]⟩
  , ⟨"LXE_CNT_POISON", 0x90, 0x0, 1, 0x0, 1, [⟨"VALUE", 0, 64, .rc, 0⟩]⟩
  , ⟨"LXE_CNT_STALL_TM", 0x98, 0x0, 1, 0x0, 1, [⟨"VALUE", 0, 64, .rc, 0⟩]⟩ ]

/-- The MEM_ registers (R290). -/
def rowsMEM : List RegRow :=
  [ ⟨"MEM_CTL", 0x0, 0x0, 1, 0x0, 1, [⟨"SCRUB_NEAR_EN", 0, 1, .rw, 1⟩, ⟨"SCRUB_DEEP_EN", 1, 1, .rw, 1⟩, ⟨"SCRUB_TILE_EN", 2, 1, .rw, 1⟩, ⟨"CE_WB_EN", 3, 1, .rw, 1⟩, ⟨"CE_LOG_THRESH", 16, 16, .rw, 16⟩]⟩
  , ⟨"MEM_SCRUB", 0x8, 0x0, 1, 0x0, 1, [⟨"NEAR_HOURS", 0, 14, .rw, 24⟩, ⟨"DEEP_HOURS", 16, 14, .rw, 24⟩, ⟨"TILE_MS", 32, 16, .rw, 1000⟩]⟩
  , ⟨"MEM_STATUS", 0x10, 0x0, 1, 0x0, 1, [⟨"CFG_ERR", 0, 1, .w1c, 0⟩, ⟨"CE_TILE", 1, 1, .w1c, 0⟩, ⟨"UE_TILE", 2, 1, .w1c, 0⟩, ⟨"CE_NEAR", 3, 1, .w1c, 0⟩, ⟨"UE_NEAR", 4, 1, .w1c, 0⟩, ⟨"CE_DEEP", 5, 1, .w1c, 0⟩, ⟨"UE_DEEP", 6, 1, .w1c, 0⟩, ⟨"POISON_RD", 7, 1, .w1c, 0⟩, ⟨"UNMAPPED", 8, 1, .w1c, 0⟩, ⟨"SCRUB_UE", 9, 1, .w1c, 0⟩, ⟨"SCRUB_LAG", 10, 1, .w1c, 0⟩]⟩
  , ⟨"MEM_ERR_INFO", 0x18, 0x0, 1, 0x0, 1, [⟨"VALID", 0, 1, .w1c, 0⟩, ⟨"TIER", 1, 2, .ro, 0⟩, ⟨"KIND", 3, 2, .ro, 0⟩, ⟨"SOURCE", 8, 16, .ro, 0⟩]⟩
  , ⟨"MEM_ERR_ADDR", 0x20, 0x0, 1, 0x0, 1, [⟨"OFFSET", 0, 48, .ro, 0⟩, ⟨"REQ_DEV", 48, 16, .ro, 0⟩]⟩
  , ⟨"MEM_CAP", 0x28, 0x0, 1, 0x0, 1, [⟨"NEAR_GB", 0, 16, .ro, 576⟩, ⟨"DEEP_GB", 16, 16, .ro, 640⟩, ⟨"STACKS", 32, 8, .ro, 12⟩, ⟨"PKGS", 40, 8, .ro, 20⟩]⟩
  , ⟨"MEM_SCRUB_POS_NEAR", 0x30, 0x0, 1, 0x0, 1, [⟨"OFFSET", 0, 48, .ro, 0⟩]⟩
  , ⟨"MEM_SCRUB_POS_DEEP", 0x38, 0x0, 1, 0x0, 1, [⟨"OFFSET", 0, 48, .ro, 0⟩]⟩
  , ⟨"MEM_CNT_CE_TILE", 0x40, 0x0, 1, 0x0, 1, [⟨"VALUE", 0, 64, .rc, 0⟩]⟩
  , ⟨"MEM_CNT_UE_TILE", 0x48, 0x0, 1, 0x0, 1, [⟨"VALUE", 0, 64, .rc, 0⟩]⟩
  , ⟨"MEM_CNT_CE_NEAR", 0x50, 0x0, 1, 0x0, 1, [⟨"VALUE", 0, 64, .rc, 0⟩]⟩
  , ⟨"MEM_CNT_UE_NEAR", 0x58, 0x0, 1, 0x0, 1, [⟨"VALUE", 0, 64, .rc, 0⟩]⟩
  , ⟨"MEM_CNT_CE_DEEP", 0x60, 0x0, 1, 0x0, 1, [⟨"VALUE", 0, 64, .rc, 0⟩]⟩
  , ⟨"MEM_CNT_UE_DEEP", 0x68, 0x0, 1, 0x0, 1, [⟨"VALUE", 0, 64, .rc, 0⟩]⟩
  , ⟨"MEM_CNT_POISON_RD", 0x70, 0x0, 1, 0x0, 1, [⟨"VALUE", 0, 64, .rc, 0⟩]⟩
  , ⟨"MEM_CNT_POISON_WR", 0x78, 0x0, 1, 0x0, 1, [⟨"VALUE", 0, 64, .rc, 0⟩]⟩
  , ⟨"MEM_CNT_UNMAPPED", 0x80, 0x0, 1, 0x0, 1, [⟨"VALUE", 0, 64, .rc, 0⟩]⟩
  , ⟨"MEM_CNT_SCRUB_NEAR", 0x88, 0x0, 1, 0x0, 1, [⟨"VALUE", 0, 64, .rc, 0⟩]⟩
  , ⟨"MEM_CNT_SCRUB_DEEP", 0x90, 0x0, 1, 0x0, 1, [⟨"VALUE", 0, 64, .rc, 0⟩]⟩
  , ⟨"MEM_CNT_SCRUB_UE", 0x98, 0x0, 1, 0x0, 1, [⟨"VALUE", 0, 64, .rc, 0⟩]⟩
  , ⟨"MEM_DEV_ERR", 0x100, 0x8, 32, 0x0, 1, [⟨"CE", 0, 32, .rc, 0⟩, ⟨"UE", 32, 32, .rc, 0⟩]⟩ ]

/-- The FAB_ registers (R328). -/
def rowsFAB : List RegRow :=
  [ ⟨"FAB_ID", 0x0, 0x0, 1, 0x0, 1, [⟨"ID", 0, 16, .rw, 0⟩, ⟨"VALID", 16, 1, .rw, 0⟩]⟩
  , ⟨"FAB_CTL", 0x8, 0x0, 1, 0x0, 1, [⟨"REQ_TMO", 0, 16, .rw, 100⟩, ⟨"HOP_MAX", 16, 4, .rw, 12⟩]⟩
  , ⟨"FAB_STATUS", 0x10, 0x0, 1, 0x0, 1, [⟨"CFG_ERR", 0, 1, .w1c, 0⟩, ⟨"NO_ROUTE", 1, 1, .w1c, 0⟩, ⟨"HOP_LIMIT", 2, 1, .w1c, 0⟩, ⟨"REQ_TIMEOUT", 3, 1, .w1c, 0⟩, ⟨"LATE_RSP", 4, 1, .w1c, 0⟩, ⟨"LINK_DOWN", 5, 1, .w1c, 0⟩, ⟨"NAK_RX", 6, 1, .w1c, 0⟩, ⟨"POISON_RX", 7, 1, .w1c, 0⟩, ⟨"OUTSTANDING", 16, 32, .ro, 0⟩]⟩
  , ⟨"FAB_CNT_RX_LOCAL", 0x40, 0x0, 1, 0x0, 1, [⟨"VALUE", 0, 64, .rc, 0⟩]⟩
  , ⟨"FAB_CNT_FWD", 0x48, 0x0, 1, 0x0, 1, [⟨"VALUE", 0, 64, .rc, 0⟩]⟩
  , ⟨"FAB_CNT_TX_LOCAL", 0x50, 0x0, 1, 0x0, 1, [⟨"VALUE", 0, 64, .rc, 0⟩]⟩
  , ⟨"FAB_CNT_DROP_NO_ROUTE", 0x58, 0x0, 1, 0x0, 1, [⟨"VALUE", 0, 64, .rc, 0⟩]⟩
  , ⟨"FAB_CNT_DROP_HOP", 0x60, 0x0, 1, 0x0, 1, [⟨"VALUE", 0, 64, .rc, 0⟩]⟩
  , ⟨"FAB_CNT_REQ_TIMEOUT", 0x68, 0x0, 1, 0x0, 1, [⟨"VALUE", 0, 64, .rc, 0⟩]⟩
  , ⟨"FAB_CNT_LATE_RSP", 0x70, 0x0, 1, 0x0, 1, [⟨"VALUE", 0, 64, .rc, 0⟩]⟩
  , ⟨"FAB_CNT_NAK_TX", 0x78, 0x0, 1, 0x0, 1, [⟨"VALUE", 0, 64, .rc, 0⟩]⟩
  , ⟨"FAB_CNT_NAK_RX", 0x80, 0x0, 1, 0x0, 1, [⟨"VALUE", 0, 64, .rc, 0⟩]⟩
  , ⟨"FAB_CNT_POISON_RX", 0x88, 0x0, 1, 0x0, 1, [⟨"VALUE", 0, 64, .rc, 0⟩]⟩
  , ⟨"FAB_PORT_CFG", 0x100, 0x40, 16, 0x0, 1, [⟨"EN", 0, 1, .rw, 0⟩, ⟨"SPLIT", 1, 1, .rw, 0⟩, ⟨"MEDIUM", 2, 1, .rw, 0⟩, ⟨"FEC", 3, 2, .rw, 0⟩, ⟨"AUTO_RETRAIN", 5, 1, .rw, 1⟩, ⟨"REPLAY_MAX", 8, 4, .rw, 8⟩]⟩
  , ⟨"FAB_PORT_STATUS", 0x108, 0x40, 16, 0x0, 1, [⟨"STATE0", 0, 3, .ro, 0⟩, ⟨"STATE1", 3, 3, .ro, 0⟩, ⟨"LANES_UP", 6, 8, .ro, 0⟩]⟩
  , ⟨"FAB_PORT_CNT_FEC", 0x110, 0x40, 16, 0x0, 1, [⟨"CORR", 0, 32, .rc, 0⟩, ⟨"UNCORR", 32, 32, .rc, 0⟩]⟩
  , ⟨"FAB_PORT_CNT_LINK", 0x118, 0x40, 16, 0x0, 1, [⟨"CRC_FAIL", 0, 32, .rc, 0⟩, ⟨"REPLAYS", 32, 32, .rc, 0⟩]⟩
  , ⟨"FAB_PORT_CNT_BYTES", 0x120, 0x40, 16, 0x0, 1, [⟨"TX", 0, 64, .rc, 0⟩]⟩
  , ⟨"FAB_PORT_CNT_DOWN", 0x128, 0x40, 16, 0x0, 1, [⟨"DOWNS", 0, 32, .rc, 0⟩]⟩
  , ⟨"FAB_MCRC_DATA8", 0x800, 0x0, 1, 0x0, 1, [⟨"DATA", 0, 8, .wo, 0⟩]⟩
  , ⟨"FAB_MCRC_DATA16", 0x808, 0x0, 1, 0x0, 1, [⟨"DATA", 0, 16, .wo, 0⟩]⟩
  , ⟨"FAB_MCRC_DATA32", 0x810, 0x0, 1, 0x0, 1, [⟨"DATA", 0, 32, .wo, 0⟩]⟩
  , ⟨"FAB_MCRC_INIT", 0x818, 0x0, 1, 0x0, 1, [⟨"ANY", 0, 32, .wo, 0⟩]⟩
  , ⟨"FAB_MCRC_VALUE", 0x820, 0x0, 1, 0x0, 1, [⟨"VALUE", 0, 32, .rw, 0xFFFFFFFF⟩]⟩
  , ⟨"FAB_MCRC_RESULT", 0x828, 0x0, 1, 0x0, 1, [⟨"RESULT", 0, 32, .ro, 0⟩]⟩
  , ⟨"FAB_ROUTE", 0x100000, 0x8, 32768, 0x0, 1, [⟨"PORT", 0, 4, .rw, 0⟩, ⟨"HALF", 4, 1, .rw, 0⟩, ⟨"VALID", 5, 1, .rw, 0⟩, ⟨"ALT_PORT", 6, 4, .rw, 0⟩, ⟨"ALT_HALF", 10, 1, .rw, 0⟩, ⟨"ALT_EN", 11, 1, .rw, 0⟩, ⟨"LAYER_UP", 12, 4, .rw, 0⟩, ⟨"PORT'", 32, 4, .rw, 0⟩, ⟨"HALF'", 36, 1, .rw, 0⟩, ⟨"VALID'", 37, 1, .rw, 0⟩, ⟨"ALT_PORT'", 38, 4, .rw, 0⟩, ⟨"ALT_HALF'", 42, 1, .rw, 0⟩, ⟨"ALT_EN'", 43, 1, .rw, 0⟩, ⟨"LAYER_UP'", 44, 4, .rw, 0⟩]⟩ ]

/-- The QUE_ registers (R329). -/
def rowsQUE : List RegRow :=
  [ ⟨"QUE_CTL", 0x0, 0x0, 1, 0x0, 1, [⟨"EN", 0, 1, .rw, 0⟩]⟩
  , ⟨"QUE_CTX_BASE", 0x8, 0x0, 1, 0x0, 1, [⟨"BASE", 0, 48, .rw, 0⟩]⟩
  , ⟨"QUE_STATUS", 0x10, 0x0, 1, 0x0, 1, [⟨"CFG_ERR", 0, 1, .w1c, 0⟩, ⟨"REJECT", 1, 1, .w1c, 0⟩, ⟨"QUEUE_ERROR", 2, 1, .w1c, 0⟩, ⟨"RX_REJECT", 3, 1, .w1c, 0⟩, ⟨"ACTIVE_QUEUES", 16, 17, .ro, 0⟩]⟩
  , ⟨"QUE_REJECT", 0x18, 0x0, 1, 0x0, 1, [⟨"REASON", 0, 4, .ro, 0⟩, ⟨"QID", 16, 16, .ro, 0⟩, ⟨"COUNT", 32, 32, .rc, 0⟩]⟩
  , ⟨"QUE_QCTL", 0x20, 0x0, 1, 0x0, 1, [⟨"QID", 0, 16, .wo, 0⟩, ⟨"CMD", 16, 2, .wo, 0⟩]⟩
  , ⟨"QUE_CNT_DESC_DONE", 0x40, 0x0, 1, 0x0, 1, [⟨"VALUE", 0, 64, .rc, 0⟩]⟩
  , ⟨"QUE_CNT_MSG_RX", 0x48, 0x0, 1, 0x0, 1, [⟨"VALUE", 0, 64, .rc, 0⟩]⟩
  , ⟨"QUE_CNT_RETRANSMITS", 0x50, 0x0, 1, 0x0, 1, [⟨"VALUE", 0, 64, .rc, 0⟩]⟩
  , ⟨"QUE_CNT_REPEATS", 0x58, 0x0, 1, 0x0, 1, [⟨"VALUE", 0, 64, .rc, 0⟩]⟩
  , ⟨"QUE_CNT_GAPS", 0x60, 0x0, 1, 0x0, 1, [⟨"VALUE", 0, 64, .rc, 0⟩]⟩
  , ⟨"QUE_CNT_CRC_FAIL", 0x68, 0x0, 1, 0x0, 1, [⟨"VALUE", 0, 64, .rc, 0⟩]⟩
  , ⟨"QUE_CNT_RX_REJECT", 0x70, 0x0, 1, 0x0, 1, [⟨"VALUE", 0, 64, .rc, 0⟩]⟩
  , ⟨"QUE_CNT_RESTARTS", 0x78, 0x0, 1, 0x0, 1, [⟨"VALUE", 0, 64, .rc, 0⟩]⟩
  , ⟨"QUE_CNT_CREDIT_WAIT", 0x80, 0x0, 1, 0x0, 1, [⟨"VALUE", 0, 64, .rc, 0⟩]⟩
  , ⟨"QUE_DB", 0x100000, 0x8, 65536, 0x0, 1, [⟨"INDEX", 0, 32, .wo, 0⟩]⟩ ]

/-- The GRE_ registers (R357). -/
def rowsGRE : List RegRow :=
  [ ⟨"GRE_CTL", 0x0, 0x0, 1, 0x0, 1, [⟨"EN", 0, 1, .rw, 0⟩, ⟨"STALL_TIDES", 8, 8, .rw, 64⟩]⟩
  , ⟨"GRE_STATUS", 0x8, 0x0, 1, 0x0, 1, [⟨"CFG_ERR", 0, 1, .w1c, 0⟩, ⟨"REJECT", 1, 1, .w1c, 0⟩, ⟨"SELF_LATE", 2, 1, .w1c, 0⟩, ⟨"RERUN", 3, 1, .w1c, 0⟩, ⟨"NONFINITE", 4, 1, .w1c, 0⟩, ⟨"POISON", 5, 1, .w1c, 0⟩, ⟨"MISMATCH", 6, 1, .w1c, 0⟩, ⟨"STALL", 7, 1, .w1c, 0⟩, ⟨"CHAN_ERROR", 8, 1, .w1c, 0⟩, ⟨"CARRY_FULL", 9, 1, .w1c, 0⟩, ⟨"OF", 10, 1, .w1c, 0⟩, ⟨"CARRY_MISMATCH", 11, 1, .w1c, 0⟩, ⟨"OUTSTANDING", 16, 11, .ro, 0⟩]⟩
  , ⟨"GRE_REJECT", 0x10, 0x0, 1, 0x0, 1, [⟨"REASON", 0, 4, .ro, 0⟩, ⟨"CHAN", 8, 8, .ro, 0⟩, ⟨"TOKEN", 16, 12, .ro, 0⟩, ⟨"COUNT", 32, 32, .rc, 0⟩]⟩
  , ⟨"GRE_ERR_INFO", 0x18, 0x0, 1, 0x0, 1, [⟨"VALID", 0, 1, .w1c, 0⟩, ⟨"KIND", 1, 2, .ro, 0⟩, ⟨"CHAN", 8, 8, .ro, 0⟩, ⟨"LINK", 16, 3, .ro, 0⟩, ⟨"SEQ", 32, 32, .ro, 0⟩]⟩
  , ⟨"GRE_CNT_BUCKETS", 0x40, 0x0, 1, 0x0, 1, [⟨"VALUE", 0, 64, .rc, 0⟩]⟩
  , ⟨"GRE_CNT_BLOCKS", 0x48, 0x0, 1, 0x0, 1, [⟨"VALUE", 0, 64, .rc, 0⟩]⟩
  , ⟨"GRE_CNT_BYTES_TX", 0x50, 0x0, 1, 0x0, 1, [⟨"VALUE", 0, 64, .rc, 0⟩]⟩
  , ⟨"GRE_CNT_SELF_LATE", 0x58, 0x0, 1, 0x0, 1, [⟨"VALUE", 0, 64, .rc, 0⟩]⟩
  , ⟨"GRE_CNT_CARRIED", 0x60, 0x0, 1, 0x0, 1, [⟨"VALUE", 0, 64, .rc, 0⟩]⟩
  , ⟨"GRE_CNT_DROPPED", 0x68, 0x0, 1, 0x0, 1, [⟨"VALUE", 0, 64, .rc, 0⟩]⟩
  , ⟨"GRE_CNT_CARRY_FULL", 0x70, 0x0, 1, 0x0, 1, [⟨"VALUE", 0, 64, .rc, 0⟩]⟩
  , ⟨"GRE_CNT_RERUN_BLOCKS", 0x78, 0x0, 1, 0x0, 1, [⟨"VALUE", 0, 64, .rc, 0⟩]⟩
  , ⟨"GRE_CNT_NF_BLOCKS", 0x80, 0x0, 1, 0x0, 1, [⟨"VALUE", 0, 64, .rc, 0⟩]⟩
  , ⟨"GRE_CNT_POISON", 0x88, 0x0, 1, 0x0, 1, [⟨"VALUE", 0, 64, .rc, 0⟩]⟩
  , ⟨"GRE_CNT_CARRY_MISMATCH", 0x90, 0x0, 1, 0x0, 1, [⟨"VALUE", 0, 64, .rc, 0⟩]⟩
  , ⟨"GRE_CHAN_CFG", 0x1000, 0x40, 256, 0x0, 1, [⟨"EN", 0, 1, .rw, 0⟩, ⟨"TOPO", 1, 2, .rw, 0⟩, ⟨"POLICY", 3, 1, .rw, 0⟩, ⟨"BITTERN", 4, 1, .rw, 0⟩, ⟨"CHILDREN", 5, 3, .rw, 0⟩, ⟨"MARGIN", 8, 4, .rw, 2⟩, ⟨"P", 16, 15, .rw, 1⟩, ⟨"POS", 32, 15, .rw, 0⟩, ⟨"ROOT_ID", 48, 16, .rw, 0⟩]⟩
  , ⟨"GRE_CHAN_LINK", 0x1008, 0x40, 256, 0x0, 1, [⟨"QBASE", 0, 10, .rw, 0⟩, ⟨"P_IN", 16, 15, .rw, 0⟩]⟩
  , ⟨"GRE_CHAN_INIT", 0x1010, 0x40, 256, 0x0, 1, [⟨"DEFAULT_E", 0, 16, .rw, 0⟩]⟩
  , ⟨"GRE_CHAN_SEQ", 0x1018, 0x40, 256, 0x0, 1, [⟨"NEXT_SEQ", 0, 32, .ro, 0⟩, ⟨"DONE_SEQ", 32, 32, .ro, 0⟩]⟩
  , ⟨"GRE_CHAN_STATE", 0x1020, 0x40, 256, 0x0, 1, [⟨"STATE", 0, 2, .ro, 0⟩, ⟨"ERR_KIND", 8, 8, .ro, 0⟩, ⟨"OUTSTANDING", 16, 7, .ro, 0⟩]⟩ ]

/-- The PWR_ registers (R402). -/
def rowsPWR : List RegRow :=
  [ ⟨"PWR_CTL", 0x0, 0x0, 1, 0x0, 1, [⟨"LEVEL_EN", 0, 1, .rw, 0⟩, ⟨"BUDGET_EN", 1, 1, .rw, 0⟩, ⟨"CAP", 16, 12, .rw, 2400⟩, ⟨"DROOP_MV", 32, 7, .rw, 30⟩, ⟨"JUNC_THROTTLE", 40, 8, .rw, 95⟩, ⟨"COOL_IN_MAX", 48, 8, .rw, 40⟩, ⟨"COOL_OUT_MAX", 56, 8, .rw, 60⟩]⟩
  , ⟨"PWR_HOST", 0x8, 0x0, 1, 0x0, 1, [⟨"FMAX", 0, 12, .rw, 3300⟩, ⟨"BRAKE", 16, 1, .ro, 0⟩]⟩
  , ⟨"PWR_STATUS", 0x10, 0x0, 1, 0x0, 1, [⟨"FREQ", 0, 12, .ro, 3300⟩, ⟨"CAP_EFF", 12, 12, .ro, 2400⟩, ⟨"REASONS", 24, 7, .ro, 0⟩, ⟨"CFG_ERR", 32, 1, .w1c, 0⟩, ⟨"CAL_RANGE", 33, 1, .w1c, 0⟩, ⟨"JUNC_CRIT", 34, 1, .w1c, 0⟩, ⟨"LEVEL_BREACH", 35, 1, .w1c, 0⟩, ⟨"MASTER_LOST", 36, 1, .w1c, 0⟩, ⟨"LATE_MOVE", 37, 1, .w1c, 0⟩]⟩
  , ⟨"PWR_POWER", 0x18, 0x0, 1, 0x0, 1, [⟨"P_EST", 0, 16, .ro, 0⟩, ⟨"P_MEAS", 16, 16, .ro, 0⟩, ⟨"TJ_MAX", 32, 8, .ro, 0⟩, ⟨"COOL_IN", 40, 8, .ro, 0⟩, ⟨"COOL_OUT", 48, 8, .ro, 0⟩]⟩
  , ⟨"PWR_STATE", 0x20, 0x0, 1, 0x0, 1, [⟨"NEXT", 0, 2, .rw, 0⟩, ⟨"CUR", 2, 2, .ro, 0⟩, ⟨"REFUSE", 4, 4, .ro, 0⟩, ⟨"REFUSED", 8, 1, .w1c, 0⟩, ⟨"WATCH_MS", 16, 14, .rw, 1000⟩]⟩
  , ⟨"PWR_WATCH_THR", 0x28, 0x0, 1, 0x0, 1, [⟨"JUNC_HI", 0, 8, .rw, 70⟩, ⟨"COOL_HI", 8, 8, .rw, 45⟩, ⟨"DB_EN", 16, 1, .rw, 1⟩, ⟨"HB_PORTS", 32, 16, .rw, 0⟩]⟩
  , ⟨"PWR_WAKE", 0x30, 0x0, 1, 0x0, 1, [⟨"TIDE", 0, 48, .ro, 0⟩, ⟨"CAUSE", 48, 4, .ro, 0⟩, ⟨"FROM", 52, 2, .ro, 0⟩, ⟨"DETAIL", 56, 8, .ro, 0⟩]⟩
  , ⟨"PWR_WAKE_MASK", 0x38, 0x0, 1, 0x0, 1, [⟨"SEEN", 0, 9, .ro, 0⟩, ⟨"ABORTED", 16, 1, .ro, 0⟩]⟩
  , ⟨"PWR_ENERGY_DEV", 0x40, 0x0, 1, 0x0, 1, [⟨"UJ", 0, 64, .ro, 0⟩]⟩
  , ⟨"PWR_ENERGY_DIE", 0x48, 0x8, 4, 0x0, 1, [⟨"UJ", 0, 64, .ro, 0⟩]⟩
  , ⟨"PWR_CAL", 0x68, 0x8, 4, 0x0, 1, [⟨"K", 0, 16, .ro, 0x4000⟩]⟩
  , ⟨"PWR_QENERGY", 0x88, 0x0, 1, 0x0, 1, [⟨"BASE", 0, 48, .rw, 0⟩, ⟨"EN", 63, 1, .rw, 0⟩]⟩
  , ⟨"PWR_THR_TIME", 0x100, 0x8, 8, 0x0, 1, [⟨"NS", 0, 64, .ro, 0⟩]⟩
  , ⟨"PWR_GRP_CTL", 0x200, 0x0, 1, 0x0, 1, [⟨"MASTER_ID", 0, 16, .rw, 0⟩, ⟨"INDEX", 16, 8, .rw, 0⟩, ⟨"IS_MASTER", 24, 1, .rw, 0⟩, ⟨"MOVE_LEAD", 32, 4, .rw, 3⟩, ⟨"MOVE_MAX", 40, 11, .rw, 100⟩, ⟨"MASTER_TMO", 56, 8, .rw, 16⟩]⟩
  , ⟨"PWR_GRP_CFG", 0x208, 0x0, 1, 0x0, 1, [⟨"MEMBERS", 0, 9, .rw, 1⟩, ⟨"SLACK_LO", 16, 10, .rw, 51⟩, ⟨"SLACK_HI", 32, 10, .rw, 205⟩]⟩
  , ⟨"PWR_GRP_BUDGET", 0x210, 0x0, 1, 0x0, 1, [⟨"BUDGET", 0, 20, .rw, 0⟩]⟩
  , ⟨"PWR_GRP_STATUS", 0x218, 0x0, 1, 0x0, 1, [⟨"ROUND", 0, 32, .ro, 0⟩, ⟨"DISCARDED", 32, 16, .rc, 0⟩]⟩
  , ⟨"PWR_GRP_MEMBER", 0x400, 0x8, 256, 0x0, 1, [⟨"DEVICE_ID", 0, 16, .rw, 0⟩, ⟨"VALID", 16, 1, .rw, 0⟩]⟩
  , ⟨"PWR_TILE_ENERGY", 0x1000, 0x8, 144, 0x0, 1, [⟨"UJ", 0, 64, .ro, 0⟩]⟩
  , ⟨"PWR_GRP_ACK", 0x4800, 0x8, 256, 0x0, 1, [⟨"ROUND", 0, 32, .rw, 0⟩, ⟨"CAP_EFF", 32, 12, .rw, 0⟩]⟩
  , ⟨"PWR_GRP_INBOX", 0x2000, 0x20, 256, 0x8, 4, [⟨"REPORT", 0, 64, .rw, 0⟩]⟩
  , ⟨"PWR_GRP_MOVE", 0x4000, 0x8, 4, 0x0, 1, [⟨"MOVE", 0, 64, .rw, 0⟩]⟩
  , ⟨"PWR_VF", 0x8000, 0x100, 4, 0x8, 22, [⟨"MV0", 0, 16, .ro, 0⟩, ⟨"MV1", 16, 16, .ro, 0⟩, ⟨"MV2", 32, 16, .ro, 0⟩, ⟨"MV3", 48, 16, .ro, 0⟩]⟩ ]

/-- The MBX_ registers (R408, R425). -/
def rowsMBX : List RegRow :=
  [ ⟨"MBX_CH_CTL", 0x800, 0x1000, 24, 0x0, 1, [⟨"SEND", 0, 1, .w1s, 0⟩, ⟨"TAKE", 1, 1, .w1s, 0⟩, ⟨"REPLY", 2, 1, .w1s, 0⟩, ⟨"RELEASE", 3, 1, .w1s, 0⟩]⟩
  , ⟨"MBX_CH_STATUS", 0x808, 0x1000, 24, 0x0, 1, [⟨"STATE", 0, 2, .ro, 0⟩, ⟨"SECURE", 8, 1, .ro, 0⟩, ⟨"RX_AGENT", 16, 4, .ro, 0⟩, ⟨"TX_AGENT", 24, 4, .ro, 0⟩, ⟨"OVERSEND", 32, 1, .w1c, 0⟩, ⟨"WRITE_IGNORED", 33, 1, .w1c, 0⟩]⟩
  , ⟨"MBX_CH_CNT", 0x810, 0x1000, 24, 0x0, 1, [⟨"SENT", 0, 32, .rc, 0⟩, ⟨"ABORTED", 32, 32, .rc, 0⟩]⟩
  , ⟨"MBX_DB", 0x20000, 0x10, 6, 0x0, 1, [⟨"BITS", 0, 32, .w1c, 0⟩]⟩
  , ⟨"MBX_DB_MASK", 0x20008, 0x10, 6, 0x0, 1, [⟨"MASK", 0, 32, .rw, 0xFFFFFFFF⟩]⟩
  , ⟨"MBX_HOST", 0x30000, 0x0, 1, 0x0, 1, [⟨"FW_READY", 0, 1, .ro, 0⟩, ⟨"RESET_DONE", 1, 1, .w1c, 0⟩, ⟨"LAST_RESET", 8, 4, .ro, 1⟩]⟩
  , ⟨"MBX_WIN", 0x30008, 0x0, 1, 0x0, 1, [⟨"BASE", 24, 24, .rw, 0x30000⟩]⟩
  , ⟨"MBX_BAR2", 0x30010, 0x0, 1, 0x0, 1, [⟨"BASE", 0, 64, .rw, 0⟩]⟩
  , ⟨"MBX_STATUS", 0x30018, 0x0, 1, 0x0, 1, [⟨"CFG_ERR", 0, 1, .w1c, 0⟩, ⟨"HOST_ERR", 1, 1, .w1c, 0⟩, ⟨"REG_WRITE_IN_JOB", 2, 1, .w1c, 0⟩]⟩
  , ⟨"MBX_CNT_HOST_ERR", 0x30020, 0x0, 1, 0x0, 1, [⟨"VALUE", 0, 64, .rc, 0⟩]⟩
  , ⟨"MBX_MSIX", 0xF00000, 0x10, 64, 0x8, 2, [⟨"ENTRY", 0, 64, .rw, 0⟩]⟩
  , ⟨"MBX_PBA", 0xF80000, 0x0, 1, 0x0, 1, [⟨"PENDING", 0, 64, .ro, 0⟩]⟩ ]

/-- The MGP_ registers (R447, R468). -/
def rowsMGP : List RegRow :=
  [ ⟨"MGP_BOOT", 0x1000, 0x0, 1, 0x0, 1, [⟨"SLOT", 0, 1, .ro, 0⟩, ⟨"TRIAL", 1, 2, .ro, 0⟩, ⟨"FALLBACK", 3, 1, .ro, 0⟩, ⟨"ROM_STATUS", 4, 4, .ro, 0⟩, ⟨"FAIL_STAGE", 8, 8, .ro, 0⟩, ⟨"FAIL_BLOCK", 16, 16, .ro, 0⟩]⟩
  , ⟨"MGP_TRIAL", 0x1008, 0x0, 1, 0x0, 1, [⟨"REMAIN_MS", 0, 17, .ro, 0⟩, ⟨"ARMED", 17, 1, .ro, 0⟩, ⟨"STOP", 18, 1, .w1s, 0⟩, ⟨"EXPIRED", 19, 1, .w1c, 0⟩]⟩
  , ⟨"MGP_MEAS", 0x1100, 0x40, 8, 0x8, 8, [⟨"VALUE", 0, 64, .ro, 0⟩]⟩
  , ⟨"MGP_MEAS_EXT_DATA", 0x1300, 0x8, 8, 0x0, 1, [⟨"DATA", 0, 64, .wo, 0⟩]⟩
  , ⟨"MGP_MEAS_EXT", 0x1340, 0x0, 1, 0x0, 1, [⟨"INDEX", 0, 3, .wo, 0⟩]⟩
  , ⟨"MGP_ATT_NONCE", 0x1400, 0x8, 8, 0x0, 1, [⟨"NONCE", 0, 64, .rw, 0⟩]⟩
  , ⟨"MGP_ATT_DEST", 0x1440, 0x0, 1, 0x0, 1, [⟨"DEST", 0, 64, .rw, 0⟩]⟩
  , ⟨"MGP_ATT_CTL", 0x1448, 0x0, 1, 0x0, 1, [⟨"GO", 0, 1, .w1s, 0⟩, ⟨"BUSY", 1, 1, .ro, 0⟩, ⟨"DONE", 2, 1, .w1c, 0⟩, ⟨"EXT_REFUSED", 3, 1, .w1c, 0⟩, ⟨"WRITE_ERR", 4, 1, .w1c, 0⟩, ⟨"SEQ", 32, 32, .ro, 0⟩]⟩
  , ⟨"MGP_IDKEY", 0x2000, 0x8, 324, 0x0, 1, [⟨"KEY", 0, 64, .ro, 0⟩]⟩
  , ⟨"MGP_WDT", 0x3000, 0x0, 1, 0x0, 1, [⟨"TIMEOUT_MS", 0, 16, .rw, 1000⟩, ⟨"EN", 16, 1, .rw, 0⟩, ⟨"KICK", 17, 1, .w1s, 0⟩, ⟨"EXPIRED", 18, 1, .w1c, 0⟩, ⟨"REMAIN_MS", 32, 16, .ro, 0⟩]⟩
  , ⟨"MGP_HB", 0x3008, 0x0, 1, 0x0, 1, [⟨"COUNT", 0, 32, .rw, 0⟩]⟩ ]

/-- The EVT_ registers (R468). -/
def rowsEVT : List RegRow :=
  [ ⟨"EVT_CTL", 0x0, 0x0, 1, 0x0, 1, [⟨"EN", 0, 1, .rw, 0⟩, ⟨"STOP_FULL", 1, 1, .rw, 0⟩, ⟨"LOG2", 16, 5, .rw, 16⟩]⟩
  , ⟨"EVT_RING_BASE", 0x8, 0x0, 1, 0x0, 1, [⟨"BASE", 0, 48, .rw, 0⟩]⟩
  , ⟨"EVT_WR", 0x10, 0x0, 1, 0x0, 1, [⟨"WR", 0, 32, .ro, 0⟩]⟩
  , ⟨"EVT_RD", 0x18, 0x0, 1, 0x0, 1, [⟨"RD", 0, 32, .rw, 0⟩]⟩
  , ⟨"EVT_STATUS", 0x20, 0x0, 1, 0x0, 1, [⟨"CFG_ERR", 0, 1, .w1c, 0⟩, ⟨"LOST", 1, 1, .w1c, 0⟩, ⟨"REPLAY_RUN", 2, 1, .ro, 0⟩]⟩
  , ⟨"EVT_SW_COMMIT", 0x60, 0x0, 1, 0x0, 1, [⟨"COMMIT", 0, 1, .w1s, 0⟩]⟩
  , ⟨"EVT_AUDIT", 0x80, 0x0, 1, 0x0, 1, [⟨"BASE", 0, 48, .rw, 0⟩, ⟨"LOG2", 48, 5, .rw, 12⟩]⟩
  , ⟨"EVT_AUDIT_WR", 0x88, 0x0, 1, 0x0, 1, [⟨"WR", 0, 32, .ro, 0⟩]⟩
  , ⟨"EVT_AUDIT_RD", 0x90, 0x0, 1, 0x0, 1, [⟨"RD", 0, 32, .rw, 0⟩]⟩
  , ⟨"EVT_CAP_CTL", 0x100, 0x0, 1, 0x0, 1, [⟨"CLASSES", 0, 7, .rw, 0⟩, ⟨"MODE", 7, 1, .rw, 0⟩, ⟨"EN", 8, 1, .rw, 0⟩, ⟨"TRIG_EN", 9, 1, .rw, 0⟩, ⟨"TRIG_CODE", 16, 16, .rw, 0⟩, ⟨"TRIG_DELAY", 32, 16, .rw, 0⟩]⟩
  , ⟨"EVT_CAP_BASE", 0x108, 0x0, 1, 0x0, 1, [⟨"BASE", 0, 48, .rw, 0⟩]⟩
  , ⟨"EVT_CAP_SIZE", 0x110, 0x0, 1, 0x0, 1, [⟨"SIZE", 0, 48, .rw, 0⟩]⟩
  , ⟨"EVT_CAP_WR", 0x118, 0x0, 1, 0x0, 1, [⟨"WR", 0, 48, .ro, 0⟩]⟩
  , ⟨"EVT_CAP_OLDEST", 0x120, 0x0, 1, 0x0, 1, [⟨"POS", 0, 48, .ro, 0⟩]⟩
  , ⟨"EVT_CAP_LOST", 0x130, 0x0, 1, 0x0, 1, [⟨"RECORDS", 0, 64, .rc, 0⟩]⟩
  , ⟨"EVT_REPLAY_BASE", 0x188, 0x0, 1, 0x0, 1, [⟨"BASE", 0, 48, .rw, 0⟩]⟩
  , ⟨"EVT_REPLAY_SIZE", 0x190, 0x0, 1, 0x0, 1, [⟨"SIZE", 0, 48, .rw, 0⟩]⟩
  , ⟨"EVT_REPLAY_START", 0x198, 0x0, 1, 0x0, 1, [⟨"POS", 0, 48, .rw, 0⟩]⟩
  , ⟨"EVT_REPLAY_END", 0x1A0, 0x0, 1, 0x0, 1, [⟨"POS", 0, 48, .rw, 0⟩]⟩
  , ⟨"EVT_REPLAY_POS", 0x1A8, 0x0, 1, 0x0, 1, [⟨"POS", 0, 48, .ro, 0⟩]⟩
  , ⟨"EVT_REPLAY_DIV", 0x1B0, 0x0, 1, 0x0, 1, [⟨"TIDE", 0, 48, .ro, 0⟩]⟩
  , ⟨"EVT_REPLAY_DIVSEQ", 0x1B8, 0x0, 1, 0x0, 1, [⟨"SEQ", 0, 32, .ro, 0⟩, ⟨"COUNT", 32, 32, .rc, 0⟩]⟩
  , ⟨"EVT_RNG", 0x200, 0x0, 1, 0x0, 1, [⟨"VALUE", 0, 64, .ro, 0⟩]⟩
  , ⟨"EVT_CNT", 0x28, 0x0, 1, 0x0, 1, [⟨"OVERWRITTEN", 0, 16, .rc, 0⟩, ⟨"FULL_DROP", 16, 16, .rc, 0⟩, ⟨"SRC_DROP", 32, 16, .rc, 0⟩, ⟨"PRE_DROP", 48, 16, .rc, 0⟩]⟩
  , ⟨"EVT_SW", 0x40, 0x8, 4, 0x0, 1, [⟨"RECORD", 0, 64, .rw, 0⟩]⟩
  , ⟨"EVT_CAP_STATUS", 0x128, 0x0, 1, 0x0, 1, [⟨"FROZEN", 0, 1, .ro, 0⟩, ⟨"FULL", 1, 1, .ro, 0⟩, ⟨"FREEZE_TIDE", 16, 48, .ro, 0⟩]⟩
  , ⟨"EVT_REPLAY_CTL", 0x180, 0x0, 1, 0x0, 1, [⟨"GO", 0, 1, .w1s, 0⟩, ⟨"STOP", 1, 1, .w1s, 0⟩]⟩ ]

/-- The DCP_ registers (R468). -/
def rowsDCP : List RegRow :=
  [ ⟨"DCP_HB", 0x100, 0x400000, 4, 0x0, 1, [⟨"PERIOD_MS", 0, 16, .rw, 100⟩, ⟨"MISS_MAX", 16, 4, .rw, 5⟩, ⟨"EN", 20, 1, .rw, 1⟩, ⟨"MISSES", 32, 4, .ro, 0⟩]⟩
  , ⟨"DCP_ALIVE", 0x108, 0x400000, 4, 0x0, 1, [⟨"COUNT", 0, 32, .rw, 0⟩]⟩ ]

end Sys2Proof.Machine
end

