-- ==== Sys2Proof/Machine/RegTable.lean ====
section
/-! DEFINITION. Finding a register's row by its local-map address (R268 to R270), its reset value and the masks of its
access codes (R14, R15). -/
namespace Sys2Proof.Machine

/-- The register block that holds a register-space address, with the offset in the block (R269, R270). -/
def blockAt (a : Nat) : Option (List RegRow × Nat) :=
  if 0x30000000000 ≤ a ∧ a < 0x30000000000 + 144 * 0x800000 then
    let o := (a - 0x30000000000) % 0x800000
    let r := o % 0x100000
    if o < 0x100000 then some (rowsTSQ, r)
    else if o < 0x200000 then some (rowsMXA, r)
    else if o < 0x300000 then some (rowsVXE, r)
    else if o < 0x400000 then some (rowsFTQ, r)
    else if o < 0x500000 then some (rowsSFU, r)
    else if o < 0x600000 then some (rowsSPE, r)
    else if o < 0x700000 then some (rowsLXE, r)
    else none
  else if 0x38000000000 ≤ a ∧ a < 0x3800A000000 then
    let r := (a - 0x38000000000) % 0x1000000
    if a < 0x38001000000 then some (rowsTIDE, r)
    else if a < 0x38002000000 then some (rowsMEM, r)
    else if a < 0x38003000000 then some (rowsFAB, r)
    else if a < 0x38004000000 then some (rowsQUE, r)
    else if a < 0x38005000000 then some (rowsGRE, r)
    else if a < 0x38006000000 then some (rowsPWR, r)
    else if a < 0x38007000000 then some (rowsMBX, r)
    else if a < 0x38008000000 then some (rowsMGP, r)
    else if a < 0x38009000000 then some (rowsDCP, r)
    else some (rowsEVT, r)
  else none

/-- An offset of a block is one of the row's registers. -/
def RegRow.hits (r : RegRow) (o : Nat) : Bool :=
  if o < r.off then false
  else
    let d := o - r.off
    if r.n0 = 1 ∧ r.n1 = 1 then d = 0
    else if r.n1 = 1 then d % r.s0 = 0 ∧ d / r.s0 < r.n0
    else d / r.s0 < r.n0 ∧ d % r.s0 % r.s1 = 0 ∧ d % r.s0 / r.s1 < r.n1

/-- The row of the register at an address; none where the address is reserved (R15). -/
def rowAt (a : Nat) : Option RegRow :=
  match blockAt a with
  | some (rows, o) => rows.find? (fun r => r.hits o)
  | none => none

/-- The bits of the fields with one of the given access codes. -/
def RegRow.mask (r : RegRow) (p : Access → Bool) : Word :=
  BitVec.ofNat 64 (r.flds.foldl (fun m f => if p f.access then m ||| ((2 ^ f.width - 1) <<< f.lo) else m) 0)

/-- A row's reset word. -/
def RegRow.reset (r : RegRow) : Word :=
  BitVec.ofNat 64 (r.flds.foldl (fun m f => m ||| (f.reset <<< f.lo)) 0)

/-- Sender, receiver and class of a mailbox channel (R409): agents as MBX_CH_STATUS codes them. -/
def channelAgents (c : Nat) : Nat × Nat × Bool :=
  if c = 1 then (0, 1, true)
  else if c ≤ 9 then (0, 1, false)
  else if c ≤ 13 then (c - 10 + 2, 1, false)
  else if c ≤ 17 then (1, c - 14 + 2, false)
  else if c = 18 then (1, 0, false)
  else if c = 19 then (6, 1, false)
  else if c = 20 then (6, 1, true)
  else if c = 22 then (7, 1, false)
  else (7, 1, true)

/-- The reset value of the word at a register address; 0 at a reserved address. The MSI-X table's reset (every vector
masked) is PRESUMED from the PCI Express specification (log entry 13); until firmware has programmed the tile map, every
physical tile reads as mapped out (log entry 53). -/
def regReset (a : Nat) : Word :=
  if R.MBX_CH_STATUS 0 ≤ a ∧ a < R.MBX_CH_STATUS 24 ∧ (a - R.MBX_CH_STATUS 0) % 0x1000 = 0 then
    let g := channelAgents ((a - R.MBX_CH_STATUS 0) / 0x1000)
    BitVec.ofNat 64 ((if g.2.2 then 0x100 else 0) + g.2.1 * 0x10000 + g.1 * 0x1000000)
  else if R.DIAG_PTILE 0 ≤ a ∧ a < R.DIAG_PTILE 160 ∧ (a - R.DIAG_PTILE 0) % 0x800000 = 0 then
    let p := (a - R.DIAG_PTILE 0) / 0x800000
    BitVec.ofNat 64 (0xFF + (p % 40) * 0x10000 + (p / 40) * 0x400000)
  else if R.MBX_MSIX 0 0 ≤ a ∧ a < R.MBX_MSIX 64 0 then
    if a % 16 = 8 then 0x100000000 else 0
  else
    match rowAt a with
    | some r => r.reset
    | none => 0

end Sys2Proof.Machine
end

