-- ==== Sys2Proof/Machine/Store.lean ====
section
/-! DEFINITION. A sparse store: a list of (key, value) pairs in one canonical form (keys strictly rising, no entry equal
to what an unlisted key reads as). Registers, memory bytes, memory marks, vector registers and the other indexed state
of the block are stores of this kind, so that equal contents are equal data. -/
namespace Sys2Proof.Machine

/-- A sparse map from keys to values. -/
abbrev Store (α : Type) := List (Nat × α)

/-- The value at a key: the entry's, or the default's where the key is not listed. -/
def Store.get {α : Type} (d : Nat → α) : Store α → Nat → α
  | [], k => d k
  | (j, v) :: m, k => if j = k then v else Store.get d m k

/-- The store without any entry for a key. -/
def Store.erase {α : Type} (m : Store α) (k : Nat) : Store α := m.filter (fun p => p.1 != k)

/-- An entry put before the first greater key. -/
def Store.insert {α : Type} : Store α → Nat → α → Store α
  | [], k, v => [(k, v)]
  | (j, w) :: m, k, v => if k < j then (k, v) :: (j, w) :: m else (j, w) :: Store.insert m k v

/-- The store with a key's value set; the default's value removes the entry. -/
def Store.put {α : Type} [DecidableEq α] (d : Nat → α) (m : Store α) (k : Nat) (v : α) : Store α :=
  if v = d k then m.erase k else (m.erase k).insert k v

/-- The keys of a store rise strictly. -/
def Store.sorted {α : Type} : Store α → Bool
  | [] => true
  | (j, _) :: m => m.all (fun p => decide (j < p.1)) && Store.sorted m

/-- The canonical form: keys strictly rising, no entry equal to the default. -/
def Store.wf {α : Type} [DecidableEq α] (d : Nat → α) (m : Store α) : Bool :=
  Store.sorted m && m.all (fun p => decide (p.2 ≠ d p.1))

end Sys2Proof.Machine
end

