-- ==== Sys2Proof/Machine/State.lean ====
section
/-! DEFINITION. The state of the block: everything the manual gives the machine, as plain data. Registers live in one
sparse store keyed by local-map address; what has no register is in the structures of this file. -/
namespace Sys2Proof.Machine

/-- Faults: no command of this block stops the machine; the manual turns every error into state (events, status bits,
halted streams). The one constructor is raised by nobody and is safe. -/
inductive Fault where
  /-- Raised by no command: kept so that the type is inhabited. Safe. -/
  | none
  deriving DecidableEq, Repr

/-- Refusals. -/
inductive Refusal where
  /-- Raised by the arm of a command that has no meaning yet. Safe: nothing is claimed of it. -/
  | notModelled (mnemonic : String)
  deriving DecidableEq, Repr

/-! ## Tide unit (01_tide.md) -/

/-- A mark accepted for a later instant (R37, R39): the number the count will hold, the instant in ps of local time at which
its tide is taken, whether it is a jump, and the mark's computed instant (R25), which the flywheel locks to. -/
structure PendTide where
  num  : Nat
  inst : Nat
  jump : Bool
  mark : Nat
  deriving DecidableEq, Repr

/-- Tides taken and not yet delivered (R21), `first` to `last` in ascending order (more than one in a jump, R39);
`kind` is 0 mark, 1 coasted, 2 jump, 3 replay as in the capture record (R460). -/
structure TakenTide where
  first : Nat
  last  : Nat
  kind  : Nat
  deriving DecidableEq, Repr

/-- What the tide unit holds beside its registers. -/
structure TideUnit where
  /-- Local time of the last tide command, in ps; the unit counts it in steps of 0.25 ns (R19). -/
  now       : Nat
  /-- Accepted tides still to take (R37). -/
  pend      : List PendTide
  /-- Taken tides on their way to the consumers (R21). -/
  deliv     : List TakenTide
  /-- The number of the last tide delivered to the consumers (R21). -/
  delivered : Nat
  /-- The flywheel predicts from marks (R36). -/
  locked    : Bool
  /-- The predicted instant of the next tide (R36). -/
  flyNext   : Nat
  /-- The period by which the flywheel steps its prediction, in ps (R36). -/
  flyPer    : Nat
  /-- The last 64 accepted marks, newest first, since the flywheel was last unlocked: number and computed instant (R36). -/
  marks     : List (Nat × Nat)
  /-- Deposed, and ROLE not written since: mastership is not claimed again (R33). -/
  deposed   : Bool
  /-- A discarded mark stands in place of the predicted tide (R38). -/
  held      : Bool
  /-- A valid gapped mark came for the window of the predicted tide (R37, R39). -/
  gapHere   : Bool
  /-- The last gapped mark's number and the run of gapped marks, each above the last (R37). -/
  gapLast   : Nat
  gapRun    : Nat
  /-- MARK_GAP and MARK_REPEAT already logged in this run (R37). -/
  gapLogged : Bool
  repLogged : Bool
  /-- COAST_LIMIT already raised for this run (R35). -/
  limitRun  : Bool
  /-- DUAL_MASTER already logged for the current epoch (R32). -/
  dualLogged : Bool
  /-- The backup's consecutive misses of the master, and whether a valid mark of MASTER_ID came since the last window
  (R31). -/
  bMiss     : Nat
  masterSeen : Bool
  /-- The instant of the master's next tide (R30, R34). -/
  masterNext : Option Nat
  /-- The number of the last mark this master emitted. -/
  emitted   : Nat
  /-- Tides taken since the last echo (R41). -/
  sinceEcho : Nat
  /-- Recent own instants, for the neighbour skew (R41): first and last tide taken, and the instant. -/
  instants  : List (Nat × Nat × Nat)
  /-- Echoes of tides this device has not taken yet: port, number, the neighbour's instant in ps (R41). -/
  echoWait  : List (Fin 16 × Nat × Int)
  /-- FRAME.CLOSEs on time within the current tide: effective target and local time (R49). -/
  closes    : List (Nat × Nat)
  /-- Symbols sent: port, the 112 bits, local time in ps. -/
  out       : List (Nat × BitVec 112 × Nat)
  deriving DecidableEq, Repr

/-! ## Tile sequencer (02_command_streams.md) -/

/-- One active loop level (R70): the PCs of the first body instruction and after the last, the iterations left after
this one, and the iteration index (R69). -/
structure LoopLevel where
  first : Nat
  last  : Nat
  left  : Nat
  index : Nat
  deriving DecidableEq, Repr

/-- What a stream drains for (R61, R62, R65, R94): a fencing instruction, a halt with its reason code, or a break with
its cause. -/
inductive Drain where
  | insn (c : Instr)
  | halt (reason : Nat)
  | brk (cause : Nat)
  deriving DecidableEq, Repr

/-- What a stream holds beside its registers. -/
structure StreamHid where
  loops : List LoopLevel
  drain : Option Drain
  /-- N and SD of the TOK.WAIT it waits in (R75), the tides delivered since the wait began and whether the timeout was
  logged for this wait (R92). -/
  waitN   : Nat
  waitSd  : BitVec 5
  waitTides : Nat
  waitFired : Bool
  /-- The tag break does not fire again on the instruction at which it stopped (R94). -/
  tagSkip : Bool
  /-- A resume under STEP: break again after one instruction (R94). -/
  step    : Bool
  /-- The instruction that waits for queue space in WAIT_QUEUE (R82). -/
  waitInsn : Option Instr
  /-- The wait a comparator broke, to which a resume returns (R96, log entry 117). -/
  broken  : Option Nat
  /-- The first ac in which its next instruction could issue, and scalar registers with the ac from which their last result can
  be read (R68). -/
  since   : Nat
  ready   : List (Nat × Nat)
  deriving DecidableEq, Repr

/-- An update of a token in one ac (R76): the subtraction and flag clear of a satisfied wait, a replacement of count and flags, or
an increment with its flags and the producer named in TOKEN_OVERFLOW. -/
inductive TokUpd where
  | sub (k n : Nat)
  | clr (k : Nat)
  | put (k count flags : Nat)
  | inc (k n flags producer : Nat)
  deriving DecidableEq, Repr

/-! ## Vector engines (04_vector_engine.md) -/

/-- A vector register: 8192 bits and a poison mark for each 32-bit lane (R137, R138). -/
structure VReg where
  bits   : BitVec 8192
  poison : BitVec 256
  deriving DecidableEq, Repr

/-- A mask register: 1024 bits and a poison mark for each (R137). -/
structure MReg where
  bits   : BitVec 1024
  poison : BitVec 1024
  deriving DecidableEq, Repr

/-- One element of a vector result: its index, its bits and its poison mark. -/
structure VEl where
  i : Nat
  v : Nat
  p : Bool
  deriving DecidableEq, Repr

/-- A scan between its issue and the reading of its carry (R166, R167): the kind (0 sum, 1 product, 2 max, 3 min,
4 linear recurrence), the element type, the prefixes (A, B, poison) of every position before the carry step, how many
positions lie in the first segment, which positions are active, VL's element count, the zeroing bit, the destination
and the carry and link selections (R165). -/
structure ScanRec where
  kind  : Nat
  ty    : Nat
  ps    : List (Nat × Nat × Bool)
  first : Nat
  act   : List Bool
  n     : Nat
  z     : Bool
  vd    : Nat
  cin   : Bool
  cout  : Bool
  lin   : Bool
  lout  : Bool
  c     : Nat
  lat   : Nat
  issue : Nat
  deriving DecidableEq, Repr

/-- A VNORM.RMS between its issue and the reading of its carry (R197): mode (0 ACC, 1 FIN, 2 APPLY, 3 ONE), the sum of
squares with its poison, the active count, the operand n and ε, carry selections, type and destination; for APPLY and ONE
its active elements (index, x, gain, poison of both) with whether GAIN is set and the elements to clear. -/
structure NormRec where
  mode : Nat
  q    : Nat
  qp   : Bool
  act  : Nat
  n    : Nat
  eps  : Nat
  c    : Nat
  cin  : Bool
  ty   : Nat
  vd   : Nat
  els  : List (Nat × Nat × Nat × Bool)
  gain : Bool
  zero : List Nat
  lat  : Nat
  issue : Nat
  t2   : Bool
  deriving DecidableEq, Repr

/-- A VSMAX between its issue and the reading of its carries (R200, R201): pass 1 or 2, the active z in FP32 by element
with poison, the positions of the type, CIN, type, destination, elements to clear. -/
structure SmaxRec where
  pass : Nat
  zs   : List (Nat × Nat × Bool)
  size : Nat
  cin  : Bool
  ty   : Nat
  vd   : Nat
  zero : List Nat
  lat  : Nat
  issue : Nat
  t2   : Bool
  deriving DecidableEq, Repr

/-- What a vector instruction in flight still does, at a fixed ac (R85 to R88, R167). -/
inductive VOp where
  /-- Elements of width `w` land in register V`reg`. -/
  | wbV (reg w : Nat) (els : List VEl)
  /-- Bits land in mask register M`reg`: bit, value, poison. -/
  | wbM (reg : Nat) (els : List (Nat × Bool × Bool))
  /-- Sticky status bits become visible (R146). -/
  | status (bits : Nat)
  /-- A load reads tile memory (R88): element, its byte offset (none: a faulting element, delivered 0), whether its
  index lane is poisoned; inactive elements to clear; the ac in which the result lands. -/
  | load (reg w : Nat) (els : List (Nat × Option Nat × Bool)) (zero : List Nat) (due : Nat)
  /-- A store writes tile memory (R88): byte offset, element bits, poison. -/
  | store (w : Nat) (els : List (Nat × Nat × Bool))
  /-- A scan reads its carry in (R167). -/
  | scan (r : ScanRec)
  /-- A norm or a soft maximum reads its carries in (R197, R200). -/
  | norm (r : NormRec)
  | smax (r : SmaxRec)
  /-- A carry register takes its value (R167). -/
  | carry (c : Nat) (v : BitVec 32) (p : Bool)
  deriving DecidableEq, Repr

/-- A vector instruction's remaining event: its ac, its place within the ac (0 memory read, 1 memory write, 2 carry
read, 3 write-back), the issue order, the engine, the issuing stream and PC. -/
structure VEvent where
  ac    : Nat
  phase : Nat
  seq   : Nat
  e     : Nat
  st    : Nat
  pc    : Nat
  op    : VOp
  deriving DecidableEq, Repr

/-- A pending write-back on the shadow scoreboard (R90): the register (0 to 63 V, 64 to 79 M, 80 and 81 the carries),
the ac from which it is visible, the producer's PC, issue order and stream, and whether it is detached (R89). -/
structure SbEntry where
  reg : Nat
  vis : Nat
  pc  : Nat
  seq : Nat
  st  : Nat
  det : Bool
  deriving DecidableEq, Repr

/-- A detached near-tier gather or scatter in flight (R159): gather or scatter, data register, width, its elements
(element, local-map address, store bits, poison), faults met, elements to clear, whether a faulting element's index was
poisoned, token. -/
structure DetIns where
  gather : Bool
  reg    : Nat
  w      : Nat
  els    : List (Nat × Nat × Nat × Bool)
  zero   : List Nat
  faulted : List Nat
  fault  : Bool
  badIdx : Bool
  token  : Nat
  seq    : Nat
  st     : Nat
  deriving DecidableEq, Repr

/-- What a vector engine holds beside its registers; `busy` gives the ac from which a unit takes the next instruction (R87). -/
structure EngHid where
  sb   : List SbEntry
  link : List (BitVec 32 × Bool)
  det  : List DetIns
  busy : List (Nat × Nat)
  deriving DecidableEq, Repr

/-- A bank of the finished-tile queue (R170): its 64-bit words, each with whether its parity is bad (R175), the ac in
which its last word entered, and the bad-parity words delivered from the packet. -/
structure FtqBank where
  words   : List (Word × Bool)
  entered : Nat
  bad     : Nat
  deriving DecidableEq, Repr

/-- A command copied into an engine queue (R82): the command, its descriptor block's bytes with the poison of each, and
the ac of the copy. -/
structure QCmd where
  c    : Instr
  desc : List Byte
  bad  : List Bool
  ac   : Nat
  deriving DecidableEq, Repr

/-- A post command whose token is not yet produced (R74): a descriptor of a hardware queue, a bucket by its order number, or a
rejected or zero-work command whose token waits for earlier ones (token, flags, producer). -/
inductive PostEnt where
  | que (q idx : Nat)
  | gre (ord : Nat)
  | owed (token flags producer : Nat)
  deriving DecidableEq, Repr

/-- What a tile holds beside its registers. `ac` is the tile's ac counter (R84); `seen` the tide count its streams see
(R21); `tokPend` and `tokNext` the token updates of this ac and of the next (R76); `vev` the vector instructions in
flight; the queues are R82's and R209's. -/
structure TileHid where
  ac      : Nat
  seen    : Nat
  tokPend : List TokUpd
  tokNext : List TokUpd
  vev     : List VEvent
  vseq    : Nat
  /-- The number of the next packet of the finished-tile queue (R170). -/
  nextPkt : Nat
  mxaQ    : List QCmd
  lxeQ    : List QCmd
  postQ   : List QCmd
  speQ    : List QCmd
  /-- Post commands taken by the post engine whose tokens are to come, oldest first (R74). -/
  postOut : List PostEnt
  deriving DecidableEq, Repr

/-! ## Matrix array (03_matrix_array.md) -/

/-- An accumulator entry (R118): an FP32 or INT32 pattern, a 128-bit integer's pattern, or a complex pair's FP32 patterns,
and whether it is poisoned (R135). -/
structure AccEl where
  x : Nat
  y : Nat
  p : Bool
  deriving DecidableEq, Repr

/-- The stationary of MMA.LOADS (R120): what an MMA with USE_STAT must repeat, its elements (k rows of n, raw patterns
with poison) and its scale bytes by block of k. -/
structure MxaStat where
  k   : Nat
  n   : Nat
  fb  : Nat
  mxb : Bool
  d   : Nat
  els : List (List (Nat × Bool))
  sc  : List (List (Nat × Bool))
  deriving DecidableEq, Repr

/-- A result held for CONT (R119): what the next command must repeat, the total K (R130), and the bank's entries. -/
structure MxaHold where
  key : List Nat
  k   : Nat
  acc : List (List AccEl)
  deriving DecidableEq, Repr

/-- An output packet on its way to the finished-tile queue (R105, R170): its words with the poison tag, its bytes, the
status bits and the census counts (format, CONV, SAT, VANISH) of its output conversion. -/
structure MxaPkt where
  words  : List (Word × Bool)
  len    : Nat
  status : Nat
  census : List (Nat × Nat × Nat × Nat)
  deriving DecidableEq, Repr

/-- A matrix command started and not complete (R115): OP, TE, token, the token's flags so far, packets still to deliver,
the first poisoned operand (0 A or X, 1 B or Y, 2 Z) and its element, whether MXA_POISON is logged, and the ac of row
entries and of stationary loads. -/
structure MxaRun where
  op     : Nat
  te     : Bool
  token  : Nat
  flags  : Nat
  pkts   : List MxaPkt
  first  : Nat × Nat
  logged : Bool
  rows   : Nat
  loads  : Nat
  deriving DecidableEq, Repr

/-- What a matrix array holds beside its registers: commands under way, oldest first; the stationary; the held result;
the ramp length of the present episode (R117). -/
structure MxaUnit where
  run  : List MxaRun
  stat : Option MxaStat
  held : Option MxaHold
  rho  : Nat
  deriving DecidableEq, Repr

/-! ## Special-function unit (05_special_functions.md) -/

/-- What a tile's SFU holds beside its registers: the armed swap's token and amount and the ac from which it may take place
(R187), the arms issued in the tile's present ac (engine, token, amount), and the T2 mode with the writes of it that still have
to apply, each with the ac from which it does, oldest first (R204). -/
structure SfuUnit where
  tok   : Nat
  n     : Nat
  since : Nat
  arms  : List (Nat × Nat × Nat)
  t2    : Bool
  t2w   : List (Nat × Bool)
  deriving DecidableEq, Repr

/-! ## Sparse engine (06_sparse_engine.md) -/

/-- A sparse command started and not complete (R209): OP, TE, token, flags, whether it holds the array, and what it has
still to write: address, bytes, poison of each. -/
structure SpeRun where
  op     : Nat
  te     : Bool
  token  : Nat
  flags  : Nat
  claim  : Bool
  writes : List (Nat × List (Byte × Bool))
  deriving DecidableEq, Repr

/-! ## Layout engine (07_layout_engine.md) -/

/-- A layout command started and not complete (R241, R247): a number that names it to its fabric requests, the command, its
stage (0 its indices, scales or exponents are read, 1 its data is read, 2 its writes are made), whether it completes only
after every earlier one (R247), what it has read by place, reads and remote writes not yet answered, token flags, units
answered with an error with the first address (R244), the staging area as LXE_CTL placed it when the command started (R265). -/
structure LxeRun where
  id     : Nat
  c      : QCmd
  stage  : Nat
  ordered : Bool
  got    : Store (Option (List (Byte × Bool)))
  wait   : Nat
  acks   : Nat
  flags  : Nat
  errs   : Nat
  errAt  : Nat
  base   : Nat
  deriving DecidableEq, Repr

/-! ## Fabric (09_fabric.md) -/

/-- What a link holds (R297 to R299): the next sequence number to send, packets sent and not acknowledged, the packet last
replayed with its consecutive replays, packets that wait for credits, the 64-byte units of the partner's buffer in use by
virtual channel; the next sequence number to receive, whether it discards until the replay it asked for, packets received
and not yet taken, in order of arrival. -/
structure Link where
  txSeq  : Nat
  replay : List (Nat × FabPkt)
  again  : Nat × Nat
  wait   : List FabPkt
  used   : List Nat
  rxNext : Nat
  rxSkip : Bool
  rx     : List FabPkt
  deriving DecidableEq, Repr

/-- Who waits for the answer to a request: layout command `id` of a tile (its read at place `k` of `n` bytes from a hall
address, a write of a unit there), packet `k` of an attempt at a descriptor of a queue, or a unit that needs only the count of R313 (a token increment, a receive
buffer on another device), the key unit's report, or a host access through a BAR. -/
inductive Client where
  | lxeRead (t id k a n : Nat)
  | lxeWrite (t id a : Nat)
  | queue (q idx tries k : Nat)
  | att
  | hostRead (bar addr n : Nat)
  | hostWrite (bar addr : Nat)
  | none
  deriving DecidableEq, Repr

/-- A request awaiting its answer (R310). -/
structure FabReq where
  tag  : Nat
  unit : Nat
  dst  : Nat
  opc  : Nat
  cl   : Client
  deriving DecidableEq, Repr

/-- What the fabric unit holds beside its registers: links (32 holds packets to itself), requests, the next tag, control
symbols sent (link, kind, two content numbers), management packets for firmware (R413). -/
structure FabUnit where
  links : Store Link
  reqs  : List FabReq
  tag   : Nat
  syms  : List (Nat × Nat × Nat × Nat)
  mgmt  : List FabPkt
  deriving DecidableEq, Repr

/-- A descriptor of a SEND queue taken from its ring (R318, R319): its index, its 24 words, the payload read from its source,
its alive value, packets sent in this attempt and in all, packets answered in this attempt, attempts repeated, whether its
alive value and credit are taken, the STATUS of a failure (0 none), token flags, bytes moved, whether a REPEAT completed it,
whether its slot was read poisoned. -/
structure QueDesc where
  idx   : Nat
  w     : List Nat
  pay   : List (Byte × Bool)
  alive : Nat
  sent  : Nat
  all   : Nat
  ans   : Nat
  tries : Nat
  held  : Bool
  fail  : Nat
  flags : Nat
  bytes : Nat
  rept  : Bool
  bad   : Bool
  /-- A message of the reduction engine (R338): its channel and bucket. -/
  gre   : Option (Nat × Nat)
  deriving DecidableEq, Repr

/-- The message a RECV queue has open (R321 to R323): KIND, length, CRC-64 so far, data address, ERROR, POISON and RESTART of
its completion entry; and the message it discards, by the answer its packets get (0 none, 1 to 15 a NAK code,
16 an ACK with REPEAT). -/
structure QueRx where
  kind  : Nat
  len   : Nat
  crc   : Nat
  addr  : Nat
  err   : Bool
  pois  : Bool
  rest  : Bool
  skip  : Nat
  deriving DecidableEq, Repr

/-- The cached context of a queue that is not DISABLED (R315, R316), its descriptors in flight, oldest first, and its
receive side. -/
structure Queue where
  ring  : Nat
  log2  : Nat
  recv  : Bool
  cls   : Nat
  state : Nat
  retry : Nat
  head  : Nat
  tail  : Nat
  pdev  : Nat
  pqid  : Nat
  cred  : Nat
  alive : Nat
  opn   : Bool
  buf   : Nat
  bsize : Nat
  token : Nat
  tile  : Nat
  tokEn : Bool
  infl  : List QueDesc
  rx    : QueRx
  /-- Messages of the reduction engine not yet taken (R338): channel, bucket, IMM, payload. -/
  pays  : List (Nat × Nat × Nat × List (Byte × Bool))
  deriving DecidableEq, Repr

/-- What the queue engine holds: queues not DISABLED and the queue after which the next turn of the round robin looks
(R320). -/
structure QueUnit where
  q    : Store (Option Queue)
  turn : Nat
  deriving DecidableEq, Repr

/-! ## Gradient exchange (10_gradient_exchange.md) -/

/-- A block record (R331): the header's fields (16-bit patterns of SCALE and MAXE) and the elements' 64-bit patterns. -/
structure GreRec where
  scale   : Nat
  maxe    : Nat
  delta   : Nat
  ovf     : Bool
  nf      : Bool
  poison  : Bool
  rerun   : Bool
  block   : Nat
  contrib : Nat
  carried : Nat
  els     : List Nat
  deriving DecidableEq, Repr

/-- A block of a started bucket (R339): its combination so far, the tree children already combined, whether the inner sum
of a ring of rings stands, the final record, and the links and phases (link × 4 + phase) on which it has arrived. -/
structure GreBlk where
  sum  : GreRec
  kids : List Nat
  mid  : Bool
  fin  : Bool
  rx   : List Nat
  deriving DecidableEq, Repr

/-- A bucket accepted whose token is not produced (R340 to R351): channel, sequence number, order of acceptance, tile, token, TE, its
16 descriptor words; readiness (R347), the late contribution's outcome (R348: 0 none, 1 carried, 2 dropped, 3 carry full),
whether it has started, whether a carry was added, whether its carry header is to be cleared; the pass under way (0 or 1),
the blocks re-run, the blocks of the pass, final records of blocks outside it, messages not yet acknowledged, tides without
progress, poison met, whether its carry header was poisoned (R354), the tide of its completion where its token waits for the
resolution of its late contribution (R344), and whether its token is produced and it stays for the pad blocks still to arrive. -/
structure GreBucket where
  chan    : Nat
  seq     : Nat
  ord     : Nat
  tile    : Nat
  token   : Nat
  te      : Bool
  d       : List Nat
  ready   : Bool
  missed  : Bool
  late    : Bool
  outc    : Nat
  started : Bool
  carryIn : Bool
  pass    : Nat
  reran   : List Nat
  blks    : List GreBlk
  fins    : List GreRec
  unacked : Nat
  quiet   : Nat
  pois    : Bool
  carryBad : Bool
  done    : Option Nat
  paid    : Bool
  deriving DecidableEq, Repr

/-- What the reduction engine holds beside its registers: its buckets, oldest first, and the next order number. -/
structure GreUnit where
  buckets : List GreBucket
  ord     : Nat
  deriving DecidableEq, Repr

/-! ## Power (12_power.md) -/

/-- A budget move waiting for the delivery of its tide (R390): the tide, the new effective cap, round, increase. -/
structure PwrMove where
  tide  : Nat
  cap   : Nat
  round : Nat
  deriving DecidableEq, Repr

/-- The master's round under way (R389, R390): sequence, T_eff, donors that have not acknowledged, increases (member, cap),
whether they are written, recipients that have not acknowledged. -/
structure PwrRound where
  seq  : Nat
  teff : Nat
  dec  : List Nat
  incs : List (Nat × Nat)
  sent : Bool
  wait : List Nat
  deriving DecidableEq, Repr

/-- What the power controller holds beside its registers. Frequencies are in MHz, times in ns. -/
structure PwrUnit where
  /-- When throttle times were last accounted, and the reasons active since (R381). -/
  last   : Nat
  active : Nat
  /-- The increase that waits for the rails, and each die's core-rail voltage in mV (R370). -/
  pend   : Option Nat
  rails  : List Nat
  /-- The estimates of the last µs (R372, R374): by die before calibration in pJ, the frequency they were formed at, the measured
  energy of the memory and auxiliary rails in nJ. -/
  est    : List Nat
  estF   : Nat
  aux    : Nat
  /-- Sums of the millisecond under way (R373): estimates by die in pJ, measured core-rail energies by die in nJ, the module total in
  2^-14 pJ, the input energy in nJ. -/
  msEst  : List Nat
  msMeas : List Nat
  msTot  : Nat
  msIn   : Nat
  /-- The junction ceiling, 110 °C reached (R378), the coolant reduction in W (R380). -/
  junc   : Nat
  crit   : Bool
  cool   : Nat
  /-- What budget moves have added to CAP (R374). -/
  delta  : Int
  /-- Dies stretched, and by die the consecutive stretched ac with the supply above its threshold (R377). -/
  stretch : Nat
  calm   : List Nat
  /-- PWR_HOST.FMAX binds since the last interval (R376); a level breach under way (R385). -/
  fmaxOn : Bool
  breach : Bool
  /-- Remainders below 1 µJ (R382): tiles in 2^-14 pJ, queues in pJ, input and dies in nJ. -/
  tileRem : Store Nat
  queRem : Store Nat
  devRem : Nat
  dieRem : List Nat
  /-- The trip record: die, sensor, tide (R379). -/
  trip   : Option (Nat × Nat × Nat)
  /-- Budget: moves waiting, a move written and not yet taken, acknowledgements written and not yet taken, the round under
  way, the last round's T_eff and the tide at whose delivery it ran (0 none), the master's sequence, tides without a move, MASTER_LOST raised for this loss. -/
  moves  : List PwrMove
  moveNew : Bool
  ackNew : List Nat
  round  : Option PwrRound
  lastTeff : Nat
  roundAt : Nat
  seq    : Nat
  quiet  : Nat
  lost   : Bool
  /-- The low-power state being entered, the µs since its entry began, and the entry steps in effect: clocks stopped, tiers in
  self-refresh and links down or on one lane, clamps asserted, retention asserted, rails at retention voltage (R396). -/
  entering : Option Nat
  entryUs : Nat
  steps  : Nat
  /-- Bytes moved in the present tide by queue: fabric, near tier, deep tier (R383). -/
  moved  : Store (Nat × Nat × Nat)
  deriving DecidableEq, Repr

/-! ## Event unit (15_ras_debug.md) -/

/-- An audit record not yet accepted (R459): tile, engine, stream, kind and its three words. -/
structure AuditRec where
  t    : Nat
  e    : Nat
  st   : Nat
  kind : Nat
  w0   : Word
  w1   : Word
  w2   : Word
  deriving DecidableEq, Repr

/-- What the event unit holds beside its registers. -/
structure EvtUnit where
  /-- Records not yet accepted, oldest first: source and the 32 bytes (R450). -/
  waiting : List (Nat × BitVec 256)
  /-- Sources whose next record carries LOST_BEFORE (R450). -/
  lostSrc : List Nat
  /-- Records kept while the ring is not enabled (R452). -/
  pre     : List (BitVec 256)
  /-- Audit records not yet accepted (R459). -/
  audit   : List AuditRec
  /-- Things logged at most once per tide: the tide and the keys already logged in it. -/
  onceTide : Nat
  onceKeys : List (Nat × Nat × Nat)
  /-- The tide of the event that triggered the capture freeze (R462). -/
  trig    : Option Nat
  /-- The next capture record's number, whether the next record carries GAP, and the lengths of the records held in the
  ring, oldest first (R461). -/
  capSeq  : Nat
  capGap  : Bool
  capLens : List Nat
  /-- A warm reset is in progress: records are buffered (R452). -/
  warm    : Bool
  /-- The number of the next fresh value of the entropy source (log entry 7). -/
  fresh   : Nat
  deriving DecidableEq, Repr

/-! ## Host attachment (13_host_mailboxes_resets.md) -/

/-- What the PCI Express function holds beside its registers. -/
structure HostUnit where
  /-- Bus Master Enable (R404, R408). -/
  busMaster : Bool
  /-- The function is in D3hot (R404). -/
  d3hot     : Bool
  /-- BAR2's size as a power of two of bytes (R405). -/
  bar2Log2  : Nat
  /-- The link's width and rate code (R403). -/
  width     : Nat
  rate      : Nat
  /-- ASPM L1 enabled by the host; the device requests L1 (R404). -/
  aspmL1    : Bool
  l1        : Bool
  /-- Flit mode in use; Max Payload Size, Max Read Request Size in bytes, 10-bit tags enabled (R403). -/
  flit      : Bool
  mps       : Nat
  mrrs      : Nat
  tag10     : Bool
  /-- MSI-X messages sent: vector, address, data (R408). -/
  sent      : List (Nat × Word × BitVec 32)
  /-- Event vectors that have sent in this tide (R408). -/
  sentTide  : List Nat
  /-- Host reads answered: data bytes and whether the TLP is marked poisoned (R406, R453). -/
  reads     : List (List Byte × Bool)
  /-- Memory requests completed with Unsupported Request (R421): write or read, BAR, offset. -/
  unsup     : List (Bool × Nat × Nat)
  deriving DecidableEq, Repr

/-! ## Firmware, identity and update (14_firmware.md) -/

/-- An update under way (R437): target slot, blocks announced, blocks programmed. -/
structure FwUpd where
  target : Nat
  blocks : Nat
  done   : List Nat
  deriving DecidableEq, Repr

/-- An attestation report under way (R445): its bytes, its destination, fabric writes not yet answered, an error answer. -/
structure AttRun where
  report : List Byte
  dest   : Nat
  acks   : Nat
  err    : Bool
  deriving DecidableEq, Repr

/-- What the management processor holds beside its registers. -/
structure FwUnit where
  /-- The ROM has released the management processor (R433). -/
  released : Bool
  /-- The die and port controllers are held in reset (R433, R434). -/
  held     : Bool
  /-- The reset under way, as LAST_RESET codes it (R422); 0 none. -/
  kind     : Nat
  /-- Resets asked for and not yet begun: 2 FLR, 3 warm by mailbox, 4 management processor restart, 5 one by the trial timer. -/
  sched    : List Nat
  /-- The booted image (R427): IMAGE_VER, SVN, SETTINGS_VER, FACTORY_MIN. -/
  ver      : Nat
  svn      : Nat
  settVer  : Nat
  facMin   : Nat
  /-- The components placed in their targets (R428, R433): the VERSION of each by ID 1 to 4, and the level table in MHz (R384); empty
  until an image has been booted. -/
  parts    : List Nat
  level    : List Nat
  /-- The tide unit's local time at which the trial timer was armed (R438). -/
  trialAt  : Nat
  /-- The factory record failed its checks (R436). -/
  facBad   : Bool
  /-- The settings copy in use: copy and VERSION (R441). -/
  sett     : Option (Nat × Nat)
  upd      : Option FwUpd
  att      : Option AttRun
  /-- The channel whose ATTEST waits for DONE (R445); the channel whose JOB_RESET is not complete and the tags of the requests it waits
  for (R419). -/
  attWait  : Option Nat
  jobWait  : Option Nat
  jobTags  : List Nat
  /-- Allocations (R415): handle, base, size; and the next handle. -/
  allocs   : List (Nat × Nat × Nat)
  handle   : Nat
  /-- MGP_HB as each die controller last read it; each DCP_ALIVE as last read with the reads since it changed (R456). -/
  hb       : List Nat
  alive    : List (Nat × Nat)
  /-- The watchdog caused the restart under way (R455). -/
  wdtLog   : Bool
  deriving DecidableEq, Repr

/-! ## Replay (15_ras_debug.md) -/

/-- What the replay engine holds beside its registers (R463, R464): recorded answers not yet matched, requests of this device
not yet answered, recorded sends not yet compared (SEQ, header, CRC-64), sends not yet compared, recorded entropy values, the
last tide, records injected, divergences. -/
structure RepUnit where
  held : List FabPkt
  opn  : List FabPkt
  want : List (Nat × FabPkt × Nat)
  sent : List FabPkt
  rng  : List Word
  last : Nat
  inj  : Nat
  div  : Nat
  deriving DecidableEq, Repr

/-! ## Module (16_module.md) -/

/-- A flash operation in progress (R478, R479): an erase of a sector or a program of bytes. -/
inductive FlashOp where
  | erase (addr : Nat)
  | program (addr : Nat) (data : List Byte)
  deriving DecidableEq, Repr

/-- The module: standby up, PWR_EN, PWR_GOOD, THERMTRIP# asserted, a power-up that waits for the flash with the rail that
fails in it (R474 to R479), a rail that failed (R475); the SMBus unit: flash operation in progress, last command refused,
verify error, doorbell bits of channels 21 to 23, answers (none: NACKed) (R478). -/
structure ModUnit where
  standby : Bool
  en      : Bool
  good    : Bool
  tripped : Bool
  waiting : Option (Option Nat)
  rail    : Option Nat
  flashOp : Option FlashOp
  refused : Bool
  verify  : Bool
  db      : Nat
  answers : List (Option (List Byte))
  deriving DecidableEq, Repr

/-! ## Memory (08_memory.md) -/

/-- What the check bits of a memory word say beside its data (R280, R281): clean, carrying the poison marking, or upset
with a correctable or an uncorrectable error. -/
inductive WordTag where
  | clean
  | marked
  | ce
  | ue
  deriving DecidableEq, Repr

/-- What the memory system holds beside its registers: the correctable errors of the present tide by tier (R282), the
tile scrubbers' positions by tile (R283), and the answers of the tier controllers to reads (data, poisoned, error). -/
structure MemUnit where
  ceTide  : Nat
  ceTile  : Nat
  ceNear  : Nat
  ceDeep  : Nat
  scrubPos : Store Nat
  answers : List (List Byte × Bool × Bool)
  deriving DecidableEq, Repr

/-! ## The state -/

/-- The state of the block. -/
structure State where
  /-- Commands waiting, first in, first out. -/
  pending : List Instr
  /-- Every register, by local-map address (R268 to R270). -/
  regs    : Store Word
  /-- Every byte of the tile memories and the two tiers, by local-map address (R268). -/
  mem     : List Host.Cell
  /-- The check bits of memory words, by the word's local-map address (R280, R281). -/
  tags    : Store WordTag
  memu    : MemUnit
  tide    : TideUnit
  /-- By logical tile. -/
  tiles   : Store TileHid
  /-- By tile × 8 + stream. -/
  strm    : Store StreamHid
  /-- By (tile × 2 + engine) × 64 + register. -/
  vregs   : Store VReg
  /-- By (tile × 2 + engine) × 16 + register. -/
  mregs   : Store MReg
  /-- By tile × 2 + engine. -/
  engs    : Store EngHid
  /-- Finished-tile queue banks, by tile × 2 + bank. -/
  ftq     : Store FtqBank
  /-- Matrix arrays, by tile. -/
  mxa     : Store MxaUnit
  /-- Accumulator banks in 32-bit words, by (tile × 2 + bank) × 65536 + word (R118, R136). -/
  acc     : Store (BitVec 32)
  sfu     : Store SfuUnit
  /-- Table memory (R185), by (tile × 2 + bank) × 0x8800 + offset. -/
  sfuMem  : Store Byte
  /-- The sparse command under way, by tile (R209). -/
  spe     : Store (Option SpeRun)
  /-- Keys of the associative memory, by tile × 4096 + position (R237). -/
  cam     : Store (BitVec 32)
  /-- The layout commands under way, oldest first, by tile, and the number of the next (R241). -/
  lxe     : Store (List LxeRun)
  lxeId   : Nat
  fab     : FabUnit
  que     : QueUnit
  gre     : GreUnit
  pwr     : PwrUnit
  /-- Mailbox request and reply buffers (R410), by channel × 0x800 + offset; who waits for the proxy's reply on channels
  19 and 20 (R413): device and tag. -/
  mbox    : Store Byte
  proxy   : Store (Nat × Nat)
  /-- Poison of the mailbox buffers' bytes (R453), as `mbox`. -/
  mboxBad : Store Bool
  fw      : FwUnit
  rep     : RepUnit
  mod     : ModUnit
  /-- The flash (R426), by offset. -/
  flash   : Store Byte
  /-- Live census counts, by tile × 64 + format × 4 + counter (R151). -/
  census  : Store Nat
  /-- Tile-link values on their way: receiving tile, engine, value, poison (R168). -/
  linkFly : List (Nat × Nat × BitVec 32 × Bool)
  evt     : EvtUnit
  host    : HostUnit
  deriving DecidableEq, Repr

/-! ## Reset -/

/-- The state right after power-on reset (R417, R423), before the ROM of the management processor has run. Stores hold nothing
beyond their defaults: registers read their tables' reset values (`regReset`), memories zero, the flash erased; the junction
ceiling stands at its highest frequency. Reset values the manual does not give are named in the assumption log (entries 1, 2,
11 to 15, 32, 53, 56). -/
def State.reset : State :=
  { pending := [], regs := [], mem := [], tags := []
    memu := { ceTide := 0, ceTile := 0, ceNear := 0, ceDeep := 0, scrubPos := [], answers := [] }
    tide := { now := 0, pend := [], deliv := [], delivered := 0, locked := false, flyNext := 0, flyPer := 0, marks := []
              deposed := false, held := false, gapHere := false, gapLast := 0
              gapRun := 0, gapLogged := false, repLogged := false, limitRun := false, dualLogged := false, bMiss := 0
              masterSeen := false, masterNext := none, emitted := 0, sinceEcho := 0, instants := [], echoWait := []
              closes := [], out := [] }
    tiles := [], strm := [], vregs := [], mregs := [], engs := [], ftq := [], mxa := [], acc := [], sfu := [], sfuMem := []
    spe := [], cam := [], lxe := [], lxeId := 0
    fab := { links := [], reqs := [], tag := 0, syms := [], mgmt := [] }
    que := { q := [], turn := 0 }
    gre := { buckets := [], ord := 0 }
    pwr := { last := 0, active := 0, pend := none, rails := [0, 0, 0, 0], est := [0, 0, 0, 0], estF := 3300, aux := 0
             msEst := [0, 0, 0, 0], msMeas := [0, 0, 0, 0], msTot := 0, msIn := 0, junc := 3300, crit := false, cool := 0
             delta := 0, stretch := 0, calm := [0, 0, 0, 0], fmaxOn := false, breach := false, tileRem := [], queRem := []
             devRem := 0, dieRem := [0, 0, 0, 0], trip := none, moves := [], moveNew := false, ackNew := [], round := none
             lastTeff := 0, roundAt := 0, seq := 0, quiet := 0, lost := false, entering := none, entryUs := 0, steps := 0
             moved := [] }
    mbox := [], proxy := [], mboxBad := []
    fw := { released := false, held := true, kind := 0, sched := [], ver := 0, svn := 0, settVer := 0, facMin := 0, parts := []
            level := [], trialAt := 0, facBad := false, sett := none, upd := none, att := none, attWait := none, jobWait := none
            jobTags := [], allocs := [], handle := 0
            hb := [0, 0, 0, 0], alive := [(0, 0), (0, 0), (0, 0), (0, 0)], wdtLog := false }
    rep := { held := [], opn := [], want := [], sent := [], rng := [], last := 0, inj := 0, div := 0 }
    mod := { standby := true, en := true, good := true, tripped := false, waiting := none, rail := none, flashOp := none
             refused := false, verify := false, db := 0, answers := [] }
    flash := [], census := [], linkFly := []
    evt := { waiting := [], lostSrc := [], pre := [], audit := [], onceTide := 0, onceKeys := [], trig := none, capSeq := 0
             capGap := false, capLens := [], warm := false, fresh := 0 }
    host := { busMaster := false, d3hot := false, bar2Log2 := 37, width := 0, rate := 0, aspmL1 := false, l1 := false, flit := false
              mps := 128, mrrs := 512, tag10 := false, sent := [], sentTide := [], reads := [], unsup := [] } }

end Sys2Proof.Machine
end

