-- ==== Sys2Proof/Machine/Ops.lean ====
section
/-! DEFINITION. The named operations every family uses: registers and their fields, per-tile and per-stream records,
event records and their signalling, tokens. -/
namespace Sys2Proof.Machine

/-! ## Registers -/

/-- The word held at a register address. -/
def State.reg (s : State) (a : Nat) : Word := Store.get regReset s.regs a

/-- The state with a register's word set. -/
def State.setReg (s : State) (a : Nat) (w : Word) : State := { s with regs := Store.put regReset s.regs a w }

/-- A field's value. -/
def State.fld (s : State) (f : Field) : Nat := bitsOf (s.reg f.addr).toNat f.lo f.width

/-- The state with a field set (its low bits). -/
def State.setFld (s : State) (f : Field) (v : Nat) : State :=
  s.setReg f.addr (putBits (s.reg f.addr) f.lo f.width v)

/-- A one-bit field as a truth value. -/
def State.flag (s : State) (f : Field) : Bool := s.fld f = 1

/-- A one-bit field set to 1. -/
def State.set1 (s : State) (f : Field) : State := s.setFld f 1

/-- A counter field raised by `n`, stopping at its largest value. -/
def State.incFld (s : State) (f : Field) (n : Nat) : State := s.setFld f (satAdd f.width (s.fld f) n)

/-- The state with a field's bits ORed in. -/
def State.orFld (s : State) (f : Field) (v : Nat) : State := s.setFld f (s.fld f ||| v)

/-- The number of the next fresh free value, and the state with it used (log entry 7). -/
def State.takeFresh (s : State) : State × Nat :=
  ({ s with evt := { s.evt with fresh := s.evt.fresh + 1 } }, s.evt.fresh)

/-! ## Records of tiles, streams and engines -/

/-- A stream as a start leaves it: nothing drains, no loop. -/
def StreamHid.init : StreamHid :=
  { loops := [], drain := none, waitN := 0, waitSd := 0, waitTides := 0, waitFired := false, tagSkip := false,
    step := false, waitInsn := none, broken := none, since := 0, ready := [] }

/-- A tile right after reset. -/
def TileHid.init : TileHid :=
  { ac := 0, seen := 0, tokPend := [], tokNext := [], vev := [], vseq := 0, nextPkt := 0, mxaQ := [], lxeQ := [], postQ := [],
    speQ := [], postOut := [] }

/-- An engine right after reset. -/
def EngHid.init : EngHid := { sb := [], link := [], det := [], busy := [] }

/-- A clean zero vector register. -/
def VReg.zero : VReg := { bits := 0, poison := 0 }

/-- A clean zero mask register. -/
def MReg.zero : MReg := { bits := 0, poison := 0 }

def State.tile (s : State) (t : Nat) : TileHid := Store.get (fun _ => TileHid.init) s.tiles t

def State.setTile (s : State) (t : Nat) (h : TileHid) : State :=
  { s with tiles := Store.put (fun _ => TileHid.init) s.tiles t h }

def State.stream (s : State) (t st : Nat) : StreamHid := Store.get (fun _ => StreamHid.init) s.strm (t * 8 + st)

def State.setStream (s : State) (t st : Nat) (h : StreamHid) : State :=
  { s with strm := Store.put (fun _ => StreamHid.init) s.strm (t * 8 + st) h }

def State.eng (s : State) (t e : Nat) : EngHid := Store.get (fun _ => EngHid.init) s.engs (t * 2 + e)

def State.setEng (s : State) (t e : Nat) (h : EngHid) : State :=
  { s with engs := Store.put (fun _ => EngHid.init) s.engs (t * 2 + e) h }

def State.vreg (s : State) (t e v : Nat) : VReg := Store.get (fun _ => VReg.zero) s.vregs ((t * 2 + e) * 64 + v)

def State.setVreg (s : State) (t e v : Nat) (r : VReg) : State :=
  { s with vregs := Store.put (fun _ => VReg.zero) s.vregs ((t * 2 + e) * 64 + v) r }

def State.mreg (s : State) (t e m : Nat) : MReg := Store.get (fun _ => MReg.zero) s.mregs ((t * 2 + e) * 16 + m)

def State.setMreg (s : State) (t e m : Nat) (r : MReg) : State :=
  { s with mregs := Store.put (fun _ => MReg.zero) s.mregs ((t * 2 + e) * 16 + m) r }

/-- An empty finished-tile queue bank. -/
def FtqBank.empty : FtqBank := { words := [], entered := 0, bad := 0 }

def State.ftqBank (s : State) (t b : Nat) : FtqBank := Store.get (fun _ => FtqBank.empty) s.ftq (t * 2 + b)

def State.setFtqBank (s : State) (t b : Nat) (k : FtqBank) : State :=
  { s with ftq := Store.put (fun _ => FtqBank.empty) s.ftq (t * 2 + b) k }

/-- A matrix array right after reset. -/
def MxaUnit.init : MxaUnit := { run := [], stat := none, held := none, rho := 48 }

def State.mxau (s : State) (t : Nat) : MxaUnit := Store.get (fun _ => MxaUnit.init) s.mxa t

def State.setMxau (s : State) (t : Nat) (u : MxaUnit) : State :=
  { s with mxa := Store.put (fun _ => MxaUnit.init) s.mxa t u }

/-- A 32-bit word of an accumulator bank. -/
def State.accWord (s : State) (t b w : Nat) : BitVec 32 := Store.get (fun _ => 0) s.acc ((t * 2 + b) * 65536 + w)

def State.setAccWord (s : State) (t b w v : Nat) : State :=
  { s with acc := Store.put (fun _ => 0) s.acc ((t * 2 + b) * 65536 + w) (BitVec.ofNat 32 v) }

/-- An SFU right after reset. -/
def SfuUnit.init : SfuUnit := { tok := 0, n := 0, since := 0, arms := [], t2 := false, t2w := [] }

def State.sfuu (s : State) (t : Nat) : SfuUnit := Store.get (fun _ => SfuUnit.init) s.sfu t

def State.setSfuu (s : State) (t : Nat) (u : SfuUnit) : State :=
  { s with sfu := Store.put (fun _ => SfuUnit.init) s.sfu t u }

/-- A byte of table bank `b` (R185); a job reset clears both banks, and reset is taken to (R189, log entry 32). -/
def State.sfuByte (s : State) (t b o : Nat) : Byte := Store.get (fun _ => 0) s.sfuMem ((t * 2 + b) * 0x8800 + o)

def State.setSfuByte (s : State) (t b o : Nat) (v : Byte) : State :=
  { s with sfuMem := Store.put (fun _ => 0) s.sfuMem ((t * 2 + b) * 0x8800 + o) v }

/-- The sparse command under way in a tile. -/
def State.speRun (s : State) (t : Nat) : Option SpeRun := Store.get (fun _ => none) s.spe t

def State.setSpeRun (s : State) (t : Nat) (r : Option SpeRun) : State :=
  { s with spe := Store.put (fun _ => none) s.spe t r }

/-- A key of the associative memory; 0 before any is loaded (log entry 2). -/
def State.camKey (s : State) (t k : Nat) : BitVec 32 := Store.get (fun _ => 0) s.cam (t * 4096 + k)

def State.setCamKey (s : State) (t k v : Nat) : State :=
  { s with cam := Store.put (fun _ => 0) s.cam (t * 4096 + k) (BitVec.ofNat 32 v) }

/-- A live census count of a tile: format `f`, counter 0 CONV, 1 SAT, 2 VANISH (R151). -/
def State.censusCount (s : State) (t f c : Nat) : Nat := Store.get (fun _ => 0) s.census (t * 64 + f * 4 + c)

/-- A live census count raised, saturating at 48 bits, while counting is enabled (R151, R178). -/
def State.censusAdd (s : State) (t f c n : Nat) : State :=
  if n = 0 ∨ !s.flag (F.VXE_CENSUS_CTL_EN t) then s
  else { s with census := Store.put (fun _ => 0) s.census (t * 64 + f * 4 + c) (satAdd 48 (s.censusCount t f c) n) }

/-! ## Scalar registers (R56) -/

/-- A scalar register; S0 reads as 0. -/
def State.sreg (s : State) (t st n : Nat) : Word := if n = 0 then 0 else s.reg (R.TSQ_SREG t st n)

/-- A scalar register written; a write to S0 is discarded. -/
def State.setSreg (s : State) (t st n : Nat) (w : Word) : State :=
  if n = 0 then s else s.setReg (R.TSQ_SREG t st n) w

/-! ## The tide count as units see it (R21) -/

/-- The tide count of the tide unit. -/
def State.count (s : State) : Nat := s.fld F.TIDE_COUNT_COUNT

/-! ## MSI-X signalling (R408) -/

/-- Vector `v` may send now: Bus Master Enable set and the vector not masked. -/
def State.vectorOpen (s : State) (v : Nat) : Bool :=
  s.host.busMaster && !(bitsOf (s.reg (R.MBX_MSIX v 1)).toNat 32 1 == 1)

/-- An MSI-X message sent: the vector's address and data go out. -/
def State.sendVector (s : State) (v : Nat) : State :=
  { s with host := { s.host with
      sent := s.host.sent ++ [(v, s.reg (R.MBX_MSIX v 0), BitVec.ofNat 32 (bitsOf (s.reg (R.MBX_MSIX v 1)).toNat 0 32))],
      sentTide := if 32 ≤ v then v :: s.host.sentTide else s.host.sentTide } }

/-- The pending bit of a vector set. -/
def State.pendVector (s : State) (v : Nat) : State :=
  s.setReg R.MBX_PBA (s.reg R.MBX_PBA ||| BitVec.ofNat 64 (1 <<< v))

/-- A vector signalled: sent, or pending where it is masked, mastering is off, or an event vector has already sent in
this tide (R408). -/
def State.signal (s : State) (v : Nat) : State :=
  if s.vectorOpen v && !(decide (32 ≤ v) && s.host.sentTide.contains v) then s.sendVector v else s.pendVector v

/-! ## Event records (R448 to R452) -/

/-- The detail bytes: fields packed in order, little-endian; a field that would pass byte 31 of the record is omitted
with every field after it (R448). Each field is (bytes, value); a value that does not fit saturates. -/
def packDetail : List (Nat × Nat) → Nat → Nat
  | [], _ => 0
  | (n, v) :: fs, pos =>
    if 20 < pos + n then 0
    else (min v (2 ^ (8 * n) - 1)) <<< (8 * pos) ||| packDetail fs (pos + n)

/-- The 32-byte record (R448). -/
def mkRecord (tide src code flags detail : Nat) : BitVec 256 :=
  BitVec.ofNat 256 (tide % 2 ^ 48 + (src % 2 ^ 16) * 2 ^ 48 + (code % 2 ^ 16) * 2 ^ 64 + (flags % 2 ^ 16) * 2 ^ 80
    + (detail % 2 ^ 160) * 2 ^ 96)

/-- The source code of a record. -/
def recSource (r : BitVec 256) : Nat := bitsOf r.toNat 48 16

/-- The event code of a record. -/
def recCode (r : BitVec 256) : Nat := bitsOf r.toNat 64 16

/-- The record with LOST_BEFORE set. -/
def markLost (r : BitVec 256) : BitVec 256 := r ||| BitVec.ofNat 256 (2 ^ 83)

/-- The first event with the trigger code arms the capture freeze (R462). -/
def State.noteTrigger (s : State) (code tide : Nat) : State :=
  if s.flag F.EVT_CAP_CTL_TRIG_EN && s.flag F.EVT_CAP_CTL_EN && code == s.fld F.EVT_CAP_CTL_TRIG_CODE
      && s.evt.trig.isNone then
    { s with evt := { s.evt with trig := some tide } }
  else s

/-- A record that arises at its source: it waits for the event unit in the source's buffer of 4, or is dropped and
counted, the source's next record then carrying LOST_BEFORE (R450). -/
def State.arise (s : State) (src : Nat) (r : BitVec 256) : State :=
  if (s.evt.waiting.filter (fun p => p.1 == src)).length < 4 then
    let r' := if s.evt.lostSrc.contains src then markLost r else r
    { s with evt := { s.evt with waiting := s.evt.waiting ++ [(src, r')], lostSrc := s.evt.lostSrc.erase src } }
  else
    let s1 := (s.incFld F.EVT_CNT_SRC_DROP 1).set1 F.EVT_STATUS_LOST
    { s1 with evt := { s1.evt with lostSrc := src :: s1.evt.lostSrc.erase src } }

/-- An event logged with the tide its source sees; one marked for the host signals its vector whenever it arises
(R408, R450), and every record of a replay carries REPLAY (R465). -/
def State.logAt (s : State) (tide src code : Nat) (host : Bool) (detail : List (Nat × Nat)) : State :=
  let flags := b2n host + 2 * s.fld F.EVT_STATUS_REPLAY_RUN
  let s1 := (s.arise src (mkRecord tide src code flags (packDetail detail 0))).noteTrigger code tide
  if host then s1.signal (32 + code / 256 % 16) else s1

/-- Source unit codes (R449). -/
def srcTIDE : Nat := 0x100
def srcMEM  : Nat := 0x101
def srcFAB  : Nat := 0x102
def srcQUE  : Nat := 0x103
def srcGRE  : Nat := 0x104
def srcPWR  : Nat := 0x105
def srcMBX  : Nat := 0x106
def srcMGP  : Nat := 0x107
def srcDCP (d : Nat) : Nat := 0x108 + d
def srcEVT  : Nat := 0x10C
def srcHOST : Nat := 0x110

/-- An event of a device unit: its tide is the tide unit's count. -/
def State.logDev (s : State) (src code : Nat) (host : Bool) (detail : List (Nat × Nat)) : State :=
  s.logAt s.count src code host detail

/-- An event of a unit that counts delivered tides: the GRE and the power controller (R21). -/
def State.logDeliv (s : State) (src code : Nat) (host : Bool) (detail : List (Nat × Nat)) : State :=
  s.logAt s.tide.delivered src code host detail

/-- An event of a tile: its tide is the count the tile sees. -/
def State.logTile (s : State) (t code : Nat) (host : Bool) (detail : List (Nat × Nat)) : State :=
  s.logAt (s.tile t).seen t code host detail

/-- Something done at most once per tide under a key (R282, R284, R406, R461). -/
def State.oncePerTide (s : State) (key : Nat × Nat × Nat) (f : State → State) : State :=
  let keys := if s.evt.onceTide = s.count then s.evt.onceKeys else []
  if keys.contains key then s
  else f { s with evt := { s.evt with onceTide := s.count, onceKeys := key :: keys } }

/-! ## Event counters of a tile (R95) -/

/-- A tile's event counters that count event `sel` of stream `st` rise by `n` (R95); a frozen counter stands. -/
def State.countEv (s : State) (t sel st n : Nat) : State :=
  (List.range 8).foldl (fun s i =>
    if s.fld (F.TSQ_EVCNT_SEL_SEL t i) = sel ∧ s.fld (F.TSQ_EVCNT_SEL_FROZEN t i) = 0
        ∧ (s.fld (F.TSQ_EVCNT_SEL_FILT t i) = 0 ∨ sel = 1 ∨ s.fld (F.TSQ_EVCNT_SEL_STREAM t i) = st) then
      s.incFld (F.TSQ_EVCNT_VALUE_VALUE t i) n
    else s) s

/-! ## Tokens (R72 to R76) -/

def flagZERO_WORK : Nat := 1
def flagERROR : Nat := 2
def flagPOISON : Nat := 4
def flagOVERFLOW : Nat := 8
def flagREMOTE : Nat := 16

/-- Producers named in TOKEN_OVERFLOW: 0 to 7 a stream, then the engines. DESIGN CHOICE (log entry 21). -/
def prodMXA : Nat := 8
def prodSPE : Nat := 9
def prodLXE : Nat := 10
def prodQUE : Nat := 11
def prodGRE : Nat := 12
def prodVXE : Nat := 13
def prodFTQ : Nat := 14
def prodFAB : Nat := 15

/-- A token update offered in the tile's present ac: it applies at the end of the ac (R76). -/
def State.tokUpd (s : State) (t : Nat) (u : TokUpd) : State :=
  s.setTile t { s.tile t with tokPend := (s.tile t).tokPend ++ [u] }

/-- An increment of a token by a completion (R73): one, with its flags. Events `0x0F` count it (R95). -/
def State.produce (s : State) (t k flags producer : Nat) : State :=
  (s.tokUpd t (.inc (k % 4096) 1 flags producer)).countEv t 0x0F 8 1

/-! ## Arming the SFU's table swap (R187) -/

/-- The swap armed with a token and an amount, to take place in a later ac; an arm in force is replaced. -/
def State.sfuArm (s : State) (t tok n : Nat) : State :=
  let s1 := if s.flag (F.SFU_STATUS_ARMED t) then
      (s.set1 (F.SFU_STATUS_REARM t)).logTile t 0x0503 false [(2, (s.sfuu t).tok), (2, tok), (2, n)]
    else s
  (s1.setSfuu t { s1.sfuu t with tok := tok, n := n, since := (s.tile t).ac + 1 }).set1 (F.SFU_STATUS_ARMED t)

/-- The arms that the engines issued in the ac that ends apply: engine 0's, then engine 1's. -/
def State.settleArms (s : State) (t : Nat) : State :=
  let arms := (s.sfuu t).arms
  if arms.isEmpty then s
  else
    (arms.filter (fun a => a.1 == 0) ++ arms.filter (fun a => a.1 != 0)).foldl (fun s a => s.sfuArm t a.2.1 a.2.2)
      (s.setSfuu t { s.sfuu t with arms := [] })

/-- One token's increments of an ac added, saturating against what the earlier steps left (R76). -/
def State.tokInc (s : State) (t k n flags producer : Nat) : State :=
  let c := s.fld (F.TSQ_TOKEN_COUNT t k) + n
  if 65535 < c then
    ((s.setFld (F.TSQ_TOKEN_COUNT t k) 65535).orFld (F.TSQ_TOKEN_FLAGS t k) (flags ||| flagOVERFLOW)).logTile t 0x0207 false
      [(2, k), (1, producer)]
  else (s.setFld (F.TSQ_TOKEN_COUNT t k) c).orFld (F.TSQ_TOKEN_FLAGS t k) flags

/-- One token update applied. -/
def State.applyTok (s : State) (t : Nat) : TokUpd → State
  | .sub k n => (s.setFld (F.TSQ_TOKEN_COUNT t k) (s.fld (F.TSQ_TOKEN_COUNT t k) - n)).setFld (F.TSQ_TOKEN_FLAGS t k) 0
  | .clr k => (s.setFld (F.TSQ_TOKEN_COUNT t k) 0).setFld (F.TSQ_TOKEN_FLAGS t k) 0
  | .put k c f => (s.setFld (F.TSQ_TOKEN_COUNT t k) c).setFld (F.TSQ_TOKEN_FLAGS t k) f
  | .inc k n f p => s.tokInc t k n f p

/-- A place in the order of R76 within one ac: satisfied waits, TOK.CLR, then a TSQ_TOKEN write, then increments. -/
def TokUpd.rank : TokUpd → Nat
  | .sub .. => 0
  | .clr _ => 1
  | .put .. => 2
  | .inc .. => 3

/-- The token an update acts on. -/
def TokUpd.tok : TokUpd → Nat
  | .sub k _ => k
  | .clr k => k
  | .put k .. => k
  | .inc k .. => k

/-- Increments of one ac to one token summed into one update (R76): flags ORed, the last producer named. -/
def mergeInc : List TokUpd → TokUpd → List TokUpd
  | [], u => [u]
  | .inc k n f p :: us, .inc k' n' f' p' =>
    if k = k' then .inc k (n + n') (f ||| f') p' :: us else .inc k n f p :: mergeInc us (.inc k' n' f' p')
  | x :: us, u => x :: mergeInc us u

/-- The reduction engine sees its ready tokens as waits see them (R347): a bucket of the tile whose count has come is ready. -/
def State.latchReady (s : State) (t : Nat) : State :=
  if s.gre.buckets.isEmpty then s
  else { s with gre := { s.gre with buckets := s.gre.buckets.map (fun b =>
    if b.tile = t ∧ bitsOf (b.d.getD 4 0) 12 16 ≤ s.fld (F.TSQ_TOKEN_COUNT t (bitsOf (b.d.getD 4 0) 0 12)) then
      { b with ready := true } else b) } }

/-- The token updates of one ac applied in R76's order. -/
def State.applyToks (s : State) (t : Nat) (us : List TokUpd) : State :=
  let rank (r : Nat) := us.filter (fun u => u.rank = r)
  ((rank 0 ++ rank 1 ++ rank 2 ++ (rank 3).foldl mergeInc []).foldl (fun s u => s.applyTok t u) s).latchReady t

end Sys2Proof.Machine
end

