-- ==== Sys2Proof/Machine/Mem.lean ====
section
/-! DEFINITION. The stores of the local map (R268): regions, the read and the write of bytes with ECC, poison marking and
their counting (R271, R279 to R282). -/
namespace Sys2Proof.Machine

/-- The regions of the local map (R268). -/
inductive Region where
  | near
  | deep
  | tile (t : Nat)
  | tileRegs
  | devRegs
  | diag
  | unmapped
  deriving DecidableEq, Repr

/-- The region of a local-map offset. -/
def regionOf (a : Nat) : Region :=
  if a < 0x010000000000 then .near
  else if a < 0x020000000000 then .deep
  else if a < 0x020048000000 then .tile ((a - 0x020000000000) / 0x800000)
  else if 0x030000000000 ≤ a ∧ a < 0x030048000000 then .tileRegs
  else if 0x038000000000 ≤ a ∧ a < 0x038010000000 then .devRegs
  else if 0x039000000000 ≤ a ∧ a < 0x039050000000 then .diag
  else .unmapped

/-- The byte at an offset has storage behind it (R268). -/
def populated (a : Nat) : Bool :=
  match regionOf a with
  | .near => a < 0x00861C468000
  | .deep => a < 0x019502F90000
  | .tile _ => (a - 0x020000000000) % 0x800000 < 0x600000
  | _ => false

/-- Local-map address of byte `x` of tile `t`'s memory (R268). -/
def tileAddr (t x : Nat) : Nat := 0x020000000000 + t * 0x800000 + x

/-- The check granule of a memory byte: 4 B in tile memory, 8 B in the tiers (R280). -/
def granule (a : Nat) : Nat := match regionOf a with
  | .tile _ => 4
  | _ => 8

/-- The first byte of the word that holds a byte. -/
def wordBase (a : Nat) : Nat := a - a % granule a

/-- The words touched by `n` bytes from `a`, lowest first. -/
def wordsOf (a n : Nat) : List Nat :=
  if n = 0 then []
  else
    let g := granule a
    let b := wordBase a
    (List.range ((a + n - 1 - b) / g + 1)).map (fun i => b + i * g)

/-- What a byte of memory that nothing has written reads as. Firmware writes every memory to zero before FW_READY
(R423, code U); DESIGN CHOICE that the state after reset already reads so (log entry 1). -/
def memDefault (_ : Nat) : Byte := 0

/-- A byte of memory. -/
def State.byte (s : State) (a : Nat) : Byte := Store.get memDefault s.mem a

/-- The state with a byte of memory set. -/
def State.setByte (s : State) (a : Nat) (b : Byte) : State := { s with mem := Store.put memDefault s.mem a b }

/-- The check bits of the word at a word address. -/
def State.tag (s : State) (w : Nat) : WordTag := Store.get (fun _ => WordTag.clean) s.tags w

/-- The state with a word's check bits set. -/
def State.setTag (s : State) (w : Nat) (g : WordTag) : State :=
  { s with tags := Store.put (fun _ => WordTag.clean) s.tags w g }

/-- The memory's canonical form. -/
def Memory.wf (m : List Host.Cell) : Bool := Store.wf memDefault m

/-- `n` bytes from an address. -/
def State.bytes (s : State) (a n : Nat) : List Byte := (List.range n).map (fun i => s.byte (a + i))

/-- The bytes' little-endian number. -/
def State.num (s : State) (a n : Nat) : Nat := leNat (s.bytes a n)

/-- A read of the word delivers it poisoned (R280, R281). -/
def WordTag.bad : WordTag → Bool
  | .marked => true
  | .ue => true
  | _ => false

/-- Some word under `n` bytes from an address delivers poison. -/
def State.poisoned (s : State) (a n : Nat) : Bool := (wordsOf a n).any (fun w => (s.tag w).bad)

/-- A master as the memory system and the events name it: device and source unit (R282). -/
structure Req where
  dev : Nat
  src : Nat
  deriving DecidableEq, Repr

/-- A unit of this device as requester: its device is FAB_ID.ID, valid or not (R266). -/
def State.own (s : State) (src : Nat) : Req := { dev := s.fld F.FAB_ID_ID, src := src }

/-- Tier codes of MEM_ERR_INFO and the events: 1 tile memory, 2 near, 3 deep. -/
def tierOf (a : Nat) : Nat := match regionOf a with
  | .tile _ => 1
  | .near => 2
  | .deep => 3
  | _ => 0

/-- The source unit of a memory event at an address (R289). -/
def memSource (a : Nat) : Nat := match regionOf a with
  | .tile t => t
  | _ => srcMEM

/-- The tide a memory event's source sees. -/
def State.memTide (s : State) (a : Nat) : Nat := match regionOf a with
  | .tile t => (s.tile t).seen
  | _ => s.count

/-- The MEM_DEV_ERR index of a tier address: near-tier stack (R277) or 12 + deep-tier package (R278). -/
def devIndex (a : Nat) : Option Nat := match regionOf a with
  | .near => some (a / 256 % 12)
  | .deep => some (12 + (a - 0x010000000000) / 4096 % 20)
  | _ => none

/-- The first uncorrectable error or unmapped access is captured while no capture is held (R282). -/
def State.captureErr (s : State) (q : Req) (tier kind a : Nat) : State :=
  if s.flag F.MEM_ERR_INFO_VALID then s
  else
    let s1 := (s.setFld F.MEM_ERR_INFO_TIER tier).setFld F.MEM_ERR_INFO_KIND kind
    let s2 := (s1.setFld F.MEM_ERR_INFO_SOURCE q.src).set1 F.MEM_ERR_INFO_VALID
    (s2.setFld F.MEM_ERR_ADDR_OFFSET a).setFld F.MEM_ERR_ADDR_REQ_DEV q.dev

/-- A corrected word counted, per tier, per stack or package, and toward MEM_CE, logged once per tier and tide (R280, R282). -/
def State.countCE (s : State) (a : Nat) : State :=
  let u := if s.memu.ceTide = s.count then s.memu else { s.memu with ceTide := s.count, ceTile := 0, ceNear := 0, ceDeep := 0 }
  let thr := s.fld F.MEM_CTL_CE_LOG_THRESH
  let log (s : State) (n : Nat) : State :=
    if thr ≠ 0 ∧ thr ≤ n then s.oncePerTide (0x0801, tierOf a, 0) (fun s =>
      s.logAt (s.memTide a) (memSource a) 0x0801 false [(1, tierOf a), (4, n)])
    else s
  let dev (s : State) : State := match devIndex a with
    | some i => s.incFld (F.MEM_DEV_ERR_CE i) 1
    | none => s
  match tierOf a with
  | 1 =>
    let s1 := { s with memu := { u with ceTile := u.ceTile + 1 } }
    log ((s1.incFld F.MEM_CNT_CE_TILE_VALUE 1).set1 F.MEM_STATUS_CE_TILE) (u.ceTile + 1)
  | 2 =>
    let s1 := { s with memu := { u with ceNear := u.ceNear + 1 } }
    log (dev ((s1.incFld F.MEM_CNT_CE_NEAR_VALUE 1).set1 F.MEM_STATUS_CE_NEAR)) (u.ceNear + 1)
  | _ =>
    let s1 := { s with memu := { u with ceDeep := u.ceDeep + 1 } }
    log (dev ((s1.incFld F.MEM_CNT_CE_DEEP_VALUE 1).set1 F.MEM_STATUS_CE_DEEP)) (u.ceDeep + 1)

/-- An uncorrectable word counted and captured (R282); `kind` 1, or 3 for the scrubber's. -/
def State.countUE (s : State) (q : Req) (kind a : Nat) : State :=
  let s1 := match tierOf a with
    | 1 => (s.incFld F.MEM_CNT_UE_TILE_VALUE 1).set1 F.MEM_STATUS_UE_TILE
    | 2 => (s.incFld F.MEM_CNT_UE_NEAR_VALUE 1).set1 F.MEM_STATUS_UE_NEAR
    | _ => (s.incFld F.MEM_CNT_UE_DEEP_VALUE 1).set1 F.MEM_STATUS_UE_DEEP
  let s2 := match devIndex a with
    | some i => s1.incFld (F.MEM_DEV_ERR_UE i) 1
    | none => s1
  s2.captureErr q (tierOf a) kind a

/-- An uncorrectable error met by a read, or by the scrubber (`kind` 3): counted, captured, MEM_UE at most once per tier and tide
(R282). -/
def State.readUE (s : State) (q : Req) (kind a : Nat) : State :=
  (s.countUE q kind a).oncePerTide (0x0802, tierOf a, 0) (fun s =>
    s.logAt (s.memTide a) (memSource a) 0x0802 true [(1, tierOf a), (8, a), (2, q.dev), (2, q.src)])

/-- What a read of one word does beside delivering it (R280, R281). -/
def State.noteRead (s : State) (q : Req) (w : Nat) : State :=
  match s.tag w with
  | .clean => s
  | .marked => (s.incFld F.MEM_CNT_POISON_RD_VALUE 1).set1 F.MEM_STATUS_POISON_RD
  | .ce =>
    let s1 := s.countCE w
    if s1.flag F.MEM_CTL_CE_WB_EN then s1.setTag w .clean else s1
  | .ue => s.readUE q 1 w

/-- What a read of `n` bytes does beside delivering them. -/
def State.noteReads (s : State) (q : Req) (a n : Nat) : State :=
  (wordsOf a n).foldl (fun s w => s.noteRead q w) s

/-- A word written with or without the poison marking (R281). -/
def State.putMark (s : State) (w : Nat) (marked : Bool) : State :=
  if marked then (s.setTag w .marked).incFld F.MEM_CNT_POISON_WR_VALUE 1 else s.setTag w .clean

/-- A word's check bits after a write that covers it whole or in part, poisoned or clean (R279 to R281). A partial
write into a tier is a read-modify-write whose read is counted as any read is; a correctable error it finds is corrected. -/
def State.noteWrite (s : State) (q : Req) (w : Nat) (whole bad : Bool) : State :=
  if whole then s.putMark w bad
  else match s.tag w with
    | .clean => s.putMark w bad
    | .marked => (if tierOf w = 1 then s else s.noteRead q w).putMark w true
    | .ce => if tierOf w = 1 then (if bad then s.putMark w true else s) else (s.countCE w).putMark w bad
    | .ue => (if tierOf w = 1 then s else s.readUE q 1 w).putMark w true

/-- Bytes stored from an address up, with the poison of the data (R281). The bytes lie in one memory region. -/
def State.writeBytes (s : State) (q : Req) (a : Nat) (bs : List Byte) (bad : Bool) : State :=
  let s1 := (wordsOf a bs.length).foldl (fun s w =>
    s.noteWrite q w (decide (a ≤ w ∧ w + granule w ≤ a + bs.length)) bad) s
  (bs.foldl (fun (p : State × Nat) b => (p.1.setByte p.2 b, p.2 + 1)) (s1, a)).1

/-- A word's check bits after the write of a read-modify-write whose read has been counted: no second read. -/
def State.noteMerge (s : State) (w : Nat) (whole bad : Bool) : State :=
  if whole then s.putMark w bad
  else match s.tag w with
    | .clean => s.putMark w bad
    | .ce => s.putMark w bad
    | .marked => s.putMark w true
    | .ue => s.putMark w true

/-- A read-modify-write of bytes: its one read of each word counted, then the bytes stored (R279 to R281). -/
def State.rmwBytes (s : State) (q : Req) (a : Nat) (bs : List Byte) (bad : Bool) : State :=
  let s1 := (wordsOf a bs.length).foldl (fun s w =>
    s.noteMerge w (decide (a ≤ w ∧ w + granule w ≤ a + bs.length)) bad) (s.noteReads q a bs.length)
  (bs.foldl (fun (p : State × Nat) b => (p.1.setByte p.2 b, p.2 + 1)) (s1, a)).1

/-- Access kinds of MEM_UNMAPPED (R289). -/
def kindRead : Nat := 0
def kindWrite : Nat := 1
def kindAtomic : Nat := 2
def kindSacc : Nat := 3

/-- An access answered with an error under R271: counted, flagged, captured, logged once per requester and tide. -/
def State.unmapped (s : State) (q : Req) (a kind : Nat) : State :=
  let s1 := ((s.incFld F.MEM_CNT_UNMAPPED_VALUE 1).set1 F.MEM_STATUS_UNMAPPED).captureErr q 0 2 a
  s1.oncePerTide (0x0803, q.dev, q.src) (fun s =>
    s.logDev srcMEM 0x0803 false [(8, a), (2, q.dev), (2, q.src), (1, kind)])

/-- Words found upset at an access, as the environment gives them: true for an uncorrectable error. A marked word keeps
its marking. -/
def State.upset (s : State) (us : List (Nat × Bool)) : State :=
  us.foldl (fun s u =>
    if populated u.1 && !(s.tag (wordBase u.1) == .marked) then s.setTag (wordBase u.1) (if u.2 then .ue else .ce) else s) s

/-! ## Boundaries within an access (R271) -/

/-- The next address above `a` at which an access is judged anew: the boundaries of regions and of populated parts. -/
def edgeOf (a : Nat) : Nat :=
  match regionOf a with
  | .near => if a < 0x00861C468000 then 0x00861C468000 else 0x010000000000
  | .deep => if a < 0x019502F90000 then 0x019502F90000 else 0x020000000000
  | .tile t => if a < tileAddr t 0x600000 then tileAddr t 0x600000 else tileAddr (t + 1) 0
  | .tileRegs => 0x030048000000
  | .devRegs => 0x038010000000
  | .diag => 0x039000000000 + ((a - 0x039000000000) / 0x800000 + 1) * 0x800000
  | .unmapped =>
    if a < 0x030000000000 then 0x030000000000 else if a < 0x038000000000 then 0x038000000000
    else if a < 0x039000000000 then 0x039000000000 else 2 ^ 48

/-- The parts of an access of `n` bytes at `a`, lowest first; at most `k` of them. -/
def parts : Nat → Nat → Nat → List (Nat × Nat)
  | 0, _, _ => []
  | k + 1, a, n => if n = 0 then [] else
      let d := min n (edgeOf a - a)
      (a, d) :: parts k (a + d) (n - d)

/-! ## Register writes during a job (R284, R407) -/

/-- Some stream is out of IDLE. -/
def State.anyStreamOut (s : State) : Bool :=
  s.regs.any (fun p => decide (0x30000000000 ≤ p.1) && decide (p.1 < 0x30048000000)
    && decide (0x110 ≤ p.1 % 0x800000) && decide (p.1 % 0x800000 < 0x510) && p.1 % 0x80 == 0x10 && p.2.toNat % 16 != 0)

/-- The source unit named for a block a job's registers lie in: the logical tile, or MGP_, TIDE_, GRE_ or QUE_; none for
another block. -/
def jobBlock (a : Nat) : Option Nat :=
  match regionOf a with
  | .tileRegs => some ((a - 0x30000000000) / 0x800000)
  | .devRegs =>
    if a < 0x38001000000 then some srcTIDE
    else if 0x38003000000 ≤ a ∧ a < 0x38004000000 then some srcQUE
    else if 0x38004000000 ≤ a ∧ a < 0x38005000000 then some srcGRE
    else if 0x38007000000 ≤ a ∧ a < 0x38008000000 then some srcMGP
    else none
  | _ => none

/-- A register write while a stream is out of IDLE is logged: the host's as HOST_REG_WRITE, another master's as
REG_WRITE_IN_JOB once per requester and tide; this device's management processor and die controllers are exempt. `x` is the
address as accessed, `a` the register's. -/
def State.noteRegWrite (s : State) (q : Req) (x a : Nat) : State :=
  match jobBlock a with
  | none => s
  | some u =>
    if !s.anyStreamOut then s
    else
      let here := q.dev == s.fld F.FAB_ID_ID
      if here && q.src == srcHOST then (s.set1 F.MBX_STATUS_REG_WRITE_IN_JOB).logDev srcMBX 0x0D05 true [(8, x)]
      else if here && (q.src == srcMGP || (decide (srcDCP 0 ≤ q.src) && decide (q.src ≤ srcDCP 3))) then s
      else s.oncePerTide (0x0F09, q.dev, q.src) (fun s =>
        let d := [(8, x), (2, q.dev), (2, q.src)]
        if u < 144 then s.logTile u 0x0F09 true d else s.logDev u 0x0F09 true d)

/-- The same of a write given by a command of its own: its master and the register's address. -/
def State.noteBy (s : State) (m : Master) (a : Nat) : State := s.noteRegWrite ⟨m.dev.toNat, m.src.toNat⟩ a a

end Sys2Proof.Machine
end

