-- ==== Sys2Proof/Machine/Pattern.lean ====
section
/-! DEFINITION. What engine commands carry: their descriptor words (R82), address patterns (R77, R78), element units (R103,
R239), ring indices, CRC-32C. -/
namespace Sys2Proof.Machine

/-! ## Descriptor words -/

/-- A little-endian 64-bit word of a descriptor block. -/
def QCmd.word (c : QCmd) (k : Nat) : Nat := leNat ((c.desc.drop (8 * k)).take 8)

/-- Bits [lo + w - 1 : lo] of word `k` of a descriptor block. -/
def QCmd.bits (c : QCmd) (k lo w : Nat) : Nat := bitsOf (c.word k) lo w

/-- Some descriptor word was read poisoned (R82). -/
def QCmd.poisoned (c : QCmd) : Bool := c.bad.any id

/-- 64-bit word `k` of the descriptor block was read poisoned. -/
def QCmd.badWord (c : QCmd) (k : Nat) : Bool := (c.bad.getD (2 * k) false) || (c.bad.getD (2 * k + 1) false)

/-! ## Address patterns (R77, R78) -/

/-- A pattern: base and levels (count, stride), innermost first. -/
structure Pat where
  base : Nat
  lv   : List (Nat × Int)
  deriving DecidableEq, Repr

/-- The pattern of descriptor `d` of a block. -/
def QCmd.pat (c : QCmd) (d : Nat) : Pat :=
  { base := c.word (8 * d)
    lv := (List.range 6).map (fun k =>
      let w := c.word (8 * d + 1 + k)
      (bitsOf w 0 24, toSigned 40 (bitsOf w 24 40))) }

/-- The accesses a pattern generates. -/
def Pat.total (p : Pat) : Nat := p.lv.foldl (fun n l => n * l.1) 1

/-- The offsets of the levels given, innermost first, in generation order (R78). -/
def levelOffsets : List (Nat × Int) → List Int
  | [] => [0]
  | l :: ls => (levelOffsets ls).flatMap (fun o => (List.range l.1).map (fun (i : Nat) => o + (i : Int) * l.2))

/-- The addresses of a pattern in generation order, modulo 2^64 (R78). -/
def Pat.addrs (p : Pat) : List Nat := (levelOffsets p.lv).map (fun o => ofSigned 64 ((p.base : Int) + o))

/-- The lowest and highest access start of a pattern before the reduction modulo 2^64; none where it makes no access. -/
def Pat.span (p : Pat) : Option (Int × Int) :=
  if p.total = 0 then none
  else some (p.lv.foldl (fun (x : Int × Int) l =>
    let d := ((l.1 : Int) - 1) * l.2
    (x.1 + min d 0, x.2 + max d 0)) ((p.base : Int), (p.base : Int)))

/-- The pattern with every address moved by `d`. -/
def Pat.shift (p : Pat) (d : Nat) : Pat := { p with base := (p.base + d) % 2 ^ 64 }

/-- A span of accesses of `unit` bytes lies in a window of `n` bytes from `a`. -/
def spanIn (x : Option (Int × Int)) (unit a n : Nat) : Bool :=
  match x with
  | none => true
  | some (lo, hi) => decide ((a : Int) ≤ lo) && decide (hi + (unit : Int) ≤ (a : Int) + (n : Int))

/-- BASE and every used STRIDE are multiples of the unit; a 3-byte unit is taken as 1 (R106). -/
def Pat.aligned (p : Pat) (unit : Nat) : Bool :=
  let u := if unit = 3 then 1 else unit
  p.base % u == 0 && p.lv.all (fun l => decide (l.1 ≤ 1) || l.2 % (u : Int) == 0)

/-! ## CRC-32C -/

/-- One step of the reflected CRC-32C register. -/
def crcBit (c : Nat) : Nat := if c % 2 = 1 then (c / 2) ^^^ 0x82F63B78 else c / 2

/-- One byte taken into the register. -/
def crcByte (c : Nat) (b : Byte) : Nat :=
  crcBit (crcBit (crcBit (crcBit (crcBit (crcBit (crcBit (crcBit (c ^^^ b.toNat))))))))

/-- Bytes taken into the register. -/
def crcRun (c : Nat) (bs : List Byte) : Nat := bs.foldl crcByte c

/-- The CRC-32C of bytes: initial value and final XOR 0xFFFFFFFF. -/
def crc32c (bs : List Byte) : Nat := crcRun 0xFFFFFFFF bs ^^^ 0xFFFFFFFF

/-! ## Units of element types -/

/-- Unit size in bytes and elements per unit of a format (R103). -/
def mxUnit : Nat → Nat × Nat
  | 0 => (2, 1)
  | 1 => (2, 1)
  | 2 => (1, 1)
  | 3 => (1, 1)
  | 4 => (3, 4)
  | 5 => (3, 4)
  | 6 => (1, 2)
  | 7 => (1, 1)
  | 8 => (1, 2)
  | 9 => (4, 1)
  | 10 => (1, 1)
  | _ => (4, 1)

/-- Unit size in bytes and elements per unit. -/
def lxUnit (e : Nat) : Nat × Nat :=
  if e ≤ 0x0B then mxUnit e
  else match e with
    | 0x0C => (2, 1)
    | 0x0D => (4, 1)
    | 0x10 => (1, 1)
    | _ => (8, 1)

/-- An AOP allowed for a type. -/
def accOk (aop ety : Nat) : Bool :=
  match aop with
  | 0 => decide (ety ≤ 0x10)
  | 1 => [0x09, 0x00, 0x0D, 0x0F].contains ety
  | _ => [0x09, 0x00, 0x0D].contains ety

/-! ## Rings -/

/-- The difference of two free-running 32-bit indices. -/
def idxDiff (a b : Nat) : Nat := (a + 2 ^ 32 - b) % 2 ^ 32

end Sys2Proof.Machine
end

