-- ==== Sys2Proof/Machine/InsnWord.lean ====
section
/-! DEFINITION. The 64-bit instruction word: its layout (R63 to R65), the operand fields of every class (R66, R69, R75, R81,
R83, R84, R140, R156), and which words are illegal (R65, R67, R70, R84, R142, R143). -/
namespace Sys2Proof.Machine

/-! ## Operands as bits -/

/-- The 64-bit word of an instruction (R63). -/
def insnWord (cls op : Nat) (tag : BitVec 8) (operands : Nat) : Nat :=
  cls <<< 60 ||| op <<< 52 ||| tag.toNat <<< 44 ||| operands % 2 ^ 44

/-- The scalar-class operand bits (R66). -/
def scalarBits (a : ScalarArgs) : Nat :=
  a.sd.toNat <<< 39 ||| a.sa.toNat <<< 34 ||| a.sb.toNat <<< 29 ||| b2n a.i <<< 28 ||| a.imm.toNat

/-- The counter-class operand bits (R84). -/
def ctrBits (a : CtrArgs) : Nat := a.sd.toNat <<< 39 ||| a.sa.toNat <<< 34 ||| a.rsv.toNat <<< 4 ||| a.idx.toNat

/-- The vector-class operand bits (R140). -/
def vecBits (a : VArgs) : Nat :=
  a.vd.toNat <<< 38 ||| a.va.toNat <<< 32 ||| a.vb.toNat <<< 26 ||| a.vc.toNat <<< 20 ||| a.mr.toNat <<< 16
    ||| b2n a.me <<< 15 ||| b2n a.z <<< 14 ||| a.ty.toNat <<< 10 ||| a.x.toNat

/-- The vector memory operand bits (R156). -/
def vmemBits (a : VMemArgs) : Nat :=
  a.v.toNat <<< 38 ||| a.vi.toNat <<< 32 ||| a.sa.toNat <<< 27 ||| a.mr.toNat <<< 23 ||| b2n a.me <<< 22
    ||| b2n a.z <<< 21 ||| a.ty.toNat <<< 17 ||| a.var.toNat

/-! ## Legal vector operands (R142, R143) -/

/-- A pair VCVT takes (R148). -/
def cvtPair (src dst : Nat) : Bool :=
  let wide (t : Nat) := decide (3 ≤ t) && decide (t ≤ 6)
  let small (t : Nat) := decide (3 ≤ t) && decide (t ≤ 5)
  let narrow (t : Nat) := decide (7 ≤ t) && decide (t ≤ 12)
  decide (src ≤ 12) && decide (dst ≤ 12) &&
    ((wide src && wide dst) || (small src && narrow dst) || (narrow src && small dst)
      || (src == 5 && decide (dst ≤ 2)) || (decide (src ≤ 2) && dst == 5) || src == dst)

/-- A pair for which MX is legal (R148). -/
def mxPair (src dst : Nat) : Bool :=
  let small (t : Nat) := decide (3 ≤ t) && decide (t ≤ 5)
  let narrow (t : Nat) := decide (7 ≤ t) && decide (t ≤ 11)
  (small src && narrow dst) || (narrow src && small dst) || (src == 5 && dst == 0) || (src == 0 && dst == 5)

/-- The element type in the operand bits. -/
def vecTy (op bits : Nat) : Nat := if 0x40 ≤ op ∧ op ≤ 0x45 then bitsOf bits 17 4 else bitsOf bits 10 4

/-- A vector-class OP is listed, its TY is one the OP takes, and X selects nothing invalid (R142, R143, and R87's types; the
OP values from 0x80 are those of the special functions). -/
def vecLegal (op bits : Nat) : Bool :=
  let ty := vecTy op bits
  let x := bits % 1024
  let fp4 := decide (3 ≤ ty ∧ ty ≤ 6)
  let fp3 := decide (3 ≤ ty ∧ ty ≤ 5)
  match op with
  | 0x00 | 0x01 | 0x02 | 0x03 | 0x04 | 0x10 | 0x11 | 0x12 | 0x13 | 0x14 | 0x16 | 0x21 | 0x22 | 0x28 | 0x30
  | 0x40 | 0x41 | 0x42 | 0x43 | 0x44 | 0x45 => decide (ty ≤ 6)
  | 0x05 | 0x06 => decide (ty ≤ 2)
  | 0x07 => decide (x % 4 ≠ 3)
  | 0x08 | 0x09 | 0x0A | 0x23 | 0x24 | 0x48 | 0x49 | 0x8F => true
  | 0x15 | 0x31 => fp4
  | 0x20 => cvtPair ty (x % 16) && decide (bitsOf x 4 2 ≤ 1) && (!x.testBit 7 || mxPair ty (x % 16))
  | 0x29 => decide (ty ≤ 6) && decide (x % 16 < 8)
  | 0x32 | 0x33 | 0x34 | 0x35 => decide (ty ≤ 5)
  | 0x38 | 0x39 | 0x3A | 0x3B => decide (2 ≤ ty ∧ ty ≤ 5)
  | 0x3C => decide (ty = 5)
  | 0x80 => fp3 && decide (x % 64 ≤ 14)
  | 0x81 | 0x88 | 0x89 => fp3
  | 0x82 => fp3 && (x.testBit 6 || decide (x % 64 ≤ 14))
  | 0x84 | 0x85 => decide (ty = 3 ∨ ty = 5)
  | _ => false

/-! ## The instruction a word holds -/

/-- Bits [lo + n - 1 : lo] of an instruction word. -/
def wf (w lo n : Nat) : BitVec n := BitVec.ofNat n (w >>> lo)

/-- Bit `k` of an instruction word. -/
def wb (w k : Nat) : Bool := w.testBit k

/-- The scalar-class fields of a word (R66). -/
def scalarArgs (w : Nat) : ScalarArgs :=
  { sd := wf w 39 5, sa := wf w 34 5, sb := wf w 29 5, i := wb w 28, imm := wf w 0 28 }

/-- The token-class fields of a word (R75). -/
def tokArgs (w : Nat) : TokArgs := { sd := wf w 39 5, sa := wf w 34 5, token := wf w 22 12, n := wf w 6 16 }

/-- The frame-class fields of a word (R83). -/
def frameArgs (w : Nat) : FrameArgs := { sd := wf w 39 5, sa := wf w 34 5, imm := wf w 0 24 }

/-- The counter-class fields of a word (R84). -/
def ctrArgs (w : Nat) : CtrArgs := { sd := wf w 39 5, sa := wf w 34 5, rsv := wf w 4 30, idx := wf w 0 4 }

/-- The vector-class fields of a word (R140). -/
def vecArgs (w : Nat) : VArgs :=
  { vd := wf w 38 6, va := wf w 32 6, vb := wf w 26 6, vc := wf w 20 6, mr := wf w 16 4, me := wb w 15, z := wb w 14
    ty := wf w 10 4, x := wf w 0 10 }

/-- The vector memory fields of a word (R156). -/
def vmemArgs (w : Nat) : VMemArgs :=
  { v := wf w 38 6, vi := wf w 32 6, sa := wf w 27 5, mr := wf w 23 4, me := wb w 22, z := wb w 21, ty := wf w 17 4
    var := wf w 0 17 }

/-- The matrix-, layout- and post-class fields of a word (R81). -/
def postArgs (w : Nat) : PostArgs := { sa := wf w 39 5, te := wb w 38, token := wf w 26 12, x := wf w 0 26 }

/-- The scalar instruction of an OP (R67). -/
def scalarInsn (i : Iss) (op w : Nat) : Option Instr :=
  let a := scalarArgs w
  match op with
  | 0x00 => some (.sAdd i a)
  | 0x01 => some (.sSub i a)
  | 0x02 => some (.sMul i a)
  | 0x03 => some (.sMad i a)
  | 0x04 => some (.sAnd i a)
  | 0x05 => some (.sOr i a)
  | 0x06 => some (.sXor i a)
  | 0x07 => some (.sShl i a)
  | 0x08 => some (.sShr i a)
  | 0x09 => some (.sSra i a)
  | 0x0A => some (.sMin i a)
  | 0x0B => some (.sMax i a)
  | 0x0C => some (.sMinu i a)
  | 0x0D => some (.sMaxu i a)
  | 0x10 => some (.sCeq i a)
  | 0x11 => some (.sClt i a)
  | 0x12 => some (.sCltu i a)
  | 0x18 => some (.sIns i a)
  | _ => none

/-- The control instruction of an OP (R69). -/
def controlInsn (i : Iss) (op w : Nat) : Option Instr :=
  match op with
  | 0x00 => some (.nop i)
  | 0x01 => some (.halt i)
  | 0x02 => some (.loop i (wf w 39 5) (wb w 38) (wf w 24 14) (wf w 0 24))
  | 0x03 => some (.skipZ i (wf w 34 5) (wf w 0 24))
  | 0x04 => some (.skipNz i (wf w 34 5) (wf w 0 24))
  | 0x05 => some (.lidx i (wf w 39 5) (wf w 0 2))
  | _ => none

/-- The vector instruction of an OP below 0x40 (R142). -/
def vectorLow (i : Iss) (op w : Nat) : Option Instr :=
  let a := vecArgs w
  match op with
  | 0x00 => some (.vmov i a)
  | 0x01 => some (.vand i a)
  | 0x02 => some (.vor i a)
  | 0x03 => some (.vxor i a)
  | 0x04 => some (.vnot i a)
  | 0x05 => some (.vshl i a)
  | 0x06 => some (.vshr i a)
  | 0x07 => some (.vmset i a)
  | 0x08 => some (.vmand i a)
  | 0x09 => some (.vmor i a)
  | 0x0A => some (.vmnot i a)
  | 0x10 => some (.vadd i a)
  | 0x11 => some (.vsub i a)
  | 0x12 => some (.vmul i a)
  | 0x13 => some (.vmin i a)
  | 0x14 => some (.vmax i a)
  | 0x15 => some (.vfma i a)
  | 0x16 => some (.vcmp i a)
  | 0x20 => some (.vcvt i a)
  | 0x21 => some (.vbcast i a)
  | 0x22 => some (.vmovS i a)
  | 0x23 => some (.vsetvl i a)
  | 0x24 => some (.vstatS i a)
  | 0x28 => some (.vperm i a)
  | 0x29 => some (.vshuf i a)
  | 0x30 => some (.vredSum i a)
  | 0x31 => some (.vredProd i a)
  | 0x32 => some (.vredMax i a)
  | 0x33 => some (.vredMin i a)
  | 0x34 => some (.vargMax i a)
  | 0x35 => some (.vargMin i a)
  | 0x38 => some (.vscanSum i a)
  | 0x39 => some (.vscanProd i a)
  | 0x3A => some (.vscanMax i a)
  | 0x3B => some (.vscanMin i a)
  | 0x3C => some (.vscanLr i a)
  | _ => none

/-- The vector instruction of an OP from 0x40 (R142, R194). What the environment does to memory words the instruction reads is
no part of its word. -/
def vectorHigh (i : Iss) (op w : Nat) : Option Instr :=
  let a := vecArgs w
  let m := vmemArgs w
  match op with
  | 0x40 => some (.vld i m [])
  | 0x41 => some (.vst i m)
  | 0x42 => some (.vgather i m [])
  | 0x43 => some (.vscatter i m)
  | 0x44 => some (.vgatherN i m)
  | 0x45 => some (.vscatterN i m)
  | 0x48 => some (.ftqPop i a)
  | 0x49 => some (.ftqDrop i a)
  | 0x80 => some (.vsf i a)
  | 0x81 => some (.vsfU i a [])
  | 0x82 => some (.vsfFuse i a [])
  | 0x84 => some (.vnormRms i a)
  | 0x85 => some (.vnormMv i a)
  | 0x88 => some (.vsmaxP1 i a)
  | 0x89 => some (.vsmaxP2 i a)
  | 0x8F => some (.vsfArm i a)
  | _ => none

/-- The matrix instruction of an OP (R101, R206). -/
def matrixInsn (i : Iss) (op w : Nat) : Option Instr :=
  let a := postArgs w
  match op with
  | 0x00 => some (.mma i a)
  | 0x01 => some (.mmaLoads i a)
  | 0x02 => some (.mmaEw i a)
  | 0x03 => some (.mmaMp i a)
  | 0x40 => some (.spMm i a)
  | 0x41 => some (.spSpgemm i a)
  | 0x42 => some (.spMerge i a)
  | 0x43 => some (.spHarrow i a)
  | 0x44 => some (.spSort i a)
  | _ => none

/-- The layout instruction of an OP (R237). -/
def layoutInsn (i : Iss) (op w : Nat) : Option Instr :=
  let a := postArgs w
  match op with
  | 0x00 => some (.lxCopy i a)
  | 0x01 => some (.lxCvt i a)
  | 0x02 => some (.lxWin i a)
  | 0x03 => some (.lxPrune i a)
  | 0x04 => some (.lxGather i a)
  | 0x05 => some (.lxScat i a)
  | 0x06 => some (.lxFp64s i a)
  | 0x07 => some (.lxFill i a)
  | _ => none

/-- The post instruction of an OP (R64). -/
def postInsn (i : Iss) (op w : Nat) : Option Instr :=
  match op with
  | 0x00 => some (.qPost i (postArgs w))
  | 0x01 => some (.grPost i (postArgs w))
  | _ => none

/-- The token instruction of an OP (R75). -/
def tokenInsn (i : Iss) (op w : Nat) : Option Instr :=
  match op with
  | 0x00 => some (.tokWait i (tokArgs w))
  | 0x01 => some (.tokSet i (tokArgs w))
  | 0x02 => some (.tokClr i (tokArgs w))
  | 0x03 => some (.tokRead i (tokArgs w))
  | _ => none

/-- The frame instruction of an OP (R83), a close at a local time. -/
def frameInsn (i : Iss) (time op w : Nat) : Option Instr :=
  match op with
  | 0x00 => some (.frameOpen i (frameArgs w))
  | 0x01 => some (.frameOpenA i (frameArgs w))
  | 0x02 => some (.frameClose i (frameArgs w) time)
  | 0x03 => some (.frameStat i (frameArgs w))
  | _ => none

/-- The counter instruction of an OP (R84). -/
def counterInsn (i : Iss) (op w : Nat) : Option Instr :=
  match op with
  | 0x00 => some (.ctrRead i (ctrArgs w))
  | 0x01 => some (.ctrClr i (ctrArgs w))
  | 0x02 => some (.ctrTide i (ctrArgs w))
  | 0x03 => some (.ctrCyc i (ctrArgs w))
  | 0x04 => some (.cmpSet i (ctrArgs w))
  | 0x05 => some (.cmpArm i (ctrArgs w))
  | _ => none

/-- The instruction a 64-bit word holds (R63, R64); none where its CLASS is invalid or its OP is not listed. -/
def insnOf (p : Iss) (time w : Nat) : Option Instr :=
  let i := { p with tag := wf w 44 8 }
  let op := bitsOf w 52 8
  match bitsOf w 60 4 with
  | 0x0 => scalarInsn i op w
  | 0x1 => controlInsn i op w
  | 0x2 => if op < 0x40 then vectorLow i op w else vectorHigh i op w
  | 0x3 => matrixInsn i op w
  | 0x4 => layoutInsn i op w
  | 0x5 => postInsn i op w
  | 0x6 => tokenInsn i op w
  | 0x7 => frameInsn i time op w
  | 0x8 => counterInsn i op w
  | _ => none

/-- An instruction that its own operands make illegal: S.INS positions above 2 (R67), a LOOP of no instruction (R70), event
counters above 7 and comparators above 3 (R84). -/
def badOperands : Instr → Bool
  | .sIns _ a => decide (2 < a.sa.toNat)
  | .loop _ _ _ body _ => body == 0
  | .ctrRead _ a => decide (7 < a.idx.toNat)
  | .ctrClr _ a => decide (7 < a.idx.toNat)
  | .cmpSet _ a => decide (3 < a.idx.toNat)
  | .cmpArm _ a => decide (3 < a.idx.toNat)
  | _ => false

/-- A word is illegal for a stream that owns a vector engine or does not (R65, R143). -/
def wordIllegal (p : Iss) (owns : Bool) (w : Nat) : Bool :=
  match insnOf p 0 w with
  | none => true
  | some c =>
    badOperands c || (bitsOf w 60 4 == 2 && (!owns || !vecLegal (bitsOf w 52 8) (w % 2 ^ 44)))

end Sys2Proof.Machine
end

