-- ==== Sys2Proof/Machine/PostEng.lean ====
section
/-! DEFINITION. The post engine (R82): hardware queues' records (R315, R316), descriptors and the checks of Q.POST (R317, R318),
buckets and the checks of GR.POST (R340 to R342), and the order of the tokens of one post queue (R74). -/
namespace Sys2Proof.Machine

/-! ## Hardware queues -/

/-- Queue states (R316). -/
def quDISABLED : Nat := 0
def quACTIVE : Nat := 1
def quERROR : Nat := 2
def quDRAINING : Nat := 3

/-- No message open or discarded. -/
def QueRx.none : QueRx :=
  { kind := 0, len := 0, crc := 0, addr := 0, err := false, pois := false, rest := false, skip := 0 }

/-- The cached queue; none where it is DISABLED. -/
def State.queue (s : State) (q : Nat) : Option Queue := Store.get (fun _ => none) s.que.q q

/-- A queue's record set, with the count of queues not DISABLED. -/
def State.setQueue (s : State) (q : Nat) (x : Option Queue) : State :=
  let m := Store.put (fun _ => none) s.que.q q x
  { s with que := { s.que with q := m } }.setFld F.QUE_STATUS_ACTIVE_QUEUES m.length

/-! ## Tokens of one post queue in order (R74) -/

/-- A post command of tile `t` is taken and its token is to come. -/
def State.postTaken (s : State) (t : Nat) (te : Bool) (e : PostEnt) : State :=
  if te then s.setTile t { s.tile t with postOut := (s.tile t).postOut ++ [e] } else s

/-- Tokens owed whose earlier commands have all produced theirs are produced. -/
def State.postSettle (s : State) (t : Nat) : State :=
  let o := (s.tile t).postOut
  let n := (o.takeWhile (fun e => match e with
    | .owed .. => true
    | _ => false)).length
  (o.take n).foldl (fun s e => match e with
    | .owed k f p => s.produce t k f p
    | _ => s) (s.setTile t { s.tile t with postOut := o.drop n })

/-- The token of a rejected or zero-work command: after those of every earlier command of the queue (R74). -/
def State.postOwe (s : State) (t : Nat) (te : Bool) (token flags producer : Nat) : State :=
  (s.postTaken t te (.owed token flags producer)).postSettle t

/-- A post command taken earlier produces its token; one that moved no data waits for those before it (R74). -/
def State.postDone (s : State) (t : Nat) (e : PostEnt) (token flags producer : Nat) : State :=
  let o := (s.tile t).postOut
  if flags.testBit 0 && o.contains e then
    (s.setTile t { s.tile t with postOut := o.map (fun x => if x = e then .owed token flags producer else x) }).postSettle t
  else ((s.setTile t { s.tile t with postOut := o.erase e }).produce t token flags producer).postSettle t

/-! ## Descriptors (R318) -/

/-- Bits of word `k` of a descriptor's 24 words. -/
def QueDesc.bits (d : QueDesc) (k lo n : Nat) : Nat := bitsOf (d.w.getD k 0) lo n

def QueDesc.kind (d : QueDesc) : Nat := if d.gre.isSome then 3 else d.bits 0 0 4

/-- Pattern 1 (source) or 2 (destination). -/
def QueDesc.pat (d : QueDesc) (n : Nat) : Pat :=
  { base := d.w.getD (8 * n) 0
    lv := (List.range 6).map (fun k =>
      let w := d.w.getD (8 * n + 1 + k) 0
      (bitsOf w 0 24, toSigned 40 (bitsOf w 24 40))) }

/-- ETYPE of pattern 1 or 2, and its unit. -/
def QueDesc.ety (d : QueDesc) (n : Nat) : Nat := d.bits (8 * n + 7) 0 5
def QueDesc.unit (d : QueDesc) : Nat := (lxUnit (d.ety 1)).1

/-- End-to-end work: PUT, SACC or MSG with E2E, every MSG, and those kinds on a BULK-class queue (R318); READ, ATOMIC and
TOKEN_INC carry no end-to-end fields (R303, log entry 60). -/
def QueDesc.e2e (x : Queue) (d : QueDesc) : Bool :=
  d.kind == 3 || ((d.kind == 0 || d.kind == 2) && (d.bits 0 13 1 == 1 || x.cls == 2))

/-- Virtual channel of a descriptor's packets (R299, R303). -/
def QueDesc.vc (x : Queue) (d : QueDesc) : Nat :=
  if d.kind = 1 ∨ d.kind = 4 then 0 else if d.e2e x || x.cls == 2 then 4 else 0

/-- One packet's part of a transfer (R318): destination, source of a GET, place in the payload, bytes. -/
structure QuePiece where
  dst : Nat
  src : Nat
  off : Nat
  len : Nat
  deriving DecidableEq, Repr

/-- Units joined into runs of consecutive destination bytes, latest first; for a GET the source bytes run with them. -/
def joinRuns (get : Bool) (u : Nat) : List (Nat × Nat) → Nat → List QuePiece → List QuePiece
  | [], _, acc => acc.reverse
  | (s, d) :: xs, i, acc =>
    match acc with
    | p :: ps =>
      if p.dst + p.len = d ∧ (get = false ∨ p.src + p.len = s) then
        joinRuns get u xs (i + 1) ({ p with len := p.len + u } :: ps)
      else joinRuns get u xs (i + 1) (⟨d, s, i * u, u⟩ :: p :: ps)
    | [] => joinRuns get u xs (i + 1) [⟨d, s, i * u, u⟩]

/-- A run cut at the 4 KiB boundaries of its destination. -/
def cutPages : Nat → QuePiece → List QuePiece
  | 0, _ => []
  | n + 1, p =>
    if p.len = 0 then []
    else
      let k := 4096 - p.dst % 4096
      if p.len ≤ k then [p]
      else { p with len := k } :: cutPages n { dst := p.dst + k, src := p.src + k, off := p.off + k, len := p.len - k }

/-- A descriptor's packets (R318); none for zero-work. -/
def QueDesc.pieces (d : QueDesc) : List QuePiece :=
  let cut (ps : List QuePiece) : List QuePiece := ps.flatMap (fun p => cutPages (p.len / 4096 + 2) p)
  match d.kind with
  | 3 => cut (if d.pay.isEmpty then [] else [⟨0, 0, 0, d.pay.length⟩])
  | 4 => if (d.pat 2).total = 0 then [] else [⟨(d.pat 2).base, 0, 0, 0⟩]
  | 5 => [⟨0, 0, 0, 0⟩]
  | k =>
    if (d.pat 1).total = 0 ∨ (d.pat 2).total = 0 then []
    else cut (joinRuns (k == 1) d.unit ((d.pat 1).addrs.zip (d.pat 2).addrs) 0 [])

/-- A descriptor is finished: failed, ended by a REPEAT, or every packet answered (R319). -/
def QueDesc.done (d : QueDesc) : Bool := d.fail != 0 || d.rept || decide (d.pieces.length ≤ d.ans)

/-- The reason for which a descriptor's own fields reject it (R317). -/
def QueDesc.reject (x : Queue) (d : QueDesc) : Option Nat :=
  let k := d.kind
  let data := k == 0 || k == 1 || k == 2
  let moves := data || k == 3
  let fmt := decide (5 < k) || (k == 4 && decide (10 < d.bits 0 8 4)) || (moves && decide (0x10 < d.ety 1))
    || (data && d.ety 1 != d.ety 2) || (k == 2 && !accOk (d.bits 0 4 2) (d.ety 1))
  let shape := data && (d.pat 1).total != (d.pat 2).total
  let span : Option (Int × Int) := (d.pat 2).span.map (fun (r : Int × Int) =>
    (r.1 / 281474976710656, (r.2 + (d.unit : Int) - 1) / 281474976710656))
  let many := data && (match span with
    | some r => r.1 != r.2
    | none => false)
  let dev : Option Nat :=
    if k = 3 then some x.pdev
    else if k = 4 then some ((d.pat 2).base / 2 ^ 48)
    else if data then span.map (fun (r : Int × Int) => (r.1 % 65536).toNat)
    else none
  let far := match dev with
    | some v => (d.bits 0 14 1 == 1 && d.bits 1 48 16 != v) || (d.e2e x && v != x.pdev)
    | none => false
  let limit := moves && decide (2 ^ 32 ≤ (d.pat 1).total * d.unit)
  if fmt then some 3 else if shape then some 4 else if many || far then some 5 else if limit then some 6 else none

/-- A descriptor with nothing done. -/
def QueDesc.new (idx : Nat) (w : List Nat) (bad : Bool) : QueDesc :=
  { idx := idx, w := w, pay := [], alive := 0, sent := 0, all := 0, ans := 0, tries := 0, held := false, fail := 0
    flags := if bad then flagPOISON else 0, bytes := 0, rept := false, bad := bad, gre := none }

/-! ## Q.POST (R317) -/

/-- The address of a slot of a SEND queue's ring. -/
def Queue.slot (x : Queue) (i : Nat) : Nat := x.ring + 256 * (i % 2 ^ x.log2)

/-- A rejected post. -/
def State.quePostReject (s : State) (t token : Nat) (te : Bool) (reason q : Nat) (bad : Bool) : State :=
  let s1 := ((s.setFld F.QUE_REJECT_REASON reason).setFld F.QUE_REJECT_QID q).incFld F.QUE_REJECT_COUNT 1
  let s2 := s1.set1 F.QUE_STATUS_REJECT
  s2.postOwe t te token (flagERROR ||| (if bad then flagPOISON else 0)) prodQUE

/-- The post engine takes a Q.POST. -/
def State.quePost (s : State) (t : Nat) (te : Bool) (token q : Nat) (desc : List Byte) (bad : Bool) : State :=
  let words := (List.range 24).map (fun k => leNat ((desc.drop (8 * k)).take 8))
  let fail (r : Nat) : State := s.quePostReject t token te r q bad
  match s.queue q with
  | none => fail 1
  | some x =>
    if q < 1024 ∨ x.state ≠ quACTIVE ∨ x.recv = true then fail 1
    else if 2 ^ x.log2 ≤ idxDiff x.tail x.head then fail 2
    else match (QueDesc.new x.tail words bad).reject x with
      | some r => fail r
      | none =>
        let w0 := putBits (BitVec.ofNat 64 (words.getD 0 0)) 15 1 (b2n te)
        let w1 := putBits (putBits (BitVec.ofNat 64 (words.getD 1 0)) 0 12 token) 12 8 t
        let bs := leBytes 8 w0.toNat ++ leBytes 8 w1.toNat ++ desc.drop 16
        ((s.writeBytes (s.own t) (x.slot x.tail) bs bad).setQueue q (some { x with tail := (x.tail + 1) % 2 ^ 32 })).postTaken t te
          (.que q x.tail)

/-! ## Buckets (R340) -/

def GreBucket.src (b : GreBucket) : Nat := bitsOf (b.d.getD 0 0) 0 48
def GreBucket.dst (b : GreBucket) : Nat := bitsOf (b.d.getD 1 0) 0 48
def GreBucket.count (b : GreBucket) : Nat := bitsOf (b.d.getD 2 0) 0 26
def GreBucket.sfmt (b : GreBucket) : Nat := bitsOf (b.d.getD 2 0) 26 2
def GreBucket.ofmt (b : GreBucket) : Nat := bitsOf (b.d.getD 2 0) 28 2
def GreBucket.hdrEn (b : GreBucket) : Bool := bitsOf (b.d.getD 2 0) 30 1 == 1
def GreBucket.oexp (b : GreBucket) : Int := toSigned 16 (bitsOf (b.d.getD 2 0) 48 16)
def GreBucket.deadline (b : GreBucket) : Nat := bitsOf (b.d.getD 3 0) 0 48
def GreBucket.readyTok (b : GreBucket) : Nat := bitsOf (b.d.getD 4 0) 0 12
def GreBucket.readyN (b : GreBucket) : Nat := bitsOf (b.d.getD 4 0) 12 16
def GreBucket.maxeA (b : GreBucket) : Nat := bitsOf (b.d.getD 5 0) 0 48
def GreBucket.hdrA (b : GreBucket) : Nat := bitsOf (b.d.getD 6 0) 0 48
def GreBucket.statA (b : GreBucket) : Nat := bitsOf (b.d.getD 7 0) 0 48
def GreBucket.carryA (b : GreBucket) : Nat := bitsOf (b.d.getD 8 0) 0 48

/-- Real blocks, and all blocks (R340). -/
def GreBucket.real (b : GreBucket) : Nat := (b.count + 1023) / 1024
def GreBucket.all (b : GreBucket) : Nat := max b.real 8

/-- Bytes of a source or output element. -/
def greBytes : Nat → Nat
  | 0 => 4
  | 1 => 2
  | _ => 8

/-- A bucket is outstanding: accepted and not complete. -/
def GreBucket.isOut (b : GreBucket) : Bool := b.done.isNone

/-- The engine's buckets, with the counts of those outstanding in GRE_STATUS and in the channel's STATE. -/
def State.setBuckets (s : State) (c : Nat) (bs : List GreBucket) : State :=
  let s1 := { s with gre := { s.gre with buckets := bs } }.setFld F.GRE_STATUS_OUTSTANDING (bs.filter GreBucket.isOut).length
  s1.setFld (F.GRE_CHAN_STATE_OUTSTANDING c) (bs.filter (fun b => b.chan == c && b.isOut)).length

/-- A channel's buckets outstanding, oldest first. -/
def State.bucketsOf (s : State) (c : Nat) : List GreBucket := s.gre.buckets.filter (fun b => b.chan == c && b.isOut)

/-- A bucket's record replaced. -/
def State.setBucket (s : State) (b : GreBucket) : State :=
  { s with gre := { s.gre with buckets := s.gre.buckets.map (fun x => if x.ord = b.ord then b else x) } }

/-! ## GR.POST (R341) -/

/-- A footprint of `n` bytes lies in the tile memories or the populated near tier. -/
def greIn (a n : Nat) : Bool :=
  n == 0 || (match regionOf a with
    | .near => populated a && populated (a + n - 1) && regionOf (a + n - 1) == .near
    | .tile t => populated a && populated (a + n - 1) && regionOf (a + n - 1) == .tile t
    | _ => false)

/-- Two footprints meet. -/
def greMeet (x y : Nat × Nat) : Bool := x.2 != 0 && y.2 != 0 && decide (x.1 < y.1 + y.2) && decide (y.1 < x.1 + x.2)

/-- Some two footprints of a list meet. -/
def greOverlap : List (Nat × Nat) → Bool
  | [] => false
  | x :: xs => xs.any (greMeet x) || greOverlap xs

/-- The reason for which a post is rejected (R341). -/
def State.greReason (s : State) (b : GreBucket) (bad : Bool) : Option Nat :=
  let carry := s.flag (F.GRE_CHAN_CFG_POLICY b.chan)
  let sb := greBytes b.sfmt
  let ob := greBytes b.ofmt
  let side := [(b.maxeA, 2 * b.real)] ++ (if b.hdrEn then [(b.hdrA, 16 * b.real)] else []) ++ [(b.statA, 32)]
    ++ (if carry then [(b.carryA, 64 + b.count * sb)] else [])
  let data := [(b.src, b.count * sb), (b.dst, b.count * ob)]
  let same := b.src == b.dst && b.sfmt == b.ofmt
  ([ (1, s.fld (F.GRE_CHAN_STATE_STATE b.chan) != 1 || !s.flag F.GRE_CTL_EN)
   , (2, b.sfmt == 3 || (b.ofmt == 3 && !b.hdrEn))
   , (3, decide (33554432 < b.count))
   , (4, b.src % sb != 0 || b.dst % ob != 0 || b.maxeA % 2 != 0 || b.hdrA % 16 != 0 || b.statA % 32 != 0
       || b.carryA % 64 != 0)
   , (5, (data ++ side).any (fun x => !greIn x.1 x.2))
   , (6, greOverlap ((if same then data.take 1 else data) ++ side))
   , (7, decide (64 ≤ (s.bucketsOf b.chan).length) || decide (1024 ≤ (s.gre.buckets.filter GreBucket.isOut).length))
   , (8, bad) ].filterMap (fun x => if x.2 then some x.1 else none)).head?

/-- A contribution judged late (R347). -/
def State.greLate (s : State) (b : GreBucket) : State :=
  (((s.setBucket { b with missed := true, late := true }).incFld F.GRE_CNT_SELF_LATE_VALUE 1).set1
    F.GRE_STATUS_SELF_LATE).logDeliv srcGRE 0x0A02 false [(2, b.chan), (4, b.seq), (8, b.deadline)]

/-- Poison reaches a bucket (R354): counted, and logged once per bucket. -/
def State.grePoison (s : State) (b : GreBucket) (block phase n : Nat) : State × GreBucket :=
  if n = 0 then (s, b)
  else
    let s1 := (s.incFld F.GRE_CNT_POISON_VALUE n).set1 F.GRE_STATUS_POISON
    (if b.pois then s1 else s1.logDeliv srcGRE 0x0A06 false [(2, b.chan), (4, b.seq), (2, block), (1, phase)],
      { b with pois := true })

/-- A bucket posted. A poisoned descriptor word counts as poison met, and its post is rejected (R341, R354). -/
def State.grePost (s : State) (t c : Nat) (te : Bool) (token : Nat) (words : List Nat) (bad : Bool) : State :=
  let b : GreBucket :=
    { chan := c, seq := s.fld (F.GRE_CHAN_SEQ_NEXT_SEQ c), ord := s.gre.ord, tile := t, token := token, te := te, d := words
      ready := false, missed := false, late := false, outc := 0, started := false, carryIn := false, pass := 0, reran := []
      blks := [], fins := [], unacked := 0, quiet := 0, pois := false, carryBad := false, done := none, paid := false }
  match s.greReason b bad with
  | some r =>
    let s0 := if r = 8 then (s.grePoison b 0 0 1).1 else s
    let s1 := ((s0.setFld F.GRE_REJECT_REASON r).setFld F.GRE_REJECT_CHAN c).setFld F.GRE_REJECT_TOKEN token
    let s2 := ((s1.incFld F.GRE_REJECT_COUNT 1).set1 F.GRE_STATUS_REJECT).logDeliv srcGRE 0x0A01 false
      [(1, c), (2, token), (1, r)]
    s2.postOwe t te token flagERROR prodGRE
  | none =>
    if b.count = 0 then s.postOwe t te token flagZERO_WORK prodGRE
    else
      let ready := decide (b.readyN ≤ s.fld (F.TSQ_TOKEN_COUNT t b.readyTok))
      let b1 := { b with ready := ready }
      let s1 := { s with gre := { s.gre with ord := s.gre.ord + 1 } }.setFld (F.GRE_CHAN_SEQ_NEXT_SEQ c) (b.seq + 1)
      let s2 := (s1.setBuckets c (s1.gre.buckets ++ [b1])).postTaken t te (.gre b.ord)
      if b.deadline ≠ 0 ∧ b.deadline ≤ s.tide.delivered ∧ ready = false then s2.greLate b1 else s2

/-! ## The post queue (R82) -/

/-- The post engine takes a command. -/
def State.postExec (s : State) (t : Nat) (c : QCmd) : State :=
  match c.c with
  | .qPost _ a => s.quePost t a.te a.token.toNat (bitsOf a.x.toNat 10 16) c.desc c.poisoned
  | .grPost _ a =>
    s.grePost t (bitsOf a.x.toNat 18 8) a.te a.token.toNat ((List.range 16).map (fun k => c.word k)) c.poisoned
  | _ => s

/-- The post engine takes the commands that were in its queue before ac `n`, in order: one copied in ac a from ac a + 1 on. It takes
each as soon as it may (log entry 112). -/
def State.postRun (s : State) (t n : Nat) : State :=
  let h := s.tile t
  if h.postQ.isEmpty then s
  else
    (h.postQ.filter (fun c => decide (c.ac < n))).foldl (fun s c => s.postExec t c)
      (s.setTile t { h with postQ := h.postQ.filter (fun c => decide (n ≤ c.ac)) })

end Sys2Proof.Machine
end

