-- ==== Sys2Proof/Machine/Fp.lean ====
section
/-! DEFINITION. Number formats (R17) and exact arithmetic on them: a finite number is a sign, a natural mantissa and a
power of two; results are formed exactly and rounded once (R145). Sticky conditions are numbers whose bits are those of
VXE_STATUS (R178). -/
namespace Sys2Proof.Machine

/-! Sticky condition bits, as VXE_STATUS places them (R178). -/
def stNV : Nat := 1
def stDZ : Nat := 2
def stOF : Nat := 4
def stUF : Nat := 8
def stNX : Nat := 16
def stOOR : Nat := 32
def stEMPTY : Nat := 64
def stSAT : Nat := 128
def stMEMFAULT : Nat := 256
def stPOISON : Nat := 512
def stESCAPE : Nat := 1024
def stLINKOVER : Nat := 2048
def stLINKUNDER : Nat := 4096
def stLINKDROP : Nat := 8192

/-- A value of a floating-point format: a NaN, a signed infinity, or ±m·2^e (m = 0: a signed zero). -/
inductive FV where
  | nan
  | inf (neg : Bool)
  | fin (neg : Bool) (m : Nat) (e : Int)
  deriving DecidableEq, Repr

/-- How a format codes what is not finite: IEEE infinities and NaNs; E4M3's single NaN pattern; nothing (FP6, FP4). -/
inductive Special where
  | ieee
  | e4m3
  | none
  deriving DecidableEq, Repr

/-- A binary format: exponent bits, fraction bits, exponent bias, special values. -/
structure Fmt where
  eb   : Nat
  mb   : Nat
  bias : Int
  sp   : Special
  deriving DecidableEq, Repr

def fmtE4M3 : Fmt := ⟨4, 3, 7, .e4m3⟩
def fmtE5M2 : Fmt := ⟨5, 2, 15, .ieee⟩
def fmtE3M2 : Fmt := ⟨3, 2, 3, .none⟩
def fmtE2M3 : Fmt := ⟨2, 3, 1, .none⟩
def fmtE2M1 : Fmt := ⟨2, 1, 1, .none⟩
def fmtBF16 : Fmt := ⟨8, 7, 127, .ieee⟩
def fmtFP16 : Fmt := ⟨5, 10, 15, .ieee⟩
def fmtFP32 : Fmt := ⟨8, 23, 127, .ieee⟩
def fmtFP64 : Fmt := ⟨11, 52, 1023, .ieee⟩

/-- The bits a format takes. -/
def Fmt.width (f : Fmt) : Nat := 1 + f.eb + f.mb

/-- The least exponent of a unit in the last place (that of the subnormals). -/
def Fmt.minQ (f : Fmt) : Int := 1 - f.bias - f.mb

/-- The largest finite value's mantissa and exponent. -/
def Fmt.maxM (f : Fmt) : Nat := match f.sp with
  | .e4m3 => 2 ^ (f.mb + 1) - 2
  | _ => 2 ^ (f.mb + 1) - 1

def Fmt.maxE (f : Fmt) : Int := match f.sp with
  | .ieee => (2 ^ f.eb - 2 : Int) - f.bias - f.mb
  | _ => (2 ^ f.eb - 1 : Int) - f.bias - f.mb

/-- The value of a pattern. -/
def Fmt.decode (f : Fmt) (x : Nat) : FV :=
  let neg := bitsOf x (f.eb + f.mb) 1 == 1
  let e := bitsOf x f.mb f.eb
  let m := bitsOf x 0 f.mb
  let special := match f.sp with
    | .ieee => e == 2 ^ f.eb - 1
    | .e4m3 => e == 2 ^ f.eb - 1 && m == 2 ^ f.mb - 1
    | .none => false
  if special then (if f.sp == .ieee && m == 0 then .inf neg else .nan)
  else if e = 0 then .fin neg m f.minQ
  else .fin neg (2 ^ f.mb + m) ((e : Int) - f.bias - f.mb)

/-- The canonical NaN (R124, R145): positive, quiet bit set; E4M3's NaN is 0x7F. -/
def Fmt.nanBits (f : Fmt) : Nat := match f.sp with
  | .ieee => (2 ^ f.eb - 1) * 2 ^ f.mb + 2 ^ (f.mb - 1)
  | .e4m3 => 2 ^ (f.eb + f.mb) - 1
  | .none => 0

/-- Bit length of a number. -/
def bitLen (m : Nat) : Nat := if m = 0 then 0 else Nat.log2 m + 1

/-- The pattern of a value the format represents. -/
def Fmt.encode (f : Fmt) : FV → Nat
  | .nan => f.nanBits
  | .inf neg => b2n neg * 2 ^ (f.eb + f.mb) + (2 ^ f.eb - 1) * 2 ^ f.mb
  | .fin neg m e =>
    let s := b2n neg * 2 ^ (f.eb + f.mb)
    if m = 0 then s
    else
      -- the unit exponent at which the mantissa has mb + 1 bits, or the subnormal unit
      let q := max (e + bitLen m - (f.mb + 1)) f.minQ
      let k := if q ≤ e then m <<< (e - q).toNat else m >>> (q - e).toNat
      if k < 2 ^ f.mb then s + k
      else s + (q - f.minQ + 1).toNat * 2 ^ f.mb + (k - 2 ^ f.mb)

/-- m·2^e brought to the unit 2^q: the whole number of units rounded to nearest even (or toward zero), and whether it
is inexact. -/
def toUnit (rz : Bool) (m : Nat) (e q : Int) : Nat × Bool :=
  if q ≤ e then (m <<< (e - q).toNat, false)
  else
    let k := (q - e).toNat
    let d := m >>> k
    let r := m % 2 ^ k
    let up := !rz && (decide (2 ^ k < 2 * r) || (decide (2 * r = 2 ^ k) && d % 2 == 1))
    (d + b2n up, r != 0)

/-- m1·2^e1 compared with m2·2^e2. -/
def cmpMag (m1 : Nat) (e1 : Int) (m2 : Nat) (e2 : Int) : Ordering :=
  let e := min e1 e2
  compare (m1 <<< (e1 - e).toNat) (m2 <<< (e2 - e).toNat)

/-- A magnitude rounded on the format's grid continued without an upper bound on the exponent (R149). -/
def Fmt.onGrid (f : Fmt) (rz : Bool) (m : Nat) (e : Int) : Nat × Int × Bool :=
  let q := max (e + bitLen m - (f.mb + 1)) f.minQ
  let r := toUnit rz m e q
  (r.1, q, r.2)

/-- An exact value rounded to an IEEE format (R145): the value and the conditions OF, UF, NX. -/
def Fmt.round (f : Fmt) (rz : Bool) : FV → FV × Nat
  | .nan => (.nan, 0)
  | .inf n => (.inf n, 0)
  | .fin neg m e =>
    if m = 0 then (.fin neg 0 0, 0)
    else
      let g := f.onGrid rz m e
      if cmpMag g.1 g.2.1 f.maxM f.maxE = .gt then
        (if rz then .fin neg f.maxM f.maxE else .inf neg, stOF + stNX)
      else
        -- tininess after rounding: with an unbounded exponent
        let u := toUnit rz m e (e + bitLen m - (f.mb + 1))
        let tiny := cmpMag u.1 (e + bitLen m - (f.mb + 1)) 1 (f.minQ + f.mb) = .lt
        (.fin neg g.1 g.2.1, if g.2.2 then stNX + (if tiny then stUF else 0) else 0)

/-- Exact negation. -/
def FV.neg : FV → FV
  | .nan => .nan
  | .inf n => .inf (!n)
  | .fin n m e => .fin (!n) m e

/-- Exact sum and whether it is invalid (∞ − ∞). An exact zero of unlike signs is +0 (RNE and RZ). -/
def FV.add : FV → FV → FV × Bool
  | .nan, _ => (.nan, false)
  | _, .nan => (.nan, false)
  | .inf a, .inf b => if a = b then (.inf a, false) else (.nan, true)
  | .inf a, .fin .. => (.inf a, false)
  | .fin .., .inf b => (.inf b, false)
  | .fin na ma ea, .fin nb mb eb =>
    if ma = 0 ∧ mb = 0 then (.fin (na && nb) 0 0, false)
    else if ma = 0 then (.fin nb mb eb, false)
    else if mb = 0 then (.fin na ma ea, false)
    else
      let e := min ea eb
      let x : Int := (if na then -1 else 1) * ((ma <<< (ea - e).toNat : Nat) : Int)
      let y : Int := (if nb then -1 else 1) * ((mb <<< (eb - e).toNat : Nat) : Int)
      let z := x + y
      (.fin (decide (z < 0)) z.natAbs e, false)

/-- Exact product and whether it is invalid (0 × ∞). -/
def FV.mul : FV → FV → FV × Bool
  | .nan, _ => (.nan, false)
  | _, .nan => (.nan, false)
  | .inf a, .inf b => (.inf (a != b), false)
  | .inf a, .fin b m _ => if m = 0 then (.nan, true) else (.inf (a != b), false)
  | .fin a m _, .inf b => if m = 0 then (.nan, true) else (.inf (a != b), false)
  | .fin a ma ea, .fin b mb eb => (.fin (a != b) (ma * mb) (ea + eb), false)

/-- The value is a NaN. -/
def FV.isNan : FV → Bool
  | .nan => true
  | _ => false

/-- The value is a zero. -/
def FV.isZero : FV → Bool
  | .fin _ m _ => m == 0
  | _ => false

/-- A rounded result as a pattern with its conditions. -/
def Fmt.result (f : Fmt) (r : FV × Bool) : Nat × Nat :=
  if r.2 then (f.nanBits, stNV)
  else
    let q := f.round false r.1
    (f.encode q.1, q.2)

/-- Sum, product and fused multiply-add on patterns, rounded once under RNE (R145). -/
def Fmt.add (f : Fmt) (a b : Nat) : Nat × Nat := f.result ((f.decode a).add (f.decode b))

def Fmt.sub (f : Fmt) (a b : Nat) : Nat × Nat := f.result ((f.decode a).add (f.decode b).neg)

def Fmt.mul (f : Fmt) (a b : Nat) : Nat × Nat := f.result ((f.decode a).mul (f.decode b))

def Fmt.fma (f : Fmt) (a b c : Nat) : Nat × Nat :=
  let p := (f.decode a).mul (f.decode b)
  if p.2 then (f.nanBits, stNV) else f.result (p.1.add (f.decode c))

/-- The order of two values that are no NaNs, −0 below +0 (R145). -/
def FV.totalLt : FV → FV → Bool
  | .inf a, .inf b => a && !b
  | .inf a, .fin .. => a
  | .fin .., .inf b => !b
  | .fin na ma ea, .fin nb mb eb =>
    match na, nb with
    | true, false => true
    | false, true => false
    | false, false => cmpMag ma ea mb eb == .lt
    | true, true => cmpMag mb eb ma ea == .lt
  | _, _ => false

/-- Numeric order of two values that are no NaNs, −0 equal to +0 (R147). -/
def FV.numLt (a b : FV) : Bool := if a.isZero && b.isZero then false else a.totalLt b

/-- Minimum and maximum (R145): NaN if either is NaN. -/
def Fmt.minmax (f : Fmt) (isMax : Bool) (a b : Nat) : Nat × Nat :=
  let x := f.decode a
  let y := f.decode b
  if x.isNan || y.isNan then (f.nanBits, 0)
  else if isMax then (if x.totalLt y then b else a, 0)
  else (if y.totalLt x then b else a, 0)

/-- An integer's exact value. -/
def FV.ofInt (i : Int) : FV := .fin (decide (i < 0)) i.natAbs 0

/-- A finite value rounded to an integer (to nearest even, or toward zero): the integer and whether it is inexact. -/
def FV.toInt (rz : Bool) (neg : Bool) (m : Nat) (e : Int) : Int × Bool :=
  let r := toUnit rz m e 0
  (if neg then -(r.1 : Int) else r.1, r.2)

/-- The floor of log2 of m·2^e, m not 0. -/
def floorLog2 (m : Nat) (e : Int) : Int := e + bitLen m - 1

end Sys2Proof.Machine
end

