-- ==== Sys2Proof/Machine/SfuRef.lean ====
section
/-! DEFINITION. What the tables of the special-function unit may hold: the exact functions of R182 to some 200 bits (numbers with
256 fraction bits, written `Fx` in names), the range of results that the error column of R182, the exact results of R183 and
the direction of R184 leave at each argument, and the free value that lies in it and never steps back. -/
namespace Sys2Proof.Machine

/-! ## Fixed-point functions -/

/-- 1 with 256 fraction bits. -/
def oneFx : Int := 2 ^ 256

/-- A product of two fixed-point numbers. -/
def mulFx (a b : Int) : Int := a * b / oneFx

/-- A quotient of two fixed-point numbers. -/
def divFx (a b : Int) : Int := a * oneFx / b

/-- m·2^e in fixed point. -/
def toFx (neg : Bool) (m : Nat) (e : Int) : Int :=
  let x : Int := if 0 ≤ e + 256 then m <<< (e + 256).toNat else m >>> (-(e + 256)).toNat
  if neg then -x else x

/-- A fixed-point number times 2^k. -/
def shiftFx (x k : Int) : Int := if 0 ≤ k then x * 2 ^ k.toNat else x / 2 ^ (-k).toNat

/-- A fixed-point number as a value, times 2^k. -/
def ofFx (x k : Int) : FV := .fin (decide (x < 0)) x.natAbs (k - 256)

/-- The sum of the first `n` terms of a series. -/
def seriesFx (n : Nat) (f : Nat → Int) : Int := (List.range n).foldl (fun a k => a + f k) 0

/-- arctan(1/m). -/
def atanInvFx (m : Int) : Int :=
  seriesFx 60 (fun k => (if k % 2 = 0 then 1 else -1) * (oneFx / ((2 * k + 1 : Nat) * m ^ (2 * k + 1))))

/-- π by Machin's formula. -/
def piFx : Int := 16 * atanInvFx 5 - 4 * atanInvFx 239

/-- ln 2 = 2·artanh(1/3). -/
def ln2Fx : Int := seriesFx 84 (fun k => 2 * oneFx / ((2 * k + 1 : Nat) * 3 ^ (2 * k + 1)))

/-- e^r for r in [0, 1). -/
def expSmallFx (r : Int) : Int := (List.range 64).foldl (fun a k => oneFx + r * a / oneFx / (64 - k : Nat)) oneFx

/-- e^x as a number in [1, 2) and a power of two. -/
def expFx (x : Int) : Int × Int := (expSmallFx (x - x / ln2Fx * ln2Fx), x / ln2Fx)

/-- 2^x in the same form. -/
def exp2Fx (x : Int) : Int × Int := (expSmallFx (mulFx (x - x / oneFx * oneFx) ln2Fx), x / oneFx)

/-- e^x for x that the fixed-point form can hold. -/
def expWideFx (x : Int) : Int := shiftFx (expFx x).1 (expFx x).2

/-- ln of m·2^e, m not 0: with y in [3/4, 3/2), 2·artanh((y − 1)/(y + 1)) and the power of two. -/
def lnFx (m : Nat) (e : Int) : Int :=
  let k := floorLog2 m e
  let y := toFx false m (e - k)
  let big := oneFx * 3 < y * 2
  let y := if big then y / 2 else y
  let t := divFx (y - oneFx) (y + oneFx)
  let q := mulFx t t
  let s := (List.range 60).foldl (fun a j => 2 * oneFx / ((2 * (59 - j) + 1 : Nat) : Int) + mulFx q a) 0
  mulFx t s + (if big then k + 1 else k) * ln2Fx

/-- √(m·2^e) as a fixed-point number and a power of two; exact where the root is. -/
def sqrtFx (m : Nat) (e : Int) : Int × Int :=
  let m' := if e % 2 = 0 then m else 2 * m
  (Nat.sqrt (m' <<< 512), e / 2)

/-- 1/√(m·2^e) in the same form. -/
def rsqrtFx (m : Nat) (e : Int) : Int × Int :=
  let m' := if e % 2 = 0 then m else 2 * m
  (Nat.sqrt (2 ^ 512 / m'), -(e / 2))

/-- erf of a number in [0, 6]: 2/√π · Σ (−1)^n a^(2n+1) / (n! (2n+1)). -/
def erfFx (a : Int) : Int :=
  let q := mulFx a a
  let r := (List.range 240).foldl (fun (st : Int × Int) n =>
    (-(mulFx st.1 q) / (n + 1 : Nat), st.2 + st.1 / (2 * n + 1 : Nat))) (a, 0)
  divFx (2 * r.2) (Nat.sqrt (piFx.toNat * 2 ^ 256))

/-- sin θ for |θ| ≤ π; cos θ with `even`. -/
def sinFx (even : Bool) (th : Int) : Int :=
  let q := mulFx th th
  let start := if even then oneFx else th
  let off := if even then 0 else 1
  ((List.range 60).foldl (fun (st : Int × Int) n =>
    (-(mulFx st.1 q) / ((2 * n + 1 + off) * (2 * n + 2 + off) : Nat), st.2 + st.1)) (start, 0)).2

/-- The standard normal distribution function at x with |x| ≤ 8. -/
def phiFx (x : Int) : Int :=
  let e := erfFx (divFx (Int.natAbs x) (Nat.sqrt (2 ^ 513)))
  if x < 0 then (oneFx - e) / 2 else (oneFx + e) / 2

/-- The logistic function. -/
def logisticFx (x : Int) : Int :=
  let e := expWideFx (Int.natAbs x)
  if x < 0 then divFx oneFx (oneFx + e) else divFx e (oneFx + e)

/-- The function of a code (R182) at ±m·2^e, m not 0, within the range in which its table is used. -/
def sfuExact (code : Nat) (neg : Bool) (m : Nat) (e : Int) : FV :=
  let x := toFx neg m e
  match code with
  | 0 => ofFx (expFx x).1 (expFx x).2
  | 1 => ofFx (exp2Fx x).1 (exp2Fx x).2
  | 2 => ofFx (lnFx m e) 0
  | 3 => ofFx (divFx (lnFx m e) ln2Fx) 0
  | 4 => let k := 300 + bitLen m
         .fin neg (2 ^ k / m) (-e - k)
  | 5 => ofFx (rsqrtFx m e).1 (rsqrtFx m e).2
  | 6 => ofFx (sqrtFx m e).1 (sqrtFx m e).2
  | 7 => let y := expWideFx (2 * x)
         ofFx (divFx (y - oneFx) (y + oneFx)) 0
  | 8 => ofFx (logisticFx x) 0
  | 9 => .fin neg (m * (phiFx x).toNat) (e - 256)
  | 10 => .fin neg (m * (logisticFx x).toNat) (e - 256)
  | 11 => ofFx (lnFx (oneFx + expWideFx x).toNat (-256)) 0
  | 12 => ofFx (erfFx x) 0
  | _ =>
    let y := divFx (toFx false m e) (2 * piFx)
    let r := y - (y + oneFx / 2) / oneFx * oneFx
    ofFx (sinFx (code == 14) (mulFx r (2 * piFx))) 0

/-! ## Order of FP32 patterns -/

/-- A place in the order of the FP32 values: 2^31 for either zero. -/
def fpOrd (x : Nat) : Nat := if bitsOf x 31 1 = 1 then 2 ^ 31 - x % 2 ^ 31 else 2 ^ 31 + x

/-- The pattern at a place in the order. -/
def unOrd (i : Nat) : Nat := if i < 2 ^ 31 then 2 ^ 31 + (2 ^ 31 - i) else i - 2 ^ 31

/-- The places of the largest FP32 value not above a value and of the smallest not below it. -/
def ordAround (v : FV) : Nat × Nat :=
  match v with
  | .fin neg m e =>
    let g := fmtFP32.onGrid true m e
    let z := fmtFP32.encode (.fin false g.1 g.2.1)
    let more := z + b2n g.2.2
    if neg then (2 ^ 31 - more, 2 ^ 31 - z) else (2 ^ 31 + z, 2 ^ 31 + more)
  | _ => (2 ^ 31, 2 ^ 31)

/-! ## The results a table may give (R182 to R184) -/

/-- The error column of R182: units in the last place, and the exponent of the absolute bound where there is one. Subnormal results
of EXP and EXP2 lie within one unit (R183). -/
def sfuError (code : Nat) (v : FV) : Nat × Option Int :=
  let tiny := match v with
    | .fin _ m e => decide (floorLog2 m e < -126)
    | _ => false
  match code with
  | 0 | 1 => (if tiny then 1 else 2, none)
  | 2 | 3 => (2, some (-32))
  | 4 | 5 | 6 => (1, none)
  | 9 | 10 => (2, some (-28))
  | 13 | 14 => (0, some (-23))
  | _ => (2, none)

/-- A place no lower than `a` and no higher than `b`. -/
def clampTo (a b x : Nat) : Nat := max a (min b x)

/-- The places that the results known exactly leave below and above a result at ±m·2^e (R182, R183): a result between two
arguments with exact results lies between these. -/
def sfuCaps (code : Nat) (neg : Bool) (m : Nat) (e : Int) : Nat × Nat :=
  let one := fpOrd 0x3F800000
  let nil := 2 ^ 31
  let top := fpOrd 0x7F7FFFFF
  let all := fpOrd 0xFF7FFFFF
  let pow (k : Int) : Nat := fpOrd (fmtFP32.encode (fmtFP32.round false (.fin false 1 k)).1)
  let int (k : Int) : Nat := fpOrd (fmtFP32.encode (.fin (decide (k < 0)) k.natAbs 0))
  let small (k : Int) : Bool := decide (floorLog2 m e < k)
  match code with
  | 0 => if neg then (nil, one) else (one, top)
  | 1 =>
    let k := (toFx neg m e) / oneFx
    (pow k, min top (pow (k + 1)))
  | 2 => if small 0 then (all, nil) else (nil, top)
  | 3 =>
    let k := floorLog2 m e
    (int k, int (k + 1))
  | 4 =>
    let k := floorLog2 m e
    (pow (-(k + 1)), min top (pow (-k)))
  | 5 =>
    let j := floorLog2 m e / 2
    (pow (-(j + 1)), pow (-j))
  | 6 =>
    let j := floorLog2 m e / 2
    (pow j, pow (j + 1))
  | 7 => (fpOrd 0x397FFFFF, one)
  | 8 => if neg then (nil, fpOrd 0x3F000000) else (fpOrd 0x3F000000, one)
  | 9 => if neg then (all, nil) else (nil, fpOrd 0x41000000)
  | 10 => if neg then (all, nil) else (nil, fpOrd 0x41A00000)
  | 11 => if neg then (nil, fpOrd 0x3F317218) else (fpOrd 0x3F317218, fpOrd 0x41800000)
  | 12 => (fpOrd (fmtFP32.mul 0x397FFFFF 0x3F906EBB).1, one)
  | _ => (all, top)

/-- The lowest and the highest place a table's result may take at ±m·2^e, at most `ulps` units off (or by the absolute bound). -/
def sfuRange (code ulps : Nat) (bound : Option Int) (neg : Bool) (m : Nat) (e : Int) : Nat × Nat :=
  let v := sfuExact code neg m e
  let near := ordAround v
  let wide : Nat × Nat := match bound with
    | some b => ((ordAround (v.add (.fin true 1 b)).1).2, (ordAround (v.add (.fin false 1 b)).1).1)
    | none => near
  let cap := sfuCaps code neg m e
  let lo := min (near.2 - ulps) wide.1
  let hi := max (near.1 + ulps) wide.2
  (clampTo cap.1 cap.2 lo, clampTo cap.1 cap.2 hi)

/-- The running maximum of a sequence. -/
def runMax (v : Nat → Nat) : Nat → Nat
  | 0 => v 0
  | n + 1 => max (runMax v n) (v (n + 1))

/-- The direction in which a function's results rise (R182): 0 none stated, 1 with the argument, 2 against it. GELU and SILU turn at
the FP32 values nearest −0.7517916 and −1.2784645 (R184). -/
def sfuDirection (code x : Nat) : Nat :=
  let turn (xm : Nat) : Nat := if fpOrd x < fpOrd xm then 2 else 1
  match code with
  | 4 | 5 => 2
  | 9 => turn 0xBF40756A
  | 10 => turn 0xBFA3A4BA
  | 13 | 14 => 0
  | _ => 1

/-- The place of an argument along its function's direction. -/
def sfuIndex (code x : Nat) : Nat := if sfuDirection code x = 2 then 2 ^ 32 - fpOrd x else fpOrd x

/-- The argument at a place along a direction. -/
def sfuArgAt (dir i : Nat) : Nat := if dir = 2 then unOrd (2 ^ 32 - i) else unOrd i

/-- A table's own free value, brought into its range; 0 at an argument that is not a finite non-zero number. -/
def sfuRaw (raw : Nat → BitVec 32 → BitVec 32) (wide : Bool) (code x : Nat) : Nat :=
  match fmtFP32.decode x with
  | .fin neg m e =>
    if m = 0 then 0
    else
      let er := sfuError code (sfuExact code neg m e)
      let r := sfuRange code (if wide then 4 else er.1) er.2 neg m e
      clampTo r.1 r.2 (fpOrd (raw code (BitVec.ofNat 32 x)).toNat)
  | _ => 0

/-- The values of a table along one direction, 0 where `live` says that the argument is not the table's. -/
def sfuAlong (raw : Nat → BitVec 32 → BitVec 32) (wide : Bool) (live : Nat → Bool) (code dir i : Nat) : Nat :=
  let x := sfuArgAt dir i
  if live x && sfuDirection code x == dir then sfuRaw raw wide code x else 0

/-- A built-in function's result from its table (R182, R184): free within the error, never a step back in the stated direction. -/
def sfuFromTable (live : Nat → Bool) (code x : Nat) : Nat :=
  let d := sfuDirection code x
  if d = 0 then unOrd (sfuRaw Config.sfuTable false code x)
  else unOrd (runMax (sfuAlong Config.sfuTable false live code d) (sfuIndex code x))

/-- The Mirjor T2's result (R203): free within 4 units, at most one unit back. -/
def sfuFromT2 (live : Nat → Bool) (code x : Nat) : Nat :=
  let d := sfuDirection code x
  let i := sfuIndex code x
  unOrd (max (sfuAlong Config.sfuT2 true live code d i) (runMax (sfuAlong Config.sfuT2 true live code d) i - 1))

end Sys2Proof.Machine
end

