-- ==== Sys2Proof/Machine/SfuFn.lean ====
section
/-! DEFINITION. The functions of the special-function unit: the built-in functions with the results R182 and R183 state
exactly (elsewhere the value of a table, free within R182's error and R184's direction), T2 compatibility (R203), and the micro-programs of user slots (R180, R190 to R193). -/
namespace Sys2Proof.Machine

/-! ## FP32 helpers -/

/-- An FP32 pattern with its sign cleared. -/
def fpAbs (x : Nat) : Nat := x % 2 ^ 31

/-- The sign bit of an FP32 pattern. -/
def fpSign (x : Nat) : Bool := bitsOf x 31 1 == 1

/-- A pattern given a sign. -/
def fpWithSign (neg : Bool) (x : Nat) : Nat := fpAbs x + (if neg then 2 ^ 31 else 0)

def fpInf (neg : Bool) : Nat := fpWithSign neg 0x7F800000

/-- The pattern is a non-zero subnormal. -/
def fpSubnormal (x : Nat) : Bool := 0 < fpAbs x && fpAbs x < 0x00800000

/-- m1·2^e1 against the decimal num / 10^6. -/
def cmpDec (m : Nat) (e : Int) (num : Nat) : Ordering :=
  if 0 ≤ e then compare ((m <<< e.toNat) * 10 ^ 6) num else compare (m * 10 ^ 6) (num <<< (-e).toNat)

/-- A finite magnitude is at or above num / 10^6. -/
def magGe (v : FV) (num : Nat) : Bool :=
  match v with
  | .fin _ m e => cmpDec m e num != .lt
  | .inf _ => true
  | .nan => false

/-- A finite magnitude is above num / 10^6. -/
def magGt (v : FV) (num : Nat) : Bool :=
  match v with
  | .fin _ m e => cmpDec m e num == .gt
  | .inf _ => true
  | .nan => false

/-- x is below −num / 10^6. -/
def belowNeg (x : Nat) (num : Nat) : Bool := fpSign x && magGt (fmtFP32.decode x) num

/-- x is at or below −num / 10^6. -/
def atMostNeg (x : Nat) (num : Nat) : Bool := fpSign x && magGe (fmtFP32.decode x) num

/-- x is at or above num / 10^6. -/
def atLeast (x : Nat) (num : Nat) : Bool := !fpSign x && magGe (fmtFP32.decode x) num

/-- The exponent k where |x| = 2^k, if it is a power of two. -/
def powerOfTwo (x : Nat) : Option Int :=
  match fmtFP32.decode x with
  | .fin _ m e => if m ≠ 0 ∧ 2 ^ Nat.log2 m = m then some (e + Nat.log2 m) else none
  | _ => none

/-- ±2^k as FP32, rounded. -/
def fpPow2 (neg : Bool) (k : Int) : Nat := fmtFP32.encode (fmtFP32.round false (.fin neg 1 k)).1

/-- A quotient m1·2^e1 / (m2·2^e2) as an exact value with one sticky bit below at least 60 significant bits: rounding it
to FP32 gives the correctly rounded quotient. -/
def quotient (neg : Bool) (m1 : Nat) (e1 : Int) (m2 : Nat) (e2 : Int) : FV :=
  let k := 64 + bitLen m2
  let n := m1 <<< k
  .fin neg (2 * (n / m2) + b2n (n % m2 != 0)) (e1 - e2 - (k : Int) - 1)

/-- An FP32 pattern divided by a positive integer, correctly rounded (R197, R199). -/
def fpDivNat (x n : Nat) : Nat × Nat :=
  match fmtFP32.decode x with
  | .fin neg m e => if m = 0 then (x, 0) else fmtFP32.result (quotient neg m e n 0, false)
  | .inf neg => (fpInf neg, 0)
  | .nan => (fmtFP32.nanBits, 0)

/-! ## Built-in functions (R182, R183) -/

/-- UF with NX, OF with NX. -/
def stUnder : Nat := stUF + stNX
def stOver : Nat := stOF + stNX

/-- The result and sticky bits that R182 and R183 state at an FP32 argument that is no NaN; none where a table gives them. Odd
functions are taken at |x| with the sign given after. -/
def sfuStated (code x : Nat) : Option (Nat × Nat) :=
  let neg := fpSign x
  let a := fpAbs x
  let isInf := a == 0x7F800000
  match code with
  | 0 | 1 =>
    if a = 0 then some (0x3F800000, 0)
    else if x = fpInf false then some (x, 0)
    else if x = fpInf true then some (0, 0)
    else if atLeast x (if code = 0 then 88722839 else 128000000) then some (fpInf false, stOver)
    else if belowNeg x (if code = 0 then 103972077 else 150000000) then some (0, stUnder)
    else if code = 0 then none
    else match fmtFP32.decode x with
      | .fin n m e =>
        let k := FV.toInt false n m e
        if k.2 then none else some (fpPow2 false k.1, if k.1 < -126 then stUnder else 0)
      | _ => none
  | 2 | 3 =>
    if a = 0 then some (fpInf true, stDZ)
    else if neg then some (fmtFP32.nanBits, stNV)
    else if isInf then some (x, 0)
    else match powerOfTwo x with
      | some k => if code = 3 ∨ k = 0 then some (fmtFP32.encode (FV.ofInt k), 0) else none
      | none => none
  | 4 =>
    if isInf then some (fpWithSign neg 0, 0)
    else if a = 0 then some (fpInf neg, stDZ)
    else if a ≤ 0x00200000 then some (fpInf neg, stOver)
    else match powerOfTwo a with
      | some k => some (fpPow2 neg (-k), if 0x7E800000 < a then stUnder else 0)
      | none => none
  | 5 =>
    if a = 0 then some (fpInf neg, stDZ)
    else if neg then some (fmtFP32.nanBits, stNV)
    else if isInf then some (0, 0)
    else match powerOfTwo x with
      | some k => if k % 2 = 0 then some (fpPow2 false (-(k / 2)), 0) else none
      | none => none
  | 6 =>
    if a = 0 then some (x, 0)
    else if neg then some (fmtFP32.nanBits, stNV)
    else if isInf then some (x, 0)
    else match powerOfTwo x with
      | some k => if k % 2 = 0 then some (fpPow2 false (k / 2), 0) else none
      | none => none
  | 7 =>
    if a < 0x39800000 then some (x, 0)
    else if magGe (fmtFP32.decode a) 9125000 then some (fpWithSign neg 0x3F800000, 0)
    else none
  | 8 =>
    if a = 0 then some (0x3F000000, 0)
    else if x = fpInf true then some (0, 0)
    else if belowNeg x 103972077 then some (0, stUnder)
    else if atLeast x 17500000 then some (0x3F800000, 0)
    else none
  | 9 | 10 =>
    if a = 0 then some (x, 0)
    else if atMostNeg x (if code = 9 then 8000000 else 24000000) then some (2 ^ 31, 0)
    else if atLeast x (if code = 9 then 8000000 else 20000000) then some (x, 0)
    else none
  | 11 =>
    if a = 0 then some (0x3F317218, 0)
    else if x = fpInf true then some (0, 0)
    else if belowNeg x 103972077 then some (0, stUnder)
    else if atLeast x 16000000 then some (x, 0)
    else none
  | 12 =>
    if a = 0 then some (x, 0)
    else if a < 0x39800000 then some ((fmtFP32.mul x 0x3F906EBB).1, 0)
    else if magGe (fmtFP32.decode a) 4000000 then some (fpWithSign neg 0x3F800000, 0)
    else none
  | 13 =>
    if a = 0 then some (x, 0)
    else if 0x4E800000 ≤ a then some (fmtFP32.nanBits, stNV)
    else none
  | _ =>
    if a = 0 then some (0x3F800000, 0)
    else if 0x4E800000 ≤ a then some (fmtFP32.nanBits, stNV)
    else none

/-- An argument at which a function's table, not a tail, gives the result: SIGMOID and SOFTPLUS go by EXP below −16. -/
def sfuLive (code x : Nat) : Bool :=
  (sfuStated code x).isNone && !((code == 8 || code == 11) && belowNeg x 16000000)

/-- UF and NX for a result below the normal range, from the functions that name them (R183). -/
def sfuTiny (code r : Nat) : Nat :=
  if (code = 0 ∨ code = 1 ∨ code = 4) ∧ fpAbs r < 0x00800000 then stUnder else 0

/-- An odd function takes its argument's magnitude, and the argument's sign after (R180). -/
def sfuOdd (code : Nat) : Bool := code == 4 || code == 7 || code == 12 || code == 13

/-- A result from a table, the symmetry applied (R180). -/
def sfuTabled (look : (Nat → Bool) → Nat → Nat → Nat) (live : Nat → Bool) (code x : Nat) : Nat :=
  if sfuOdd code then
    let r := look live code (fpAbs x)
    if fpSign x then r ^^^ 2 ^ 31 else r
  else if code = 14 then look live code (fpAbs x)
  else look live code x

/-- EXP and the functions that use one table (R182, R183). -/
def sfuPlain (code x : Nat) : Nat × Nat :=
  match sfuStated code x with
  | some r => r
  | none =>
    let r := sfuTabled sfuFromTable (sfuLive code) code x
    (r, sfuTiny code r)

/-- A built-in function at an FP32 argument that is no NaN: pattern and sticky bits. -/
def sfuOrdinary (code x : Nat) : Nat × Nat :=
  if sfuLive code x || (sfuStated code x).isSome then sfuPlain code x
  else
    let e := (sfuPlain 0 x).1
    if code = 8 then ((fmtFP32.mul e (fmtFP32.sub 0x3F800000 e).1).1, 0)
    else ((fmtFP32.fma (e ^^^ 2 ^ 31) (fmtFP32.mul e 0x3F000000).1 e).1, 0)

/-- Codes that T2 compatibility covers (R203). -/
def t2Code (code : Nat) : Bool := [0, 2, 4, 5, 7, 8, 9, 10].contains code

/-- What R183 states for infinities, zeros and out-of-range arguments is taken to hold of the T2 too (DEDUCED, log entry 34); its
own tables give every other result. -/
def t2Stated (code x : Nat) : Option (Nat × Nat) :=
  let a := fpAbs x
  let inside := 0 < a && decide (a < 0x7F800000) && ([2, 4, 5].contains code || (code == 7 && decide (a < 0x39800000)))
  match sfuStated code x with
  | some r => if inside && r.2 == 0 then none else some r
  | none => none

/-- A built-in function at an FP32 argument (R180 step 1, R182, R183), in T2 mode where it applies: subnormal arguments
read as zeros, subnormal results returned as zeros with UF and NX, the value the T2's (R203). -/
def sfuBuiltin (t2 : Bool) (code x : Nat) : Nat × Nat :=
  if (fmtFP32.decode x).isNan then (fmtFP32.nanBits, 0)
  else if t2 && t2Code code then
    let x' := if fpSubnormal x then fpWithSign (fpSign x) 0 else x
    let r := match t2Stated code x' with
      | some r => r
      | none => (sfuTabled sfuFromT2 (fun y => (t2Stated code y).isNone) code x', 0)
    if fpSubnormal r.1 then (fpWithSign (fpSign r.1) 0, stUnder) else r
  else sfuOrdinary code x

/-- RSQRT of the norms (R197, R198): T2 mode leaves the norms unchanged (R204). -/
def sfuRsqrt (x : Nat) : Nat × Nat := sfuBuiltin false 5 x

/-! ## Micro-programs (R190 to R193) -/

/-- A table descriptor of a slot: words 5 and 6, or 7 and 8. -/
structure SfuTab where
  base : Nat
  log  : Bool
  nb   : Nat
  deg  : Nat
  src  : Bool
  rev  : Bool
  mb   : Nat
  emin : Int
  lo   : Nat
  invw : Nat
  deriving DecidableEq, Repr

/-- A slot's micro-program. -/
structure SfuProg where
  ntab  : Nat
  sym   : Nat
  rmode : Nat
  smode : Nat
  cmode : Nat
  hiEn  : Bool
  hiX   : Bool
  loEn  : Bool
  loX   : Bool
  ra    : Nat
  rb    : Nat
  xhi   : Nat
  yhi   : Nat
  xlo   : Nat
  ylo   : Nat
  sc    : Nat
  scLo  : Nat
  t0    : SfuTab
  t1    : SfuTab
  deriving DecidableEq, Repr

/-- A table descriptor from its two words. -/
def sfuTab (a b : Nat) : SfuTab :=
  { base := bitsOf a 0 11, log := bitsOf a 11 1 == 1, nb := bitsOf a 12 4, deg := bitsOf a 16 2
    src := bitsOf a 18 1 == 1, rev := bitsOf a 19 1 == 1, mb := bitsOf a 20 3, emin := toSigned 8 (bitsOf a 32 8)
    lo := bitsOf b 0 32, invw := bitsOf b 32 32 }

/-- The micro-program of slot `k` of a bank. -/
def State.sfuProg (s : State) (t b k : Nat) : SfuProg :=
  let w (j : Nat) : Nat := leNat ((List.range 8).map (fun i => s.sfuByte t b (128 * k + 8 * j + i)))
  let w0 := w 0
  { ntab := bitsOf w0 0 2, sym := bitsOf w0 2 2, rmode := bitsOf w0 4 4, smode := bitsOf w0 8 4, cmode := bitsOf w0 12 4
    hiEn := bitsOf w0 16 1 == 1, hiX := bitsOf w0 17 1 == 1, loEn := bitsOf w0 18 1 == 1, loX := bitsOf w0 19 1 == 1
    ra := bitsOf (w 1) 0 32, rb := bitsOf (w 1) 32 32, xhi := bitsOf (w 2) 0 32, yhi := bitsOf (w 2) 32 32
    xlo := bitsOf (w 3) 0 32, ylo := bitsOf (w 3) 32 32, sc := bitsOf (w 4) 0 32, scLo := bitsOf (w 4) 32 32
    t0 := sfuTab (w 5) (w 6), t1 := sfuTab (w 7) (w 8) }

/-- The program holds no invalid code and is not empty (R190, R191, R193). -/
def SfuProg.valid (p : SfuProg) : Bool :=
  (p.ntab == 1 || p.ntab == 2) && p.sym != 3 && decide (p.rmode ≤ 4) && decide (p.smode ≤ 3) && decide (p.cmode ≤ 3)
    && (decide (p.cmode < 2) || p.ntab == 2) && decide (p.t0.nb ≤ 8) && (p.ntab == 1 || decide (p.t1.nb ≤ 8))

/-- An FP32 value's floor, for a finite one. -/
def floorOf (v : FV) : Int :=
  match v with
  | .fin neg m e =>
    let z : Int := if neg then -(m : Int) else m
    if 0 ≤ e then z * ((2 ^ e.toNat : Nat) : Int) else z / ((2 ^ (-e).toNat : Nat) : Int)
  | _ => 0

/-- A finite value minus an integer, exactly. -/
def minusInt (v : FV) (k : Int) : FV := (v.add (FV.ofInt (-k))).1

/-- FP32 rounding of an exact value, conditions dropped (R181). -/
def fp32 (v : FV) : Nat := fmtFP32.encode (fmtFP32.round false v).1

/-- Range reduction (R191): the reduced argument's pattern and k; none where no k and m exist. -/
def SfuProg.reduce (p : SfuProg) (a : Nat) : Option (Nat × Int) :=
  let av := fmtFP32.decode a
  let prod : FV × Bool := av.mul (((fmtFP32.decode p.ra).add (fmtFP32.decode p.rb)).1)
  let inf := 0x7F800000
  match p.rmode with
  | 0 => some (a, 0)
  | 1 => match prod with
    | (.fin n m e, false) =>
      let k := floorOf (.fin n m e)
      some (fp32 (minusInt (.fin n m e) k), k)
    | _ => some (inf, 0)
  | 2 => match av with
    | .fin n m e =>
      if n ∨ m = 0 then none
      else
        let k := floorLog2 m e
        some (fp32 (minusInt (.fin false m (e - k)) 1), k)
    | _ => some (inf, 0)
  | 3 => some ((fmtFP32.fma a p.ra p.rb).1, 0)
  | _ => match prod with
    | (.fin n m e, false) => some (fp32 (minusInt (.fin n m e) (FV.toInt false n m e).1), 0)
    | _ => some (inf, 0)

/-- The FP32 pattern of an integer plus a fraction already exact, as a value. -/
def fracOf (v : FV) (k : Int) : Nat := fp32 (minusInt v k)

/-- Table select (R192): the segment index and variable; none where the index cannot be formed (a NaN). -/
def SfuTab.select (tb : SfuTab) (x : Nat) : Option (Nat × Nat) :=
  let last : Nat := 2 ^ tb.nb - 1
  let pick : Option (Int × Nat) :=
    if tb.log then
      let b := fpAbs x
      let n := 23 - tb.mb
      some (((b >>> n : Nat) : Int) - (tb.emin + 127) * ((2 ^ tb.mb : Nat) : Int), fp32 (.fin false (b % 2 ^ n) (-(n : Int))))
    else
      let u := (fmtFP32.mul (fmtFP32.sub x tb.lo).1 tb.invw).1
      match fmtFP32.decode u with
      | .nan => none
      | .inf neg => some (if neg then -1 else (last : Int) + 1, 0)
      | v => some (floorOf v, fracOf v (floorOf v))
  pick.map (fun q =>
    let r : Nat × Nat := if q.1 < 0 then (0, 0) else if (last : Int) < q.1 then (last, 0x3F800000) else (q.1.toNat, q.2)
    (r.1, if tb.rev then (fmtFP32.sub 0x3F800000 r.2).1 else r.2))

/-- A coefficient of entry `k` of a bank; an entry beyond 1,919 reads as zeros. -/
def State.sfuCoef (s : State) (t b k j : Nat) : Nat :=
  if 1919 < k then 0 else leNat ((List.range 4).map (fun i => s.sfuByte t b (0x1000 + 16 * k + 4 * j + i)))

/-- Horner's scheme with fused multiply-add (R180). -/
def horner (deg : Nat) (c : Nat → Nat) (x : Nat) : Nat :=
  (List.range deg).foldl (fun v i => (fmtFP32.fma v x (c (deg - 1 - i))).1) (c deg)

/-- One table's polynomial; none where the table input selects nothing. -/
def State.sfuPoly (s : State) (t b : Nat) (tb : SfuTab) (r a : Nat) : Option Nat :=
  (tb.select (if tb.src then a else r)).map (fun q => horner tb.deg (fun j => s.sfuCoef t b (tb.base + q.1) j) q.2)

/-- v scaled (R191). -/
def SfuProg.scale (p : SfuProg) (k : Int) (v : Nat) : Nat :=
  match p.smode with
  | 1 => match fmtFP32.decode v with
    | .fin n m e => fp32 (.fin n m (e + k))
    | _ => v
  | 2 =>
    let c := ((fmtFP32.decode p.sc).add (fmtFP32.decode p.scLo)).1
    (fmtFP32.result ((fmtFP32.decode v).add (c.mul (FV.ofInt k)).1)).1
  | 3 => (fmtFP32.mul v p.sc).1
  | _ => v

/-- The argument a of a micro-program (R180). -/
def SfuProg.arg (p : SfuProg) (x : Nat) : Nat := if p.sym = 0 then x else fpAbs x

/-- The result's sign for an odd function. -/
def SfuProg.signed (p : SfuProg) (x v : Nat) : Nat := if p.sym = 1 then fpWithSign (fpSign x) v else v

/-- The results decided before a table is read (R180, R191, R192): a NaN, the thresholds, no range reduction, a reduced argument
that is infinite or NaN. -/
def SfuProg.early (p : SfuProg) (x : Nat) : Option (Nat × Nat) :=
  let a := p.arg x
  let lt (u v : Nat) : Bool :=
    let f := fmtFP32.decode u
    let g := fmtFP32.decode v
    !f.isNan && !g.isNan && f.numLt g
  if (fmtFP32.decode x).isNan then some (fmtFP32.nanBits, 0)
  else if p.hiEn && !(fmtFP32.decode p.xhi).isNan && !lt a p.xhi then some (p.signed x (if p.hiX then x else p.yhi), 0)
  else if p.loEn && lt a p.xlo then some (p.signed x (if p.loX then x else p.ylo), 0)
  else match p.reduce a with
    | none => some ((Config.sfuNoReduce (BitVec.ofNat 32 x)).toNat, 0)
    | some (r, _) => match fmtFP32.decode r with
      | .fin .. => none
      | _ => some (fmtFP32.nanBits, stNV)

/-- A valid micro-program evaluated at an FP32 argument (R180, R191, R192): pattern and sticky bits. -/
def State.sfuRun (s : State) (t b : Nat) (p : SfuProg) (x : Nat) : Nat × Nat :=
  match p.early x with
  | some r => r
  | none =>
    let q := (p.reduce (p.arg x)).getD (0, 0)
    match s.sfuPoly t b p.t0 q.1 (p.arg x), (if p.ntab = 2 then s.sfuPoly t b p.t1 q.1 (p.arg x) else some 0) with
    | some v0, some v1 =>
      let v := p.scale q.2 v0
      let w := match p.cmode with
        | 0 => v
        | 1 => (fmtFP32.mul x v).1
        | 2 => (fmtFP32.add v v1).1
        | _ => (fmtFP32.mul v v1).1
      (if (fmtFP32.decode w).isNan then fmtFP32.nanBits else p.signed x w, 0)
    | _, _ => (fmtFP32.nanBits, stNV)

/-- The bank's byte offsets of the coefficient words one table gives. -/
def SfuTab.words (tb : SfuTab) (r a : Nat) : List Nat :=
  match tb.select (if tb.src then a else r) with
  | none => []
  | some q =>
    let k := tb.base + q.1
    if 1919 < k then [] else (0x1000 + 16 * k) :: (if 2 ≤ tb.deg then [0x1000 + 16 * k + 8] else [])

/-- The bank's byte offsets of the words a result is computed from (R181): the slot's program words, and the coefficient entries its
tables select. -/
def SfuProg.words (p : SfuProg) (slot x : Nat) : List Nat :=
  (List.range (if p.ntab = 2 then 9 else 7)).map (fun j => 128 * slot + 8 * j) ++
  (match p.early x with
    | some _ => []
    | none =>
      let r := ((p.reduce (p.arg x)).getD (0, 0)).1
      p.t0.words r (p.arg x) ++ (if p.ntab = 2 then p.t1.words r (p.arg x) else []))

end Sys2Proof.Machine
end

