-- ==== Sys2Proof/Machine/VecCore.lean ====
section
/-! DEFINITION. Vector registers by elements, and what a vector instruction in flight does when its ac comes: memory
reads and writes (R88), carry reads (R167), write-backs (R85, R86) and status (R146). -/
namespace Sys2Proof.Machine

/-! ## Elements (R138) -/

/-- Element `i` of width `w`. -/
def VReg.el (r : VReg) (w i : Nat) : Nat := bitsOf r.bits.toNat (w * i) w

/-- Lane `l` is poisoned. -/
def VReg.lanePoison (r : VReg) (l : Nat) : Bool := r.poison.getLsbD l

/-- Element `i` of width `w` is poisoned: any lane it covers is. -/
def VReg.elPoison (r : VReg) (w i : Nat) : Bool :=
  (List.range ((w * i + w - 1) / 32 - w * i / 32 + 1)).any (fun k => r.lanePoison (w * i / 32 + k))

/-- The register's bits with an element set. -/
def putEl (b : BitVec 8192) (w i v : Nat) : BitVec 8192 :=
  let mask : BitVec 8192 := BitVec.ofNat 8192 ((2 ^ w - 1) <<< (w * i))
  (b &&& ~~~ mask) ||| BitVec.ofNat 8192 ((v % 2 ^ w) <<< (w * i))

/-- A bit of a poison word set or cleared. -/
def putBit {n : Nat} (b : BitVec n) (i : Nat) (v : Bool) : BitVec n :=
  if v then b ||| BitVec.ofNat n (1 <<< i) else b &&& ~~~ (BitVec.ofNat n (1 <<< i))

/-- How many bits of lane `l` an element of width `w` at index `i` covers. -/
def laneOverlap (w i l : Nat) : Nat := min (w * i + w) (32 * l + 32) - max (w * i) (32 * l)

/-- A lane's poison after the elements of one instruction are written (R138): poisoned by any poisoned element, clean
when all its bits are written clean, else as it was. -/
def laneAfter (old : Bool) (w : Nat) (els : List VEl) (l : Nat) : Bool :=
  let here := els.filter (fun e => 0 < laneOverlap w e.i l)
  if here.any (fun e => e.p) then true
  else if 32 ≤ (here.map (fun e => laneOverlap w e.i l)).sum then false
  else old

/-- A write-back of elements of width `w` lands in a register (R85, R138). -/
def VReg.land (r : VReg) (w : Nat) (els : List VEl) : VReg :=
  let lanes := (els.flatMap (fun e => [w * e.i / 32, (w * e.i + w - 1) / 32])).dedup
  { bits := els.foldl (fun b e => putEl b w e.i e.v) r.bits
    poison := lanes.foldl (fun p l => putBit p l (laneAfter (r.lanePoison l) w els l)) r.poison }

/-- A write-back of mask bits lands. -/
def MReg.land (r : MReg) (els : List (Nat × Bool × Bool)) : MReg :=
  els.foldl (fun r e => { bits := putBit r.bits e.1 e.2.1, poison := putBit r.poison e.1 e.2.2 }) r

/-- The sticky status word of an engine (R178). -/
def fVxeStatus (t e : Nat) : Field := ⟨R.VXE_STATUS t e, 0, 14⟩

/-! ## Stores of elements (R281) -/

/-- Bytes to store by address, each with the poison of its last writer. -/
abbrev ByteMap := Store (Byte × Bool)

/-- An element's bytes added in ascending element order: at a shared address the later one remains (R160). -/
def ByteMap.add (m : ByteMap) (a n v : Nat) (bad : Bool) : ByteMap :=
  (List.range n).foldl (fun m i => (Store.erase m (a + i)).insert (a + i) (BitVec.ofNat 8 (v / 256 ^ i), bad)) m

/-- The bytes of one instruction's elements stored: a word all of whose bytes are written clears its marking unless a
poisoned element touches it (R281). -/
def State.storeMap (s : State) (q : Req) (m : ByteMap) : State :=
  let words := (m.map (fun p => wordBase p.1)).dedup
  let s1 := words.foldl (fun s w =>
    let here := m.filter (fun p => wordBase p.1 == w)
    s.noteWrite q w (here.length == granule w) (here.any (fun p => p.2.2))) s
  m.foldl (fun s p => s.setByte p.1 p.2.1) s1

/-! ## Trees (R162) -/

/-- One level of a tree: neighbours combined, the lower position on the left; conditions ORed. -/
def treeLevel (f : Nat → Nat → Nat × Nat) : List (Nat × Nat) → List (Nat × Nat)
  | a :: b :: r =>
    let c := f a.1 b.1
    (c.1, a.2 ||| b.2 ||| c.2) :: treeLevel f r
  | l => l

/-- `k` levels of a tree. -/
def treeFold (f : Nat → Nat → Nat × Nat) : Nat → List (Nat × Nat) → List (Nat × Nat)
  | 0, l => l
  | k + 1, l => treeFold f k (treeLevel f l)

/-- The FP32 tree sum of `size` positions, some of them holding a value; +0.0 where none does (R162, R163). -/
def treeSum (size : Nat) (xs : List (Nat × Nat)) : Nat × Nat :=
  if xs.isEmpty then (0, 0)
  else
    (treeFold fmtFP32.add (Nat.log2 size) ((List.range size).map (fun i =>
      match xs.find? (fun x => x.1 == i) with
      | some x => (x.2, 0)
      | none => (2 ^ 31, 0)))).headD (0, 0)

/-! ## Scans (R165 to R167) -/

/-- FP32 or INT32 combination of a scan kind: value and conditions. -/
def scanOp (kind ty a b : Nat) : Nat × Nat :=
  if ty = 2 then
    match kind with
    | 0 => ((a + b) % 2 ^ 32, 0)
    | 1 => ((a * b) % 2 ^ 32, 0)
    | 2 => (if toSigned 32 a < toSigned 32 b then b else a, 0)
    | _ => (if toSigned 32 b < toSigned 32 a then b else a, 0)
  else
    match kind with
    | 0 => fmtFP32.add a b
    | 1 => fmtFP32.mul a b
    | 2 => fmtFP32.minmax true a b
    | _ => fmtFP32.minmax false a b

/-- The identity of a scan kind (R167); for a recurrence the carry identity h = +0. -/
def scanIdentity (kind ty : Nat) : Nat :=
  if ty = 2 then
    match kind with
    | 0 => 0
    | 1 => 1
    | 2 => 0x80000000
    | _ => 0x7FFFFFFF
  else
    match kind with
    | 0 => 0x80000000
    | 1 => 0x3F800000
    | 2 => 0xFF800000
    | 3 => 0x7F800000
    | _ => 0

/-- The floating-point format of a vector element type (R141). -/
def fmtOf : Nat → Option Fmt
  | 3 => some fmtBF16
  | 4 => some fmtFP16
  | 5 => some fmtFP32
  | 6 => some fmtFP64
  | 7 => some fmtE4M3
  | 8 => some fmtE5M2
  | 9 => some fmtE3M2
  | 10 => some fmtE2M3
  | 11 => some fmtE2M1
  | _ => none

/-- Element width of a type (R141). -/
def tyWidth : Nat → Nat
  | 0 => 8
  | 1 => 16
  | 2 => 32
  | 3 => 16
  | 4 => 16
  | 5 => 32
  | 6 => 64
  | 7 => 8
  | 8 => 8
  | 9 => 6
  | 10 => 6
  | _ => 4

/-- An FP32 pattern rounded to a type. -/
def fromFP32 (ty x : Nat) : Nat × Nat :=
  match fmtOf ty with
  | some f => if ty = 5 then (x, 0) else f.result (fmtFP32.decode x, false)
  | none => (x, 0)

/-- One position's result with the carry `c` applied (R166 step 3): value before the rounding to TY, and conditions. -/
def scanCarry (r : ScanRec) (i : Nat) (p : Nat × Nat × Bool) (c : Nat) (cp : Bool) : Nat × Bool × Nat :=
  if r.kind = 4 then
    if i < r.first then
      let h := fmtFP32.fma p.1 c p.2.1
      (h.1, p.2.2 || cp, h.2)
    else (p.2.1, p.2.2, 0)
  else if i < r.first then
    let h := scanOp r.kind r.ty p.1 c
    (h.1, p.2.2 || cp, h.2)
  else (p.1, p.2.2, 0)

/-! ## Engines -/

/-- An in-flight event added. -/
def State.pushEv (s : State) (t : Nat) (v : VEvent) : State :=
  s.setTile t { s.tile t with vev := v :: (s.tile t).vev }

/-- The carry a scan takes (R165, R168): the link queue's oldest entry, a carry register, or the identity. -/
def State.takeCarry (s : State) (t : Nat) (v : VEvent) (r : ScanRec) : State × Nat × Bool :=
  if r.lin then
    match (s.eng t v.e).link with
    | (x, p) :: q =>
      let s1 := s.setEng t v.e { s.eng t v.e with link := q }
      (s1.setFld (F.VXE_LINK_DEPTH t v.e) q.length, x.toNat, p)
    | [] =>
      ((s.pushEv t { v with ac := r.issue + r.lat, phase := 3, op := .status stLINKUNDER }).logTile t 0x0404 false
        [(1, v.e), (1, v.st), (4, v.pc)], scanIdentity r.kind r.ty, false)
  else if r.cin then
    (s, s.fld (F.VXE_CARRY_VALUE t v.e r.c), s.flag (F.VXE_CARRY_POISON t v.e r.c))
  else (s, scanIdentity r.kind r.ty, false)

/-- A scan's carry read: its results, its carry out and its link value follow (R166 to R168). -/
def State.finishScan (s : State) (t : Nat) (v : VEvent) (r : ScanRec) : State :=
  let (s1, c, cp) := s.takeCarry t v r
  let outs := (r.ps.zip r.act).zipIdx.map (fun x => (x.2, x.1.2, scanCarry r x.2 x.1.1 c cp))
  let els := outs.filterMap (fun x =>
    if x.2.1 then some (VEl.mk x.1 (fromFP32 r.ty x.2.2.1).1 x.2.2.2.1)
    else if r.z then some (VEl.mk x.1 0 false) else none)
  let tail := if r.z then (List.range (8192 / tyWidth r.ty - r.n)).map (fun k => VEl.mk (r.n + k) 0 false) else []
  let fl := outs.foldl (fun fl x => if x.2.1 then fl ||| x.2.2.2.2 ||| (fromFP32 r.ty x.2.2.1).2 else fl) 0
  let s2 := s1.pushEv t { v with ac := r.issue + r.lat, phase := 3, op := .wbV r.vd (tyWidth r.ty) (els ++ tail) }
  let s3 := s2.pushEv t { v with ac := r.issue + r.lat, phase := 3, op := .status fl }
  let co : Nat × Bool := if r.n = 0 then (c, cp) else match outs.getLast? with
    | some x => (x.2.2.1, x.2.2.2.1)
    | none => (c, cp)
  let s4 := if r.cout then s3.pushEv t { v with ac := r.issue + r.lat - 1, phase := 1, op := .carry r.c (BitVec.ofNat 32 co.1) co.2 } else s3
  if r.lout then
    if t % 36 = 35 then s4.pushEv t { v with ac := r.issue + r.lat, phase := 3, op := .status stLINKDROP }
    else { s4 with linkFly := s4.linkFly ++ [(t + 1, v.e, BitVec.ofNat 32 co.1, co.2)] }
  else s4

/-- The carry registers as a norm or a soft maximum reads them: value and poison. -/
def State.carryOf (s : State) (t e c : Nat) : Nat × Bool :=
  (s.fld (F.VXE_CARRY_VALUE t e c), s.flag (F.VXE_CARRY_POISON t e c))

/-- The mean, ρ, conditions of VNORM.RMS from the sum `sum` (R197). -/
def normRho (r : NormRec) (sum : Nat) : Nat × Nat :=
  let n := if r.n = 0 then r.act else r.n
  let mean : Nat × Nat := if n = 0 then (0, stEMPTY) else fpDivNat sum n
  let m := fmtFP32.add mean.1 r.eps
  let rho := sfuRsqrt m.1
  (rho.1, mean.2 ||| m.2 ||| rho.2)

/-- The elements APPLY and ONE write: x × ρ, times the gain, rounded to TY. -/
def normApply (r : NormRec) (rho : Nat) (rp : Bool) : List VEl × Nat :=
  let rs := r.els.map (fun x =>
    let p := fmtFP32.mul x.2.1 rho
    let g := if r.gain then fmtFP32.mul p.1 x.2.2.1 else (p.1, 0)
    let o := fromFP32 r.ty g.1
    (VEl.mk x.1 o.1 (x.2.2.2 || rp), p.2 ||| g.2 ||| o.2))
  (rs.map (fun x => x.1) ++ r.zero.map (fun i => VEl.mk i 0 false), rs.foldl (fun f x => f ||| x.2) 0)

/-- VNORM.RMS reads its carry (R197): what it writes follows. -/
def State.finishNorm (s : State) (t : Nat) (v : VEvent) (r : NormRec) : State :=
  let c := s.carryOf t v.e r.c
  let wb (s : State) (w : Nat) (els : List VEl) : State :=
    s.pushEv t { v with ac := r.issue + r.lat, phase := 3, op := .wbV r.vd w els }
  let st (s : State) (fl : Nat) : State := s.pushEv t { v with ac := r.issue + r.lat, phase := 3, op := .status fl }
  let cy (s : State) (x : Nat) (p : Bool) : State :=
    s.pushEv t { v with ac := r.issue + r.lat - 1, phase := 1, op := .carry r.c (BitVec.ofNat 32 x) p }
  let cin := r.cin && r.mode != 3
  let sum := fmtFP32.add r.q (if cin then c.1 else 0)
  let sp := r.qp || (cin && c.2)
  match r.mode with
  | 0 => st (cy s sum.1 sp) sum.2
  | 1 =>
    let rho := normRho r sum.1
    let zeros := (List.range 254).map (fun k => VEl.mk (k + 2) 0 false)
    st (wb (cy s rho.1 sp) 32 (VEl.mk 0 rho.1 sp :: VEl.mk 1 sum.1 sp :: zeros)) (sum.2 ||| rho.2)
  | 2 =>
    let o := normApply r c.1 c.2
    st (wb s (tyWidth r.ty) o.1) o.2
  | _ =>
    let rho := normRho r sum.1
    let o := normApply r rho.1 sp
    st (wb s (tyWidth r.ty) o.1) (sum.2 ||| rho.2 ||| o.2)

/-- Pass 1 of the soft maximum: the new maximum and sum with the conditions (R200). -/
def smaxP1 (r : SmaxRec) (mOld sOld : Nat) : Nat × Nat × Nat :=
  let mv := r.zs.foldl (fun m z => (fmtFP32.minmax true m z.2.1).1) (fpInf true)
  let mNew := (fmtFP32.minmax true mOld mv).1
  if (fmtFP32.decode mNew).isNan then
    (fmtFP32.nanBits, fmtFP32.nanBits,
      if r.zs.any (fun z => z.2.1 == fpInf false) || mOld == fpInf false then stNV else 0)
  else if mNew = fpInf false then (mNew, fmtFP32.nanBits, stNV)
  else if mNew = fpInf true then (mNew, 0, stEMPTY)
  else
    let es := r.zs.map (fun z =>
      let d := fmtFP32.sub z.2.1 mNew
      let e := sfuBuiltin r.t2 0 d.1
      (z.1, e.1, d.2 ||| e.2))
    let sv := treeSum r.size (es.map (fun e => (e.1, e.2.1)))
    let old : Nat × Nat := if mOld = fpInf true then (0, 0) else
      let d := fmtFP32.sub mOld mNew
      let e := sfuBuiltin r.t2 0 d.1
      let p := fmtFP32.mul sOld e.1
      (p.1, d.2 ||| e.2 ||| p.2)
    let n := fmtFP32.add old.1 sv.1
    (mNew, n.1, es.foldl (fun f e => f ||| e.2.2) (sv.2 ||| old.2 ||| n.2))

/-- Pass 2 of the soft maximum: the outputs with the conditions (R201). -/
def smaxP2 (r : SmaxRec) (m s : Nat) (cp : Bool) : List VEl × Nat :=
  let nan := (fmtFP32.decode m).isNan || (fmtFP32.decode s).isNan
  let zeros := r.zero.map (fun i => VEl.mk i 0 false)
  if nan then
    (r.zs.map (fun z => VEl.mk z.1 (fromFP32 r.ty fmtFP32.nanBits).1 (z.2.2 || cp)) ++ zeros, 0)
  else if m = fpInf true then (r.zs.map (fun z => VEl.mk z.1 0 (z.2.2 || cp)) ++ zeros, stEMPTY)
  else
    let g := sfuBuiltin r.t2 4 s
    let rs := r.zs.map (fun z =>
      let d := fmtFP32.sub z.2.1 m
      let e := sfuBuiltin r.t2 0 d.1
      let p := fmtFP32.mul e.1 g.1
      let o := fromFP32 r.ty p.1
      (VEl.mk z.1 o.1 (z.2.2 || cp), d.2 ||| e.2 ||| p.2 ||| o.2))
    (rs.map (fun x => x.1) ++ zeros, rs.foldl (fun f x => f ||| x.2) g.2)

/-- VSMAX reads its carries (R200, R201): what it writes follows. -/
def State.finishSmax (s : State) (t : Nat) (v : VEvent) (r : SmaxRec) : State :=
  let c0 := s.carryOf t v.e 0
  let c1 := s.carryOf t v.e 1
  let st (s : State) (fl : Nat) : State := s.pushEv t { v with ac := r.issue + r.lat, phase := 3, op := .status fl }
  if r.pass = 1 then
    let o := if r.cin then smaxP1 r c0.1 c1.1 else smaxP1 r (fpInf true) 0
    let p := r.zs.any (fun z => z.2.2) || (r.cin && (c0.2 || c1.2))
    let cy (s : State) (c x : Nat) : State :=
      s.pushEv t { v with ac := r.issue + r.lat - 1, phase := 1, op := .carry c (BitVec.ofNat 32 x) p }
    st (cy (cy s 0 o.1) 1 o.2.1) o.2.2
  else
    let o := smaxP2 r c0.1 c1.1 (c0.2 || c1.2)
    st (s.pushEv t { v with ac := r.issue + r.lat, phase := 3, op := .wbV r.vd (tyWidth r.ty) o.1 }) o.2

/-- A load's read of tile memory (R88): the elements as read, with their poison; the words read are counted once. -/
def State.doLoad (s : State) (t : Nat) (v : VEvent) (reg w : Nat) (els : List (Nat × Option Nat × Bool)) (zero : List Nat)
    (due : Nat) : State :=
  let q := s.own t
  let rd := els.map (fun e => match e.2.1 with
    | some x => (VEl.mk e.1 (s.num (tileAddr t x) (w / 8)) (e.2.2 || s.poisoned (tileAddr t x) (w / 8)),
        s.poisoned (tileAddr t x) (w / 8))
    | none => (VEl.mk e.1 0 false, false))
  let words := (els.flatMap (fun e => match e.2.1 with
    | some x => wordsOf (tileAddr t x) (w / 8)
    | none => [])).dedup
  let s1 := words.foldl (fun s x => s.noteRead q x) s
  let badN := (rd.filter (fun p => p.2)).length
  let s2 := if badN = 0 then s1 else
    (s1.incFld (F.VXE_POISON_CNT_IN t v.e) badN).pushEv t { v with ac := due, phase := 3, op := .status stPOISON }
  s2.pushEv t { v with ac := due, phase := 3, op := .wbV reg w (rd.map (fun p => p.1) ++ zero.map (fun i => VEl.mk i 0 false)) }

/-- What an in-flight event does when its ac comes. -/
def State.landOp (s : State) (t : Nat) (v : VEvent) : State :=
  match v.op with
  | .wbV reg w els => s.setVreg t v.e reg ((s.vreg t v.e reg).land w els)
  | .wbM reg els => s.setMreg t v.e reg ((s.mreg t v.e reg).land els)
  | .status bits => s.orFld (fVxeStatus t v.e) bits
  | .load reg w els zero due => s.doLoad t v reg w els zero due
  | .store w els =>
    s.storeMap (s.own t) (els.foldl (fun m e => ByteMap.add m (tileAddr t e.1) (w / 8) e.2.1 e.2.2) [])
  | .scan r => s.finishScan t v r
  | .norm r => s.finishNorm t v r
  | .smax r => s.finishSmax t v r
  | .carry c x p => (s.setFld (F.VXE_CARRY_VALUE t v.e c) x.toNat).setFld (F.VXE_CARRY_POISON t v.e c) (b2n p)

/-- One in-flight event comes before another: by ac, then place within the ac, then engine (slot 0 before slot 1), then
issue order (R86, R276). -/
def VEvent.before (a b : VEvent) : Bool :=
  a.ac < b.ac || (a.ac == b.ac && (a.phase < b.phase || (a.phase == b.phase
    && (a.e < b.e || (a.e == b.e && a.seq < b.seq)))))

/-- The earliest of some events. -/
def firstEv : List VEvent → Option VEvent
  | [] => none
  | v :: vs => match firstEv vs with
    | some u => if v.before u then some v else some u
    | none => some v

/-- A write of tile memory. -/
def VEvent.isStore (v : VEvent) : Bool := match v.op with
  | .store _ _ => true
  | _ => false

/-- The event has come by ac `n`; a write of tile memory only when the ac's reads are past (R276), that is with `all` or in a later
ac. -/
def VEvent.due (v : VEvent) (n : Nat) (all : Bool) : Bool := decide (v.ac < n) || (v.ac == n && (all || !v.isStore))

/-- The tile's in-flight events that have come by ac `n` carried out in order. -/
def State.landDue (t n : Nat) (all : Bool) : Nat → State → State
  | 0, s => s
  | k + 1, s =>
    match firstEv ((s.tile t).vev.filter (fun v => v.due n all)) with
    | none => s
    | some v => State.landDue t n all k ((s.setTile t { s.tile t with vev := (s.tile t).vev.erase v }).landOp t v)

end Sys2Proof.Machine
end

