-- ==== Sys2Proof/Machine/Stream.lean ====
section
/-! DEFINITION. The tile sequencer's shared operations: a tile's clock moved on to an ac, issuing an instruction,
retiring it, draining, halting and breaking a stream (R56 to R65, R70, R76, R94). -/
namespace Sys2Proof.Machine

/-! Stream states (R62) and halt reasons (R98). -/
def stIDLE : Nat := 0
def stRUN : Nat := 1
def stWAITTOKEN : Nat := 2
def stWAITFRAME : Nat := 3
def stFENCE : Nat := 4
def stWAITQUEUE : Nat := 5
def stBREAK : Nat := 6
def stHALTED : Nat := 7
def stHALTEDERR : Nat := 8
def haltHALT : Nat := 1
def haltCTL : Nat := 2
def haltILLEGAL : Nat := 3
def haltLOOPDEPTH : Nat := 4
def haltLOOPNEST : Nat := 5
def haltBADSKIP : Nat := 6
def haltPCRANGE : Nat := 7
/-! Break causes, in the order R97 lists them; a break of a single step, which R97 does not list, reads as the count's. DESIGN
CHOICE (log entry 22). -/
def brkCOUNT : Nat := 0
def brkTAG : Nat := 1
def brkCMP : Nat := 2

/-- A stream's state code. -/
def State.stState (s : State) (t st : Nat) : Nat := s.fld (F.TSQ_STREAM_STATUS_STATE t st)

/-- A stream's state code set. -/
def State.setStState (s : State) (t st v : Nat) : State := s.setFld (F.TSQ_STREAM_STATUS_STATE t st) v

/-- A stream's PC. -/
def State.pc (s : State) (t st : Nat) : Nat := s.fld (F.TSQ_STREAM_STATUS_PC t st)

/-- The engine a stream is bound to (R58). -/
def State.vxeOf (s : State) (t st : Nat) : Option Nat :=
  match s.fld (F.TSQ_STREAM_CFG_VXE t st) with
  | 1 => some 0
  | 2 => some 1
  | _ => none

/-- Nothing the stream issued to a vector engine is still in flight, detached instructions apart (R61, R89). Stores
count as in flight until the ac in which they write (log entry 23). -/
def State.drained (s : State) (t st : Nat) : Bool :=
  (s.tile t).vev.all (fun v => v.st != st || (v.isStore && decide (v.ac ≤ (s.tile t).ac)))

/-! ## The tile's clock -/

/-- The event counters of waiting streams over `d` ac (R95). -/
def State.countWaits (s : State) (t d : Nat) : State :=
  (List.range 8).foldl (fun s st =>
    match s.stState t st with
    | 4 => s.countEv t 0x03 st d
    | 2 => s.countEv t 0x04 st d
    | 3 => s.countEv t 0x05 st d
    | 5 => s.countEv t 0x06 st d
    | _ => s) s

/-- A tile's clock moved on to ac `n`: what was in flight and due lands, the token updates of the ac left behind apply,
event counters count, the streams see the tide last delivered, and the post engine takes what is in its queue (R21, R76, R82,
R85, R95). Stores of ac `n` itself still wait: its reads come first (R276). An ac that is not later changes nothing. -/
def State.advance (s : State) (t n : Nat) : State :=
  let h := s.tile t
  if n ≤ h.ac then s
  else
    let s1 := (State.landDue t n false (5 * h.vev.length + 5) s).settleArms t
    let s2 := ((s1.countEv t 0x01 8 (n - h.ac)).countWaits t (n - h.ac)).applyToks t (s1.tile t).tokPend
    let s3 := if h.ac + 1 < n then s2.applyToks t (s2.tile t).tokNext else s2
    let g := s3.tile t
    let s4 := s3.setTile t { g with
      ac := n, seen := s.tide.delivered, tokNext := [], tokPend := if h.ac + 1 < n then [] else g.tokNext }
    ((List.range 2).foldl (fun s e =>
      s.setEng t e { s.eng t e with sb := (s.eng t e).sb.filter (fun b => b.det || n < b.vis) }) s4).postRun t n

/-! ## Draining, halting, breaking -/

/-- A stream halts with a reason code: HALTED for HALT and TSQ_CTL.HALT, else HALTED_ERR (R62). -/
def State.haltNow (s : State) (t st reason : Nat) : State :=
  let s1 := s.setStream t st { s.stream t st with drain := none, waitInsn := none, broken := none }
  (s1.setStState t st (if reason ≤ haltCTL then stHALTED else stHALTEDERR)).setFld
    (F.TSQ_STREAM_STATUS_HALT_REASON t st) reason

/-- A stream stops after its drain (R62, R65): at once where nothing is in flight. -/
def State.haltDrain (s : State) (t st reason : Nat) : State :=
  if s.drained t st then s.haltNow t st reason
  else (s.setStream t st { s.stream t st with drain := some (.halt reason) }).setStState t st stFENCE

/-- A stream that breaks first drains as at a fence; STREAM_BREAK ends the drain (R94). -/
def State.breakDrain (s : State) (t st cause : Nat) : State :=
  (s.setStream t st { s.stream t st with drain := some (.brk cause), waitInsn := none }).setStState t st stFENCE

/-- A drained stream enters BREAK and logs its cause (R94). -/
def State.breakNow (s : State) (t st cause : Nat) : State :=
  ((s.setStream t st { s.stream t st with drain := none, tagSkip := cause == brkTAG }).setStState t st stBREAK).logTile
    t 0x020A false [(1, st), (4, s.pc t st), (1, cause)]

/-- An error stop with its event (R65, R70, R71): stream, PC and what follows. -/
def State.errStop (s : State) (t st reason code : Nat) (more : List (Nat × Nat)) : State :=
  (s.logTile t code true ([(1, st), (4, s.pc t st)] ++ more)).haltDrain t st reason

/-- An illegal instruction (R65): logged with its word, not executed. -/
def State.illegal (s : State) (t st word : Nat) : State := s.errStop t st haltILLEGAL 0x0201 [(8, word)]

/-! ## Loops and the PC -/

/-- The PC and the loop stack after an instruction whose successor is `p` (R70): at the end of the innermost body the
loop goes back, or is left, which may end its encloser's body too. -/
def loopBack : List LoopLevel → Nat → Nat × List LoopLevel
  | [], p => (p, [])
  | l :: ls, p =>
    if p = l.last then
      if 0 < l.left then (l.first, { l with left := l.left - 1, index := l.index + 1 } :: ls)
      else loopBack ls p
    else (p, l :: ls)

/-- A stream's PC set; at 6 MiB the stream stops with PC_RANGE (R57). -/
def State.setPc (s : State) (t st p : Nat) : State :=
  if p < 0x600000 then s.setFld (F.TSQ_STREAM_STATUS_PC t st) p
  else
    ((s.setFld (F.TSQ_STREAM_STATUS_PC t st) p).logTile t 0x0205 true [(1, st)]).haltDrain t st haltPCRANGE

/-- A stream's loop stack and its depth in STATUS. -/
def State.setLoops (s : State) (t st : Nat) (ls : List LoopLevel) : State :=
  (s.setStream t st { s.stream t st with loops := ls }).setFld (F.TSQ_STREAM_STATUS_LOOP_DEPTH t st) ls.length

/-- An instruction is done and its successor is at `p`: the PC moves on, and a count break or a single step takes effect (R70,
R94). -/
def State.retire (s : State) (t st p : Nat) : State :=
  let r := loopBack (s.stream t st).loops p
  let s0 := s.setStream t st { s.stream t st with since := (s.tile t).ac + 1 }
  let s1 := ((s0.setStState t st stRUN).setLoops t st r.2).setPc t st r.1
  if s1.stState t st ≠ stRUN then s1
  else
    let n := s1.fld (F.TSQ_STREAM_BRK_COUNT_COUNT t st)
    if n ≠ 0 ∧ s1.fld (F.TSQ_STREAM_ICOUNT_ICOUNT t st) = n then s1.breakDrain t st brkCOUNT
    else if (s1.stream t st).step then (s1.setStream t st { s1.stream t st with step := false }).breakDrain t st brkCOUNT
    else s1

/-- An instruction is done and the next one follows it. -/
def State.retireNext (s : State) (t st : Nat) : State := s.retire t st (s.pc t st + 8)

/-! ## Issue -/

/-- A tag break matches the instruction (R94). -/
def State.tagHit (s : State) (i : Iss) : Bool :=
  s.flag (F.TSQ_STREAM_BRK_TAG_EN i.t i.st) && !(s.stream i.t i.st).tagSkip &&
    (i.tag.toNat &&& s.fld (F.TSQ_STREAM_BRK_TAG_MASK i.t i.st))
      == (s.fld (F.TSQ_STREAM_BRK_TAG_VALUE i.t i.st) &&& s.fld (F.TSQ_STREAM_BRK_TAG_MASK i.t i.st))

/-- An issue counted (R95, R98), the tag break armed again. -/
def State.countIssue (s : State) (t st : Nat) : State :=
  let s1 := (s.incFld (F.TSQ_STREAM_ICOUNT_ICOUNT t st) 1).countEv t 0x02 st 1
  s1.setStream t st { s1.stream t st with tagSkip := false }

/-- The ac for which an instruction was held before the tile's present ac, by its unit (free from ac `free`) and by the scalar
registers it reads (R60, R68, R87; events 0x07 and 0x08 of R95). An ac held by both counts in both (log entry 108). -/
def State.countHeld (s : State) (t st : Nat) (regs : List Nat) (free : Nat) : State :=
  let h := s.stream t st
  let n := (s.tile t).ac
  let rdy := h.ready.foldl (fun m p => if regs.contains p.1 then max m p.2 else m) 0
  let held (sel d : Nat) (s : State) : State := if d = 0 then s else s.countEv t sel st d
  held 0x08 (min n rdy - h.since) (held 0x07 (min n free - h.since) s)

/-- A scalar result of latency `lat` (R68): written, and its register's readers held until then. -/
def State.setSregAt (s : State) (t st n lat : Nat) (w : Word) : State :=
  let s1 := s.setSreg t st n w
  if lat ≤ 1 ∨ n = 0 then s1
  else
    let ac := (s1.tile t).ac
    s1.setStream t st { s1.stream t st with ready := (n, ac + lat) :: (s1.stream t st).ready.filter (fun p => decide (ac < p.2)) }

/-- A stream issues an instruction that reads the scalar registers `regs`: only in RUN; a tag break comes before it (R94). A
command for a stream that does not run is no issue and changes nothing (log entry 20). -/
def State.issue (s : State) (i : Iss) (regs : List Nat) (body : State → State) : State :=
  if s.stState i.t i.st ≠ stRUN then s
  else
    let s0 := s.advance i.t i.ac
    if s0.tagHit i then s0.breakDrain i.t i.st brkTAG
    else body ((s0.countHeld i.t i.st regs 0).countIssue i.t i.st)

/-- A fencing instruction issues in an ac in which nothing of its stream is in flight; until then it drains in FENCE
(R61). -/
def State.issueFenced (s : State) (i : Iss) (c : Instr) (regs : List Nat) (body : State → State) : State :=
  if s.stState i.t i.st ≠ stRUN then s
  else
    let s0 := s.advance i.t i.ac
    if s0.tagHit i then s0.breakDrain i.t i.st brkTAG
    else
      let s1 := s0.countHeld i.t i.st regs 0
      if s1.drained i.t i.st then body (s1.countIssue i.t i.st)
      else (s1.setStream i.t i.st { s1.stream i.t i.st with drain := some (.insn c) }).setStState i.t i.st stFENCE

/-- An instruction that is illegal in its own operands (R65): not executed, not counted as issued. -/
def State.issueIllegal (s : State) (i : Iss) (word : Nat) : State :=
  if s.stState i.t i.st ≠ stRUN then s
  else
    let s0 := s.advance i.t i.ac
    if s0.tagHit i then s0.breakDrain i.t i.st brkTAG
    else s0.illegal i.t i.st word

end Sys2Proof.Machine
end

