-- ==== Sys2Proof/Machine/Scalar.lean ====
section
/-! DEFINITION. Scalar-class instructions (R66 to R68). Results of latency L are interlocked against every reader
(R68), so writing them at issue shows no difference (log entry 24). -/
namespace Sys2Proof.Machine

/-- Operand B: the sign-extended immediate, or SB (R66). -/
def State.opB (s : State) (i : Iss) (a : ScalarArgs) : Word :=
  if a.i then a.imm.signExtend 64 else s.sreg i.t i.st a.sb.toNat

/-- SA's value. -/
def State.opA (s : State) (i : Iss) (a : ScalarArgs) : Word := s.sreg i.t i.st a.sa.toNat

/-- The scalar registers SA and B name. -/
def scalarRegs (a : ScalarArgs) : List Nat := a.sa.toNat :: (if a.i then [] else [a.sb.toNat])

/-- A scalar operation of latency `lat` that reads the registers `regs`: SD takes a function of SD, SA and B, and the stream goes on
(R67). -/
def State.scalarOpAt (s : State) (i : Iss) (a : ScalarArgs) (regs : List Nat) (lat : Nat) (f : Word → Word → Word → Word) : State :=
  s.issue i regs (fun s =>
    (s.setSregAt i.t i.st a.sd.toNat lat (f (s.sreg i.t i.st a.sd.toNat) (s.opA i a) (s.opB i a))).retireNext i.t i.st)

/-- A scalar operation of latency 1 on SA and B. -/
def State.scalarOp (s : State) (i : Iss) (a : ScalarArgs) (f : Word → Word → Word → Word) : State :=
  s.scalarOpAt i a (scalarRegs a) 1 f

/-- 1 for true, 0 for false, as a word. -/
def boolWord (b : Bool) : Word := if b then 1 else 0

def execSAdd (i : Iss) (a : ScalarArgs) (s : State) : Host.Outcome State Fault Refusal :=
  .next (s.scalarOp i a (fun _ x y => x + y))

def execSSub (i : Iss) (a : ScalarArgs) (s : State) : Host.Outcome State Fault Refusal :=
  .next (s.scalarOp i a (fun _ x y => x - y))

def execSMul (i : Iss) (a : ScalarArgs) (s : State) : Host.Outcome State Fault Refusal :=
  .next (s.scalarOpAt i a (scalarRegs a) 3 (fun _ x y => x * y))

def execSMad (i : Iss) (a : ScalarArgs) (s : State) : Host.Outcome State Fault Refusal :=
  .next (s.scalarOpAt i a (a.sd.toNat :: (scalarRegs a)) 3 (fun d x y => d + x * y))

def execSAnd (i : Iss) (a : ScalarArgs) (s : State) : Host.Outcome State Fault Refusal :=
  .next (s.scalarOp i a (fun _ x y => x &&& y))

def execSOr (i : Iss) (a : ScalarArgs) (s : State) : Host.Outcome State Fault Refusal :=
  .next (s.scalarOp i a (fun _ x y => x ||| y))

def execSXor (i : Iss) (a : ScalarArgs) (s : State) : Host.Outcome State Fault Refusal :=
  .next (s.scalarOp i a (fun _ x y => x ^^^ y))

/-- Shift left, 0 for a count of 64 or more (R67). -/
def shl64 (x y : Word) : Word := if 64 ≤ y.toNat then 0 else x <<< y.toNat

/-- Logical shift right, 0 for a count of 64 or more. -/
def shr64 (x y : Word) : Word := if 64 ≤ y.toNat then 0 else x >>> y.toNat

/-- Arithmetic shift right, 64 copies of the sign for a count of 64 or more. -/
def sra64 (x y : Word) : Word := if 64 ≤ y.toNat then x.sshiftRight 63 else x.sshiftRight y.toNat

def execSShl (i : Iss) (a : ScalarArgs) (s : State) : Host.Outcome State Fault Refusal :=
  .next (s.scalarOp i a (fun _ x y => shl64 x y))

def execSShr (i : Iss) (a : ScalarArgs) (s : State) : Host.Outcome State Fault Refusal :=
  .next (s.scalarOp i a (fun _ x y => shr64 x y))

def execSSra (i : Iss) (a : ScalarArgs) (s : State) : Host.Outcome State Fault Refusal :=
  .next (s.scalarOp i a (fun _ x y => sra64 x y))

def execSMin (i : Iss) (a : ScalarArgs) (s : State) : Host.Outcome State Fault Refusal :=
  .next (s.scalarOp i a (fun _ x y => if x.slt y then x else y))

def execSMax (i : Iss) (a : ScalarArgs) (s : State) : Host.Outcome State Fault Refusal :=
  .next (s.scalarOp i a (fun _ x y => if x.slt y then y else x))

def execSMinu (i : Iss) (a : ScalarArgs) (s : State) : Host.Outcome State Fault Refusal :=
  .next (s.scalarOp i a (fun _ x y => if x.ult y then x else y))

def execSMaxu (i : Iss) (a : ScalarArgs) (s : State) : Host.Outcome State Fault Refusal :=
  .next (s.scalarOp i a (fun _ x y => if x.ult y then y else x))

def execSCeq (i : Iss) (a : ScalarArgs) (s : State) : Host.Outcome State Fault Refusal :=
  .next (s.scalarOp i a (fun _ x y => boolWord (x == y)))

def execSClt (i : Iss) (a : ScalarArgs) (s : State) : Host.Outcome State Fault Refusal :=
  .next (s.scalarOp i a (fun _ x y => boolWord (x.slt y)))

def execSCltu (i : Iss) (a : ScalarArgs) (s : State) : Host.Outcome State Fault Refusal :=
  .next (s.scalarOp i a (fun _ x y => boolWord (x.ult y)))

/-- IMM inserted into SD at the position the SA field gives (R67). -/
def insertImm (d : Word) (pos : Nat) (imm : BitVec 28) : Word :=
  match pos with
  | 0 => putBits d 0 28 imm.toNat
  | 1 => putBits d 28 28 imm.toNat
  | _ => putBits d 56 8 imm.toNat

def execSIns (i : Iss) (a : ScalarArgs) (s : State) : Host.Outcome State Fault Refusal :=
  if 2 < a.sa.toNat then .next (s.issueIllegal i (insnWord 0 0x18 i.tag (scalarBits a)))
  else .next (s.scalarOpAt i a [a.sd.toNat] 1 (fun d _ _ => insertImm d a.sa.toNat a.imm))

end Sys2Proof.Machine
end

