-- ==== Sys2Proof/Machine/Control.lean ====
section
/-! DEFINITION. Control-class instructions (R69 to R71). -/
namespace Sys2Proof.Machine

def execNop (i : Iss) (s : State) : Host.Outcome State Fault Refusal :=
  .next (s.issue i [] (fun s => s.retireNext i.t i.st))

/-- HALT's effect after its fence: the stream is HALTED with reason HALT. -/
def State.haltBody (s : State) (i : Iss) : State := s.haltDrain i.t i.st haltHALT

def execHalt (i : Iss) (s : State) : Host.Outcome State Fault Refusal :=
  .next (s.issue i [] (fun s => s.haltBody i))

/-- The end of the innermost active loop body, if one is active. -/
def State.bodyEnd (s : State) (t st : Nat) : Option Nat := (s.stream t st).loops.head?.map (fun l => l.last)

/-- LOOP with its count decided (R70). -/
def State.loopBody (s : State) (i : Iss) (body count : Nat) : State :=
  let p := s.pc i.t i.st
  let last := p + 8 + 8 * body
  let beyond := match s.bodyEnd i.t i.st with
    | some e => decide (e < last)
    | none => false
  if count ≠ 0 ∧ 4 ≤ (s.stream i.t i.st).loops.length then s.errStop i.t i.st haltLOOPDEPTH 0x0202 []
  else if beyond then s.errStop i.t i.st haltLOOPNEST 0x0203 []
  else if count = 0 then s.retire i.t i.st last
  else
    (s.setLoops i.t i.st (LoopLevel.mk (p + 8) last (count - 1) 0 :: (s.stream i.t i.st).loops)).retireNext i.t i.st

def execLoop (i : Iss) (sa : BitVec 5) (imm : Bool) (body : BitVec 14) (count : BitVec 24) (s : State) :
    Host.Outcome State Fault Refusal :=
  if body = 0 then
    .next (s.issueIllegal i (insnWord 1 0x02 i.tag
      (sa.toNat <<< 39 ||| b2n imm <<< 38 ||| body.toNat <<< 24 ||| count.toNat)))
  else
    .next (s.issue i (if imm then [] else [sa.toNat]) (fun s =>
      let v := (s.sreg i.t i.st sa.toNat).toNat
      if imm then s.loopBody i body.toNat count.toNat
      else if 16777215 < v then
        (s.logTile i.t 0x0206 false [(1, i.st), (4, s.pc i.t i.st), (8, v)]).loopBody i body.toNat 16777215
      else s.loopBody i body.toNat v))

/-- A skip of `n` instructions when `taken` (R71). -/
def State.skipBody (s : State) (i : Iss) (taken : Bool) (n : Nat) : State :=
  if taken && decide (n ≠ 0) then
    let target := s.pc i.t i.st + 8 + 8 * n
    let beyond := match s.bodyEnd i.t i.st with
      | some e => decide (e < target)
      | none => false
    if beyond then s.errStop i.t i.st haltBADSKIP 0x0204 [(4, n)]
    else (s.countEv i.t 0x09 i.st 1).retire i.t i.st target
  else s.retireNext i.t i.st

def execSkipZ (i : Iss) (sa : BitVec 5) (n : BitVec 24) (s : State) : Host.Outcome State Fault Refusal :=
  .next (s.issue i [sa.toNat] (fun s => s.skipBody i (s.sreg i.t i.st sa.toNat == 0) n.toNat))

def execSkipNz (i : Iss) (sa : BitVec 5) (n : BitVec 24) (s : State) : Host.Outcome State Fault Refusal :=
  .next (s.issue i [sa.toNat] (fun s => s.skipBody i (s.sreg i.t i.st sa.toNat != 0) n.toNat))

/-- The iteration index of the loop `level` levels out from the innermost; 0 if there is none (R69). -/
def State.loopIndex (s : State) (t st level : Nat) : Nat :=
  match (s.stream t st).loops[level]? with
  | some l => l.index
  | none => 0

def execLidx (i : Iss) (sd : BitVec 5) (level : BitVec 2) (s : State) : Host.Outcome State Fault Refusal :=
  .next (s.issue i [] (fun s =>
    (s.setSreg i.t i.st sd.toNat (BitVec.ofNat 64 (s.loopIndex i.t i.st level.toNat))).retireNext i.t i.st))

end Sys2Proof.Machine
end

