-- ==== Sys2Proof/Machine/Token.lean ====
section
/-! DEFINITION. Token-class instructions (R72 to R76) and the events of a token wait (R92). -/
namespace Sys2Proof.Machine

/-- The token an instruction acts on: (TOKEN + SA[11:0]) mod 4096 (R75). -/
def State.tokOf (s : State) (i : Iss) (a : TokArgs) : Nat :=
  (a.token.toNat + (s.sreg i.t i.st a.sa.toNat).toNat % 4096) % 4096

/-- Count in [15:0] and flags in [23:16], as TOK.WAIT and TOK.READ return them. -/
def tokWord (count flags : Nat) : Word := BitVec.ofNat 64 (count % 65536 + flags % 256 * 65536)

/-- What the waits satisfied in the present ac have already subtracted from a token (R76). -/
def State.taken (s : State) (t k : Nat) : Nat :=
  ((s.tile t).tokPend.map (fun u => match u with
    | .sub k' n => if k' = k then n else 0
    | _ => 0)).sum

/-- The count left to a wait evaluated in the present ac: as it stood at the end of the ac before, less what earlier waits of the ac
took (R76). -/
def State.tokLeft (s : State) (t k : Nat) : Nat := s.fld (F.TSQ_TOKEN_COUNT t k) - s.taken t k

/-- A wait satisfied (R75, R76): SD written with the count left after its subtraction and the flags as they stood at the end of the ac
before; the subtraction and the flag clear apply at the end of the ac; the stream goes on. -/
def State.satisfy (s : State) (t st k n sd : Nat) : State :=
  ((s.setSreg t st sd (tokWord (s.tokLeft t k - n) (s.fld (F.TSQ_TOKEN_FLAGS t k)))).tokUpd t (.sub k n)).retireNext t st

/-- A stream waiting on token `k` is satisfied where the count left is at least its N. -/
def State.tryWait (s : State) (t k st : Nat) : State :=
  let h := s.stream t st
  if s.stState t st = stWAITTOKEN ∧ s.fld (F.TSQ_STREAM_STATUS_WAIT_TOKEN t st) = k ∧ h.waitN ≤ s.tokLeft t k then
    s.satisfy t st k h.waitN h.waitSd.toNat
  else s

/-- The waits on token `k` of the streams below `st`, in ascending order (R76). -/
def State.waitsBelow (s : State) (t k st : Nat) : State := (List.range st).foldl (fun s x => s.tryWait t k x) s

/-- TOK.WAIT after its fence: satisfied at once, or waiting in WAIT_TOKEN. -/
def State.tokWaitBody (s : State) (i : Iss) (a : TokArgs) : State :=
  let k := s.tokOf i a
  let s0 := s.waitsBelow i.t k i.st
  if a.n.toNat ≤ s0.tokLeft i.t k then s0.satisfy i.t i.st k a.n.toNat a.sd.toNat
  else
    let s1 := s0.setStream i.t i.st { s0.stream i.t i.st with
      drain := none, waitN := a.n.toNat, waitSd := a.sd, waitTides := 0, waitFired := false }
    (s1.setStState i.t i.st stWAITTOKEN).setFld (F.TSQ_STREAM_STATUS_WAIT_TOKEN i.t i.st) k

def execTokWait (i : Iss) (a : TokArgs) (s : State) : Host.Outcome State Fault Refusal :=
  .next (s.issueFenced i (.tokWait i a) [a.sa.toNat] (fun s => s.tokWaitBody i a))

def execTokSet (i : Iss) (a : TokArgs) (s : State) : Host.Outcome State Fault Refusal :=
  .next (s.issue i [a.sa.toNat] (fun s =>
    (if a.n = 0 then s
      else (s.tokUpd i.t (.inc (s.tokOf i a) a.n.toNat 0 i.st)).countEv i.t 0x0F i.st a.n.toNat).retireNext i.t i.st))

def execTokClr (i : Iss) (a : TokArgs) (s : State) : Host.Outcome State Fault Refusal :=
  .next (s.issue i [a.sa.toNat] (fun s => (s.tokUpd i.t (.clr (s.tokOf i a))).retireNext i.t i.st))

def execTokRead (i : Iss) (a : TokArgs) (s : State) : Host.Outcome State Fault Refusal :=
  .next (s.issue i [a.sa.toNat] (fun s =>
    let k := s.tokOf i a
    (s.setSreg i.t i.st a.sd.toNat
      (tokWord (s.fld (F.TSQ_TOKEN_COUNT i.t k)) (s.fld (F.TSQ_TOKEN_FLAGS i.t k)))).retireNext i.t i.st))

/-- A waiting TOK.WAIT finds its count, after the waits of lower streams on the same token (R76). -/
def execTokenWaitSatisfied (p : StreamAt) (s : State) : Host.Outcome State Fault Refusal :=
  if s.stState p.t p.st ≠ stWAITTOKEN then .next s
  else
    let s0 := s.advance p.t p.ac
    .next (s0.waitsBelow p.t (s0.fld (F.TSQ_STREAM_STATUS_WAIT_TOKEN p.t p.st)) (p.st.val + 1))

/-- What a waiting stream waits for, as WAIT_SNAPSHOT reports it (R92). DESIGN CHOICE (log entry 117): 0 for one in WAIT_QUEUE, which
has neither token nor target. -/
def State.waitTarget (s : State) (t st : Nat) : Nat :=
  match s.stState t st with
  | 2 => s.fld (F.TSQ_STREAM_STATUS_WAIT_TOKEN t st)
  | 3 => s.fld (F.TSQ_STREAM_FRAME_TARGET t st)
  | _ => 0

/-- A token wait reaches WAIT_TMO tides (R92): once per wait. -/
def execTokenTimeout (p : StreamAt) (s : State) : Host.Outcome State Fault Refusal :=
  let tmo := s.fld (F.TSQ_STREAM_CFG_WAIT_TMO p.t p.st)
  let h := s.stream p.t p.st
  if s.stState p.t p.st ≠ stWAITTOKEN ∨ tmo = 0 ∨ h.waitTides < tmo ∨ h.waitFired then .next s
  else
    let s0 := s.advance p.t p.ac
    let k := s0.fld (F.TSQ_STREAM_STATUS_WAIT_TOKEN p.t p.st)
    let s1 := s0.setStream p.t p.st { s0.stream p.t p.st with waitFired := true }
    let s2 := s1.logTile p.t 0x0208 true
      [(1, p.st), (4, s1.pc p.t p.st), (2, k), (2, s1.fld (F.TSQ_TOKEN_COUNT p.t k)), (2, h.waitN)]
    .next ((List.range 8).foldl (fun s (st : Nat) =>
      if st ≠ p.st.val ∧ (s.stState p.t st = stWAITTOKEN ∨ s.stState p.t st = stWAITFRAME ∨ s.stState p.t st = stWAITQUEUE) then
        s.logTile p.t 0x0209 false [(1, st), (1, s.stState p.t st), (4, s.pc p.t st), (8, s.waitTarget p.t st)]
      else s) s2)

end Sys2Proof.Machine
end

