-- ==== Sys2Proof/Machine/Frame.lean ====
section
/-! DEFINITION. Frame-class instructions (R44 to R49, R83). -/
namespace Sys2Proof.Machine

/-- The frame number an open names: SA + IMM as a signed 64-bit sum, taken into 0 to 2^48 − 1 (R83). -/
def State.frameNum (s : State) (i : Iss) (a : FrameArgs) : Nat :=
  let v := (s.sreg i.t i.st a.sa.toNat + a.imm.signExtend 64).toInt
  if v < 0 then 0 else min v.toNat (2 ^ 48 - 1)

/-- frame_close of R44 on a stream: the tides lost raise slip and slip total; crossing the limit is raised. `op` is the
instruction named by FRAME_NESTING. -/
def State.frameCloseBody (s : State) (t st op time : Nat) : State :=
  if !s.flag (F.TSQ_STREAM_FRAME_OPEN t st) then s.logTile t 0x0112 false [(1, st), (1, op)]
  else
    let target := s.fld (F.TSQ_STREAM_FRAME_TARGET t st)
    let lost := (s.tile t).seen - target
    let s1 :=
      if 0 < lost then
        let old := s.fld (F.TSQ_STREAM_SLIP_SLIP t st)
        let s2 := (s.incFld (F.TSQ_STREAM_SLIP_SLIP t st) lost).incFld (F.TSQ_STREAM_SLIP_SLIP_TOTAL t st) lost
        let slip := s2.fld (F.TSQ_STREAM_SLIP_SLIP t st)
        let s3 := s2.logTile t 0x0110 false [(1, st), (8, target), (4, lost), (4, slip)]
        let limit := s.fld (F.TSQ_STREAM_CFG_SLIP_LIMIT t st)
        if limit ≠ 0 ∧ old < limit ∧ limit ≤ slip then s3.logTile t 0x0111 true [(1, st), (4, slip), (4, limit)] else s3
      else { s with tide := { s.tide with closes := (target, time) :: s.tide.closes } }
    s1.setFld (F.TSQ_STREAM_FRAME_OPEN t st) 0

/-- The frame opens: the flag is set and the stream goes on. -/
def State.frameOpened (s : State) (t st : Nat) : State :=
  (s.set1 (F.TSQ_STREAM_FRAME_OPEN t st)).retireNext t st

/-- frame_open of R44 after its fence. -/
def State.frameOpenBody (s : State) (i : Iss) (a : FrameArgs) (abs : Bool) : State :=
  let n := s.frameNum i a
  let s1 := if s.flag (F.TSQ_STREAM_FRAME_OPEN i.t i.st) then
      (s.logTile i.t 0x0112 false [(1, i.st), (1, b2n abs)]).frameCloseBody i.t i.st 2 (s.tide.now / 250)
    else s
  let s2 := if abs then s1.setFld (F.TSQ_STREAM_SLIP_SLIP i.t i.st) 0 else s1
  let target := min (n + s2.fld (F.TSQ_STREAM_SLIP_SLIP i.t i.st)) (2 ^ 48 - 1)
  let s3 := s2.setFld (F.TSQ_STREAM_FRAME_TARGET i.t i.st) target
  if target ≤ (s3.tile i.t).seen then
    (s3.incFld (F.TSQ_STREAM_LATE_LATE_OPENS i.t i.st) 1).frameOpened i.t i.st
  else
    (s3.setStream i.t i.st { s3.stream i.t i.st with drain := none }).setStState i.t i.st stWAITFRAME

def execFrameOpen (i : Iss) (a : FrameArgs) (s : State) : Host.Outcome State Fault Refusal :=
  .next (s.issueFenced i (.frameOpen i a) [a.sa.toNat] (fun s => s.frameOpenBody i a false))

def execFrameOpenA (i : Iss) (a : FrameArgs) (s : State) : Host.Outcome State Fault Refusal :=
  .next (s.issueFenced i (.frameOpenA i a) [a.sa.toNat] (fun s => s.frameOpenBody i a true))

/-- FRAME.CLOSE; `time` is the local time of the close, for the frame slack (R49). -/
def execFrameClose (i : Iss) (_a : FrameArgs) (time : Nat) (s : State) : Host.Outcome State Fault Refusal :=
  .next (s.issue i [] (fun s => (s.frameCloseBody i.t i.st 2 time).retireNext i.t i.st))

/-- What FRAME.STAT reads (R83). -/
def State.frameStat (s : State) (t st sel : Nat) : Word :=
  match sel with
  | 0 => BitVec.ofNat 64 (s.fld (F.TSQ_STREAM_SLIP_SLIP t st))
  | 1 => BitVec.ofNat 64 (s.fld (F.TSQ_STREAM_SLIP_SLIP_TOTAL t st))
  | 2 => BitVec.ofNat 64 (s.fld (F.TSQ_STREAM_LATE_LATE_OPENS t st))
  | _ => BitVec.ofNat 64 (s.fld (F.TSQ_STREAM_FRAME_TARGET t st) + 2 ^ 63 * s.fld (F.TSQ_STREAM_FRAME_OPEN t st))

def execFrameStat (i : Iss) (a : FrameArgs) (s : State) : Host.Outcome State Fault Refusal :=
  .next (s.issue i [] (fun s =>
    (s.setSreg i.t i.st a.sd.toNat (s.frameStat i.t i.st (a.imm.toNat % 4))).retireNext i.t i.st))

/-- A stream waiting in FRAME.OPEN sees the count reach its target (R44). -/
def execFrameWaitEnd (p : StreamAt) (s : State) : Host.Outcome State Fault Refusal :=
  if s.stState p.t p.st ≠ stWAITFRAME then .next s
  else
    let s0 := s.advance p.t p.ac
    if s0.fld (F.TSQ_STREAM_FRAME_TARGET p.t p.st) ≤ (s0.tile p.t).seen then .next (s0.frameOpened p.t p.st)
    else .next s0

end Sys2Proof.Machine
end

