-- ==== Sys2Proof/Machine/Counter.lean ====
section
/-! DEFINITION. Counter-class instructions (R84), event counters and comparators (R95, R96). -/
namespace Sys2Proof.Machine

def execCtrRead (i : Iss) (a : CtrArgs) (s : State) : Host.Outcome State Fault Refusal :=
  if 7 < a.idx.toNat then .next (s.issueIllegal i (insnWord 8 0 i.tag (ctrBits a)))
  else
    .next (s.issue i [] (fun s =>
      (s.setSreg i.t i.st a.sd.toNat (BitVec.ofNat 64 (s.fld (F.TSQ_EVCNT_VALUE_VALUE i.t a.idx.toNat)))).retireNext i.t i.st))

def execCtrClr (i : Iss) (a : CtrArgs) (s : State) : Host.Outcome State Fault Refusal :=
  if 7 < a.idx.toNat then .next (s.issueIllegal i (insnWord 8 1 i.tag (ctrBits a)))
  else .next (s.issue i [] (fun s => (s.setFld (F.TSQ_EVCNT_VALUE_VALUE i.t a.idx.toNat) 0).retireNext i.t i.st))

def execCtrTide (i : Iss) (a : CtrArgs) (s : State) : Host.Outcome State Fault Refusal :=
  .next (s.issue i [] (fun s =>
    (s.setSreg i.t i.st a.sd.toNat (BitVec.ofNat 64 (s.tile i.t).seen)).retireNext i.t i.st))

def execCtrCyc (i : Iss) (a : CtrArgs) (s : State) : Host.Outcome State Fault Refusal :=
  .next (s.issue i [] (fun s =>
    (s.setSreg i.t i.st a.sd.toNat (BitVec.ofNat 64 (s.tile i.t).ac)).retireNext i.t i.st))

def execCmpSet (i : Iss) (a : CtrArgs) (s : State) : Host.Outcome State Fault Refusal :=
  if 3 < a.idx.toNat then .next (s.issueIllegal i (insnWord 8 4 i.tag (ctrBits a)))
  else
    .next (s.issue i [a.sa.toNat] (fun s =>
      ((s.setFld (F.TSQ_CMP_VALUE_VALUE i.t a.idx.toNat) (s.sreg i.t i.st a.sa.toNat).toNat).set1
        (F.TSQ_CMP_CTL_ARMED i.t a.idx.toNat)).retireNext i.t i.st))

def execCmpArm (i : Iss) (a : CtrArgs) (s : State) : Host.Outcome State Fault Refusal :=
  if 3 < a.idx.toNat then .next (s.issueIllegal i (insnWord 8 5 i.tag (ctrBits a)))
  else .next (s.issue i [] (fun s => (s.set1 (F.TSQ_CMP_CTL_ARMED i.t a.idx.toNat)).retireNext i.t i.st))

/-- A comparator's source value (R96). -/
def State.cmpSource (s : State) (t j : Nat) : Nat :=
  let src := s.fld (F.TSQ_CMP_CTL_SRC t j)
  if src < 8 then s.fld (F.TSQ_EVCNT_VALUE_VALUE t src) else s.fld (F.TSQ_STREAM_ICOUNT_ICOUNT t (src - 8))

/-- The comparison of an armed comparator holds (R96). -/
def State.cmpHolds (s : State) (t j : Nat) : Bool :=
  let v := s.fld (F.TSQ_CMP_VALUE_VALUE t j)
  s.flag (F.TSQ_CMP_CTL_ARMED t j) &&
    (if s.flag (F.TSQ_CMP_CTL_COND t j) then decide (v ≤ s.cmpSource t j) else s.cmpSource t j == v)

/-- A stream that waits, and so has nothing in flight, breaks at once and keeps its wait. -/
def State.breakWait (s : State) (t st : Nat) : State :=
  (s.setStream t st { s.stream t st with broken := some (s.stState t st) }).breakNow t st brkCMP

/-- A comparator break of a stream (R94, R96): a running or draining stream drains for it at once (a fencing instruction it
drained for has not issued), a waiting one has nothing in flight and breaks in the same ac; a stopping or stopped stream is not
touched. -/
def State.cmpBreak (s : State) (t st : Nat) : State :=
  match s.stState t st with
  | 1 => s.breakDrain t st brkCMP
  | 2 => s.breakWait t st
  | 3 => s.breakWait t st
  | 4 => match (s.stream t st).drain with
    | some (.insn _) => s.breakDrain t st brkCMP
    | _ => s
  | 5 => s.breakWait t st
  | _ => s

/-- An armed comparator's condition holds (R96). DESIGN CHOICE (log entry 117): the record's source and value are SRC and the value
the source has. -/
def execComparatorFire (t : Fin 144) (j : Fin 4) (ac : Nat) (s : State) : Host.Outcome State Fault Refusal :=
  let s0 := s.advance t ac
  if !s0.cmpHolds t j then .next s
  else
    let s1 := (s0.setFld (F.TSQ_CMP_CTL_ARMED t j) 0).set1 (F.TSQ_CMP_CTL_FIRED t j)
    let s2 := if s0.flag (F.TSQ_CMP_CTL_LOG t j) then
        s1.logTile t 0x020B false [(1, j), (1, s0.fld (F.TSQ_CMP_CTL_SRC t j)), (8, s0.cmpSource t j)]
      else s1
    let s3 := if s0.flag (F.TSQ_CMP_CTL_FREEZE t j) then
        (List.range 8).foldl (fun s k => s.set1 (F.TSQ_EVCNT_SEL_FROZEN t k)) s2
      else s2
    let streams := s0.fld (F.TSQ_CMP_CTL_BRK_STREAMS t j)
    .next ((List.range 8).foldl (fun s st => if streams.testBit st then s.cmpBreak t st else s) s3)

def execTsqCtlUnfreeze (m : Master) (t : Fin 144) (s : State) : Host.Outcome State Fault Refusal :=
  .next ((List.range 8).foldl (fun s k => s.setFld (F.TSQ_EVCNT_SEL_FROZEN t k) 0) (s.noteBy m (R.TSQ_CTL t)))

end Sys2Proof.Machine
end

