-- ==== Sys2Proof/Machine/StreamCtl.lean ====
section
/-! DEFINITION. Stream control registers (R58, R62, R94, R98): start, halt, resume, token and scalar writes, the drain
into a break, write-backs and illegal words. -/
namespace Sys2Proof.Machine

/-- The compute dies have their core rails: no thermal trip, and a good factory record (R379, R436). -/
def State.diesUp (s : State) : Bool := !s.mod.tripped && !s.fw.facBad

/-- The stream may be started: IDLE, HALTED or HALTED_ERR (R62). -/
def State.startable (s : State) (t st : Nat) : Bool :=
  s.stState t st == stIDLE || s.stState t st == stHALTED || s.stState t st == stHALTEDERR

/-- A start request is refused (R58, R98): a start PC not a multiple of 8, VXE = 3, or an engine with two owners among
the streams that run and those that would start. -/
def State.startRefused (s : State) (t mask : Nat) : Bool :=
  let starts := (List.range 8).filter (fun st => mask.testBit st && s.startable t st)
  let live := (List.range 8).filter (fun st => !s.startable t st) ++ starts
  let owners (v : Nat) := (live.filter (fun st => s.fld (F.TSQ_STREAM_CFG_VXE t st) == v)).length
  starts.any (fun st => s.fld (F.TSQ_STREAM_START_PC t st) % 8 != 0 || s.fld (F.TSQ_STREAM_CFG_VXE t st) == 3)
    || (starts.any (fun st => s.fld (F.TSQ_STREAM_CFG_VXE t st) == 1) && decide (1 < owners 1))
    || (starts.any (fun st => s.fld (F.TSQ_STREAM_CFG_VXE t st) == 2) && decide (1 < owners 2))

/-- One stream started at its start PC: scalar registers and loop stack cleared, frame state left (R62). -/
def State.startStream (s : State) (t st : Nat) : State :=
  let s1 := (List.range 32).foldl (fun s n => s.setReg (R.TSQ_SREG t st n) 0) s
  let s2 := (s1.setStream t st { StreamHid.init with since := (s.tile t).ac }).setReg (R.TSQ_STREAM_STATUS t st) 0
  let s3 := (s2.setReg (R.TSQ_STREAM_ICOUNT t st) 0).setStState t st stRUN
  s3.setPc t st (s3.fld (F.TSQ_STREAM_START_PC t st))

/-- A write of TSQ_CTL.START. A compute die without its rail starts nothing. -/
def State.start (s : State) (t mask : Nat) : State :=
  if !s.diesUp then s
  else if s.startRefused t mask then s.set1 (F.TSQ_CTL_CFG_ERR t)
  else
    let starts := (List.range 8).filter (fun st => mask.testBit st && s.startable t st)
    starts.foldl (fun s st => s.startStream t st) s

def execTsqCtlStart (m : Master) (t : Fin 144) (mask : BitVec 8) (s : State) : Host.Outcome State Fault Refusal :=
  .next ((s.noteBy m (R.TSQ_CTL t)).start t mask.toNat)

/-- TSQ_CTL.HALT on one stream (R62): a running, waiting, draining or broken stream halts after its drain. -/
def State.haltStream (s : State) (t st : Nat) : State :=
  if s.startable t st then s
  else match s.stState t st, (s.stream t st).drain with
    | 4, some (.halt _) => s
    | _, _ => s.haltDrain t st haltCTL

/-- A write of TSQ_CTL.HALT. -/
def State.haltMask (s : State) (t mask : Nat) : State :=
  (List.range 8).foldl (fun s st => if mask.testBit st then s.haltStream t st else s) s

def execTsqCtlHalt (m : Master) (t : Fin 144) (mask : BitVec 8) (s : State) : Host.Outcome State Fault Refusal :=
  .next ((s.noteBy m (R.TSQ_CTL t)).haltMask t mask.toNat)

/-- RESUME on one stream (R94): from BREAK to RUN, or to the wait that a comparator broke (log entry 117); a tag break does not fire
again on the same instruction; under STEP one instruction issues and the stream breaks again. -/
def State.resumeStream (s : State) (t st : Nat) : State :=
  if s.stState t st ≠ stBREAK then s
  else
    let h := s.stream t st
    (s.setStream t st { h with drain := none, step := s.flag (F.TSQ_CTL_STEP t), broken := none, since := (s.tile t).ac }).setStState
      t st (h.broken.getD stRUN)

/-- A write of TSQ_CTL.RESUME. -/
def State.resumeMask (s : State) (t mask : Nat) : State :=
  (List.range 8).foldl (fun s st => if mask.testBit st then s.resumeStream t st else s) s

def execTsqCtlResume (m : Master) (t : Fin 144) (mask : BitVec 8) (s : State) : Host.Outcome State Fault Refusal :=
  .next ((s.noteBy m (R.TSQ_CTL t)).resumeMask t mask.toNat)

/-- A write of a token register (R76): it applies in the next ac, in the position of a clear. -/
def State.tokenWrite (s : State) (t k : Nat) (v : Word) : State :=
  s.setTile t { s.tile t with
    tokNext := (s.tile t).tokNext ++ [.put k (bitsOf v.toNat 0 16) (bitsOf v.toNat 16 8)] }

def execTsqTokenWrite (m : Master) (t : Fin 144) (k : BitVec 12) (v : BitVec 64) (s : State) :
    Host.Outcome State Fault Refusal :=
  .next ((s.noteBy m (R.TSQ_TOKEN t k.toNat)).tokenWrite t k.toNat v)

/-- A write of a scalar register: applied only while its stream is stopped, ignored for S0 (R98). -/
def State.sregWrite (s : State) (t st n : Nat) (v : Word) : State :=
  if s.startable t st || s.stState t st == stBREAK then s.setSreg t st n v else s

def execTsqSregWrite (m : Master) (t : Fin 144) (st : Fin 8) (n : BitVec 5) (v : BitVec 64) (s : State) :
    Host.Outcome State Fault Refusal :=
  .next ((s.noteBy m (R.TSQ_SREG t st n.toNat)).sregWrite t st n.toNat v)

/-- A stream that drained for a break enters BREAK and logs its cause (R94). -/
def execStreamBreak (p : StreamAt) (s : State) : Host.Outcome State Fault Refusal :=
  if s.stState p.t p.st ≠ stFENCE then .next s
  else match (s.stream p.t p.st).drain with
    | some (.brk c) =>
      let s0 := s.advance p.t p.ac
      if s0.drained p.t p.st then .next (s0.breakNow p.t p.st c) else .next s0
    | _ => .next s

/-- Vector results land as their ac comes (R85, R86), the stores of that ac too: its reads are past. -/
def State.landAll (s : State) (t n : Nat) : State :=
  let s0 := s.advance t n
  State.landDue t n true (5 * (s0.tile t).vev.length + 5) s0

def execVectorWriteback (t : Fin 144) (ac : Nat) (s : State) : Host.Outcome State Fault Refusal :=
  .next (s.landAll t ac)

/-- The sequencer fetches a word: an illegal one stops the stream (R65); a word that holds a legal instruction is that
instruction's own command and nothing happens here (DESIGN CHOICE, log entry 118). -/
def execIllegalInsn (i : Iss) (word : BitVec 64) (s : State) : Host.Outcome State Fault Refusal :=
  if wordIllegal i (s.vxeOf i.t i.st).isSome word.toNat then
    .next (s.issueIllegal { i with tag := wf word.toNat 44 8 } word.toNat)
  else .next s

end Sys2Proof.Machine
end

