-- ==== Sys2Proof/Machine/Evt.lean ====
section
/-! DEFINITION. The event unit: acceptance of records and the event ring (R450 to R452), the audit ring (R459), replay
capture (R460 to R462) and the entropy source. -/
namespace Sys2Proof.Machine

/-- Bytes stored at a local-map address by a device unit; what lies outside populated memory is answered as unmapped and
dropped, each part judged on its own (R271). -/
def State.devWrite (s : State) (src a : Nat) (bs : List Byte) (bad : Bool) : State :=
  (parts 4 a bs.length).foldl (fun s p =>
    if populated p.1 then s.writeBytes (s.own src) p.1 ((bs.drop (p.1 - a)).take p.2) bad
    else s.unmapped (s.own src) p.1 kindWrite) s

/-- A record written to the event ring, or dropped at a full ring (R451). -/
def State.ringWrite (s : State) (r : BitVec 256) : State :=
  let size := 2 ^ s.fld F.EVT_CTL_LOG2
  let wr := s.fld F.EVT_WR_WR
  let rd := s.fld F.EVT_RD_RD
  let full := idxDiff wr rd = size
  let put (s : State) : State :=
    (s.devWrite srcEVT (s.fld F.EVT_RING_BASE_BASE + 32 * (wr % size)) (leBytes 32 r.toNat) false).setFld F.EVT_WR_WR (wr + 1)
  if full then
    if s.flag F.EVT_CTL_STOP_FULL then (s.incFld F.EVT_CNT_FULL_DROP 1).set1 F.EVT_STATUS_LOST
    else put (((s.incFld F.EVT_CNT_OVERWRITTEN 1).set1 F.EVT_STATUS_LOST).setFld F.EVT_RD_RD (rd + 1))
  else put s

/-- A record accepted: to the ring, or to the on-chip buffer of 64 while the ring is not enabled or a warm reset runs
(R452). -/
def State.acceptRec (s : State) (r : BitVec 256) : State :=
  if s.flag F.EVT_CTL_EN && !s.evt.warm then s.ringWrite r
  else if s.evt.pre.length < 64 then { s with evt := { s.evt with pre := s.evt.pre ++ [r] } }
  else (s.incFld F.EVT_CNT_PRE_DROP 1).set1 F.EVT_STATUS_LOST

/-- The record of least (SOURCE, CODE) among some, the earlier one of equals (R450). -/
def leastRec : List (Nat × BitVec 256) → Option (Nat × BitVec 256)
  | [] => none
  | p :: ps => match leastRec ps with
    | some q => if q.1 < p.1 ∨ (q.1 = p.1 ∧ recCode q.2 < recCode p.2) then some q else some p
    | none => some p

/-- One event record is accepted (R450). The first `sameNs` waiting records reached the unit in the same ns. -/
def execEventAccept (sameNs : Nat) (s : State) : Host.Outcome State Fault Refusal :=
  match leastRec (s.evt.waiting.take (max sameNs 1)) with
  | none => .next s
  | some p => .next ({ s with evt := { s.evt with waiting := s.evt.waiting.erase p } }.acceptRec p.2)

/-- EVT_SW's 32 bytes as written. -/
def State.swRecord (s : State) : Nat :=
  (s.reg (R.EVT_SW 0)).toNat + 2 ^ 64 * (s.reg (R.EVT_SW 1)).toNat + 2 ^ 128 * (s.reg (R.EVT_SW 2)).toNat
    + 2 ^ 192 * (s.reg (R.EVT_SW 3)).toNat

/-- A software-written record committed: TIDE is the present count, FW is set, the rest stands as written (R452). -/
def State.swCommit (s : State) : State :=
  let w := s.swRecord
  let r : BitVec 256 := BitVec.ofNat 256
    ((w / 2 ^ 48 * 2 ^ 48 + s.count) ||| 2 ^ 82 ||| s.fld F.EVT_STATUS_REPLAY_RUN * 2 ^ 81)
  let s1 := (s.arise (recSource r) r).noteTrigger (recCode r) s.count
  if bitsOf w 80 1 = 1 ∧ recCode r / 256 < 16 then s1.signal (32 + recCode r / 256) else s1

def execEvtSwCommit (s : State) : Host.Outcome State Fault Refusal := .next s.swCommit

/-- A LOG2 in its range, 10 to 24. -/
def log2Ok (n : Nat) : Bool := decide (10 ≤ n) && decide (n ≤ 24)

/-- A write of EVT_CTL: refused whole for a LOG2 out of range; setting EN writes the buffered records in order (R452). -/
def State.evtCtlWrite (s : State) (v : Word) : State :=
  if !log2Ok (bitsOf v.toNat 16 5) then s.set1 F.EVT_STATUS_CFG_ERR
  else
    let was := s.flag F.EVT_CTL_EN
    let s1 := ((s.setFld F.EVT_CTL_EN (bitsOf v.toNat 0 1)).setFld F.EVT_CTL_STOP_FULL (bitsOf v.toNat 1 1)).setFld
      F.EVT_CTL_LOG2 (bitsOf v.toNat 16 5)
    if !was && s1.flag F.EVT_CTL_EN then
      s1.evt.pre.foldl (fun s r => s.ringWrite r) { s1 with evt := { s1.evt with pre := [] } }
    else s1

def execEvtCtlWrite (v : BitVec 64) (s : State) : Host.Outcome State Fault Refusal := .next (s.evtCtlWrite v)

/-- A write of EVT_RD: frees records; backward or beyond WR it is refused (R451). -/
def State.evtRdWrite (s : State) (v : Word) : State :=
  let n := bitsOf v.toNat 0 32
  if idxDiff n (s.fld F.EVT_RD_RD) ≤ idxDiff (s.fld F.EVT_WR_WR) (s.fld F.EVT_RD_RD) then s.setFld F.EVT_RD_RD n
  else s.set1 F.EVT_STATUS_CFG_ERR

def execEvtRdWrite (v : BitVec 64) (s : State) : Host.Outcome State Fault Refusal := .next (s.evtRdWrite v)

/-! ## The audit ring (R459) -/

/-- An audit record arises: its tile holds up to four, else it is dropped and counted. -/
def State.auditArise (s : State) (r : AuditRec) : State :=
  if (s.evt.audit.filter (fun a => a.t == r.t)).length < 4 then
    { s with evt := { s.evt with audit := s.evt.audit ++ [r] } }
  else s.incFld (F.TSQ_AUDIT_CNT_DROPPED r.t) 1

/-- The order of audit records that arrive in one ns. -/
def AuditRec.before (a b : AuditRec) : Bool :=
  a.t < b.t || (a.t == b.t && (a.e < b.e || (a.e == b.e && (a.st < b.st || (a.st == b.st && a.kind < b.kind)))))

def leastAudit : List AuditRec → Option AuditRec
  | [] => none
  | a :: as => match leastAudit as with
    | some b => if b.before a then some b else some a
    | none => some a

/-- One audit record is accepted into the audit ring, or dropped at a full ring. A ring entry takes 32 bytes, words 0 to
2 and a zero word (DESIGN CHOICE, log entry 25). -/
def execAuditAccept (sameNs : Nat) (s : State) : Host.Outcome State Fault Refusal :=
  match leastAudit (s.evt.audit.take (max sameNs 1)) with
  | none => .next s
  | some r =>
    let s0 := { s with evt := { s.evt with audit := s.evt.audit.erase r } }
    let size := 2 ^ s0.fld F.EVT_AUDIT_LOG2
    let wr := s0.fld F.EVT_AUDIT_WR_WR
    if idxDiff wr (s0.fld F.EVT_AUDIT_RD_RD) = size then .next (s0.incFld (F.TSQ_AUDIT_CNT_DROPPED r.t) 1)
    else
      let bytes := leBytes 32 (r.w0.toNat + 2 ^ 64 * r.w1.toNat + 2 ^ 128 * r.w2.toNat)
      let s1 := (s0.devWrite srcEVT (s0.fld F.EVT_AUDIT_BASE + 32 * (wr % size)) bytes false).setFld F.EVT_AUDIT_WR_WR (wr + 1)
      .next ((s1.incFld (F.TSQ_AUDIT_CNT_RECORDS r.t) 1).countEv r.t 0x10 r.st 1)

def State.auditRdWrite (s : State) (v : Word) : State :=
  let n := bitsOf v.toNat 0 32
  if idxDiff n (s.fld F.EVT_AUDIT_RD_RD) ≤ idxDiff (s.fld F.EVT_AUDIT_WR_WR) (s.fld F.EVT_AUDIT_RD_RD) then
    s.setFld F.EVT_AUDIT_RD_RD n
  else s.set1 F.EVT_STATUS_CFG_ERR

def execEvtAuditRdWrite (v : BitVec 64) (s : State) : Host.Outcome State Fault Refusal := .next (s.auditRdWrite v)

/-! ## Capture (R460 to R462) -/

/-- Bytes written at a ring position that may wrap across the ring's end. -/
def State.ringBytes (s : State) (base size pos : Nat) (bs : List Byte) (bad : Bool) : State :=
  let p := if size = 0 then 0 else pos % size
  let n := size - p
  let s1 := s.devWrite srcEVT (base + p) (bs.take n) bad
  if n < bs.length then s1.devWrite srcEVT base (bs.drop n) bad else s1

/-- The oldest records given up until `need` bytes fit (R461, MODE 0). -/
def dropOldest (size need : Nat) : List Nat → List Nat
  | [] => []
  | n :: ns => if (n :: ns).sum + need ≤ size then n :: ns else dropOldest size need ns

/-- A capture record of a class (R460, R461): written while capture runs and the class is enabled. -/
def State.capture (s : State) (cls : Nat) (bad : Bool) (body : List Byte) : State :=
  if !(s.flag F.EVT_CAP_CTL_EN && (s.fld F.EVT_CAP_CTL_CLASSES).testBit cls && !s.flag F.EVT_CAP_STATUS_FROZEN
      && !s.flag F.EVT_CAP_STATUS_FULL) then s
  else
    let pad := (16 - body.length % 16) % 16
    let len := 16 + body.length + pad
    let size := s.fld F.EVT_CAP_SIZE_SIZE
    let wr := s.fld F.EVT_CAP_WR_WR
    if s.flag F.EVT_CAP_CTL_MODE && decide (size < s.evt.capLens.sum + len) then s.set1 F.EVT_CAP_STATUS_FULL
    else
      let w0 := s.count + 2 ^ 48 * cls + 2 ^ 51 * b2n bad + 2 ^ 52 * b2n s.evt.capGap
      let w1 := body.length + 2 ^ 32 * s.evt.capSeq
      let bytes := leBytes 8 w0 ++ leBytes 8 w1 ++ body ++ List.replicate pad 0
      let lens := dropOldest size len s.evt.capLens ++ [len]
      let s1 := (s.ringBytes (s.fld F.EVT_CAP_BASE_BASE) size wr bytes bad).setFld F.EVT_CAP_WR_WR (wr + len)
      let s2 := { s1 with evt := { s1.evt with capSeq := (s1.evt.capSeq + 1) % 2 ^ 32, capGap := false, capLens := lens } }
      s2.setFld F.EVT_CAP_OLDEST_POS (wr + len - lens.sum)

/-- A write of EVT_CAP_CTL: setting EN clears WR, the gap state and FROZEN (R468). -/
def State.capCtlWrite (s : State) (v : Word) : State :=
  let was := s.flag F.EVT_CAP_CTL_EN
  let s1 := s.setReg R.EVT_CAP_CTL (v &&& 0x0000FFFFFFFF03FF)
  if !was && s1.flag F.EVT_CAP_CTL_EN then
    let s2 := ((s1.setReg R.EVT_CAP_WR 0).setReg R.EVT_CAP_OLDEST 0).setReg R.EVT_CAP_STATUS 0
    { s2 with evt := { s2.evt with capGap := false, capLens := [], trig := none } }
  else s1

def execEvtCapEnable (v : BitVec 64) (s : State) : Host.Outcome State Fault Refusal := .next (s.capCtlWrite v)

/-- Capture freezes at the delivery of tide TRIG_DELAY after the trigger event's tide (R462). -/
def execCaptureFreeze (s : State) : Host.Outcome State Fault Refusal :=
  match s.evt.trig with
  | none => .next s
  | some t0 =>
    if s.flag F.EVT_CAP_STATUS_FROZEN || !s.flag F.EVT_CAP_CTL_EN
        || decide (s.tide.delivered < t0 + s.fld F.EVT_CAP_CTL_TRIG_DELAY) then .next s
    else
      let s1 := (s.set1 F.EVT_CAP_STATUS_FROZEN).setFld F.EVT_CAP_STATUS_FREEZE_TIDE s.tide.delivered
      .next (s1.logDev srcEVT 0x0F05 true
        [(2, s.fld F.EVT_CAP_CTL_TRIG_CODE), (8, t0), (8, s.tide.delivered)])

end Sys2Proof.Machine
end

