-- ==== Sys2Proof/Machine/VecOps.lean ====
section
/-! DEFINITION. Issuing a vector instruction: legality (R58, R143), active elements (R144), the latency audit (R90,
R91), and the plan of what lands when (R85 to R87). -/
namespace Sys2Proof.Machine

/-- The element count n(w) of a type (R139). -/
def State.vcount (s : State) (t e w : Nat) : Nat :=
  let vl := s.fld (F.VXE_VL_VL t e)
  if w = 64 then vl / 2 else vl * 32 / w

/-- How many elements of a width a register holds. -/
def nmax (w : Nat) : Nat := 8192 / w

/-- An element's activity: active, and whether its mask bit is poisoned (R144). -/
def State.activeAt (s : State) (t e mk : Nat) (me : Bool) (n i : Nat) : Bool × Bool :=
  if i < n then
    if me then
      let m := s.mreg t e mk
      let p := m.poison.getLsbD i
      (m.bits.getLsbD i || p, p)
    else (true, false)
  else (false, false)

/-- The elements a destination takes: active ones from `f` (value, poison, conditions), inactive ones cleared under Z,
else kept. Returns the elements and the conditions met. -/
def State.elementwise (s : State) (t e mk : Nat) (me z : Bool) (w n : Nat) (f : Nat → Nat × Bool × Nat) :
    List VEl × Nat :=
  let rs := (List.range (nmax w)).filterMap (fun i =>
    let a := s.activeAt t e mk me n i
    if a.1 then
      let r := f i
      some (VEl.mk i r.1 (r.2.1 || a.2), r.2.2)
    else if z then some (VEl.mk i 0 false, 0)
    else none)
  (rs.map (fun r => r.1), rs.foldl (fun fl r => fl ||| r.2) 0)

/-- What an issued vector instruction does: registers read (0 to 63 V, 64 to 79 M) with the ac offset of the read,
registers written with the offset from which they are visible, whether it keeps lanes of its destinations, and the
events that follow, by ac offset and place within the ac. -/
structure VPlan where
  srcs : List (Nat × Nat)
  dsts : List (Nat × Nat)
  kept : Bool
  evs  : List (Nat × Nat × VOp)
  deriving DecidableEq, Repr

/-- An audit record (R91, R459). -/
def State.auditRec (s : State) (t e st kind rpc ppc reg short : Nat) : AuditRec :=
  { t := t, e := e, st := st, kind := kind
    w0 := BitVec.ofNat 64 ((s.tile t).seen + 2 ^ 48 * t + 2 ^ 56 * st + 2 ^ 59 * e + 2 ^ 60 * kind)
    w1 := BitVec.ofNat 64 (rpc + 2 ^ 32 * ppc)
    w2 := BitVec.ofNat 64 (reg + 2 ^ 16 * min short 0xFFFF + 2 ^ 32 * ((s.tile t).ac % 2 ^ 32)) }

/-- The records of one read of a register at ac `at'` (R90): pending write-backs not yet visible, pending detached
instructions. -/
def State.auditRead (s : State) (t e st pc reg at' : Nat) : List AuditRec :=
  (s.eng t e).sb.filterMap (fun b =>
    if b.reg ≠ reg then none
    else if b.det then some (s.auditRec t e st 2 pc b.pc reg 0xFFFF)
    else if at' < b.vis then some (s.auditRec t e st 1 pc b.pc reg (b.vis - at'))
    else none)

/-- The records of a write-back visible from ac `vis` (R90). -/
def State.auditWrite (s : State) (t e st pc reg vis : Nat) (kept : Bool) : List AuditRec :=
  (s.eng t e).sb.filterMap (fun b =>
    if b.reg ≠ reg then none
    else if b.det then some (s.auditRec t e st 2 pc b.pc reg 0xFFFF)
    else if b.vis = vis then some (s.auditRec t e st 3 pc b.pc reg 0)
    else if vis < b.vis then some (s.auditRec t e st 4 pc b.pc reg (b.vis - vis))
    else none) ++
  (if kept then (s.eng t e).sb.filterMap (fun b =>
    if b.reg = reg ∧ !b.det ∧ vis < b.vis then some (s.auditRec t e st 1 pc b.pc reg (b.vis - vis)) else none) else [])

/-- The plan of an issued vector instruction entered: audit records, scoreboard, events in flight. -/
def State.runPlan (s : State) (t e st pc : Nat) (p : VPlan) : State :=
  let h := s.tile t
  let recs := if s.flag (F.TSQ_CTL_AUDIT_EN t) then
      p.srcs.flatMap (fun r => s.auditRead t e st pc r.1 (h.ac + r.2)) ++
      p.dsts.flatMap (fun r => s.auditWrite t e st pc r.1 (h.ac + r.2) (p.kept && decide (r.1 < 80)))
    else []
  let s1 := recs.foldl (fun s r => s.auditArise r) s
  let g := s1.eng t e
  let s2 := s1.setEng t e { g with
    sb := g.sb ++ p.dsts.map (fun r => SbEntry.mk r.1 (h.ac + r.2) pc h.vseq st false) }
  let k := s2.tile t
  s2.setTile t { k with
    vseq := k.vseq + 1
    vev := p.evs.map (fun v => VEvent.mk (k.ac + v.1) v.2.1 k.vseq e st pc v.2.2) ++ k.vev }

/-! Units of an engine (R87). -/
def unALU : Nat := 0
def unPERM : Nat := 1
def unREDUCE : Nat := 2
def unSFU : Nat := 3
def unMEM : Nat := 4
def unFTQ : Nat := 5

/-- The units an instruction uses with its interval on each (R87, R139, R194), bank passes and a user slot's second table apart. -/
def vecUnits (op ty x : Nat) : List (Nat × Nat) :=
  let sfu := if ty = 5 then 4 else 8
  if op ≤ 0x0A then [(unALU, 1)]
  else if op ≤ 0x16 then [(unALU, if ty = 6 then 2 else 1)]
  else if op = 0x20 then [(unALU, if ty = 6 ∨ x % 16 = 6 then 2 else 1)]
  else if op ≤ 0x24 then [(unALU, 1)]
  else if op ≤ 0x29 then [(unPERM, 1)]
  else if op ≤ 0x31 then [(unREDUCE, if ty = 6 then 4 else if 3 ≤ ty then 2 else 1)]
  else if op ≤ 0x35 then [(unREDUCE, 1)]
  else if op ≤ 0x3C then [(unREDUCE, 2)]
  else if op ≤ 0x45 then [(unMEM, 1)]
  else if op ≤ 0x49 then [(unFTQ, 1)]
  else if op ≤ 0x82 then [(unSFU, sfu)]
  else if op ≤ 0x85 then [(unREDUCE, 2)]
  else if op = 0x88 then [(unSFU, sfu), (unREDUCE, sfu)]
  else if op = 0x89 then [(unSFU, sfu)]
  else [(unSFU, 1)]

/-- The scalar registers a vector instruction reads, from its operand bits (R140, R142, R154, R156, R195). -/
def vecReads (op bits : Nat) : List Nat :=
  let vc := bitsOf bits 20 5
  let x := bits % 1024
  if op = 0x07 then (if x % 4 = 2 then [vc] else [])
  else if op = 0x21 then [vc]
  else if op = 0x23 then (if x.testBit 9 then [] else [vc])
  else if op = 0x29 then (if 1 ≤ x % 16 ∧ x % 16 ≤ 3 then [vc] else [])
  else if 0x40 ≤ op ∧ op ≤ 0x45 then [bitsOf bits 27 5]
  else if op = 0x82 then (if x.testBit 9 then [vc] else [])
  else if op = 0x84 ∨ op = 0x85 ∨ op = 0x8F then [vc]
  else if op = 0x88 ∨ op = 0x89 then (if x.testBit 1 then [vc] else [])
  else []

/-- The ac from which the units an instruction needs take it. -/
def EngHid.freeAt (g : EngHid) (us : List (Nat × Nat)) : Nat :=
  g.busy.foldl (fun m b => if us.any (fun u => u.1 == b.1) then max m b.2 else m) 0

/-- Units taken for their intervals from the present ac. -/
def State.takeUnits (s : State) (t e : Nat) (us : List (Nat × Nat)) : State :=
  let g := s.eng t e
  s.setEng t e { g with
    busy := us.map (fun u => (u.1, (s.tile t).ac + u.2)) ++ g.busy.filter (fun b => !us.any (fun u => u.1 == b.1)) }

/-- A vector instruction issued (R58, R143): illegal from a stream without an engine or with bad operands; else its body
runs on the stream's engine and the stream goes on. -/
def State.vecIssue (s : State) (i : Iss) (op bits : Nat) (body : Nat → State → State) : State :=
  if s.stState i.t i.st ≠ stRUN then s
  else
    let s0 := s.advance i.t i.ac
    if s0.tagHit i then s0.breakDrain i.t i.st brkTAG
    else match s0.vxeOf i.t i.st with
      | none => s0.illegal i.t i.st (insnWord 2 op i.tag bits)
      | some e =>
        if vecLegal op bits then
          let us := vecUnits op (vecTy op bits) (bits % 1024)
          let s1 := ((s0.countHeld i.t i.st (vecReads op bits) ((s0.eng i.t e).freeAt us)).countIssue i.t i.st).takeUnits i.t e us
          (body e (s1.countEv i.t (0x0D + e) i.st 1)).retireNext i.t i.st
        else s0.illegal i.t i.st (insnWord 2 op i.tag bits)

/-- The status event of conditions met, where any is. -/
def statusEv (lat fl : Nat) : List (Nat × Nat × VOp) := if fl = 0 then [] else [(lat, 3, .status fl)]

/-- The mask register an instruction reads under ME. -/
def maskSrc (mk : Nat) (me : Bool) : List (Nat × Nat) := if me then [(64 + mk, 0)] else []

/-- An element-wise instruction with one destination register. -/
def State.vecElems (s : State) (i : Iss) (e : Nat) (a : VArgs) (lat w : Nat) (srcs : List Nat)
    (f : Nat → Nat × Bool × Nat) : State :=
  let r := s.elementwise i.t e a.mr.toNat a.me a.z w (s.vcount i.t e w) f
  s.runPlan i.t e i.st (s.pc i.t i.st)
    { srcs := srcs.map (fun x => (x, 0)) ++ maskSrc a.mr.toNat a.me
      dsts := [(a.vd.toNat, lat)]
      kept := decide (r.1.length < nmax w)
      evs := (lat, 3, .wbV a.vd.toNat w r.1) :: statusEv lat r.2 }

end Sys2Proof.Machine
end

