-- ==== Sys2Proof/Machine/VecAlu.lean ====
section
/-! DEFINITION. Vector moves, logic, shifts, masks, arithmetic, compares, scalar transfers, permutations (R139, R142,
R145 to R147, R153 to R155). -/
namespace Sys2Proof.Machine

/-- Two sources' elements combined; the result is poisoned if either source element is (R176). -/
def State.vecBinary (s : State) (i : Iss) (e : Nat) (a : VArgs) (lat : Nat) (f : Nat → Nat → Nat × Nat) : State :=
  let w := tyWidth a.ty.toNat
  let ra := s.vreg i.t e a.va.toNat
  let rb := s.vreg i.t e a.vb.toNat
  s.vecElems i e a lat w [a.va.toNat, a.vb.toNat] (fun k =>
    let r := f (ra.el w k) (rb.el w k)
    (r.1, ra.elPoison w k || rb.elPoison w k, r.2))

/-- One source's elements transformed. -/
def State.vecUnary (s : State) (i : Iss) (e : Nat) (a : VArgs) (lat : Nat) (f : Nat → Nat × Nat) : State :=
  let w := tyWidth a.ty.toNat
  let ra := s.vreg i.t e a.va.toNat
  s.vecElems i e a lat w [a.va.toNat] (fun k =>
    let r := f (ra.el w k)
    (r.1, ra.elPoison w k, r.2))

def execVmov (i : Iss) (a : VArgs) (s : State) : Host.Outcome State Fault Refusal :=
  .next (s.vecIssue i 0x00 (vecBits a) (fun e s => s.vecUnary i e a 2 (fun x => (x, 0))))

def execVand (i : Iss) (a : VArgs) (s : State) : Host.Outcome State Fault Refusal :=
  .next (s.vecIssue i 0x01 (vecBits a) (fun e s => s.vecBinary i e a 2 (fun x y => (x &&& y, 0))))

def execVor (i : Iss) (a : VArgs) (s : State) : Host.Outcome State Fault Refusal :=
  .next (s.vecIssue i 0x02 (vecBits a) (fun e s => s.vecBinary i e a 2 (fun x y => (x ||| y, 0))))

def execVxor (i : Iss) (a : VArgs) (s : State) : Host.Outcome State Fault Refusal :=
  .next (s.vecIssue i 0x03 (vecBits a) (fun e s => s.vecBinary i e a 2 (fun x y => (x ^^^ y, 0))))

def execVnot (i : Iss) (a : VArgs) (s : State) : Host.Outcome State Fault Refusal :=
  .next (s.vecIssue i 0x04 (vecBits a) (fun e s =>
    s.vecUnary i e a 2 (fun x => (2 ^ tyWidth a.ty.toNat - 1 - x, 0))))

/-- A left shift within `w` bits: 0 for a count of `w` or more (R142). -/
def vshl (w x c : Nat) : Nat := if w ≤ c then 0 else (x <<< c) % 2 ^ w

/-- A right shift within `w` bits, logical or arithmetic; an arithmetic one fills with the sign (R142). -/
def vshr (arith : Bool) (w x c : Nat) : Nat :=
  if arith then ofSigned w (toSigned w x / ((2 ^ min c w : Nat) : Int)) else if w ≤ c then 0 else x >>> c

/-- The shift count: an element of VB, or X[5:0] when X[9] is 1. -/
def State.vecShift (s : State) (i : Iss) (e : Nat) (a : VArgs) (f : Nat → Nat → Nat) : State :=
  if a.x.getLsbD 9 then s.vecUnary i e a 2 (fun x => (f x (bitsOf a.x.toNat 0 6), 0))
  else s.vecBinary i e a 2 (fun x y => (f x y, 0))

def execVshl (i : Iss) (a : VArgs) (s : State) : Host.Outcome State Fault Refusal :=
  .next (s.vecIssue i 0x05 (vecBits a) (fun e s => s.vecShift i e a (vshl (tyWidth a.ty.toNat))))

def execVshr (i : Iss) (a : VArgs) (s : State) : Host.Outcome State Fault Refusal :=
  .next (s.vecIssue i 0x06 (vecBits a) (fun e s =>
    s.vecShift i e a (vshr (a.x.getLsbD 8) (tyWidth a.ty.toNat))))

/-! ## Mask operations: all 1,024 bits, whatever VL, ME and Z (R144) -/

/-- A whole mask register written after 2 ac. -/
def State.maskOp (s : State) (i : Iss) (e : Nat) (a : VArgs) (srcs : List Nat) (f : Nat → Bool × Bool) : State :=
  let d := bitsOf a.vd.toNat 0 4
  s.runPlan i.t e i.st (s.pc i.t i.st)
    { srcs := srcs.map (fun m => (64 + m, 0)), dsts := [(64 + d, 2)], kept := false
      evs := [(2, 3, .wbM d ((List.range 1024).map (fun k => (k, f k))))] }

def execVmset (i : Iss) (a : VArgs) (s : State) : Host.Outcome State Fault Refusal :=
  .next (s.vecIssue i 0x07 (vecBits a) (fun e s =>
    let n := (s.sreg i.t i.st (bitsOf a.vc.toNat 0 5)).toNat
    s.maskOp i e a [] (fun k => match bitsOf a.x.toNat 0 2 with
      | 0 => (false, false)
      | 1 => (true, false)
      | _ => (decide (k < n), false))))

/-- Mask logic on two sources: a result bit is poisoned if either source bit is (R176). -/
def State.maskBinary (s : State) (i : Iss) (e : Nat) (a : VArgs) (f : Bool → Bool → Bool) : State :=
  let ma := bitsOf a.va.toNat 0 4
  let mb := bitsOf a.vb.toNat 0 4
  let ra := s.mreg i.t e ma
  let rb := s.mreg i.t e mb
  s.maskOp i e a [ma, mb] (fun k =>
    (f (ra.bits.getLsbD k) (rb.bits.getLsbD k), ra.poison.getLsbD k || rb.poison.getLsbD k))

def execVmand (i : Iss) (a : VArgs) (s : State) : Host.Outcome State Fault Refusal :=
  .next (s.vecIssue i 0x08 (vecBits a) (fun e s => s.maskBinary i e a (fun x y => x && y)))

def execVmor (i : Iss) (a : VArgs) (s : State) : Host.Outcome State Fault Refusal :=
  .next (s.vecIssue i 0x09 (vecBits a) (fun e s => s.maskBinary i e a (fun x y => x || y)))

def execVmnot (i : Iss) (a : VArgs) (s : State) : Host.Outcome State Fault Refusal :=
  .next (s.vecIssue i 0x0A (vecBits a) (fun e s =>
    let m := bitsOf a.va.toNat 0 4
    let r := s.mreg i.t e m
    s.maskOp i e a [m] (fun k => (!r.bits.getLsbD k, r.poison.getLsbD k))))

/-! ## Arithmetic (R145) -/

/-- Integer operations on patterns of width `w`, wrapping. -/
def intOp (op w x y : Nat) : Nat :=
  match op with
  | 0 => (x + y) % 2 ^ w
  | 1 => (x + (2 ^ w - y)) % 2 ^ w
  | 2 => (x * y) % 2 ^ w
  | 3 => if toSigned w y < toSigned w x then y else x
  | _ => if toSigned w x < toSigned w y then y else x

/-- Floating-point operations on patterns: add, subtract, multiply, minimum, maximum. -/
def fpOp (f : Fmt) (op x y : Nat) : Nat × Nat :=
  match op with
  | 0 => f.add x y
  | 1 => f.sub x y
  | 2 => f.mul x y
  | 3 => f.minmax false x y
  | _ => f.minmax true x y

/-- One element of VADD (0), VSUB (1), VMUL (2), VMIN (3), VMAX (4): result and sticky conditions. -/
def arithOp (op ty x y : Nat) : Nat × Nat :=
  match fmtOf ty with
  | some f => fpOp f op x y
  | none => (intOp op (tyWidth ty) x y, 0)

/-- Latency of the arithmetic group (R87). -/
def arithLat (op ty : Nat) : Nat :=
  if ty ≤ 2 then (if op = 2 then (if ty = 2 then 5 else 4) else 2)
  else if ty = 6 then 8 else 4

def State.vecArith (s : State) (i : Iss) (e : Nat) (a : VArgs) (op : Nat) : State :=
  s.vecBinary i e a (arithLat op a.ty.toNat) (arithOp op a.ty.toNat)

def execVadd (i : Iss) (a : VArgs) (s : State) : Host.Outcome State Fault Refusal :=
  .next (s.vecIssue i 0x10 (vecBits a) (fun e s => s.vecArith i e a 0))

def execVsub (i : Iss) (a : VArgs) (s : State) : Host.Outcome State Fault Refusal :=
  .next (s.vecIssue i 0x11 (vecBits a) (fun e s => s.vecArith i e a 1))

def execVmul (i : Iss) (a : VArgs) (s : State) : Host.Outcome State Fault Refusal :=
  .next (s.vecIssue i 0x12 (vecBits a) (fun e s => s.vecArith i e a 2))

def execVmin (i : Iss) (a : VArgs) (s : State) : Host.Outcome State Fault Refusal :=
  .next (s.vecIssue i 0x13 (vecBits a) (fun e s => s.vecArith i e a 3))

def execVmax (i : Iss) (a : VArgs) (s : State) : Host.Outcome State Fault Refusal :=
  .next (s.vecIssue i 0x14 (vecBits a) (fun e s => s.vecArith i e a 4))

/-- A fused multiply-add on patterns of a type. -/
def fmaOp (ty x y z : Nat) : Nat × Nat :=
  match fmtOf ty with
  | some f => f.fma x y z
  | none => (0, 0)

def execVfma (i : Iss) (a : VArgs) (s : State) : Host.Outcome State Fault Refusal :=
  .next (s.vecIssue i 0x15 (vecBits a) (fun e s =>
    let w := tyWidth a.ty.toNat
    let ra := s.vreg i.t e a.va.toNat
    let rb := s.vreg i.t e a.vb.toNat
    let rc := s.vreg i.t e a.vc.toNat
    s.vecElems i e a (if a.ty.toNat = 6 then 8 else 5) w [a.va.toNat, a.vb.toNat, a.vc.toNat] (fun k =>
      let r := fmaOp a.ty.toNat (ra.el w k) (rb.el w k) (rc.el w k)
      (r.1, ra.elPoison w k || rb.elPoison w k || rc.elPoison w k, r.2))))

/-! ## Compare (R147) -/

/-- Less, equal, unordered. -/
def cmpPair (ty x y : Nat) : Bool × Bool × Bool :=
  match fmtOf ty with
  | some f =>
    let u := f.decode x
    let v := f.decode y
    if u.isNan || v.isNan then (false, false, true)
    else (u.numLt v, !u.numLt v && !v.numLt u, false)
  | none =>
    let w := tyWidth ty
    (decide (toSigned w x < toSigned w y), decide (toSigned w x = toSigned w y), false)

/-- The condition of X[2:0]. -/
def cmpCond (ty c x y : Nat) : Bool :=
  let (lt, eq, un) := cmpPair ty x y
  match c with
  | 0 => eq
  | 1 => un || !eq
  | 2 => lt
  | 3 => !un && (lt || eq)
  | 4 => !un && !lt && !eq
  | 5 => !un && !lt
  | 6 => un
  | _ => !un

def execVcmp (i : Iss) (a : VArgs) (s : State) : Host.Outcome State Fault Refusal :=
  .next (s.vecIssue i 0x16 (vecBits a) (fun e s =>
    let w := tyWidth a.ty.toNat
    let ra := s.vreg i.t e a.va.toNat
    let rb := s.vreg i.t e a.vb.toNat
    let d := bitsOf a.vd.toNat 0 4
    let lat := if a.ty.toNat = 6 then 3 else 2
    let r := s.elementwise i.t e a.mr.toNat a.me a.z w (s.vcount i.t e w) (fun k =>
      (b2n (cmpCond a.ty.toNat (bitsOf a.x.toNat 0 3) (ra.el w k) (rb.el w k)), ra.elPoison w k || rb.elPoison w k, 0))
    s.runPlan i.t e i.st (s.pc i.t i.st)
      { srcs := [(a.va.toNat, 0), (a.vb.toNat, 0)] ++ maskSrc a.mr.toNat a.me, dsts := [(64 + d, lat)], kept := decide (r.1.length < nmax w)
        evs := [(lat, 3, .wbM d (r.1.map (fun x => (x.i, x.v == 1, x.p))))] }))

/-! ## Scalar transfers (R139, R142, R146, R155) -/

def execVbcast (i : Iss) (a : VArgs) (s : State) : Host.Outcome State Fault Refusal :=
  .next (s.vecIssue i 0x21 (vecBits a) (fun e s =>
    let w := tyWidth a.ty.toNat
    let v := (s.sreg i.t i.st (bitsOf a.vc.toNat 0 5)).toNat % 2 ^ w
    s.vecElems i e a 3 w [] (fun _ => (v, false, 0))))

/-- VMOV.S: the stream's write-back of its scalar is in flight for 3 ac, so a fence waits for it (R61, R87). -/
def execVmovS (i : Iss) (a : VArgs) (s : State) : Host.Outcome State Fault Refusal :=
  .next (s.vecIssue i 0x22 (vecBits a) (fun e s =>
    let w := tyWidth a.ty.toNat
    let k := a.x.toNat
    let r := s.vreg i.t e a.va.toNat
    let pc := s.pc i.t i.st
    let out := decide (s.vcount i.t e w ≤ k)
    let esc := !out && r.elPoison w k
    let s1 := s.setSregAt i.t i.st (bitsOf a.vd.toNat 0 5) 3 (if out then 0 else BitVec.ofNat 64 (r.el w k))
    let s2 := if esc then
        (s1.incFld (F.VXE_POISON_CNT_ESCAPES i.t e) 1).logTile i.t 0x0402 true [(1, e), (1, i.st), (4, pc), (2, k)]
      else s1
    s2.runPlan i.t e i.st pc { srcs := [(a.va.toNat, 0)], dsts := [], kept := false
                               evs := [(3, 3, .status (if out then stOOR else if esc then stESCAPE else 0))] }))

def execVsetvl (i : Iss) (a : VArgs) (s : State) : Host.Outcome State Fault Refusal :=
  .next (s.vecIssue i 0x23 (vecBits a) (fun e s =>
    let v := if a.x.getLsbD 9 then bitsOf a.x.toNat 0 9 else (s.sreg i.t i.st (bitsOf a.vc.toNat 0 5)).toNat
    s.setFld (F.VXE_VL_VL i.t e) (min v 256)))

/-- VSTAT.S follows the VMOV.S group (R142). -/
def execVstatS (i : Iss) (a : VArgs) (s : State) : Host.Outcome State Fault Refusal :=
  .next (s.vecIssue i 0x24 (vecBits a) (fun e s =>
    let v := bitsOf (s.reg (R.VXE_STATUS i.t e)).toNat 0 16
    let s1 := s.setSregAt i.t i.st (bitsOf a.vd.toNat 0 5) 3 (BitVec.ofNat 64 v)
    let s2 := if a.x.getLsbD 0 then s1.setFld (fVxeStatus i.t e) 0 else s1
    s2.runPlan i.t e i.st (s.pc i.t i.st) { srcs := [], dsts := [], kept := false, evs := [(3, 3, .status 0)] }))

/-! ## Permutations (R153, R154) -/

def execVperm (i : Iss) (a : VArgs) (s : State) : Host.Outcome State Fault Refusal :=
  .next (s.vecIssue i 0x28 (vecBits a) (fun e s =>
    let w := tyWidth a.ty.toNat
    let n := s.vcount i.t e w
    let ra := s.vreg i.t e a.va.toNat
    let rb := s.vreg i.t e a.vb.toNat
    s.vecElems i e a 6 w [a.va.toNat, a.vb.toNat] (fun k =>
      let x := rb.el w k % 2 ^ 32
      let p := rb.elPoison w k
      if x < n then (ra.el w x, ra.elPoison w x || p, 0) else (0, p, stOOR))))

/-- The source of element `i` of a shuffle pattern on `n` elements: none for a zero fill, else VA (false) or VB (true) and
the position (R154). -/
def shufSource (pat n k i : Nat) : Option (Bool × Nat) :=
  match pat with
  | 0 => some (false, n - 1 - i)
  | 1 => some (false, (i + k) % n)
  | 2 => if k ≤ i then some (false, i - k) else none
  | 3 => if i + k < n then some (false, i + k) else none
  | 4 => if i % 2 = 0 then some (false, i / 2) else some (true, (i - 1) / 2)
  | 5 => if i % 2 = 0 then some (false, i / 2 + n / 2) else some (true, (i - 1) / 2 + n / 2)
  | 6 => if 2 * i < n then some (false, 2 * i) else some (true, 2 * i - n)
  | _ => if 2 * i + 1 < n then some (false, 2 * i + 1) else some (true, 2 * i + 1 - n)

/-- VSHUF (R154); a rotation of no elements writes nothing, whatever Z is. -/
def execVshuf (i : Iss) (a : VArgs) (s : State) : Host.Outcome State Fault Refusal :=
  .next (s.vecIssue i 0x29 (vecBits a) (fun e s =>
    let w := tyWidth a.ty.toNat
    let n := s.vcount i.t e w
    let pat := bitsOf a.x.toNat 0 4
    let k := (s.sreg i.t i.st (bitsOf a.vc.toNat 0 5)).toNat
    let ra := s.vreg i.t e a.va.toNat
    let rb := s.vreg i.t e a.vb.toNat
    if pat = 1 ∧ n = 0 then
      s.runPlan i.t e i.st (s.pc i.t i.st)
        { srcs := (a.va.toNat, 0) :: maskSrc a.mr.toNat a.me, dsts := [], kept := false, evs := [] }
    else
    s.vecElems i e a 6 w (if 4 ≤ pat then [a.va.toNat, a.vb.toNat] else [a.va.toNat]) (fun x =>
      match shufSource pat n k x with
      | none => (0, false, 0)
      | some (false, p) => (ra.el w p, ra.elPoison w p, 0)
      | some (true, p) => (rb.el w p, rb.elPoison w p, 0))))

end Sys2Proof.Machine
end

