-- ==== Sys2Proof/Machine/VecCvt.lean ====
section
/-! DEFINITION. Conversion (R148 to R150) and the format census (R151). The same conversion serves the matrix array's
and the layout engine's outputs. -/
namespace Sys2Proof.Machine

/-- A conversion's result: the pattern, the sticky conditions, and whether it counts as SAT and as VANISH. -/
structure Cvt where
  bits : Nat
  fl   : Nat
  sat  : Bool
  van  : Bool
  deriving DecidableEq, Repr

/-- Integer destinations: INT8, INT16, INT32, INT4. -/
def intWidth : Nat → Option Nat
  | 0 => some 8
  | 1 => some 16
  | 2 => some 32
  | 12 => some 4
  | _ => none

/-- An exact value converted to an integer of `w` bits (R149): rounded, saturated; a value beyond the range that rounds into it
sets NX and SAT. `mx` leaves out NV at a clamp and sets SAT and NX instead (R150). -/
def cvtInt (w : Nat) (rz mx : Bool) : FV → Cvt
  | .nan => ⟨0, stNV, false, false⟩
  | .inf neg => ⟨if neg then 2 ^ (w - 1) else 2 ^ (w - 1) - 1, stNV + stSAT, false, false⟩
  | .fin neg m e =>
    let r := FV.toInt rz neg m e
    let hi : Int := (2 ^ (w - 1) - 1 : Nat)
    let lo : Int := -((2 ^ (w - 1) : Nat) : Int)
    let beyond := if neg then cmpMag m e (2 ^ (w - 1)) 0 == .gt else cmpMag m e (2 ^ (w - 1) - 1) 0 == .gt
    if hi < r.1 then ⟨2 ^ (w - 1) - 1, if mx then stSAT + stNX else stNV + stSAT, beyond, false⟩
    else if r.1 < lo then ⟨2 ^ (w - 1), if mx then stSAT + stNX else stNV + stSAT, beyond, false⟩
    else ⟨ofSigned w r.1, if r.2 then stNX + (if beyond then stSAT else 0) else 0, beyond, m != 0 && r.1 == 0⟩

/-- An exact value converted to a floating-point format (R149); under `mx` a clamp sets SAT and NX only (R150). -/
def cvtFp (f : Fmt) (rz sat mx : Bool) : FV → Cvt
  | .nan => if f.sp = .none then ⟨0, stNV, false, false⟩ else ⟨f.nanBits, 0, false, false⟩
  | .inf neg =>
    match f.sp with
    | .ieee => ⟨f.encode (.inf neg), 0, false, false⟩
    | .e4m3 => if sat then ⟨f.encode (.fin neg f.maxM f.maxE), stSAT, false, false⟩ else ⟨f.nanBits, stNV, false, false⟩
    | .none => ⟨f.encode (.fin neg f.maxM f.maxE), stSAT, false, false⟩
  | .fin neg m e =>
    if m = 0 then ⟨f.encode (.fin neg 0 0), 0, false, false⟩
    else
      let g := f.onGrid rz m e
      let above := cmpMag m e f.maxM f.maxE == .gt
      let maxBits := f.encode (.fin neg f.maxM f.maxE)
      if cmpMag g.1 g.2.1 f.maxM f.maxE = .gt then
        if mx then ⟨maxBits, stSAT + stNX, true, false⟩
        else match f.sp with
          | .none => ⟨maxBits, stOF + stNX + stSAT, true, false⟩
          | .ieee => if rz || sat then ⟨maxBits, stOF + stNX + stSAT, true, false⟩
              else ⟨f.encode (.inf neg), stOF + stNX, true, false⟩
          | .e4m3 => if sat then ⟨maxBits, stOF + stNX + stSAT, true, false⟩ else ⟨f.nanBits, stOF + stNX, true, false⟩
      else
        let u := toUnit rz m e (e + bitLen m - (f.mb + 1))
        let tiny := cmpMag u.1 (e + bitLen m - (f.mb + 1)) 1 (f.minQ + f.mb) == .lt
        ⟨f.encode (.fin neg g.1 g.2.1),
          (if g.2.2 then stNX + (if tiny then stUF else 0) else 0) + (if above then stSAT else 0),
          above, g.1 == 0⟩

/-- The exact value of a pattern of a type (R141). -/
def valueOf (ty x : Nat) : FV :=
  match fmtOf ty with
  | some f => f.decode x
  | none => FV.ofInt (toSigned (tyWidth ty) x)

/-- An exact value converted to a type. -/
def cvtTo (ty : Nat) (rz sat mx : Bool) (v : FV) : Cvt :=
  match fmtOf ty, intWidth ty with
  | some f, _ => cvtFp f rz sat mx v
  | none, some w => cvtInt w rz mx v
  | none, none => ⟨0, 0, false, false⟩

/-- The census index of a conversion's destination (R151). -/
def censusIndex (src dst : Nat) : Option Nat :=
  match dst with
  | 7 => some 0
  | 8 => some 1
  | 9 => some 2
  | 10 => some 3
  | 11 => some 4
  | 0 => some 5
  | 12 => some 6
  | 3 => some 7
  | 4 => some 8
  | 5 => if src = 6 then some 9 else none
  | _ => none

/-- Conversions counted in a tile's census (R151). -/
def State.censusCvts (s : State) (t src dst : Nat) (cs : List Cvt) : State :=
  match censusIndex src dst with
  | none => s
  | some f =>
    ((s.censusAdd t f 0 cs.length).censusAdd t f 1 (cs.filter (fun c => c.sat)).length).censusAdd t f 2
      (cs.filter (fun c => c.van)).length

/-- emax of a block-scaled format (R150). -/
def mxEmax : Nat → Int
  | 7 => 8
  | 8 => 15
  | 9 => 4
  | 10 => 2
  | 11 => 2
  | _ => 0

/-- The larger magnitude of two finite values. -/
def maxMag (a b : Nat × Int) : Nat × Int := if cmpMag a.1 a.2 b.1 b.2 = .lt then b else a

/-- The E8M0 byte of a block (R150): 0xFF for a block with a NaN or an infinity, 0x00 for amax 0, else the exponent
⌊log2 amax⌋ − emax clamped to −127 … 127, biased. -/
def mxScale (dst : Nat) (vs : List FV) : Nat :=
  if vs.any (fun v => match v with
    | .fin .. => false
    | _ => true) then 0xFF
  else
    let a := vs.foldl (fun a v => match v with
      | .fin _ m e => maxMag a (m, e)
      | _ => a) (0, 0)
    if a.1 = 0 then 0
    else (max (-127) (min 127 (floorLog2 a.1 a.2 - mxEmax dst)) + 127).toNat

/-- A value divided by the scale of an E8M0 byte; for MXINT8 in units of 2^-6 (R150). -/
def mxDown (dst b : Nat) : FV → FV
  | .fin n m e => .fin n m (e - ((b : Int) - 127) + (if dst = 0 then 6 else 0))
  | v => v

/-- A narrow pattern's value times its scale; a scale of 0xFF is NaN (R150). -/
def mxUp (src b x : Nat) : FV :=
  if b = 0xFF then .nan
  else match valueOf src x with
    | .fin n m e => .fin n m (e + ((b : Int) - 127) - (if src = 0 then 6 else 0))
    | v => v

/-- An issued VCVT (R148 to R151). -/
def State.vcvtBody (s : State) (i : Iss) (e : Nat) (a : VArgs) : State :=
  let src := a.ty.toNat
  let dst := bitsOf a.x.toNat 0 4
  let ws := tyWidth src
  let wd := tyWidth dst
  let rz := bitsOf a.x.toNat 4 2 == 1
  let sat := a.x.getLsbD 6
  let mx := a.x.getLsbD 7
  let part := bitsOf a.x.toNat 8 2
  let n := s.vcount i.t e (max ws wd)
  let ra := s.vreg i.t e a.va.toNat
  let rc := s.vreg i.t e a.vc.toNat
  let off := if ws = wd then 0 else part * n
  let narrowW := min ws wd
  let fits (j : Nat) : Bool := ws == wd || decide (narrowW * (off + j) + narrowW ≤ 8192)
  let si (j : Nat) : Nat := if ws < wd then off + j else j
  let di (j : Nat) : Nat := if wd < ws then off + j else j
  let act (j : Nat) : Bool × Bool := s.activeAt i.t e a.mr.toNat a.me n j
  let live := (List.range n).filter (fun j => (act j).1 && fits j)
  let oor := if (List.range n).any (fun j => (act j).1 && !fits j) then stOOR else 0
  let down := mx && decide (wd < ws)
  -- block b of a scaled narrowing: its active elements (converted or not), scale byte and poison
  let actives := (List.range n).filter (fun j => (act j).1)
  let members (b : Nat) : List Nat := actives.filter (fun j => j / 32 == b)
  let blocks := if down then
      (actives.map (fun j => j / 32)).dedup.map (fun b =>
        (b, mxScale dst ((members b).map (fun j => valueOf src (ra.el ws j))),
          (members b).any (fun j => ra.elPoison ws j || (act j).2)))
    else []
  let scaleOf (j : Nat) : Nat × Bool :=
    if down then match blocks.find? (fun b => b.1 == j / 32) with
      | some b => b.2
      | none => (0, false)
    else (rc.el 8 (j / 32), rc.elPoison 8 (j / 32))
  let one (j : Nat) : Cvt :=
    let x := ra.el ws (si j)
    if down then
      let b := (scaleOf j).1
      if b = 0xFF then ⟨0, 0, false, false⟩ else cvtTo dst rz true true (mxDown dst b (valueOf src x))
    else if mx then cvtTo dst rz sat false (mxUp src (scaleOf j).1 x)
    else cvtTo dst rz sat false (valueOf src x)
  let bad (j : Nat) : Bool := ra.elPoison ws (si j) || (act j).2 || (mx && (scaleOf j).2)
  let res := live.map (fun j => (j, one j, bad j))
  let els := res.map (fun r => VEl.mk (di r.1) r.2.1.bits r.2.2)
  let zero := if !a.z || down then []
    else if wd < ws then ((List.range n).filter (fun j => !(act j).1 && fits j)).map (fun j => VEl.mk (di j) 0 false)
    else ((List.range (nmax wd)).filter (fun j => !(act j).1)).map (fun j => VEl.mk j 0 false)
  let fl := (res.foldl (fun fl r => fl ||| r.2.1.fl) oor) ||| (if blocks.any (fun b => b.2.1 == 0xFF) then stNV else 0)
  let s1 := s.censusCvts i.t src dst ((res.filter (fun r => !r.2.2)).map (fun r => r.2.1))
  let lat := if src = 6 ∨ dst = 6 then 6 else 4
  s1.runPlan i.t e i.st (s1.pc i.t i.st)
    { srcs := [(a.va.toNat, 0)] ++ (if mx && !down then [(a.vc.toNat, 0)] else []) ++ maskSrc a.mr.toNat a.me
      dsts := (a.vd.toNat, lat) :: (if down then [(a.vc.toNat, lat)] else [])
      kept := decide ((els ++ zero).length < nmax wd) || down
      evs := (lat, 3, .wbV a.vd.toNat wd (els ++ zero)) ::
        ((if down then [(lat, 3, .wbV a.vc.toNat 8 (blocks.map (fun b => VEl.mk b.1 b.2.1 b.2.2)))] else []) ++ statusEv lat fl) }

def execVcvt (i : Iss) (a : VArgs) (s : State) : Host.Outcome State Fault Refusal :=
  .next (s.vecIssue i 0x20 (vecBits a)
    (fun e s => s.vcvtBody i e a))

end Sys2Proof.Machine
end

