-- ==== Sys2Proof/Machine/VecRed.lean ====
section
/-! DEFINITION. Reductions (R161 to R164) and scans (R165 to R167). -/
namespace Sys2Proof.Machine

/-! ## Reductions -/

/-- A source element in the type a reduction or a scan works in: INT32 sign-extended, FP32, or FP64 (R161), a NaN as the
canonical one (R145). -/
def redElem (ty x : Nat) : Nat :=
  match fmtOf ty with
  | some f => (if ty = 6 then fmtFP64 else fmtFP32).encode (f.decode x)
  | none => ofSigned 32 (toSigned (tyWidth ty) x)

/-- The format a reduction's result has; none: INT32. -/
def redFmt (ty : Nat) : Option Fmt := if ty ≤ 2 then none else if ty = 6 then some fmtFP64 else some fmtFP32

/-- The result's width. -/
def redWidth (ty : Nat) : Nat := if ty = 6 then 64 else 32

/-- One combination: 0 add, 2 multiply, 3 minimum, 4 maximum. -/
def redOp (op ty a b : Nat) : Nat × Nat :=
  match redFmt ty with
  | some f => fpOp f op a b
  | none => (intOp op 32 a b, 0)

/-- The identity an inactive position enters a tree as (R162): −0.0, 0 or 1.0. -/
def redIdentity (op ty : Nat) : Nat :=
  if ty ≤ 2 then (if op = 0 then 0 else 1)
  else if op = 0 then (if ty = 6 then 2 ^ 63 else 2 ^ 31)
  else if ty = 6 then 0x3FF0000000000000 else 0x3F800000

/-- The result of a reduction with no active element (R163). -/
def redEmpty (op ty : Nat) : Nat :=
  match op with
  | 0 => 0
  | 2 => redIdentity 2 ty
  | 4 => match redFmt ty with
    | some f => f.encode (.inf true)
    | none => ofSigned 32 (-((2 ^ (tyWidth ty - 1) : Nat) : Int))
  | _ => match redFmt ty with
    | some f => f.encode (.inf false)
    | none => 2 ^ (tyWidth ty - 1) - 1

/-- The active inputs of a reduction by position: value in the working type and poison. -/
def State.redInputs (s : State) (t e : Nat) (a : VArgs) : List (Option (Nat × Bool)) :=
  let w := tyWidth a.ty.toNat
  let r := s.vreg t e a.va.toNat
  let n := s.vcount t e w
  (List.range (nmax w)).map (fun k =>
    let q := s.activeAt t e a.mr.toNat a.me n k
    if q.1 then some (redElem a.ty.toNat (r.el w k), r.elPoison w k || q.2) else none)

/-- A reduction's destination written: the leading elements, clean zeros in every other lane whatever Z is (R161). -/
def State.redWrite (s : State) (i : Iss) (e : Nat) (a : VArgs) (lat : Nat) (head : List (Nat × Bool)) (fl : Nat) : State :=
  let w := redWidth a.ty.toNat
  let zeros := (List.range (nmax w - head.length)).map (fun k => VEl.mk (head.length + k) 0 false)
  let els := head.zipIdx.map (fun h => VEl.mk h.2 h.1.1 h.1.2) ++ zeros
  s.runPlan i.t e i.st (s.pc i.t i.st)
    { srcs := (a.va.toNat, 0) :: maskSrc a.mr.toNat a.me, dsts := [(a.vd.toNat, lat)], kept := false
      evs := (lat, 3, .wbV a.vd.toNat w els) :: statusEv lat fl }

/-- VRED.SUM (0) and VRED.PROD (2). -/
def State.redTree (s : State) (i : Iss) (e : Nat) (a : VArgs) (op : Nat) : State :=
  let ty := a.ty.toNat
  let xs := s.redInputs i.t e a
  let act := xs.filterMap id
  let lat := if ty ≤ 2 then 8 else if ty = 6 then 20 else 12
  if act.isEmpty then s.redWrite i e a lat [(redEmpty op ty, false)] stEMPTY
  else
    let r := (treeFold (redOp op ty) (Nat.log2 xs.length) (xs.map (fun x => match x with
      | some v => (v.1, 0)
      | none => (redIdentity op ty, 0)))).headD (0, 0)
    s.redWrite i e a lat [(r.1, act.any (fun v => v.2))] r.2

/-- The index and value of the largest (or smallest) active element; the first NaN wins (R164). -/
def argBest (isMax : Bool) (ty : Nat) : List (Nat × Nat) → Option (Nat × Nat)
  | [] => none
  | x :: xs => match argBest isMax ty xs with
    | none => some (match redFmt ty with
      | some f => if (f.decode x.2).isNan then (x.1, f.nanBits) else x
      | none => x)
    | some y =>
      match redFmt ty with
      | some f =>
        let u := f.decode x.2
        let v := f.decode y.2
        if u.isNan then some (x.1, f.nanBits)
        else if v.isNan then some y
        else if (if isMax then u.totalLt v else v.totalLt u) then some y else some x
      | none =>
        if (if isMax then decide (toSigned 32 x.2 < toSigned 32 y.2) else decide (toSigned 32 y.2 < toSigned 32 x.2)) then
          some y
        else some x

/-- VRED.MAX, VRED.MIN, and with `arg` VARG.MAX, VARG.MIN (R161, R163, R164). -/
def State.redExtreme (s : State) (i : Iss) (e : Nat) (a : VArgs) (isMax arg : Bool) : State :=
  let ty := a.ty.toNat
  let xs := (s.redInputs i.t e a).zipIdx.filterMap (fun x => x.1.map (fun v => (x.2, v.1, v.2)))
  let lat := if arg then 10 else 8
  match argBest isMax ty (xs.map (fun x => (x.1, x.2.1))) with
  | none =>
    let v := redEmpty (if isMax then 4 else 3) ty
    s.redWrite i e a lat (if arg then [(0xFFFFFFFF, false), (v, false)] else [(v, false)]) stEMPTY
  | some b =>
    let p := xs.any (fun x => x.2.2)
    s.redWrite i e a lat (if arg then [(b.1, p), (b.2, p)] else [(b.2, p)]) 0

def execVredSum (i : Iss) (a : VArgs) (s : State) : Host.Outcome State Fault Refusal :=
  .next (s.vecIssue i 0x30 (vecBits a) (fun e s => s.redTree i e a 0))

def execVredProd (i : Iss) (a : VArgs) (s : State) : Host.Outcome State Fault Refusal :=
  .next (s.vecIssue i 0x31 (vecBits a) (fun e s => s.redTree i e a 2))

def execVredMax (i : Iss) (a : VArgs) (s : State) : Host.Outcome State Fault Refusal :=
  .next (s.vecIssue i 0x32 (vecBits a) (fun e s => s.redExtreme i e a true false))

def execVredMin (i : Iss) (a : VArgs) (s : State) : Host.Outcome State Fault Refusal :=
  .next (s.vecIssue i 0x33 (vecBits a) (fun e s => s.redExtreme i e a false false))

def execVargMax (i : Iss) (a : VArgs) (s : State) : Host.Outcome State Fault Refusal :=
  .next (s.vecIssue i 0x34 (vecBits a) (fun e s => s.redExtreme i e a true true))

def execVargMin (i : Iss) (a : VArgs) (s : State) : Host.Outcome State Fault Refusal :=
  .next (s.vecIssue i 0x35 (vecBits a) (fun e s => s.redExtreme i e a false true))

/-! ## Scans -/

/-- One position of a scan on its way: A and B (B is used by the linear recurrence alone), poison, conditions. -/
structure ScanPos where
  a  : Nat
  b  : Nat
  p  : Bool
  fl : Nat
  deriving DecidableEq, Repr

/-- The combination of R166, the later position on the left. -/
def scanCombine (kind ty : Nat) (x y : ScanPos) : ScanPos :=
  if kind = 4 then
    let m := fmtFP32.mul x.a y.a
    let h := fmtFP32.fma x.a y.b x.b
    ScanPos.mk m.1 h.1 (x.p || y.p) (x.fl ||| y.fl ||| m.2 ||| h.2)
  else
    let m := scanOp kind ty x.a y.a
    ScanPos.mk m.1 0 (x.p || y.p) (x.fl ||| y.fl ||| m.2)

/-- One level: each position at or beyond `d` whose segment reaches back to the position `d` before it (R166). -/
def scanLevel (kind ty d : Nat) (seg : List Nat) (ps : List ScanPos) : List ScanPos :=
  (ps.zip seg).zip (List.replicate d none ++ (ps.zip seg).map some) |>.map (fun x => match x.2 with
    | some y => if y.2 = x.1.2 then scanCombine kind ty x.1.1 y.1 else x.1.1
    | none => x.1.1)

/-- The levels j of R166, `k` of them from distance `d`. -/
def scanLevels (kind ty : Nat) (seg : List Nat) : Nat → Nat → List ScanPos → List ScanPos
  | 0, _, ps => ps
  | k + 1, d, ps => scanLevels kind ty seg k (2 * d) (scanLevel kind ty d seg ps)

/-- Segment numbers by position: a head opens the next segment (position 0's head opens none). -/
def segNumbers : Nat → List Bool → List Nat
  | _, [] => []
  | k, h :: hs => (if h then k + 1 else k) :: segNumbers (if h then k + 1 else k) hs

/-- A scan issued in ac t (R165 to R167): its levels run on the sources as read; the carry is read in ac t + L − 2. -/
def State.scanIssue (s : State) (i : Iss) (e : Nat) (a : VArgs) (kind lat : Nat) : State :=
  let ty := a.ty.toNat
  let w := tyWidth ty
  let n := s.vcount i.t e w
  let x := a.x
  let sg := bitsOf x.toNat 0 4
  let segOn := x.getLsbD 4
  let ra := s.vreg i.t e a.va.toNat
  let rb := s.vreg i.t e a.vb.toNat
  let m := s.mreg i.t e sg
  let act := (List.range n).map (fun k => (s.activeAt i.t e a.mr.toNat a.me n k))
  let heads := (List.range n).map (fun k => segOn && decide (0 < k) && (m.bits.getLsbD k || m.poison.getLsbD k))
  let seg := segNumbers 0 heads
  let start := act.zipIdx.map (fun q =>
    let sp := segOn && m.poison.getLsbD q.2
    if q.1.1 then
      if kind = 4 then ScanPos.mk (redElem ty (ra.el w q.2)) (redElem ty (rb.el w q.2)) (ra.elPoison w q.2 || rb.elPoison w q.2 || q.1.2 || sp) 0
      else ScanPos.mk (redElem ty (ra.el w q.2)) 0 (ra.elPoison w q.2 || q.1.2 || sp) 0
    else if kind = 4 then ScanPos.mk 0x3F800000 0 sp 0
    else ScanPos.mk (scanIdentity kind ty) 0 sp 0)
  let ps := scanLevels kind ty seg (Nat.log2 (nmax w)) 1 start
  let fl := (ps.zip act).foldl (fun fl q => if q.2.1 then fl ||| q.1.fl else fl) 0
  let empty := if act.any (fun q => q.1) then 0 else stEMPTY
  let c := b2n (x.getLsbD 9)
  let r : ScanRec :=
    { kind := kind, ty := ty, ps := ps.map (fun p => (p.a, p.b, p.p))
      first := (seg.filter (fun g => g == 0)).length
      act := act.map (fun q => q.1), n := n, z := a.z, vd := a.vd.toNat
      cin := x.getLsbD 5, cout := x.getLsbD 6, lin := x.getLsbD 7, lout := x.getLsbD 8
      c := c, lat := lat, issue := (s.tile i.t).ac }
  s.runPlan i.t e i.st (s.pc i.t i.st)
    { srcs := (if kind = 4 then [(a.va.toNat, 0), (a.vb.toNat, 0)] else [(a.va.toNat, 0)]) ++ maskSrc a.mr.toNat a.me
        ++ (if segOn then [(64 + sg, 0)] else []) ++ (if r.cin && !r.lin then [(80 + c, lat - 2)] else [])
      dsts := [(a.vd.toNat, lat)] ++ (if r.cout then [(80 + c, lat - 1)] else [])
      kept := !a.z && decide ((act.filter (fun q => q.1)).length < nmax w)
      evs := (lat - 2, 2, .scan r) :: statusEv lat (fl ||| empty) }

def execVscanSum (i : Iss) (a : VArgs) (s : State) : Host.Outcome State Fault Refusal :=
  .next (s.vecIssue i 0x38 (vecBits a) (fun e s => s.scanIssue i e a 0 14))

def execVscanProd (i : Iss) (a : VArgs) (s : State) : Host.Outcome State Fault Refusal :=
  .next (s.vecIssue i 0x39 (vecBits a) (fun e s => s.scanIssue i e a 1 14))

def execVscanMax (i : Iss) (a : VArgs) (s : State) : Host.Outcome State Fault Refusal :=
  .next (s.vecIssue i 0x3A (vecBits a) (fun e s => s.scanIssue i e a 2 14))

def execVscanMin (i : Iss) (a : VArgs) (s : State) : Host.Outcome State Fault Refusal :=
  .next (s.vecIssue i 0x3B (vecBits a) (fun e s => s.scanIssue i e a 3 14))

def execVscanLr (i : Iss) (a : VArgs) (s : State) : Host.Outcome State Fault Refusal :=
  .next (s.vecIssue i 0x3C (vecBits a) (fun e s => s.scanIssue i e a 4 18))

end Sys2Proof.Machine
end

