-- ==== Sys2Proof/Machine/VecMem.lean ====
section
/-! DEFINITION. Memory-touching vector instructions (R156 to R160, R274), the tile link's arrivals (R168) and the
finished-tile queue's reading side (R170 to R175). -/
namespace Sys2Proof.Machine

/-! ## Addresses, faults, passes -/

/-- An active element of a memory instruction: index, address, whether it is a fault (1 RANGE, 2 MISALIGNED) or not (0),
and whether a poisoned mask bit or index lane touches it. -/
structure MemEl where
  i     : Nat
  addr  : Nat
  fault : Nat
  p     : Bool
  deriving DecidableEq, Repr

/-- The fault of an element's address (R157); RANGE is judged before MISALIGNED. -/
def elFault (near : Bool) (bytes a : Nat) : Nat :=
  if (if near then a ≥ 0x00861C468000 else a ≥ 0x600000) then 1 else if a % bytes ≠ 0 then 2 else 0

/-- The active elements of a memory instruction (R156); `indexed` for gathers and scatters. -/
def State.memEls (s : State) (i : Iss) (e : Nat) (a : VMemArgs) (indexed near : Bool) : List MemEl :=
  let w := tyWidth a.ty.toNat
  let n := s.vcount i.t e w
  let base := (s.sreg i.t i.st a.sa.toNat).toNat
  let rx := s.vreg i.t e a.vi.toNat
  let lim := if indexed then min (nmax w) 256 else nmax w
  (List.range lim).filterMap (fun k =>
    let q := s.activeAt i.t e a.mr.toNat a.me n k
    if q.1 then
      let d : Int := if indexed then toSigned 32 (rx.el 32 k) * (w / 8 : Nat) else toSigned 17 a.var.toNat + (k * (w / 8) : Nat)
      let x := ofSigned 64 ((base : Int) + d)
      some (MemEl.mk k x (elFault near (w / 8) x) (q.2 || (indexed && rx.lanePoison k)))
    else none)

/-- The inactive elements, where Z clears them. -/
def zeroed (z : Bool) (w : Nat) (els : List MemEl) : List Nat :=
  if z then
    let act := els.map (fun m => m.i)
    (List.range (nmax w)).filter (fun k => !act.contains k)
  else []

/-- Extra bank passes (R273, R274) of accesses at these byte offsets, each within one line. -/
def bankPasses (offs : List Nat) : Nat :=
  let lines := (offs.map (fun x => x / 32)).dedup
  let bank (l : Nat) := (l % 32) ^^^ (l / 32 % 32)
  ((List.range 32).map (fun b => (lines.filter (fun l => bank l == b)).length)).foldl max 0 - 1

/-- The faults of an instruction counted, logged and captured (R158). -/
def State.noteFaults (s : State) (i : Iss) (e op : Nat) (els : List MemEl) : State :=
  let bad := els.filter (fun m => m.fault != 0)
  match bad with
  | [] => s
  | m :: _ =>
    let pc := s.pc i.t i.st
    let s1 := (s.incFld (F.VXE_FAULT_CNT_ELEMENTS i.t e) bad.length).incFld (F.VXE_FAULT_CNT_INSNS i.t e) 1
    let s2 := s1.logTile i.t 0x0401 false
      [(1, e), (1, i.st), (4, pc), (1, op), (1, m.fault), (2, m.i), (8, m.addr), (2, bad.length)]
    if s2.flag (F.VXE_FAULT_INFO_VALID i.t e) then s2
    else
      let s3 := ((s2.set1 (F.VXE_FAULT_INFO_VALID i.t e)).setFld (F.VXE_FAULT_INFO_KIND i.t e) m.fault).setFld
        (F.VXE_FAULT_INFO_STREAM i.t e) i.st
      let s4 := ((s3.setFld (F.VXE_FAULT_INFO_OP i.t e) op).setFld (F.VXE_FAULT_INFO_ELEMENT i.t e) m.i).setFld
        (F.VXE_FAULT_INFO_PC i.t e) pc
      s4.setFld (F.VXE_FAULT_ADDR_ADDR i.t e) m.addr

/-- The status event of a fault. -/
def faultEv (lat : Nat) (els : List MemEl) : List (Nat × Nat × VOp) :=
  statusEv lat (if els.any (fun m => m.fault != 0) then stMEMFAULT else 0)

/-- The elements that reach memory. -/
def reach (els : List MemEl) : List MemEl := els.filter (fun m => m.fault == 0)

/-! ## Loads, stores, gathers and scatters in tile memory -/

/-- VLD and VGATHER: tile memory is read in ac t + 2, the result lands in ac t + L (R87, R88). -/
def State.vload (s : State) (i : Iss) (e op : Nat) (a : VMemArgs) (indexed : Bool) (upset : Upset) : State :=
  let w := tyWidth a.ty.toNat
  let els := s.memEls i e a indexed false
  let p := bankPasses ((reach els).map (fun m => m.addr))
  let lat := (if indexed then 20 else 14) + 2 * p
  let s1 := ((s.upset upset).noteFaults i e op els).takeUnits i.t e [(unMEM, 1 + p)]
  s1.runPlan i.t e i.st (s.pc i.t i.st)
    { srcs := (if indexed then [(a.vi.toNat, 0)] else []) ++ maskSrc a.mr.toNat a.me
      dsts := [(a.v.toNat, lat)], kept := !a.z && decide (els.length < nmax w)
      evs := (2, 0, .load a.v.toNat w (els.map (fun m => (m.i, if m.fault = 0 then some m.addr else none,
          m.fault == 0 && m.p))) (zeroed a.z w els) ((s.tile i.t).ac + lat)) :: faultEv lat els }

/-- VST and VSCATTER: tile memory is written in ac t + 5 + 2p (R88). -/
def State.vstore (s : State) (i : Iss) (e op : Nat) (a : VMemArgs) (indexed : Bool) : State :=
  let w := tyWidth a.ty.toNat
  let els := s.memEls i e a indexed false
  let r := s.vreg i.t e a.v.toNat
  let p := bankPasses ((reach els).map (fun m => m.addr))
  ((s.noteFaults i e op els).takeUnits i.t e [(unMEM, 1 + p)]).runPlan i.t e i.st (s.pc i.t i.st)
    { srcs := (a.v.toNat, 0) :: (if indexed then [(a.vi.toNat, 0)] else []) ++ maskSrc a.mr.toNat a.me
      dsts := [], kept := false
      evs := (5 + 2 * p, 1, .store w ((reach els).map (fun m => (m.addr, r.el w m.i, m.p || r.elPoison w m.i))))
        :: faultEv (5 + 2 * p) els }

def execVld (i : Iss) (a : VMemArgs) (upset : Upset) (s : State) : Host.Outcome State Fault Refusal :=
  .next (s.vecIssue i 0x40 (vmemBits a) (fun e s => s.vload i e 0x40 a false upset))

def execVst (i : Iss) (a : VMemArgs) (s : State) : Host.Outcome State Fault Refusal :=
  .next (s.vecIssue i 0x41 (vmemBits a) (fun e s => s.vstore i e 0x41 a false))

def execVgather (i : Iss) (a : VMemArgs) (upset : Upset) (s : State) : Host.Outcome State Fault Refusal :=
  .next (s.vecIssue i 0x42 (vmemBits a) (fun e s => s.vload i e 0x42 a true upset))

def execVscatter (i : Iss) (a : VMemArgs) (s : State) : Host.Outcome State Fault Refusal :=
  .next (s.vecIssue i 0x43 (vmemBits a) (fun e s => s.vstore i e 0x43 a true))

/-! ## Detached instructions on the near tier (R89, R159, R160) -/

/-- VGATHER.N and VSCATTER.N issued: what is left to do waits in the engine's order. A scatter's data is taken at issue
(DESIGN CHOICE, log entry 28). The audit sees a gather's destination under a pending detached instruction now; how its
write-back falls among others is judged when it lands (R90, log entry 28). -/
def State.detachedIssue (s : State) (i : Iss) (e op : Nat) (a : VMemArgs) (gather : Bool) : State :=
  let w := tyWidth a.ty.toNat
  let els := s.memEls i e a true true
  let r := s.vreg i.t e a.v.toNat
  let bad := els.filter (fun m => m.fault != 0)
  let s1 := s.noteFaults i e op els
  let s2 := if bad.isEmpty then s1 else s1.orFld (fVxeStatus i.t e) stMEMFAULT
  let pc := s.pc i.t i.st
  let s3 := s2.runPlan i.t e i.st pc
    { srcs := (if gather then [] else [(a.v.toNat, 0)]) ++ (a.vi.toNat, 0) :: maskSrc a.mr.toNat a.me
      dsts := [], kept := false, evs := [] }
  let s3 := if gather && s3.flag (F.TSQ_CTL_AUDIT_EN i.t) then
      ((s2.auditRead i.t e i.st pc a.v.toNat (s.tile i.t).ac).filter (fun r => r.kind == 2)).foldl
        (fun s r => s.auditArise r) s3
    else s3
  let g := s3.eng i.t e
  let seq := (s.tile i.t).vseq
  s3.setEng i.t e { g with
    sb := g.sb ++ [SbEntry.mk a.v.toNat 0 pc seq i.st true]
    det := g.det ++ [{
      gather := gather, reg := a.v.toNat, w := w
      els := (reach els).map (fun m => (m.i, m.addr, if gather then 0 else r.el w m.i,
        m.p || (!gather && r.elPoison w m.i)))
      zero := if gather then zeroed a.z w els else []
      faulted := bad.map (fun m => m.i), fault := !bad.isEmpty
      badIdx := bad.any (fun m => (s.vreg i.t e a.vi.toNat).lanePoison m.i)
      token := bitsOf a.var.toNat 5 12, seq := seq, st := i.st }] }

def execVgatherN (i : Iss) (a : VMemArgs) (s : State) : Host.Outcome State Fault Refusal :=
  .next (s.vecIssue i 0x44 (vmemBits a) (fun e s => s.detachedIssue i e 0x44 a true))

def execVscatterN (i : Iss) (a : VMemArgs) (s : State) : Host.Outcome State Fault Refusal :=
  .next (s.vecIssue i 0x45 (vmemBits a) (fun e s => s.detachedIssue i e 0x45 a false))

/-- The memory side of a detached instruction: the state after it and whether any element was poisoned. -/
def State.detachedRun (s : State) (t e : Nat) (d : DetIns) : State × Bool :=
  let q := s.own t
  let bytes := d.w / 8
  if d.gather then
    let rd := d.els.map (fun x => (VEl.mk x.1 (s.num x.2.1 bytes) (x.2.2.2 || s.poisoned x.2.1 bytes), s.poisoned x.2.1 bytes))
    let words := (d.els.flatMap (fun x => wordsOf x.2.1 bytes)).dedup
    let s1 := words.foldl (fun s x => s.noteRead q x) s
    let n := (rd.filter (fun p => p.2)).length
    let s2 := if n = 0 then s1 else (s1.incFld (F.VXE_POISON_CNT_IN t e) n).orFld (fVxeStatus t e) stPOISON
    let els := rd.map (fun p => p.1) ++ (d.faulted ++ d.zero).map (fun k => VEl.mk k 0 false)
    (s2.setVreg t e d.reg ((s2.vreg t e d.reg).land d.w els), rd.any (fun p => p.1.p))
  else
    (s.storeMap q (d.els.foldl (fun m x => ByteMap.add m x.2.1 bytes x.2.2.1 x.2.2.2) []), d.els.any (fun x => x.2.2.2))

/-- The audit records of a gather's write-back as it lands (R90): a pending write-back of an earlier instruction to its register
still to come, another in the same ac, and kept lanes read under a pending one. -/
def State.auditGather (s : State) (t e : Nat) (d : DetIns) (pc : Nat) : State :=
  if d.gather && s.flag (F.TSQ_CTL_AUDIT_EN t) then
    let vis := (s.tile t).ac + 1
    let rs := (s.eng t e).sb.flatMap (fun b =>
      if b.reg ≠ d.reg ∨ b.det = true then []
      else if b.vis = vis then [s.auditRec t e d.st 3 pc b.pc d.reg 0]
      else if b.seq < d.seq ∧ vis < b.vis then
        s.auditRec t e d.st 4 pc b.pc d.reg (b.vis - vis) ::
          (if d.els.length + d.zero.length + d.faulted.length < nmax d.w then
            [s.auditRec t e d.st 1 pc b.pc d.reg (b.vis - vis)] else [])
      else [])
    rs.foldl (fun s r => s.auditArise r) s
  else s

/-- The oldest detached instruction of an engine completes and produces its token (R159). -/
def execDetachedComplete (t : Fin 144) (e : Fin 2) (ac : Nat) (upset : Upset) (s : State) :
    Host.Outcome State Fault Refusal :=
  let s0 := s.advance t ac
  match (s0.eng t e).det with
  | [] => .next s0
  | d :: ds =>
    let g := s0.eng t e
    let mine (b : SbEntry) : Bool := b.det && b.seq == d.seq
    let s1 := ((s0.setEng t e { g with det := ds, sb := g.sb.filter (fun b => !mine b) }).auditGather t e d
      ((g.sb.find? mine).elim 0 (fun b => b.pc))).upset upset
    let r := s1.detachedRun t e d
    let flags := (if d.fault then flagERROR else 0) + (if r.2 || d.badIdx then flagPOISON else 0)
      + (if d.els.isEmpty && !d.fault then flagZERO_WORK else 0)
    .next (r.1.produce t d.token flags prodVXE)

/-! ## Tile link (R168) -/

/-- The oldest value on its way to an engine's link queue arrives. -/
def execTileLinkArrival (t : Fin 144) (e : Fin 2) (ac : Nat) (s : State) : Host.Outcome State Fault Refusal :=
  let s0 := s.advance t ac
  match s0.linkFly.find? (fun x => x.1 == t.val && x.2.1 == e.val) with
  | none => .next s0
  | some x =>
    let s1 := { s0 with linkFly := s0.linkFly.erase x }
    let g := s1.eng t e
    if 4 ≤ g.link.length then
      .next ((s1.orFld (fVxeStatus t e) stLINKOVER).logTile t 0x0403 false [(1, e), (1, t - 1)])
    else
      let s2 := (s1.setEng t e { g with link := g.link ++ [x.2.2] }).setFld (F.VXE_LINK_DEPTH t e) (g.link.length + 1)
      if s2.flag (F.VXE_LINK_TOK_EN t e) then .next (s2.produce t (s2.fld (F.VXE_LINK_TOKEN t e)) 0 prodVXE) else .next s2

/-! ## Finished-tile queue -/

/-- A bank's state code in FTQ_STATUS. -/
def fFtqBank (t b : Nat) : Field := if b = 0 then F.FTQ_STATUS_BANK0 t else F.FTQ_STATUS_BANK1 t

/-- A bank holds a packet a pop of the present ac may read (R170): its last word entered in an earlier ac. -/
def State.ftqAvail (s : State) (t b : Nat) : Bool :=
  decide (2 ≤ s.fld (fFtqBank t b)) && decide ((s.ftqBank t b).entered < (s.tile t).ac)

/-- The bank engine `e` reads (R171): of the packets it may take, the one of lowest number, which lies in the bank that
takes the next packet. -/
def State.ftqPick (s : State) (t e : Nat) : Option Nat :=
  let old := (s.tile t).nextPkt % 2
  let mine (b : Nat) : Bool := match s.fld (F.FTQ_CTL_CONSUMER t) with
    | 0 => e == 0
    | 1 => e == 1
    | _ => e == b
  [old, 1 - old].find? (fun b => s.ftqAvail t b && mine b)

/-- A pop or drop with no available packet (R174). -/
def State.ftqUnderrun (s : State) (i : Iss) (e op : Nat) : State :=
  ((s.set1 (F.FTQ_STATUS_UNDERRUN i.t)).incFld (F.FTQ_CNT_UNDERRUN_VALUE i.t) 1).logTile i.t 0x0411 false
    [(1, e), (1, i.st), (4, s.pc i.t i.st), (1, op)]

/-- The next packet fills its bank where that is empty (R170, R179): from when the packet is formed, or from when its bank is
released (DESIGN CHOICE, log entry 111). -/
def State.ftqFill (s : State) (t : Nat) : State :=
  let b := (s.tile t).nextPkt % 2
  if s.fld (fFtqBank t b) = 0 ∧ (s.mxau t).run.any (fun r => !r.pkts.isEmpty) = true then s.setFld (fFtqBank t b) 1 else s

/-- A packet leaves its bank: FTQ_PARITY where it delivered bad-parity words (R175); the bank is empty, or takes the next
packet's words. -/
def State.ftqRelease (s : State) (t b : Nat) : State :=
  let k := s.ftqBank t b
  let s1 := if k.bad = 0 then s else s.logTile t 0x0410 false [(4, s.fld (F.FTQ_BANK_SEQ t b)), (1, b), (2, k.bad)]
  let s2 := (s1.setFtqBank t b FtqBank.empty).setFld (fFtqBank t b) 0
  ((s2.setFld (F.FTQ_BANK_LEN t b) 0).setFld (F.FTQ_BANK_POS t b) 0).ftqFill t

/-- The lanes a pop writes: the low and high halves of the next 128 words, poisoned where the parity is bad; clean zeros beyond
the `n` bytes that the packet still holds. -/
def popLanes (ws : List (Word × Bool)) (n : Nat) : List VEl :=
  (List.range 256).map (fun l => match decide (4 * l < n), ws[l / 2]? with
    | true, some x => VEl.mk l (bitsOf x.1.toNat (32 * (l % 2)) 32) x.2
    | _, _ => VEl.mk l 0 false)

/-- The next 1 KiB of the packet an engine reads (R171, R172, R174, R175): the words delivered and how many bytes they are,
none on an underrun. The read position moves and an emptied bank is released. -/
def State.ftqTake (s : State) (i : Iss) (e op : Nat) : State × List (Word × Bool) × Nat :=
  match s.ftqPick i.t e with
  | none => (s.ftqUnderrun i e op, [], 0)
  | some b =>
    let k := s.ftqBank i.t b
    let pos := s.fld (F.FTQ_BANK_POS i.t b)
    let n := min 1024 (s.fld (F.FTQ_BANK_LEN i.t b) - pos)
    let ws := (k.words.drop (pos / 8)).take 128
    let bad := (ws.filter (fun x => x.2)).length
    let s1 := if bad = 0 then s else
      (((s.set1 (F.FTQ_STATUS_PARITY i.t)).set1 (F.FTQ_STATUS_POISON i.t)).incFld (F.FTQ_CNT_PARITY_VALUE i.t) bad).incFld
        (F.VXE_POISON_CNT_IN i.t e) ((popLanes ws n).filter (fun x => x.p)).length
    let s2 := (s1.setFtqBank i.t b { k with bad := k.bad + bad }).setFld (fFtqBank i.t b) 3
    (if s.fld (F.FTQ_BANK_LEN i.t b) ≤ pos + n then s2.ftqRelease i.t b else s2.setFld (F.FTQ_BANK_POS i.t b) (pos + n),
      ws, n)

/-- FTQ.POP (R172, R174, R175). A lane that the packet's end cuts carries packet data. -/
def State.ftqPopBody (s : State) (i : Iss) (e : Nat) (a : VArgs) : State :=
  let m := bitsOf a.vc.toNat 0 4
  let r := s.ftqTake i e 0x48
  let bad := r.2.1.any (fun x => x.2)
  r.1.runPlan i.t e i.st (s.pc i.t i.st)
    { srcs := [], dsts := (a.vd.toNat, 4) :: (if a.x.getLsbD 0 then [(64 + m, 4)] else []), kept := false
      evs := (4, 3, .wbV a.vd.toNat 32 (popLanes r.2.1 r.2.2)) ::
        (if a.x.getLsbD 0 then
          [(4, 3, .wbM m ((List.range 1024).map (fun k => (k, decide (4 * k < r.2.2), false))))] else [])
        ++ statusEv 4 (if bad then stPOISON else 0) }

def execFtqPop (i : Iss) (a : VArgs) (s : State) : Host.Outcome State Fault Refusal :=
  .next (s.vecIssue i 0x48 (vecBits a) (fun e s => s.ftqPopBody i e a))

/-- FTQ.DROP (R173, R174). -/
def State.ftqDropBody (s : State) (i : Iss) (e : Nat) : State :=
  match s.ftqPick i.t e with
  | none => s.ftqUnderrun i e 0x49
  | some b => (s.incFld (F.FTQ_CNT_DROPS_VALUE i.t) 1).ftqRelease i.t b

def execFtqDrop (i : Iss) (a : VArgs) (s : State) : Host.Outcome State Fault Refusal :=
  .next (s.vecIssue i 0x49 (vecBits a) (fun e s => s.ftqDropBody i e))

/-- A write of FTQ_CTL (R179): refused while a bank is not empty or with CONSUMER = 3. -/
def State.ftqCtl (s : State) (t : Nat) (v : Word) : State :=
  if s.fld (F.FTQ_STATUS_BANK0 t) ≠ 0 ∨ s.fld (F.FTQ_STATUS_BANK1 t) ≠ 0 ∨ bitsOf v.toNat 0 2 = 3 then
    s.set1 (F.FTQ_STATUS_CFG_ERR t)
  else s.setReg (R.FTQ_CTL t) (v &&& 0xFFF0FFF0007)

def execFtqCtlWrite (m : Master) (t : Fin 144) (v : BitVec 64) (s : State) : Host.Outcome State Fault Refusal :=
  .next ((s.noteBy m (R.FTQ_CTL t)).ftqCtl t v)

end Sys2Proof.Machine
end

