-- ==== Sys2Proof/Machine/Post.lean ====
section
/-! DEFINITION. Commands posted to the engine queues (R81, R82). -/
namespace Sys2Proof.Machine

/-! ## Queues -/

/-- The engine queues of a tile: the matrix queue holds 16 commands, the layout and post queues 32 each (R82), the
sparse queue 16 (R209). -/
inductive EngQueue where
  | mxa
  | lxe
  | post
  | spe
  deriving DecidableEq, Repr

/-- Commands a queue holds. -/
def TileHid.queue (h : TileHid) : EngQueue → List QCmd
  | .mxa => h.mxaQ
  | .lxe => h.lxeQ
  | .post => h.postQ
  | .spe => h.speQ

/-- The queue's capacity (R82, R209). -/
def EngQueue.cap : EngQueue → Nat
  | .mxa => 16
  | .spe => 16
  | _ => 32

/-- A command added at a queue's end. -/
def TileHid.push (h : TileHid) (q : EngQueue) (c : QCmd) : TileHid :=
  match q with
  | .mxa => { h with mxaQ := h.mxaQ ++ [c] }
  | .lxe => { h with lxeQ := h.lxeQ ++ [c] }
  | .post => { h with postQ := h.postQ ++ [c] }
  | .spe => { h with speQ := h.speQ ++ [c] }

/-- The event counter selector of a queue's commands (R95). -/
def EngQueue.sel : EngQueue → Nat
  | .mxa => 0x0A
  | .lxe => 0x0B
  | .spe => 0x0B
  | .post => 0x0C

/-- The descriptor block copied at issue (R82): its bytes, and for each 4 bytes whether they read poisoned. -/
def State.copyDesc (s : State) (t off n : Nat) : State × List Byte × List Bool :=
  if off % 64 = 0 ∧ off + n ≤ 0x600000 then
    let a := tileAddr t off
    (s.noteReads (s.own t) a n, s.bytes a n, (wordsOf a n).map (fun w => (s.tag w).bad))
  else
    let f := s.takeFresh
    (f.1, (List.range n).map (fun k => Config.strayDesc f.2 k), List.replicate (n / 4) false)

/-- A matrix-, layout- or post-class instruction after its fence (R82): copied into its queue, or waiting in
WAIT_QUEUE. With `claim` a claim entry goes into the matrix queue too (R210). -/
def State.postBody (s : State) (i : Iss) (c : Instr) (sa : BitVec 5) (q : EngQueue) (descs : Nat) (claim : Bool) : State :=
  if q.cap ≤ ((s.tile i.t).queue q).length ∨ (claim = true ∧ 16 ≤ (s.tile i.t).mxaQ.length) then
    (s.setStream i.t i.st { s.stream i.t i.st with drain := none, waitInsn := some c }).setStState i.t i.st stWAITQUEUE
  else
    let d := s.copyDesc i.t (s.sreg i.t i.st sa.toNat).toNat (64 * descs)
    let s1 := d.1.countEv i.t q.sel i.st 1
    let h := s1.tile i.t
    let h1 := h.push q { c := c, desc := d.2.1, bad := d.2.2, ac := h.ac }
    let s2 := s1.setTile i.t (if claim then h1.push .mxa { c := c, desc := [], bad := [], ac := h.ac } else h1)
    (s2.setStream i.t i.st { s2.stream i.t i.st with waitInsn := none }).retireNext i.t i.st


end Sys2Proof.Machine
end

