-- ==== Sys2Proof/Machine/MxaNum.lean ====
section
/-! DEFINITION. The matrix array's numerics: formats and units (R103), partial sums (R122 to R125), the multi-pass modes
(R127, R129, R130, R133), output conversion (R126, R131). -/
namespace Sys2Proof.Machine

/-! Status bits as they lie from MXA_STATUS bit 9 up (R136). -/
def mxNV : Nat := 1
def mxOF : Nat := 2
def mxWRAP : Nat := 4
def mxMXNAN : Nat := 8
def mxNONFIN : Nat := 16

/-- Bits of an element. -/
def mxBits (f : Nat) : Nat := 8 * (mxUnit f).1 / (mxUnit f).2

/-- A format that may carry MX scales (R103). -/
def mxAllowed (f : Nat) : Bool := decide (2 ≤ f) && decide (f ≤ 7)

/-- The FP8, FP6 and FP4 formats. -/
def mxNarrow (f : Nat) : Bool := decide (2 ≤ f) && decide (f ≤ 6)

/-- The path and depth of a pair (R99, R104): (is FP path, d). -/
def mxMode (fa fb : Nat) (mxa mxb : Bool) : Option (Bool × Nat) :=
  if (mxa && !mxAllowed fa) || (mxb && !mxAllowed fb) then none
  else if (fa == 0 && fb == 0) || (fa == 1 && fb == 1) then some (true, 1)
  else if fa == 6 && fb == 6 then some (true, 4)
  else if mxNarrow fa && mxNarrow fb then some (true, 2)
  else if fa == 7 && fb == 7 then (if mxa != mxb then none else some (mxa, 2))
  else if (fa == 7 && fb == 8) || (fa == 8 && fb == 7) then (if mxa || mxb then none else some (false, 2))
  else if fa == 8 && fb == 8 then some (false, 4)
  else none

/-- The exact value of an element on the FP path (R122). -/
def mxValue (f x : Nat) : FV :=
  match f with
  | 0 => fmtBF16.decode x
  | 1 => fmtFP16.decode x
  | 2 => fmtE4M3.decode x
  | 3 => fmtE5M2.decode x
  | 4 => fmtE3M2.decode x
  | 5 => fmtE2M3.decode x
  | 6 => fmtE2M1.decode x
  | 7 => .fin (decide (toSigned 8 x < 0)) (toSigned 8 x).natAbs (-6)
  | _ => fmtFP32.decode x

/-- A value times 2^k. -/
def FV.scale (k : Int) : FV → FV
  | .fin n m e => .fin n m (e + k)
  | v => v

/-- A value under an E8M0 scale byte: 0xFF is NaN (R122). -/
def FV.e8m0 (b : Nat) (v : FV) : FV := if b = 0xFF then .nan else v.scale ((b : Int) - 127)

/-! ## Sums -/

/-- A rounded result with the array's status bits: FP32, NaN made canonical, an exact zero +0.0 (R123, R124). -/
def mxRound (inNan : Bool) (r : FV × Bool) : FV × Nat :=
  if inNan then (.nan, 0)
  else if r.2 then (.nan, mxNV)
  else match r.1 with
    | .nan => (.nan, 0)
    | .inf n => (.inf n, 0)
    | .fin n m e =>
      if m = 0 then (.fin false 0 0, 0)
      else
        let q := fmtFP32.round false (.fin n m e)
        (q.1, if q.2 &&& stOF ≠ 0 then mxOF else 0)

/-- An exact sum of terms, each with whether it is already invalid. -/
def sumExact : FV × Bool → List (FV × Bool) → FV × Bool
  | a, [] => a
  | a, b :: bs =>
    let c := a.1.add b.1
    sumExact (c.1, a.2 || b.2 || c.2) bs

/-- One processing element's step: RNE of the partial sum and the exact sum of the products (R123, R124). -/
def peStep (p : FV) (xs : List (FV × FV)) : FV × Nat :=
  mxRound (p.isNan || xs.any (fun x => x.1.isNan || x.2.isNan)) (sumExact (p, false) (xs.map (fun x => x.1.mul x.2)))

/-- Elements in groups of `d`: `fuel` bounds the number of groups. -/
def groupsOf {α : Type} (d : Nat) : Nat → List α → List (List α)
  | 0, _ => []
  | fuel + 1, l => if l.isEmpty then [] else l.take d :: groupsOf d fuel (l.drop d)

/-- The column output of one K-chunk, from +0.0 through the rows that compute (R123). -/
def colOut (d : Nat) (xs : List (FV × FV)) : FV × Nat :=
  (groupsOf d xs.length xs).foldl (fun (a : FV × Nat) g =>
    let r := peStep a.1 g
    (r.1, a.2 ||| r.2)) (.fin false 0 0, 0)

/-- A bank entry (FP32 pattern) with a column output added, rounded (R123). -/
def bankAdd (bank : Nat) (col : FV × Nat) : Nat × Nat :=
  let b := fmtFP32.decode bank
  let r := mxRound (b.isNan || col.1.isNan) (b.add col.1)
  (fmtFP32.encode r.1, col.2 ||| r.2)

/-- K-chunks of a row and a column, ascending. -/
def kChunks {α : Type} (kp : Nat) (l : List α) : List (List α) := groupsOf kp l.length l

/-! ## Multi-pass parts -/

/-- The BF16 parts of an FP32 value (R127). -/
def bf16Parts (v : FV) : FV × FV :=
  match v with
  | .fin n _ _ =>
    let r := fmtBF16.round false v
    let hi := match r.1 with
      | .inf _ => FV.fin n fmtBF16.maxM fmtBF16.maxE
      | x => x
    (hi, (fmtBF16.round false (v.add hi.neg).1).1)
  | _ => (v, .fin false 0 0)

/-- A sum formed in the operand path, rounded to BF16 (R133); an invalid one is NaN with NV. -/
def bf16Sum (a b : FV) : FV × Nat :=
  let r := a.add b
  if r.2 then (.nan, mxNV) else ((fmtBF16.round false r.1).1, 0)

/-- A complex BF16 element's parts. -/
def cparts (x : Nat) : FV × FV := (fmtBF16.decode (bitsOf x 0 16), fmtBF16.decode (bitsOf x 16 16))

/-- The passes of a mode over one K-chunk of (A, B) element patterns (with their scale bytes): for each pass the factor
pairs and the targets (0 x or re, 1 y or im), in order; and the conditions of forming the factors. `kind` 0 single pass,
1 FP32 three-pass, 2 complex three-pass, 3 complex four-pass. -/
def mxPasses (kind fa fb : Nat) (xs : List ((Nat × Nat) × (Nat × Nat))) : List (List (FV × FV) × List Nat) × Nat :=
  match kind with
  | 0 => ([(xs.map (fun x => ((mxValue fa x.1.1).e8m0 x.1.2, (mxValue fb x.2.1).e8m0 x.2.2)), [0])], 0)
  | 1 =>
    let ps := xs.map (fun x => (bf16Parts (fmtFP32.decode x.1.1), bf16Parts (fmtFP32.decode x.2.1)))
    ([(ps.map (fun p => (p.1.1, p.2.1)), [0]), (ps.map (fun p => (p.1.2, p.2.1)), [0]),
      (ps.map (fun p => (p.1.1, p.2.2)), [0])], 0)
  | 2 =>
    let ps := xs.map (fun x => (cparts x.1.1, cparts x.2.1))
    let sa := ps.map (fun p => bf16Sum p.1.1 p.1.2)
    let sd := ps.map (fun p => bf16Sum p.2.2 p.2.1.neg)
    let sc := ps.map (fun p => bf16Sum p.2.1 p.2.2)
    ([((sa.zip ps).map (fun q => (q.1.1, q.2.2.1)), [0, 1]), ((ps.zip sd).map (fun q => (q.1.1.1, q.2.1)), [1]),
      ((ps.zip sc).map (fun q => (q.1.1.2.neg, q.2.1)), [0])],
      (sa ++ sd ++ sc).foldl (fun f x => f ||| x.2) 0)
  | _ =>
    let ps := xs.map (fun x => (cparts x.1.1, cparts x.2.1))
    ([(ps.map (fun p => (p.1.1, p.2.1)), [0]), (ps.map (fun p => (p.1.2, p.2.1)), [1]),
      (ps.map (fun p => (p.1.2.neg, p.2.2)), [0]), (ps.map (fun p => (p.1.1, p.2.2)), [1])], 0)

/-- One pass's column output added into an entry's targets. -/
def passInto (d : Nat) (a : AccEl × Nat) (p : List (FV × FV) × List Nat) : AccEl × Nat :=
  let col := colOut d p.1
  p.2.foldl (fun (a : AccEl × Nat) tgt =>
    if tgt = 0 then
      let r := bankAdd a.1.x col
      ({ a.1 with x := r.1 }, a.2 ||| r.2)
    else
      let r := bankAdd a.1.y col
      ({ a.1 with y := r.1 }, a.2 ||| r.2)) a

/-- An accumulator entry on an FP path after all K-chunks (R123, R127, R133). -/
def fpEntry (kind fa fb d kp : Nat) (init : AccEl) (xs : List ((Nat × Nat) × (Nat × Nat))) : AccEl × Nat :=
  (kChunks kp xs).foldl (fun a ch =>
    let ps := mxPasses kind fa fb ch
    ps.1.foldl (passInto d) (a.1, a.2 ||| ps.2)) (init, 0)

/-- An accumulator entry on the INT path (R125): exact column sums, bank additions modulo 2^32. -/
def intEntry (fa fb kp : Nat) (init : AccEl) (xs : List (Nat × Nat)) : AccEl × Nat :=
  (kChunks kp xs).foldl (fun a ch =>
    let col := ch.foldl (fun (z : Int) x => z + toSigned (mxBits fa) x.1 * toSigned (mxBits fb) x.2) 0
    let sum := toSigned 32 a.1.x + col
    ({ a.1 with x := ofSigned 32 sum },
      a.2 ||| (if -((2 ^ 31 : Nat) : Int) ≤ sum ∧ sum < ((2 ^ 31 : Nat) : Int) then 0 else mxWRAP))) (init, 0)

/-- An accumulator entry in FP64 sliced mode (R130): the digit pairs with i + j ≥ 6, added exactly. Each element is its
seven digit patterns, plane 0 first. -/
def slicedEntry (init : AccEl) (xs : List (List Nat × List Nat)) : AccEl :=
  let dig (l : List Nat) (i : Nat) : Int := toSigned 8 (l.getD i 0)
  let add := xs.foldl (fun (z : Int) x =>
    (List.range 7).foldl (fun z i => (List.range 7).foldl (fun z j =>
      if 6 ≤ i + j then z + dig x.1 i * dig x.2 j * ((2 ^ (8 * (i + j)) : Nat) : Int) else z) z) z) 0
  { init with x := ofSigned 128 (toSigned 128 init.x + add) }

/-! ## Output conversion -/

/-- The 16 random bits of an output coordinate (R126). -/
def srBits (seed m n : Nat) : Nat := crc32c (leBytes 8 seed ++ leBytes 4 m ++ leBytes 4 n) % 65536

/-- FP32 to BF16 with stochastic rounding by `r` (R126). -/
def srBF16 (r x : Nat) : Cvt :=
  match fmtFP32.decode x with
  | .fin n m e =>
    let mag := bitsOf x 0 31 + r
    let b := mag / 65536
    let big := decide (0x7F80 ≤ b)
    let above := cmpMag m e fmtBF16.maxM fmtBF16.maxE == .gt
    ⟨b2n n * 32768 + b, if big then stOF else 0, above && (big || b == 0x7F7F), m != 0 && b == 0⟩
  | v => cvtFp fmtBF16 false false false v

/-- An FP32 pattern converted to an output type: BF16 (3) or FP16 (4) under RND, with `r` for stochastic rounding. -/
def mxOutCvt (ty rnd r x : Nat) : Cvt :=
  if rnd = 2 then srBF16 r x
  else cvtTo ty (rnd == 1) false false (fmtFP32.decode x)

/-- Bytes of an output element (R105). -/
def outBytes : Nat → Nat
  | 0 => 4
  | 1 => 2
  | 2 => 2
  | 3 => 4
  | 4 => 8
  | 5 => 16
  | 6 => 8
  | _ => 4

/-- The exact FP64 value of a sliced accumulator (R131), rounded. -/
def slicedOut (rz : Bool) (x : Nat) (ex : Int) : Nat × Nat :=
  let v := toSigned 128 x
  if v = 0 then (0, 0)
  else
    let r := fmtFP64.round rz (.fin (decide (v < 0)) v.natAbs (ex - 106))
    (fmtFP64.encode r.1, if r.2 &&& stOF ≠ 0 then mxOF else 0)

/-- An output element: its pattern, status bits and the conversions for the census. `ex` is EXA + EXB, none where either
marks a non-finite row or column (R131). A poisoned one carries the canonical NaN of its format, or 0 (R135). -/
def outEl (out rnd r : Nat) (ex : Option Int) (a : AccEl) : Nat × Nat × List Cvt :=
  if a.p then
    (match out with
      | 0 => fmtFP32.nanBits
      | 1 => fmtBF16.nanBits
      | 2 => fmtFP16.nanBits
      | 4 => fmtFP64.nanBits
      | 6 => fmtFP32.nanBits + fmtFP32.nanBits * 2 ^ 32
      | 7 => fmtBF16.nanBits + fmtBF16.nanBits * 2 ^ 16
      | _ => 0, if ex.isNone then mxNONFIN else 0, [])
  else
    let ofOf (c : Cvt) : Nat := if c.fl &&& stOF ≠ 0 then mxOF else 0
    match out with
    | 1 =>
      let c := mxOutCvt 3 rnd r a.x
      (c.bits, ofOf c, [c])
    | 2 =>
      let c := mxOutCvt 4 rnd r a.x
      (c.bits, ofOf c, [c])
    | 4 => match ex with
      | none => (fmtFP64.nanBits, mxNONFIN, [])
      | some e =>
        let v := slicedOut (rnd == 1) a.x e
        (v.1, v.2, [])
    | 5 => (a.x, if ex.isNone then mxNONFIN else 0, [])
    | 6 => (a.x + a.y * 2 ^ 32, 0, [])
    | 7 =>
      let c := mxOutCvt 3 rnd r a.x
      let c' := mxOutCvt 3 rnd r a.y
      (c.bits + c'.bits * 2 ^ 16, ofOf c ||| ofOf c', [c, c'])
    | _ => (a.x, 0, [])

/-- Bytes with a poison flag each, packed into 64-bit words; a word is marked where any of its bytes is (R135, R175). -/
def packWords : Nat → List (Byte × Bool) → List (Word × Bool)
  | 0, _ => []
  | fuel + 1, l =>
    if l.isEmpty then []
    else (BitVec.ofNat 64 (leNat ((l.take 8).map (fun b => b.1))), (l.take 8).any (fun b => b.2))
      :: packWords fuel (l.drop 8)

end Sys2Proof.Machine
end

