-- ==== Sys2Proof/Machine/Mxa.lean ====
section
/-! DEFINITION. The matrix array: posting commands (R100, R101), dispatch checks (R104 to R108), a command's run (R110 to
R123), packets into the finished-tile queue (R105, R170), completion (R73, R74), episodes (R117). A command's operands are
read and its results formed at its start; packets, status of the output conversion and the token follow as their events
come (log entry 31). -/
namespace Sys2Proof.Machine

/-! ## Posting -/

def execMma (i : Iss) (a : PostArgs) (s : State) : Host.Outcome State Fault Refusal :=
  .next (s.issueFenced i (.mma i a) [a.sa.toNat] (fun s => s.postBody i (.mma i a) a.sa .mxa 3 false))

def execMmaLoads (i : Iss) (a : PostArgs) (s : State) : Host.Outcome State Fault Refusal :=
  .next (s.issueFenced i (.mmaLoads i a) [a.sa.toNat] (fun s => s.postBody i (.mmaLoads i a) a.sa .mxa 2 false))

def execMmaEw (i : Iss) (a : PostArgs) (s : State) : Host.Outcome State Fault Refusal :=
  .next (s.issueFenced i (.mmaEw i a) [a.sa.toNat] (fun s => s.postBody i (.mmaEw i a) a.sa .mxa 4 false))

def execMmaMp (i : Iss) (a : PostArgs) (s : State) : Host.Outcome State Fault Refusal :=
  .next (s.issueFenced i (.mmaMp i a) [a.sa.toNat] (fun s => s.postBody i (.mmaMp i a) a.sa .mxa 3 false))

/-- OP and operands of a matrix command in the queue. -/
def mxaArgs : Instr → Option (Nat × PostArgs)
  | .mma _ a => some (0, a)
  | .mmaLoads _ a => some (1, a)
  | .mmaEw _ a => some (2, a)
  | .mmaMp _ a => some (3, a)
  | _ => none

/-! ## The operation descriptor (R102) and the checks -/

/-- A matrix command as its descriptors and its class bits say. -/
structure MxDesc where
  op    : Nat
  m     : Nat
  n     : Nat
  k     : Nat
  fa    : Nat
  fb    : Nat
  out   : Nat
  rnd   : Nat
  mxa   : Bool
  mxb   : Bool
  mode  : Nat
  cplx4 : Bool
  mch   : Nat
  seed  : Nat
  sa    : Nat
  sb    : Nat
  pa    : Nat
  pb    : Nat
  pla   : Nat
  plb   : Nat
  emit  : Bool
  cont  : Bool
  use   : Bool
  p1    : Pat
  p2    : Pat
  p3    : Pat
  deriving DecidableEq, Repr

/-- The descriptor block of a queued command read. -/
def mxDesc (op : Nat) (a : PostArgs) (c : QCmd) : MxDesc :=
  { op := op, m := c.bits 0 0 32, n := c.bits 0 32 24, k := c.bits 1 0 24, fa := c.bits 1 24 4, fb := c.bits 1 28 4
    out := c.bits 1 32 3, rnd := c.bits 1 36 2, mxa := c.bits 1 38 1 == 1, mxb := c.bits 1 39 1 == 1
    mode := c.bits 1 40 2, cplx4 := c.bits 1 42 1 == 1, mch := c.bits 1 44 12, seed := c.word 2
    sa := c.word 3, sb := c.word 4, pa := c.bits 5 0 32, pb := c.bits 5 32 32, pla := c.bits 6 0 40, plb := c.bits 7 0 40
    emit := op == 2 || (a.x.getLsbD 25 && op != 1), cont := a.x.getLsbD 24 && (op == 0 || op == 3)
    use := a.x.getLsbD 23 && op == 0
    p1 := c.pat 1, p2 := c.pat 2, p3 := c.pat 3 }

/-- Whether the FP path computes, and the depth factor (R99, R104); for MMA.MP by MODE. -/
def MxDesc.path (d : MxDesc) : Option (Bool × Nat) :=
  if d.op = 3 then (if d.mode = 2 then some (false, 2) else some (true, 1)) else mxMode d.fa d.fb d.mxa d.mxb

/-- The array depth K_phys of the command's mode. -/
def MxDesc.kp (d : MxDesc) : Nat := match d.path with
  | some p => 128 * p.2
  | none => 128

/-- The mode's largest M-chunk (R111). -/
def MxDesc.mchMax (d : MxDesc) : Nat :=
  if d.op = 3 then (if d.mode = 2 then 512 else if d.mode = 3 then 1024 else 2048) else 2048

/-- The command's M-chunk. -/
def MxDesc.chunk (d : MxDesc) : Nat := if d.mch = 0 then d.mchMax else d.mch

/-- The patterns the command reads: operand (0 A or X, 1 B or Y, 2 Z), pattern, format. The checks and the zero-work test look
at these alone, not at a pattern the command makes no use of (DESIGN CHOICE, log entry 119). -/
def MxDesc.pats (d : MxDesc) : List (Nat × Pat × Nat) :=
  match d.op with
  | 0 => (0, d.p1, d.fa) :: (if d.use then [] else [(1, d.p2, d.fb)])
  | 1 => [(1, d.p1, d.fb)]
  | 2 => [(0, d.p1, d.fa), (1, d.p2, d.fb)] ++ (if d.mode = 2 then [(2, d.p3, 9)] else [])
  | _ => [(0, d.p1, d.fa), (1, d.p2, d.fb)]

/-- The format and output checks (R104, R105). Under MODE 0 of MMA.MP only the pair of formats is judged. -/
def MxDesc.fmtOk (d : MxDesc) : Bool :=
  match d.op with
  | 0 => match d.path with
    | some p => if p.1 then decide (d.out ≤ 2) else d.out == 3
    | none => false
  | 1 => d.path.isSome
  | 2 => [0, 1, 9].contains d.fa && [0, 1, 9].contains d.fb && decide (d.out ≤ 1)
  | _ => !d.mxa && !d.mxb && d.fa == d.fb && [9, 10, 11].contains d.fa &&
      (d.mode == 0 || (d.mode == d.fa - 8 && (match d.mode with
        | 1 => d.out == 0
        | 2 => d.out == 4 || d.out == 5
        | _ => d.out == 6 || d.out == 7)))

/-- The SHAPE check (R106, R121). -/
def MxDesc.shapeOk (d : MxDesc) : Bool :=
  if d.op = 2 then d.pats.all (fun p => p.2.1.total == d.p1.total)
  else d.pats.all (fun p =>
    let g := (mxUnit p.2.2).2
    if p.1 = 0 then p.2.1.total * g == d.m * d.k && d.k % g == 0
    else p.2.1.total * g == d.k * d.n && d.n % g == 0)

/-- Blocks of 32 along K. -/
def MxDesc.blocks (d : MxDesc) : Nat := (d.k + 31) / 32

/-- The RANGE check (R106): patterns, planes, EXA and EXB, scale bytes lie in the tile's own window. -/
def MxDesc.rangeOk (d : MxDesc) (t : Nat) : Bool :=
  let w (x : Option (Int × Int)) (unit : Nat) : Bool := spanIn x unit (tileAddr t 0) 0x600000
  let area (b n pitch len : Nat) : Bool :=
    if n = 0 ∨ len = 0 then true else w (some ((b : Int), ((b + (n - 1) * pitch + len - 1 : Nat) : Int))) 1
  d.pats.all (fun p => w p.2.1.span (mxUnit p.2.2).1) &&
  (d.op == 2 ||
    (if d.op = 3 ∧ d.mode = 2 then
      w (d.p1.span.map (fun x => (x.1, x.2 + ((6 * d.pla : Nat) : Int)))) 1 &&
      w (d.p2.span.map (fun x => (x.1, x.2 + ((6 * d.plb : Nat) : Int)))) 1 &&
      area d.sa 1 0 (2 * d.m) && area d.sb 1 0 (2 * d.n)
    else
      (!d.mxa || d.op == 1 || area d.sa d.m d.pa d.blocks) && (!d.mxb || d.use || area d.sb d.blocks d.pb d.n)))

/-- The key a continued command repeats (R119). -/
def MxDesc.key (d : MxDesc) : List Nat :=
  [d.op, d.m, d.n, d.fa, d.fb, b2n d.mxa, b2n d.mxb, if d.op = 3 then d.mode else 0]

/-- The whole result fits one accumulator bank (R119). -/
def MxDesc.oneBank (d : MxDesc) : Bool := decide (d.n ≤ 32) && decide (d.m ≤ d.chunk)

/-- The command is zero-work (R107, R121: MMA.EW uses no M, N, K; MMA.LOADS no M). -/
def MxDesc.zeroWork (d : MxDesc) : Bool :=
  (d.op != 2 && (d.n == 0 || d.k == 0 || (d.op != 1 && d.m == 0))) || d.pats.any (fun p => p.2.1.total == 0)

/-- Every failing check's reason code (R108), all but SHAPE of a zero-work command too (R80, R107). -/
def State.mxReasons (s : State) (t : Nat) (d : MxDesc) : List Nat :=
  let u := s.mxau t
  let statOk := match u.stat, d.path with
    | some x, some p => x.k == d.k && x.n == d.n && x.fb == d.fb && x.mxb == d.mxb && x.d == p.2
    | _, _ => false
  let contOk := match u.held with
    | some h => h.key == d.key && d.oneBank
    | none => false
  let held := match u.held with
    | some h => if d.cont then h.k else 0
    | none => 0
  let all : List (Nat × Bool) :=
    [ (1, d.fmtOk)
    , (2, !(d.op == 3 && d.mode == 0))
    , (3, d.zeroWork || d.shapeOk)
    , (4, d.rangeOk t)
    , (5, d.pats.all (fun p => p.2.1.aligned (mxUnit p.2.2).1))
    , (6, d.pats.all (fun p => (p.2.1.lv.drop 4).all (fun l => decide (l.1 ≤ 1))))
    , (7, !d.use || statOk)
    , (8, !d.cont || contOk)
    , (9, !(d.op == 3 && d.mode == 2) || decide (held + d.k ≤ 524287))
    , (10, d.op == 1 || d.op == 2 || decide (d.mch ≤ d.mchMax))
    , (11, d.op == 1 || !(d.rnd == 3 || (d.rnd == 2 && [2, 4, 7].contains d.out)))
    , (12, d.op != 1 || (decide (d.k ≤ d.kp) && decide (d.n ≤ 32))) ]
  all.filterMap (fun c => if c.2 then none else some c.1)

/-! ## Operands -/

/-- The elements of one unit: patterns and poison. -/
def State.unitEls (s : State) (f a : Nat) : List (Nat × Bool) :=
  let u := mxUnit f
  let x := s.num a u.1
  let p := s.poisoned a u.1
  let w := 8 * u.1 / u.2
  (List.range u.2).map (fun k => (bitsOf x (w * k) w, p))

/-- An operand's elements in logical order (R106). -/
def State.operand (s : State) (p : Pat) (f : Nat) : List (Nat × Bool) := p.addrs.flatMap (s.unitEls f)

/-- Scale bytes: `n` rows of `len`. -/
def State.scaleRows (s : State) (b n pitch len : Nat) : List (List (Nat × Bool)) :=
  (List.range n).map (fun r => (List.range len).map (fun c =>
    ((s.byte (b + r * pitch + c)).toNat, s.poisoned (b + r * pitch + c) 1)))

/-- The words the command reads noted once each (R280, R281). -/
def State.noteOperands (s : State) (t : Nat) (spans : List (Nat × Nat)) : State :=
  (spans.flatMap (fun x => wordsOf x.1 x.2)).dedup.foldl (fun s w => s.noteRead (s.own t) w) s

/-- Every span of memory a command reads. -/
def MxDesc.reads (d : MxDesc) : List (Nat × Nat) :=
  let planes := if d.op = 3 ∧ d.mode = 2 then List.range 7 else [0]
  (d.pats.flatMap (fun p => planes.flatMap (fun i =>
    (p.2.1.shift (i * (if p.1 = 0 then d.pla else d.plb))).addrs.map (fun a => (a, (mxUnit p.2.2).1))))) ++
  (if d.op = 2 then []
   else if d.op = 3 ∧ d.mode = 2 then [(d.sa, 2 * d.m), (d.sb, 2 * d.n)]
   else (if d.mxa && d.op != 1 then (List.range d.m).map (fun m => (d.sa + m * d.pa, d.blocks)) else []) ++
    (if d.mxb && !d.use then (List.range d.blocks).map (fun b => (d.sb + b * d.pb, d.n)) else []))

/-- The stationary operand as MMA.LOADS or the command itself loads it; poisoned throughout under a poisoned descriptor word
(R82). -/
def State.mxStationary (s : State) (d : MxDesc) (bad : Bool) : MxaStat :=
  let p := if d.op = 1 then d.p1 else d.p2
  let els := (s.operand p d.fb).map (fun x => (x.1, x.2 || bad))
  { k := d.k, n := d.n, fb := d.fb, mxb := d.mxb, d := (d.path.getD (true, 1)).2
    els := groupsOf d.n els.length els
    sc := if d.mxb then s.scaleRows d.sb d.blocks d.pb d.n else [] }

/-- The scale byte of an element, 2^0 without MX. -/
def scaleAt (sc : List (List (Nat × Bool))) (r c : Nat) : Nat × Bool := (sc.getD r []).getD c (127, false)

/-! ## A product -/

/-- The accumulators of a product: rows of entries, their status bits, and the first poisoned operand with its element (an element counts as poisoned with its scale or exponent entry). -/
def State.mxProduct (s : State) (d : MxDesc) (st : MxaStat) (init : Option (List (List AccEl))) (badDesc : Bool) :
    List (List AccEl) × Nat × (Nat × Nat) :=
  let ael := s.operand d.p1 d.fa
  let arows := groupsOf d.k ael.length ael
  let asc := if d.mxa then s.scaleRows d.sa d.m d.pa d.blocks else []
  let kind := if d.op = 3 then (if d.mode = 1 then 1 else if d.cplx4 then 3 else 2) else 0
  let sliced := d.op = 3 ∧ d.mode = 2
  let planesA := if sliced then (List.range 7).map (fun i => (s.operand (d.p1.shift (i * d.pla)) d.fa)) else []
  let planesB := if sliced then (List.range 7).map (fun i => (s.operand (d.p2.shift (i * d.plb)) d.fb)) else []
  let exA (m : Nat) : Bool := sliced && s.poisoned (d.sa + 2 * m) 2
  let exB (n : Nat) : Bool := sliced && s.poisoned (d.sb + 2 * n) 2
  let rowP (m : Nat) : Bool := exA m || (asc.getD m []).any (fun x => x.2) ||
    (if sliced then planesA.any (fun p => ((p.drop (m * d.k)).take d.k).any (fun x => x.2))
     else (arows.getD m []).any (fun x => x.2))
  let colP (n : Nat) : Bool := exB n || st.sc.any (fun r => (r.getD n (0, false)).2) ||
    (if sliced then planesB.any (fun p => (List.range d.k).any (fun k => (p.getD (k * d.n + n) (0, false)).2))
     else st.els.any (fun r => (r.getD n (0, false)).2))
  let entry (m n : Nat) : AccEl × Nat :=
    let i0 := match init with
      | some acc => (acc.getD m []).getD n ⟨0, 0, false⟩
      | none => ⟨0, 0, false⟩
    let r : AccEl × Nat :=
      if sliced then
        (slicedEntry i0 ((List.range d.k).map (fun k =>
          (planesA.map (fun p => (p.getD (m * d.k + k) (0, false)).1),
            planesB.map (fun p => (p.getD (k * d.n + n) (0, false)).1)))), 0)
      else
        let xs := ((arows.getD m []).zip st.els).zipIdx.map (fun q =>
          ((q.1.1.1, (scaleAt asc m (q.2 / 32)).1), ((q.1.2.getD n (0, false)).1, (scaleAt st.sc (q.2 / 32) n).1)))
        match d.path with
        | some (true, dep) => fpEntry kind d.fa d.fb dep d.kp i0 xs
        | _ => intEntry d.fa d.fb d.kp i0 (xs.map (fun x => (x.1.1, x.2.1)))
    ({ r.1 with p := i0.p || badDesc || rowP m || colP n }, r.2)
  let rows := (List.range d.m).map (fun m => (List.range d.n).map (fun n => entry m n))
  let fl := rows.foldl (fun f r => r.foldl (fun f x => f ||| x.2) f) 0
  let nan := if asc.any (fun r => r.any (fun x => x.1 == 255)) || st.sc.any (fun r => r.any (fun x => x.1 == 255)) then
    mxMXNAN else 0
  let allA := if sliced then planesA.flatMap (fun p => p.zipIdx.map (fun q => q.1.2 || exA (q.2 / d.k)))
    else ael.zipIdx.map (fun q => q.1.2 || (scaleAt asc (q.2 / d.k) (q.2 % d.k / 32)).2)
  let allB := if sliced then planesB.flatMap (fun p => p.zipIdx.map (fun q => q.1.2 || exB (q.2 % d.n)))
    else st.els.zipIdx.flatMap (fun r => r.1.zipIdx.map (fun q => q.1.2 || (scaleAt st.sc (r.2 / 32) q.2).2))
  let first := match allA.findIdx? id with
    | some e => (0, e % (d.m * d.k))
    | none => match allB.findIdx? id with
      | some e => (1, e % (d.k * d.n))
      | none => (0, 0)
  (rows.map (fun r => r.map (fun x => x.1)), fl ||| nan, first)

/-- The (N-chunk, M-chunk) units of a command in loop order (R110, R118): N-chunk, first row, rows. -/
def MxDesc.units (d : MxDesc) : List (Nat × Nat × Nat) :=
  (List.range ((d.n + 31) / 32)).flatMap (fun j => (List.range ((d.m + d.chunk - 1) / d.chunk)).map (fun i =>
    (j, i * d.chunk, min d.chunk (d.m - i * d.chunk))))

/-- A signed 16-bit entry of EXA or EXB; 0x7FFF marks a non-finite row or column (R129). -/
def State.exEntry (s : State) (b i : Nat) : Option Int :=
  let x := s.num (b + 2 * i) 2
  if x = 0x7FFF then none else some (toSigned 16 x)

/-- EXA(m) + EXB(n) of a sliced product; 0 in the other modes. -/
def State.exSum (s : State) (d : MxDesc) (m n : Nat) : Option Int :=
  if d.op = 3 ∧ d.mode = 2 then
    match s.exEntry d.sa m, s.exEntry d.sb n with
    | some a, some b => some (a + b)
    | _, _ => none
  else some 0

/-- A packet from its elements: pattern, poison, status and conversions (R105, R175). -/
def mkPkt (out : Nat) (els : List (Nat × Bool × Nat × List Cvt)) : MxaPkt :=
  let bytes := els.flatMap (fun e => (leBytes (outBytes out) e.1).map (fun b => (b, e.2.1)))
  let cs := els.flatMap (fun e => e.2.2.2)
  { words := packWords bytes.length bytes
    len := bytes.length
    status := els.foldl (fun f e => f ||| e.2.2.1) 0
    census := if cs.isEmpty then [] else
      [(if out = 2 then 8 else 7, cs.length, (cs.filter (fun c => c.sat)).length, (cs.filter (fun c => c.van)).length)] }

/-- The packets of a product (R105, R110): per unit, at most a packet's rows each; columns from N on are zeros. -/
def State.mxPackets (s : State) (d : MxDesc) (acc : List (List AccEl)) : List MxaPkt :=
  let rowsPer := 32768 / (32 * outBytes d.out)
  d.units.flatMap (fun u =>
    (List.range ((u.2.2 + rowsPer - 1) / rowsPer)).map (fun q =>
      let r0 := u.2.1 + q * rowsPer
      let rows := min rowsPer (u.2.2 - q * rowsPer)
      mkPkt d.out ((List.range rows).flatMap (fun r => (List.range 32).map (fun c =>
        let m := r0 + r
        let n := 32 * u.1 + c
        if n < d.n then
          let a := (acc.getD m []).getD n ⟨0, 0, false⟩
          let o := outEl d.out d.rnd (srBits d.seed m n) (s.exSum d m n) a
          (o.1, a.p, o.2)
        else (0, false, 0, []))))))

/-- The bank of a command's unit z (R118): z mod 2 in loop order, but by the run of MCH rows where a single-pass command of one
K-chunk streams M without a break. -/
def MxDesc.bankOf (d : MxDesc) (z : (Nat × Nat × Nat) × Nat) : Nat :=
  if d.op ≠ 3 ∧ d.k ≤ d.kp then z.1.2.1 / d.chunk % 2 else z.2 % 2

/-- The accumulator banks written (R118, R119), rows from the bank's start. -/
def State.mxBanks (s : State) (t : Nat) (d : MxDesc) (acc : List (List AccEl)) : State :=
  let wpe := if d.op = 3 then (if d.mode = 2 then 4 else if d.mode = 3 then 2 else 1) else 1
  d.units.zipIdx.foldl (fun s z =>
    (List.range z.1.2.2).foldl (fun s r => (List.range 32).foldl (fun s c =>
      let n := 32 * z.1.1 + c
      let a := if n < d.n then (acc.getD (z.1.2.1 + r) []).getD n ⟨0, 0, false⟩ else ⟨0, 0, false⟩
      (List.range wpe).foldl (fun s w =>
        let v := if wpe = 2 then (if w = 0 then a.x else a.y) else a.x / 2 ^ (32 * w)
        s.setAccWord t (d.bankOf z) ((r * 32 + c) * wpe + w) v) s) s) s) s

/-! ## MMA.EW (R121) -/

/-- One element's result: FP32 pattern and status bits. -/
def ewOp (mode x y z : Nat) : Nat × Nat :=
  let r := match mode with
    | 0 => fmtFP32.mul x y
    | 1 => fmtFP32.add x y
    | 2 => fmtFP32.fma x y z
    | _ => fmtFP32.sub x y
  (r.1, (if r.2 &&& stNV ≠ 0 then mxNV else 0) + (if r.2 &&& stOF ≠ 0 then mxOF else 0))

/-- The results of MMA.EW: entries with poison, status bits, the first poisoned operand. -/
def State.ewRun (s : State) (d : MxDesc) (badDesc : Bool) : List AccEl × Nat × (Nat × Nat) :=
  let xs := s.operand d.p1 d.fa
  let ys := s.operand d.p2 d.fb
  let zs := if d.mode = 2 then s.operand d.p3 9 else []
  let val (f : Nat) (x : Nat × Bool) : Nat := fmtFP32.encode (mxValue f x.1)
  let rs := (xs.zip ys).zipIdx.map (fun q =>
    let z := zs.getD q.2 (0, false)
    let r := ewOp d.mode (val d.fa q.1.1) (val d.fb q.1.2) z.1
    (AccEl.mk r.1 0 (badDesc || q.1.1.2 || q.1.2.2 || z.2), r.2))
  let idx (l : List (Nat × Bool)) := l.findIdx? (fun x => x.2)
  let first := match idx xs, idx ys, idx zs with
    | some e, _, _ => (0, e)
    | none, some e, _ => (1, e)
    | none, none, some e => (2, e)
    | none, none, none => (0, 0)
  (rs.map (fun r => r.1), rs.foldl (fun f r => f ||| r.2) 0, first)

/-- The packets of MMA.EW: 8,192 or 16,384 elements each. -/
def ewPackets (d : MxDesc) (els : List AccEl) : List MxaPkt :=
  let per := 32768 / outBytes d.out
  (groupsOf per els.length els).zipIdx.map (fun g => mkPkt d.out (g.1.zipIdx.map (fun e =>
    let o := outEl d.out d.rnd (Config.ewRound (BitVec.ofNat 64 d.seed) (g.2 * per + e.2)).toNat (some 0) e.1
    (o.1, e.1.p, o.2))))

/-! ## Start -/

/-- The status bits of MXA_STATUS from bit 9 up. -/
def fMxaSticky (t : Nat) : Field := ⟨R.MXA_STATUS t, 9, 5⟩

/-- A command added to those under way; its first packet begins to fill its bank where that is empty. -/
def State.mxPush (s : State) (t : Nat) (r : MxaRun) : State :=
  (s.setMxau t { s.mxau t with run := (s.mxau t).run ++ [r] }).ftqFill t

/-- A rejected command (R108). -/
def State.mxReject (s : State) (t op token reason : Nat) : State :=
  let s1 := ((s.setFld (F.MXA_REJECT_REASON t) reason).setFld (F.MXA_REJECT_OP t) op).setFld (F.MXA_REJECT_TOKEN t) token
  ((s1.incFld (F.MXA_REJECT_COUNT t) 1).set1 (F.MXA_STATUS_REJECT t)).logTile t 0x0301 false [(1, op), (2, token), (1, reason)]

/-- An episode begins where the array is idle (R117). -/
def State.mxEpisode (s : State) (t : Nat) : State :=
  if s.flag (F.MXA_STATUS_BUSY t) then s
  else (s.set1 (F.MXA_STATUS_BUSY t)).setMxau t { s.mxau t with rho := s.fld (F.MXA_CTL_RAMP_LEN t) }

/-- Row entries and ac of stationary loads of a product (R112). -/
def MxDesc.portAc (d : MxDesc) : Nat × Nat :=
  let nN := (d.n + 31) / 32
  let nK := (d.k + d.kp - 1) / d.kp
  let nM := if d.op = 0 ∧ nK = 1 then 1 else (d.m + d.chunk - 1) / d.chunk
  let pl : Nat × Nat := if d.op = 3 then
      (match d.mode with
        | 1 => (3, 2)
        | 2 => (28, 7)
        | _ => if d.cplx4 then (4, 2) else (3, 3))
    else (1, 1)
  (nN * nK * pl.1 * d.m, if d.use then 0 else nN * nK * 128 * pl.2 * nM)

/-- A valid command with work runs. -/
def State.mxWork (s : State) (t : Nat) (te : Bool) (token : Nat) (d : MxDesc) (bad : Bool) : State :=
  let s0 := (s.mxEpisode t).noteOperands t d.reads
  let u := s0.mxau t
  let flags := if bad then flagPOISON else 0
  match d.op with
  | 1 =>
    let st := s0.mxStationary d bad
    let nan := if st.sc.any (fun r => r.any (fun x => x.1 == 255)) then mxMXNAN else 0
    let s1 := ((s0.setMxau t { u with stat := some st }).set1 (F.MXA_STATUS_STAT_VALID t)).orFld (fMxaSticky t) nan
    s1.mxPush t ⟨1, te, token, flags, [], (0, 0), false, 0, 128⟩
  | 2 =>
    let r := s0.ewRun d bad
    let s1 := ((s0.setMxau t { u with held := none }).setFld (F.MXA_STATUS_CONT_HELD t) 0).orFld (fMxaSticky t) r.2.1
    let s2 := r.1.zipIdx.foldl (fun s e => s.setAccWord t 0 (e.2 % 65536) e.1.x) s1
    s2.mxPush t ⟨2, te, token, flags, ewPackets d r.1, r.2.2, false, (r.1.length + 31) / 32, 0⟩
  | _ =>
    let st := match d.use, u.stat with
      | true, some x => x
      | _, _ => s0.mxStationary d false
    let r := s0.mxProduct d st (if d.cont then u.held.map (fun h => h.acc) else none) bad
    let hold := !d.emit && d.oneBank
    let kTot := (match d.cont, u.held with
      | true, some h => h.k
      | _, _ => 0) + d.k
    let s1 := s0.setMxau t { u with
      stat := if d.use then u.stat else none
      held := if hold then some ⟨d.key, kTot, r.1⟩ else none }
    let s2 := (if d.use then s1 else s1.setFld (F.MXA_STATUS_STAT_VALID t) 0).setFld (F.MXA_STATUS_CONT_HELD t) (b2n hold)
    let s3 := (s2.orFld (fMxaSticky t) r.2.1).mxBanks t d r.1
    let pa := d.portAc
    s3.mxPush t ⟨d.op, te, token, flags, if d.emit then s3.mxPackets d r.1 else [], r.2.2, false, pa.1, pa.2⟩

/-- A matrix command at the head of its queue starts (R107, R108, R115). -/
def execMxaCommandStart (t : Fin 144) (ac : Nat) (upset : Upset) (s : State) : Host.Outcome State Fault Refusal :=
  let s0 := s.advance t ac
  match (s0.tile t).mxaQ with
  | [] => .next s0
  | c :: q =>
    match mxaArgs c.c with
    | none => .next s0
    | some (op, a) =>
      if (s0.tile t).ac ≤ c.ac then .next s0
      else
        let s1 := (s0.setTile t { s0.tile t with mxaQ := q }).upset upset
        let d := mxDesc op a c
        let bad := c.poisoned
        let pf := if bad then flagPOISON else 0
        match (s1.mxReasons t d).head? with
        | some reason =>
          .next ((s1.mxReject t op a.token.toNat reason).mxPush t
            ⟨op, a.te, a.token.toNat, flagERROR ||| pf, [], (0, 0), false, 0, 0⟩)
        | none =>
          if d.zeroWork then
            .next (s1.mxPush t ⟨op, a.te, a.token.toNat, flagZERO_WORK ||| pf, [], (0, 0), false, 0, 0⟩)
          else .next (s1.mxWork t a.te a.token.toNat d bad)

/-! ## Delivery, completion, episodes -/

/-- The first command under way that has a packet to deliver gives its packet up. -/
def popPkt : List MxaRun → Option (MxaPkt × MxaRun × List MxaRun × List MxaRun)
  | [] => none
  | r :: rs => match r.pkts with
    | p :: ps => some (p, { r with pkts := ps }, [], rs)
    | [] => match popPkt rs with
      | some (p, x, pre, post) => some (p, x, r :: pre, post)
      | none => none

/-- The last word of an output packet enters its finished-tile queue bank (R105, R170, R171). -/
def execMxaPacketDelivery (t : Fin 144) (ac : Nat) (s : State) : Host.Outcome State Fault Refusal :=
  let s0 := s.advance t ac
  let h := s0.tile t
  let b := h.nextPkt % 2
  if 2 ≤ s0.fld (fFtqBank t b) then .next s0
  else match popPkt (s0.mxau t).run with
    | none => .next s0
    | some (p, r, pre, post) =>
      let bad := p.words.any (fun w => w.2)
      let r' := { r with flags := if bad then r.flags ||| flagPOISON else r.flags, logged := r.logged || bad }
      let s1 := s0.setMxau t { s0.mxau t with run := pre ++ r' :: post }
      let s2 := s1.orFld (fMxaSticky t) p.status
      let s3 := p.census.foldl (fun s c =>
        ((s.censusAdd t c.1 0 c.2.1).censusAdd t c.1 1 c.2.2.1).censusAdd t c.1 2 c.2.2.2) s2
      let s4 := if bad then
          let s' := s3.set1 (F.MXA_STATUS_POISON t)
          if r.logged then s' else s'.logTile t 0x0302 false [(1, r.op), (2, r.token), (1, r.first.1), (8, r.first.2)]
        else s3
      let s5 := (s4.incFld (F.MXA_CNT_PACKETS_VALUE t) 1).incFld (F.FTQ_CNT_PACKETS_VALUE t) 1
      let s6 := (s5.setFtqBank t b ⟨p.words, h.ac, 0⟩).setFld (fFtqBank t b) 2
      let s7 := ((s6.setFld (F.FTQ_BANK_SEQ t b) h.nextPkt).setFld (F.FTQ_BANK_LEN t b) p.len).setFld
        (F.FTQ_BANK_POS t b) 0
      let s8 := ((s7.setTile t { s7.tile t with nextPkt := h.nextPkt + 1 }).setFld (F.FTQ_STATUS_NEXT_FILL t)
        ((h.nextPkt + 1) % 2)).ftqFill t
      if s8.flag (F.FTQ_CTL_PKT_TOK_EN t) then
        let e : Nat := match s8.fld (F.FTQ_CTL_CONSUMER t) with
          | 0 => 0
          | 1 => 1
          | _ => b
        let k := if e = 0 then s8.fld (F.FTQ_CTL_PKT_TOKEN0 t) else s8.fld (F.FTQ_CTL_PKT_TOKEN1 t)
        .next (s8.produce t k (if bad then flagPOISON else 0) prodFTQ)
      else .next s8

/-- The oldest matrix command under way completes once nothing is left to deliver (R73, R74); the stalls it met come with
the event (R116). A sparse command's claim completes with its command (R210). -/
def execMxaCommandComplete (t : Fin 144) (ac stallTm stallFtq : Nat) (s : State) : Host.Outcome State Fault Refusal :=
  let s0 := s.advance t ac
  match (s0.mxau t).run with
  | [] => .next s0
  | r :: rs =>
    if !r.pkts.isEmpty || decide (0x40 ≤ r.op) then .next s0
    else
      let s1 := s0.setMxau t { s0.mxau t with run := rs }
      let s2 := ((s1.incFld (F.MXA_CNT_CMDS_VALUE t) 1).incFld (F.MXA_CNT_STREAM_AC_VALUE t) r.rows).incFld
        (F.MXA_CNT_LOAD_AC_VALUE t) r.loads
      let s3 := (s2.incFld (F.MXA_CNT_STALL_TM_VALUE t) stallTm).incFld (F.MXA_CNT_STALL_FTQ_VALUE t) stallFtq
      if r.te then .next (s3.produce t r.token r.flags prodMXA) else .next s3

/-- An episode ends: no command is in the queue at a command's last row entry (R117). -/
def execMxaEpisodeEnd (t : Fin 144) (ac : Nat) (s : State) : Host.Outcome State Fault Refusal :=
  let s0 := s.advance t ac
  if (s0.tile t).mxaQ.isEmpty then .next (s0.setFld (F.MXA_STATUS_BUSY t) 0) else .next s0

/-- A write of RAMP_LEN (R117). -/
def State.mxaCtl (s : State) (t : Nat) (v : Word) : State :=
  let r := bitsOf v.toNat 0 8
  if 16 ≤ r ∧ r ≤ 128 ∧ r % 4 = 0 then s.setFld (F.MXA_CTL_RAMP_LEN t) r else s.set1 (F.MXA_STATUS_CFG_ERR t)

def execMxaCtlWrite (m : Master) (t : Fin 144) (v : BitVec 64) (s : State) : Host.Outcome State Fault Refusal :=
  .next ((s.noteBy m (R.MXA_CTL t)).mxaCtl t v)

end Sys2Proof.Machine
end

