-- ==== Sys2Proof/Machine/Sfu.lean ====
section
/-! DEFINITION. Special-function instructions, norms, soft maximum and the table-bank swap (R180 to R206). -/
namespace Sys2Proof.Machine

/-- T2 compatibility as an instruction issued now sees it: a write applies 2 ac after it reached the SFU (R204). -/
def State.t2On (s : State) (t : Nat) : Bool :=
  let u := s.sfuu t
  ((u.t2w.filter (fun w => decide (w.1 ≤ (s.tile t).ac))).getLast?.map (fun w => w.2)).getD u.t2

/-- A write of SFU_CTL (R204). -/
def State.sfuCtl (s : State) (t : Nat) (v : Word) : State :=
  let u := s.sfuu t
  let on := bitsOf v.toNat 0 1
  (s.setSfuu t { u with
    t2 := s.t2On t
    t2w := u.t2w.filter (fun w => decide ((s.tile t).ac < w.1)) ++ [((s.tile t).ac + 2, on == 1)] }).setFld
    (F.SFU_CTL_T2_COMPAT t) on

/-- The armed token has reached its amount, as waits see it (R187). -/
def State.swapDue (s : State) (t : Nat) : Bool :=
  let u := s.sfuu t
  s.flag (F.SFU_STATUS_ARMED t) && decide (u.since ≤ (s.tile t).ac)
    && decide (max 1 u.n ≤ s.fld (F.TSQ_TOKEN_COUNT t u.tok))

/-- The bank that is active in the present ac: a swap due in it counts, be its event sent yet or not (R188). -/
def State.sfuBank (s : State) (t : Nat) : Nat :=
  let b := s.fld (F.SFU_STATUS_ACTIVE t)
  if s.swapDue t then 1 - b else b

/-- Uncorrectable table words met by an instruction (R181): `ecc` holds the byte offsets of the words found bad, `used` those that
its results are computed from. -/
def State.tableEcc (s : State) (t b : Nat) (ecc used : List Nat) : State :=
  match ecc.find? (fun x => used.contains x) with
  | none => s
  | some x => (s.set1 (F.SFU_STATUS_TABLE_ECC t)).logTile t 0x0504 false [(1, b), (2, x)]

/-- A function ready to evaluate: latency, value and conditions at an FP32 argument, extra conditions of the instruction, and the
byte offsets of the table words a result is computed from. -/
structure SfuFun where
  lat   : Nat
  f     : Nat → Nat × Nat
  fl    : Nat
  words : Nat → List Nat

/-- A built-in function (R182) for elements of a type. -/
def State.sfuFun (s : State) (t ty code : Nat) : SfuFun := ⟨16, sfuBuiltin (s.t2On t && ty != 4) code, 0, fun _ => []⟩

/-- A user slot's function in the active bank, and the state with a bad program noted (R188, R193). -/
def State.sfuUser (s : State) (i : Iss) (e slot : Nat) : State × SfuFun :=
  let b := s.sfuBank i.t
  let p := s.sfuProg i.t b slot
  if p.valid then (s, ⟨16 + 6 * (p.ntab - 1), s.sfuRun i.t b p, 0, p.words slot⟩)
  else
    (((s.set1 (F.SFU_STATUS_BAD_PROGRAM i.t)).setFld (F.SFU_STATUS_BAD_SLOT i.t) slot).logTile i.t 0x0501 false
      [(1, e), (1, i.st), (4, s.pc i.t i.st), (1, slot), (1, b)], ⟨16, fun _ => (fmtFP32.nanBits, 0), stNV, fun _ => [128 * slot]⟩)

/-- An SFU instruction over the elements below `n`: `arg` gives an element's FP32 argument, poison and conditions, `post`
what follows the function. Results are counted; an uncorrectable table word poisons every result computed from it (R181, R206). -/
def State.sfuRunElems (s : State) (i : Iss) (e : Nat) (a : VArgs) (n lat : Nat) (srcs : List Nat) (g : SfuFun)
    (ecc : List Nat) (more : Nat) (arg : Nat → Nat × Bool × Nat) (post : Nat → Nat × Nat) : State :=
  let ty := a.ty.toNat
  let w := tyWidth ty
  let live := (List.range n).filter (fun k => (s.activeAt i.t e a.mr.toNat a.me n k).1)
  let r := s.elementwise i.t e a.mr.toNat a.me a.z w n (fun k =>
    let x := arg k
    let y := g.f x.1
    let z := post y.1
    ((fromFP32 ty z.1).1, x.2.1 || ecc.any (fun q => (g.words x.1).contains q), x.2.2 ||| y.2 ||| z.2))
  let used := if ecc.isEmpty then [] else live.flatMap (fun k => g.words (arg k).1)
  let s1 := (s.tableEcc i.t (s.sfuBank i.t) ecc used).incFld (F.SFU_CNT_RESULTS_VALUE i.t) live.length
  s1.runPlan i.t e i.st (s1.pc i.t i.st)
    { srcs := srcs.map (fun x => (x, 0)) ++ maskSrc a.mr.toNat a.me, dsts := [(a.vd.toNat, lat)]
      kept := decide (r.1.length < nmax w)
      evs := (lat, 3, .wbV a.vd.toNat w r.1) :: statusEv lat (r.2 ||| g.fl ||| more) }

/-- A source element as FP32 with its poison. -/
def State.sfuArg (s : State) (i : Iss) (e : Nat) (a : VArgs) (k : Nat) : Nat × Bool × Nat :=
  let w := tyWidth a.ty.toNat
  let r := s.vreg i.t e a.va.toNat
  (redElem a.ty.toNat (r.el w k), r.elPoison w k, 0)

def execVsf (i : Iss) (a : VArgs) (s : State) : Host.Outcome State Fault Refusal :=
  .next (s.vecIssue i 0x80 (vecBits a) (fun e s =>
    s.sfuRunElems i e a (s.vcount i.t e (tyWidth a.ty.toNat)) 16 [a.va.toNat]
      (s.sfuFun i.t a.ty.toNat (bitsOf a.x.toNat 0 6)) [] 0 (s.sfuArg i e a) (fun y => (y, 0))))

def execVsfU (i : Iss) (a : VArgs) (ecc : List Nat) (s : State) : Host.Outcome State Fault Refusal :=
  .next (s.vecIssue i 0x81 (vecBits a) (fun e s =>
    let u := s.sfuUser i e (bitsOf a.x.toNat 0 5)
    (u.1.takeUnits i.t e [(unSFU, (if a.ty.toNat = 5 then 4 else 8) * (1 + (u.2.lat - 16) / 6))]).sfuRunElems i e a
      (s.vcount i.t e (tyWidth a.ty.toNat)) u.2.lat [a.va.toNat] u.2 ecc 0 (s.sfuArg i e a) (fun y => (y, 0))))

/-- An underrun of VSF.FUSE: as for FTQ.POP, every lane of VD takes a clean zero (R174, R196). -/
def State.fuseUnderrun (s : State) (i : Iss) (e : Nat) (a : VArgs) (lat fl : Nat) : State :=
  s.runPlan i.t e i.st (s.pc i.t i.st)
    { srcs := [], dsts := [(a.vd.toNat, lat)], kept := false
      evs := (lat, 3, .wbV a.vd.toNat 32 (popLanes [] 0)) :: statusEv lat fl }

/-- VSF.FUSE (R196). -/
def State.fuseBody (s : State) (i : Iss) (e : Nat) (a : VArgs) (ecc : List Nat) : State :=
  let ty := a.ty.toNat
  let w := tyWidth ty
  let pop := a.x.getLsbD 7
  let bias := a.x.getLsbD 8
  let scl := a.x.getLsbD 9
  let q := if pop then s.ftqTake i e 0x82 else (s, [], 0)
  let user := a.x.getLsbD 6
  let u := if user then q.1.sfuUser i e (bitsOf a.x.toNat 0 5) else (q.1, q.1.sfuFun i.t ty (bitsOf a.x.toNat 0 6))
  let s1 := u.1.takeUnits i.t e [(unSFU, (if ty = 5 then 4 else 8) * (1 + (u.2.lat - 16) / 6))]
  let lat := u.2.lat + 4 + (if pop then 4 else 0)
  if pop && q.2.2 == 0 then s1.fuseUnderrun i e a lat u.2.fl
  else
    let n := s.vcount i.t e w
    let bits := leNat (q.2.1.flatMap (fun x => leBytes 8 x.1.toNat))
    let rb := s.vreg i.t e a.vb.toNat
    let sc := (s.sreg i.t i.st (bitsOf a.vc.toNat 0 5)).toNat % 2 ^ 32
    let arg (k : Nat) : Nat × Bool × Nat :=
      let x : Nat × Bool × Nat := if pop then
          (redElem ty (bitsOf bits (w * k) w), (q.2.1.getD (w * k / 64) (0, false)).2, 0)
        else s.sfuArg i e a k
      if bias then
        let y := fmtFP32.add x.1 (redElem ty (rb.el w k))
        (y.1, x.2.1 || rb.elPoison w k, y.2)
      else x
    s1.sfuRunElems i e a (if pop then min n (q.2.2 * 8 / w) else n) lat
      ((if pop then [] else [a.va.toNat]) ++ (if bias then [a.vb.toNat] else [])) u.2 ecc
      (if q.2.1.any (fun x => x.2) then stPOISON else 0) arg (fun y => if scl then fmtFP32.mul sc y else (y, 0))

def execVsfFuse (i : Iss) (a : VArgs) (ecc : List Nat) (s : State) : Host.Outcome State Fault Refusal :=
  .next (s.vecIssue i 0x82 (vecBits a) (fun e s => s.fuseBody i e a ecc))

/-! ## Norms -/

/-- The active elements of VA in FP32: index, value, poison. -/
def State.fp32Inputs (s : State) (i : Iss) (e : Nat) (a : VArgs) : List (Nat × Nat × Bool) :=
  (s.redInputs i.t e a).zipIdx.filterMap (fun x => x.1.map (fun v => (x.2, v.1, v.2)))

/-- Inactive elements to clear under Z. -/
def zeroInactive (z : Bool) (w : Nat) (live : List Nat) : List Nat :=
  if z then (List.range (nmax w)).filter (fun k => !live.contains k) else []

/-- VNORM.RMS issued (R197): the sum of squares is formed; the carry is read in ac t + L − 2 (R167). -/
def State.rmsIssue (s : State) (i : Iss) (e : Nat) (a : VArgs) : State :=
  let ty := a.ty.toNat
  let w := tyWidth ty
  let mode := bitsOf a.x.toNat 0 2
  let c := b2n (a.x.getLsbD 2)
  let cin := a.x.getLsbD 3
  let gain := a.x.getLsbD 4
  let xs := s.fp32Inputs i e a
  let sq := xs.map (fun x => (x.1, fmtFP32.mul x.2.1 x.2.1))
  let q := treeSum (nmax w) (sq.map (fun x => (x.1, x.2.1)))
  let op := (s.sreg i.t i.st (bitsOf a.vc.toNat 0 5)).toNat
  let rb := s.vreg i.t e a.vb.toNat
  let fl := if mode = 2 then 0 else sq.foldl (fun f x => f ||| x.2.2) q.2
  let r : NormRec :=
    { mode := mode, q := q.1, qp := xs.any (fun x => x.2.2), act := xs.length, n := bitsOf op 32 32, eps := bitsOf op 0 32
      c := c, cin := cin, ty := ty, vd := a.vd.toNat
      els := if mode < 2 then [] else xs.map (fun x =>
        (x.1, x.2.1, redElem ty (rb.el w x.1), x.2.2 || (gain && rb.elPoison w x.1)))
      gain := gain, zero := if mode < 2 then [] else zeroInactive a.z w (xs.map (fun x => x.1))
      lat := 24, issue := (s.tile i.t).ac, t2 := false }
  s.runPlan i.t e i.st (s.pc i.t i.st)
    { srcs := [(a.va.toNat, 0)] ++ (if gain && decide (2 ≤ mode) then [(a.vb.toNat, 0)] else []) ++ maskSrc a.mr.toNat a.me
        ++ (if mode = 2 ∨ (cin = true ∧ mode < 2) then [(80 + c, 22)] else [])
      dsts := (if mode = 0 then [] else [(a.vd.toNat, 24)]) ++ (if mode < 2 then [(80 + c, 23)] else [])
      kept := decide (2 ≤ mode) && !a.z && decide (xs.length < nmax w)
      evs := (22, 2, .norm r) :: statusEv 24 fl }

def execVnormRms (i : Iss) (a : VArgs) (s : State) : Host.Outcome State Fault Refusal :=
  .next (s.vecIssue i 0x84 (vecBits a) (fun e s => s.rmsIssue i e a))

/-- The state of VNORM.MV: count, mean, M2 (R198). -/
structure MvState where
  n : Nat
  m : Nat
  q : Nat
  deriving DecidableEq, Repr

/-- Two states combined (R199) with the conditions met. -/
def mvCombine (a b : MvState) : MvState × Nat :=
  if a.n = 0 then (b, 0)
  else if b.n = 0 then (a, 0)
  else
    let n := a.n + b.n
    let w := fmtFP32.result (quotient false b.n 0 n 0, false)
    let d := fmtFP32.sub b.m a.m
    let m := fmtFP32.fma d.1 w.1 a.m
    let nw := fmtFP32.result ((FV.ofInt a.n).mul (fmtFP32.decode w.1))
    let dn := fmtFP32.mul d.1 nw.1
    let mm := fmtFP32.add a.q b.q
    let q := fmtFP32.fma d.1 dn.1 mm.1
    (⟨min n (2 ^ 31 - 1), m.1, q.1⟩,
      w.2 ||| d.2 ||| m.2 ||| nw.2 ||| dn.2 ||| mm.2 ||| q.2 ||| (if 2 ^ 31 - 1 < n then stOOR else 0))

/-- One level of the state tree. -/
def mvLevel : List (MvState × Nat) → List (MvState × Nat)
  | a :: b :: r =>
    let c := mvCombine a.1 b.1
    (c.1, a.2 ||| b.2 ||| c.2) :: mvLevel r
  | l => l

/-- `k` levels of the state tree. -/
def mvFold : Nat → List (MvState × Nat) → List (MvState × Nat)
  | 0, l => l
  | k + 1, l => mvFold k (mvLevel l)

/-- The variance and ρ of a state (R198, R199) with the conditions met. -/
def mvFinish (st : MvState) (sample : Bool) (eps : Nat) : Nat × Nat × Nat :=
  let v : Nat × Nat :=
    if sample then (if st.n ≤ 1 then (fmtFP32.nanBits, stNV) else fpDivNat st.q (st.n - 1))
    else if st.n = 0 then (0, 0) else fpDivNat st.q st.n
  let x := fmtFP32.add v.1 eps
  let rho := sfuRsqrt x.1
  (v.1, rho.1, v.2 ||| x.2 ||| rho.2 ||| (if st.n = 0 then stEMPTY else 0))

/-- VNORM.MV issued (R198). -/
def State.mvIssue (s : State) (i : Iss) (e : Nat) (a : VArgs) : State :=
  let ty := a.ty.toNat
  let w := tyWidth ty
  let apply := a.x.getLsbD 0
  let cin := a.x.getLsbD 1
  let xs := s.fp32Inputs i e a
  let rb := s.vreg i.t e a.vb.toNat
  let eps := (s.sreg i.t i.st (bitsOf a.vc.toNat 0 5)).toNat % 2 ^ 32
  if apply then
    let rs := xs.map (fun x =>
      let d := fmtFP32.sub x.2.1 (rb.el 32 1)
      let p := fmtFP32.mul d.1 (rb.el 32 4)
      let o := fromFP32 ty p.1
      (VEl.mk x.1 o.1 (x.2.2 || rb.lanePoison 1 || rb.lanePoison 4), d.2 ||| p.2 ||| o.2))
    let els := rs.map (fun r => r.1) ++ (zeroInactive a.z w (xs.map (fun x => x.1))).map (fun k => VEl.mk k 0 false)
    s.runPlan i.t e i.st (s.pc i.t i.st)
      { srcs := [(a.va.toNat, 0), (a.vb.toNat, 0)] ++ maskSrc a.mr.toNat a.me, dsts := [(a.vd.toNat, 28)]
        kept := decide (els.length < nmax w)
        evs := (28, 3, .wbV a.vd.toNat w els) :: statusEv 28 (rs.foldl (fun f r => f ||| r.2) 0) }
  else
    let leaves := (List.range (nmax w)).map (fun k => match xs.find? (fun x => x.1 == k) with
      | some x => (MvState.mk 1 x.2.1 0, 0)
      | none => (MvState.mk 0 0 0, 0))
    let t := (mvFold (Nat.log2 (nmax w)) leaves).headD (⟨0, 0, 0⟩, 0)
    let f := if cin then mvCombine ⟨rb.el 32 0, rb.el 32 1, rb.el 32 2⟩ t.1 else (t.1, 0)
    let g := mvFinish f.1 (a.x.getLsbD 2) eps
    let st : MvState := if f.1.n = 0 then ⟨0, 0, 0⟩ else f.1
    let p := xs.any (fun x => x.2.2) || (cin && (rb.lanePoison 0 || rb.lanePoison 1 || rb.lanePoison 2))
    let els := [VEl.mk 0 st.n p, VEl.mk 1 st.m p, VEl.mk 2 st.q p, VEl.mk 3 g.1 p, VEl.mk 4 g.2.1 p] ++
      (List.range 251).map (fun k => VEl.mk (k + 5) 0 false)
    s.runPlan i.t e i.st (s.pc i.t i.st)
      { srcs := [(a.va.toNat, 0)] ++ (if cin then [(a.vb.toNat, 0)] else []) ++ maskSrc a.mr.toNat a.me
        dsts := [(a.vd.toNat, 28)], kept := false
        evs := (28, 3, .wbV a.vd.toNat 32 els) :: statusEv 28 (t.2 ||| f.2 ||| g.2.2) }

def execVnormMv (i : Iss) (a : VArgs) (s : State) : Host.Outcome State Fault Refusal :=
  .next (s.vecIssue i 0x85 (vecBits a) (fun e s => s.mvIssue i e a))

/-! ## Soft maximum -/

/-- VSMAX issued (R200, R201): z is formed; the carries are read in ac t + L − 2 (R167). -/
def State.smaxIssue (s : State) (i : Iss) (e : Nat) (a : VArgs) (pass lat : Nat) : State :=
  let ty := a.ty.toNat
  let w := tyWidth ty
  let tau := (s.sreg i.t i.st (bitsOf a.vc.toNat 0 5)).toNat % 2 ^ 32
  let xs := s.fp32Inputs i e a
  let zs := xs.map (fun x =>
    let z := if a.x.getLsbD 1 then fmtFP32.mul tau x.2.1 else (x.2.1, 0)
    (x.1, z.1, x.2.2, z.2))
  let cin := a.x.getLsbD 0
  let r : SmaxRec :=
    { pass := pass, zs := zs.map (fun z => (z.1, z.2.1, z.2.2.1)), size := nmax w, cin := cin, ty := ty, vd := a.vd.toNat
      zero := if pass = 1 then [] else zeroInactive a.z w (xs.map (fun x => x.1))
      lat := lat, issue := (s.tile i.t).ac, t2 := s.t2On i.t && ty != 4 }
  let s1 := s.incFld (F.SFU_CNT_RESULTS_VALUE i.t) xs.length
  s1.runPlan i.t e i.st (s1.pc i.t i.st)
    { srcs := [(a.va.toNat, 0)] ++ maskSrc a.mr.toNat a.me
        ++ (if pass = 2 ∨ cin = true then [(80, lat - 2), (81, lat - 2)] else [])
      dsts := if pass = 1 then [(80, lat - 1), (81, lat - 1)] else [(a.vd.toNat, lat)]
      kept := !a.z && decide (xs.length < nmax w)
      evs := (lat - 2, 2, .smax r) :: statusEv lat (zs.foldl (fun f z => f ||| z.2.2.2) 0) }

def execVsmaxP1 (i : Iss) (a : VArgs) (s : State) : Host.Outcome State Fault Refusal :=
  .next (s.vecIssue i 0x88 (vecBits a) (fun e s => s.smaxIssue i e a 1 22))

def execVsmaxP2 (i : Iss) (a : VArgs) (s : State) : Host.Outcome State Fault Refusal :=
  .next (s.vecIssue i 0x89 (vecBits a) (fun e s => s.smaxIssue i e a 2 20))

/-! ## Table-bank swap (R187) -/

/-- VSF.ARM: the arm applies as its ac ends, engine 0's before engine 1's (R187). -/
def execVsfArm (i : Iss) (a : VArgs) (s : State) : Host.Outcome State Fault Refusal :=
  .next (s.vecIssue i 0x8F (vecBits a) (fun e s =>
    let v := (s.sreg i.t i.st (bitsOf a.vc.toNat 0 5)).toNat
    let u := s.sfuu i.t
    s.setSfuu i.t { u with arms := u.arms ++ [(e, bitsOf v 0 12, bitsOf v 12 16)] }))

/-- A write of SFU_SWAP: TOKEN and N take their values, ARM arms with them, DISARM disarms (R206). -/
def State.sfuSwapWrite (s : State) (t : Nat) (v : Word) : State :=
  let tok := bitsOf v.toNat 0 12
  let n := bitsOf v.toNat 16 16
  let s1 := (s.setFld (F.SFU_SWAP_TOKEN t) tok).setFld (F.SFU_SWAP_N t) n
  let s2 := if v.getLsbD 32 then s1.sfuArm t tok n else s1
  if v.getLsbD 33 then s2.setFld (F.SFU_STATUS_ARMED t) 0 else s2

def execSfuSwapArm (m : Master) (t : Fin 144) (v : BitVec 64) (s : State) : Host.Outcome State Fault Refusal :=
  .next ((s.noteBy m (R.SFU_SWAP t)).sfuSwapWrite t (v ||| 0x100000000))

def execSfuSwapDisarm (m : Master) (t : Fin 144) (v : BitVec 64) (s : State) : Host.Outcome State Fault Refusal :=
  .next ((s.noteBy m (R.SFU_SWAP t)).sfuSwapWrite t (v ||| 0x200000000))

/-- The armed token has reached the amount: the banks exchange their roles and the swap is disarmed (R187). -/
def execSfuSwap (t : Fin 144) (ac : Nat) (s : State) : Host.Outcome State Fault Refusal :=
  let s0 := s.advance t ac
  let u := s0.sfuu t
  if s0.swapDue t then
    let b := 1 - s0.fld (F.SFU_STATUS_ACTIVE t)
    .next ((((s0.setFld (F.SFU_STATUS_ACTIVE t) b).setFld (F.SFU_STATUS_ARMED t) 0).incFld (F.SFU_CNT_SWAPS_VALUE t) 1).logTile
      t 0x0502 false [(1, b), (2, u.tok), (2, s0.fld (F.TSQ_TOKEN_COUNT t u.tok))])
  else .next s0

end Sys2Proof.Machine
end

