-- ==== Sys2Proof/Machine/Spe.lean ====
section
/-! DEFINITION. The sparse engine: dispatch checks (R211, R212), block-sparse products (R213 to R223), sparse × sparse
products and merges (R224 to R230), the harrow pass (R231 to R233), sorting (R234), poison (R235). A command's inputs are
read and its results formed at its start; its memory writes and its token come with its completion (log entry 36). -/
namespace Sys2Proof.Machine

/-! ## Posting -/

def execSpMm (i : Iss) (a : PostArgs) (s : State) : Host.Outcome State Fault Refusal :=
  .next (s.issueFenced i (.spMm i a) [a.sa.toNat] (fun s => s.postBody i (.spMm i a) a.sa .spe 3 true))

def execSpSpgemm (i : Iss) (a : PostArgs) (s : State) : Host.Outcome State Fault Refusal :=
  .next (s.issueFenced i (.spSpgemm i a) [a.sa.toNat] (fun s => s.postBody i (.spSpgemm i a) a.sa .spe 4 false))

def execSpMerge (i : Iss) (a : PostArgs) (s : State) : Host.Outcome State Fault Refusal :=
  .next (s.issueFenced i (.spMerge i a) [a.sa.toNat] (fun s => s.postBody i (.spMerge i a) a.sa .spe 2 false))

def execSpHarrow (i : Iss) (a : PostArgs) (s : State) : Host.Outcome State Fault Refusal :=
  .next (s.issueFenced i (.spHarrow i a) [a.sa.toNat] (fun s => s.postBody i (.spHarrow i a) a.sa .spe 4 true))

def execSpSort (i : Iss) (a : PostArgs) (s : State) : Host.Outcome State Fault Refusal :=
  .next (s.issueFenced i (.spSort i a) [a.sa.toNat] (fun s => s.postBody i (.spSort i a) a.sa .spe 1 false))

/-- OP and operands of a sparse command. -/
def speArgs : Instr → Option (Nat × PostArgs)
  | .spMm _ a => some (0x40, a)
  | .spSpgemm _ a => some (0x41, a)
  | .spMerge _ a => some (0x42, a)
  | .spHarrow _ a => some (0x43, a)
  | .spSort _ a => some (0x44, a)
  | _ => none

/-! ## What a command comes to -/

/-- What a sparse command does, gathered: token flags, memory writes, output packets, dropped elements (kind, index),
duplicates, rows taken as empty, truncation, spill overflow, a harrow NaN, keys loaded, status and counts. -/
structure SpeOut where
  flags     : Nat
  writes    : List (Nat × List (Byte × Bool))
  pkts      : List MxaPkt
  mxStatus  : Nat
  malformed : Nat
  oor       : List (Nat × Nat)
  dup       : Nat
  badPtr    : List Nat
  outFull   : Option Nat
  spillFull : Option Nat
  nan       : Option (Nat × Nat)
  nv        : Bool
  ovf       : Bool
  cam       : List (Nat × Nat)
  routes    : List Nat
  products  : Nat
  partials  : Nat
  passes    : Nat
  scored    : Nat
  marked    : Nat
  rows      : Nat
  loads     : Nat
  reads     : List (Nat × Nat)
  deriving DecidableEq, Repr

/-- A command that did nothing yet. -/
def SpeOut.none : SpeOut :=
  { flags := 0, writes := [], pkts := [], mxStatus := 0, malformed := 0, oor := [], dup := 0, badPtr := []
    outFull := Option.none, spillFull := Option.none, nan := Option.none, nv := false, ovf := false, cam := [], routes := []
    products := 0, partials := 0, passes := 0, scored := 0, marked := 0, rows := 0, loads := 0, reads := [] }

/-- Little-endian bytes, all with one poison mark. -/
def markBytes (n x : Nat) (p : Bool) : List (Byte × Bool) := (leBytes n x).map (fun b => (b, p))

/-- Bytes written, each with its poison (R281). What lies in the unpopulated near tier, which a spill area may, is dropped: one
unmapped write each (R271, log entry 121). -/
def State.applyWrites (s : State) (q : Req) (ws : List (Nat × List (Byte × Bool))) : State :=
  let m : ByteMap := ws.foldl (fun m w => (w.2.foldl (fun (p : ByteMap × Nat) b =>
    (if populated p.2 then (Store.erase p.1 p.2).insert p.2 b else p.1, p.2 + 1)) (m, w.1)).1) []
  ws.foldl (fun s w => match (parts 4 w.1 w.2.length).find? (fun p => !populated p.1) with
    | some p => s.unmapped q p.1 kindWrite
    | none => s) (s.storeMap q m)

/-! ## Block-sparse operands (R213 to R217) -/

/-- Descriptor 2 of SP.MM (R223). -/
structure SpmmDesc where
  dir    : Nat
  pay    : Nat
  dpitch : Nat
  omask  : Nat
  opitch : Nat
  thresh : Nat
  route  : Nat
  omaskEn : Bool
  deriving DecidableEq, Repr

def spmmDesc (c : QCmd) : SpmmDesc :=
  { dir := c.word 16, pay := c.word 17, dpitch := c.bits 18 0 32, omask := c.word 19, opitch := c.bits 20 0 32
    thresh := c.bits 20 32 16, route := c.bits 20 48 2, omaskEn := c.bits 20 50 1 == 1 }

/-- A directory entry: kind, NNZ, offset, its address. -/
def State.dirEntry (s : State) (e : SpmmDesc) (b j : Nat) : Nat × Nat × Nat × Nat :=
  let a := e.dir + b * e.dpitch + 16 * j
  let x := s.num a 16
  (bitsOf x 0 2, bitsOf x 8 15, bitsOf x 32 32, a)

/-- A decoded block: 0 skipped, 1 array, 2 grid, 3 matching path; its directory entry poisoned; K_phys rows of 32 patterns with
poison; columns poisoned as a whole; malformed groups; dropped index words; duplicates; stored elements; the areas its
directory entry names; the memory read. -/
structure SpBlk where
  route : Nat
  bad   : Bool
  els   : List (List (Nat × Bool))
  cols  : List Bool
  malformed : Nat
  oor   : List Nat
  dup   : Nat
  stored : Nat
  areas : List (Nat × Nat)
  reads : List (Nat × Nat)
  deriving DecidableEq, Repr

/-- A block that is skipped. -/
def SpBlk.skip (ea : Nat) (bad : Bool) : SpBlk :=
  { route := 0, bad := bad, els := [], cols := List.replicate 32 bad, malformed := 0, oor := [], dup := 0, stored := 0
    areas := [(ea, 16)], reads := [(ea, 16)] }

/-- Packed element `i` of format `f` at an address: pattern and poison. -/
def State.packed (s : State) (f a i : Nat) : Nat × Bool :=
  let u := mxUnit f
  (s.unitEls f (a + i / u.2 * u.1)).getD (i % u.2) (0, false)

/-- Bytes of `n` packed elements. -/
def packedBytes (f n : Nat) : Nat := (n + (mxUnit f).2 - 1) / (mxUnit f).2 * (mxUnit f).1

/-- K-block `b` of N-chunk `j` (R213 to R218). A poisoned directory entry's block adds nothing, and poisons every column
(R235). Values at k from K on are padding, as an MMA's are: not read (R219). -/
def State.spBlock (s : State) (t : Nat) (d : MxDesc) (e : SpmmDesc) (b j : Nat) : SpBlk :=
  let kp := d.kp
  let dep := kp / 128
  let (kind, nnz, off, ea) := s.dirEntry e b j
  let base := e.pay + off
  let zeroCols := List.replicate 32 false
  -- rows of the block inside the operand
  let inK := min kp (d.k - b * kp)
  let rowB := packedBytes d.fb 32
  if s.poisoned ea 16 then SpBlk.skip ea true
  else match kind with
    | 0 => SpBlk.skip ea false
    | 1 =>
      { route := 1, bad := false
        els := (List.range inK).map (fun k => (List.range 32).map (fun n => s.packed d.fb base (32 * k + n)))
        cols := zeroCols, malformed := 0, oor := [], dup := 0, stored := 32 * kp
        areas := [(ea, 16), (base, rowB * kp)], reads := [(ea, 16), (base, rowB * inK)] }
    | 2 =>
      let vb := rowB * (kp / 2)
      let md (g n : Nat) : Nat × Nat × Bool :=
        let a := base + vb + 32 * g + n
        let x := (s.byte a).toNat
        (x % 16, x / 16, s.poisoned a 1)
      let good (m : Nat × Nat × Bool) : Bool := decide (m.1 ≤ 3) && decide (m.2.1 ≤ 3) && m.1 != m.2.1
      let els := (List.range inK).map (fun k => (List.range 32).map (fun n =>
        let m := md (k / 4) n
        if m.2.2 || !good m then (0, false)
        else if m.1 = k % 4 then s.packed d.fb base (32 * (2 * (k / 4)) + n)
        else if m.2.1 = k % 4 then s.packed d.fb base (32 * (2 * (k / 4) + 1) + n)
        else (0, false)))
      let groups := (List.range (kp / 4)).flatMap (fun g => (List.range 32).map (fun n => (n, md g n)))
      { route := 2, bad := false, els := els
        cols := (List.range 32).map (fun n => groups.any (fun x => x.1 == n && x.2.2.2))
        malformed := (groups.filter (fun x => !x.2.2.2 && !good x.2)).length, oor := [], dup := 0, stored := 16 * kp
        areas := [(ea, 16), (base, vb + 32 * (kp / 4))]
        reads := [(ea, 16), (base, rowB * (2 * ((inK + 3) / 4))), (base + vb, 32 * (kp / 4))] }
    | _ =>
      let vbase := base + (2 * nnz + 7) / 8 * 8
      let start : Store (Nat × Bool) × List Nat × Nat × Bool := ([], [], 0, false)
      let r := (List.range nnz).foldl (fun (acc : Store (Nat × Bool) × List Nat × Nat × Bool) i =>
        let w := s.num (base + 2 * i) 2
        let k := bitsOf w 0 9
        let n := bitsOf w 10 5
        let p := acc.2.2.2 || s.poisoned (base + 2 * i) 2
        if kp ≤ k ∨ d.k ≤ b * kp + k ∨ d.n ≤ 32 * j + n then (acc.1, acc.2.1 ++ [w], acc.2.2.1, p)
        else
          let key := 32 * k + n
          let dup := acc.1.any (fun x => x.1 == key)
          ((Store.erase acc.1 key).insert key (s.packed d.fb vbase i), acc.2.1, acc.2.2.1 + b2n dup, p)) start
      let th := (if e.thresh = 0 then s.fld (F.SPE_CTL_THRESH t) else e.thresh) * dep
      let toArray := e.route == 2 || (e.route == 0 && decide (th ≤ nnz))
      let area := [(ea, 16), (base, vbase - base + packedBytes d.fb nnz)]
      { route := if toArray then 1 else 3, bad := false
        els := (List.range inK).map (fun k => (List.range 32).map (fun n =>
          Store.get (fun _ => (0, false)) r.1 (32 * k + n)))
        cols := List.replicate 32 r.2.2.2, malformed := 0, oor := r.2.1, dup := r.2.2.1, stored := r.1.length
        areas := area, reads := area }

/-! ## SP.MM (R218 to R223) -/

/-- The output-mask bit of block (r, j): set, and poisoned (R221, R235). -/
def State.omaskBit (s : State) (e : SpmmDesc) (r j : Nat) : Bool × Bool :=
  if e.omaskEn then
    let a := e.omask + r * e.opitch + j / 8
    let p := s.poisoned a 1
    (p || bitsOf (s.byte a).toNat (j % 8) 1 == 1, p)
  else (true, false)

/-- SP.MM run: what it comes to and its accumulators. Of A and its scales it reads what some N-chunk streams: rows its mask
keeps, in K ranges whose block is not ABSENT (R219, R221). -/
def State.spmmRun (s : State) (t : Nat) (d : MxDesc) (e : SpmmDesc) (badDesc : Bool) : SpeOut × List (List AccEl) :=
  let kp := d.kp
  let dep := kp / 128
  let nK := (d.k + kp - 1) / kp
  let nN := (d.n + 31) / 32
  let ael := s.operand d.p1 d.fa
  let arows := groupsOf d.k ael.length ael
  let asc := if d.mxa then s.scaleRows d.sa d.m d.pa d.blocks else []
  let bsc := if d.mxb then s.scaleRows d.sb d.blocks d.pb d.n else []
  let blks := (List.range nN).map (fun j => (List.range nK).map (fun b => s.spBlock t d e b j))
  let live (j : Nat) (k : Nat) : Bool := ((((blks.getD j []).map (fun x => x.route)).getD (k / kp) 0) != 0)
  -- row m is streamed through the K range of element k for some N-chunk
  let used (m k : Nat) : Bool := (List.range nN).any (fun j => live j k && (s.omaskBit e (m / 32) j).1)
  let entry (m n : Nat) : AccEl × Nat :=
    let j := n / 32
    let o := s.omaskBit e (m / 32) j
    let dirP := (blks.getD j []).any (fun x => x.bad)
    if !o.1 then (⟨0, 0, badDesc || dirP⟩, 0)
    else
      let row := arows.getD m []
      let cs := (blks.getD j []).zipIdx.filterMap (fun (x : SpBlk × Nat) =>
        if x.1.route = 0 then none
        else some ((((row.drop (x.2 * kp)).take kp).zip x.1.els).zipIdx.map (fun q =>
          let kb := (x.2 * kp + q.2) / 32
          ((q.1.1.1, (scaleAt asc m kb).1), ((q.1.2.getD (n % 32) (0, false)).1, (scaleAt bsc kb n).1)))))
      let r : AccEl × Nat := cs.foldl (fun a ch =>
        let y := match d.path with
          | some (true, dp) => fpEntry 0 d.fa d.fb dp kp a.1 ch
          | _ => intEntry d.fa d.fb kp a.1 (ch.map (fun (x : (Nat × Nat) × (Nat × Nat)) => (x.1.1, x.2.1)))
        (y.1, a.2 ||| y.2)) (⟨0, 0, false⟩, 0)
      let rowP := (row.zipIdx.any (fun (x : (Nat × Bool) × Nat) => x.1.2 && live j x.2))
        || ((asc.getD m []).zipIdx.any (fun x => x.1.2 && live j (32 * x.2)))
      let colP := (blks.getD j []).any (fun x => x.cols.getD (n % 32) false
          || x.els.any (fun r => (r.getD (n % 32) (0, false)).2))
        || bsc.zipIdx.any (fun x => (x.1.getD n (0, false)).2 && live j (32 * x.2))
      ({ r.1 with p := badDesc || o.2 || rowP || colP }, r.2)
  let rows := (List.range d.m).map (fun m => (List.range d.n).map (fun n => entry m n))
  let acc := rows.map (fun r => r.map (fun x => x.1))
  let fl := rows.foldl (fun f r => r.foldl (fun f x => f ||| x.2) f) 0
  let nanA := asc.zipIdx.any (fun r => r.1.zipIdx.any (fun x => x.1.1 == 255 && used r.2 (32 * x.2)))
  let nanB := bsc.zipIdx.any (fun r => r.1.zipIdx.any (fun x => x.1.1 == 255 && live (x.2 / 32) (32 * r.2)))
  let all := blks.flatten
  -- rows streamed for N-chunk j within an M-chunk (R222)
  let streamed (j r0 n : Nat) : Nat := ((List.range n).filter (fun r => (s.omaskBit e ((r0 + r) / 32) j).1)).length
  let port : Nat × Nat := (d.units.map (fun u =>
    let mm := streamed u.1 u.2.1 u.2.2
    let rs := (blks.getD u.1 []).map (fun x => x.route)
    -- S24 blocks share passes in pairs (R220)
    let passes := (rs.foldl (fun (p : Nat × Bool) r =>
      if r = 2 then (if p.2 then (p.1, false) else (p.1 + 1, true)) else if r = 1 then (p.1 + 1, false) else (p.1, false))
      (0, false)).1
    (passes * mm, passes * 128))).foldl (fun x y => (x.1 + y.1, x.2 + y.2)) (0, 0)
  let prods := (d.units.map (fun u =>
    let mm := streamed u.1 u.2.1 u.2.2
    ((blks.getD u.1 []).map (fun x => if x.route = 2 then mm * 2048 * dep else if x.route = 3 then mm * x.stored else 0)).sum)).sum
  let ua := mxUnit d.fa
  let blkIdx := List.range d.blocks
  let out := { SpeOut.none with
    mxStatus := fl ||| (if nanA || nanB then mxMXNAN else 0)
    malformed := (all.map (fun x => x.malformed)).sum
    oor := all.flatMap (fun x => x.oor.map (fun w => (1, w)))
    dup := (all.map (fun x => x.dup)).sum
    routes := all.map (fun x => x.route)
    products := prods, rows := port.1, loads := port.2
    pkts := s.mxPackets d acc
    flags := if badDesc || acc.any (fun r => r.any (fun x => x.p)) then flagPOISON else 0
    reads := d.p1.addrs.zipIdx.filterMap (fun x =>
        if used (x.2 * ua.2 / d.k) (x.2 * ua.2 % d.k) then some (x.1, ua.1) else none) ++
      (if d.mxa then (List.range d.m).flatMap (fun m => blkIdx.filterMap (fun b =>
        if used m (32 * b) then some (d.sa + m * d.pa + b, 1) else none)) else []) ++
      (if d.mxb then blkIdx.flatMap (fun b => (List.range nN).filterMap (fun j =>
        if live j (32 * b) then some (d.sb + b * d.pb + 32 * j, min 32 (d.n - 32 * j)) else none)) else []) ++
      (if e.omaskEn then (List.range ((d.m + 31) / 32)).map (fun r => (e.omask + r * e.opitch, (nN + 7) / 8)) else []) ++
      all.flatMap (fun x => x.reads) }
  (out, acc)

/-! ## Reason checks -/

/-- An area of `n` bytes lies in the tile's own window. -/
def areaIn (t a n : Nat) : Bool := n == 0 || spanIn (some ((a : Int), ((a + n - 1 : Nat) : Int))) 1 (tileAddr t 0) 0x600000

/-- A spill area (R224): in the tile's window, or in the near-tier region. -/
def spillIn (t a n : Nat) (near : Bool) : Bool := if near then decide (a + n ≤ 0x010000000000) else areaIn t a n

/-- The matrix command's view of SP.MM and SP.HARROW: an MMA that emits; SP.MM's B is no pattern. -/
def spMxDesc (op : Nat) (a : PostArgs) (c : QCmd) : MxDesc :=
  let d := mxDesc 0 { a with x := 0 } c
  if op = 0x40 then { d with emit := true, use := false }
  else { d with emit := true, out := 0, rnd := 0 }

/-- SP.MM has A's pattern alone. -/
def spmmPats (d : MxDesc) : List (Nat × Pat × Nat) := [(0, d.p1, d.fa)]

/-- The codes of the failing checks, lowest first. Every check is made of a zero-work command too (R80, R212). -/
def failing (cs : List (Nat × Bool)) : List Nat := cs.filterMap (fun c => if c.2 then none else some c.1)

/-- Zero-work of SP.MM and SP.HARROW (R212). -/
def spZero (d : MxDesc) (pats : List (Nat × Pat × Nat)) : Bool :=
  d.m == 0 || d.n == 0 || d.k == 0 || pats.any (fun p => p.2.1.total == 0)

/-- The reasons against SP.MM (R211). -/
def State.spmmReasons (s : State) (t : Nat) (d : MxDesc) (e : SpmmDesc) : List Nat :=
  let nK := (d.k + d.kp - 1) / d.kp
  let nN := (d.n + 31) / 32
  let g := (mxUnit d.fa).2
  let dirs := (List.range nK).all (fun b => areaIn t (e.dir + b * e.dpitch) (16 * nN))
  let pay := !dirs || (List.range nK).all (fun b => (List.range nN).all (fun j =>
    (s.spBlock t d e b j).areas.all (fun x => areaIn t x.1 x.2)))
  failing
    [ (1, d.fmtOk)
    , (2, d.p1.total * g == d.m * d.k && d.k % g == 0)
    , (3, spanIn d.p1.span (mxUnit d.fa).1 (tileAddr t 0) 0x600000 && dirs && pay
        && (!d.mxa || d.m == 0 || d.blocks == 0 || areaIn t d.sa ((d.m - 1) * d.pa + d.blocks))
        && (!d.mxb || d.n == 0 || d.blocks == 0 || areaIn t d.sb ((d.blocks - 1) * d.pb + d.n))
        && (!e.omaskEn || d.m == 0 || nN == 0 || areaIn t e.omask (((d.m + 31) / 32 - 1) * e.opitch + (nN + 7) / 8)))
    , (4, d.p1.aligned (mxUnit d.fa).1 && e.dir % 16 == 0)
    , (5, (d.p1.lv.drop 4).all (fun l => decide (l.1 ≤ 1)))
    , (6, e.route != 3)
    , (7, !(d.rnd == 3 || (d.rnd == 2 && d.out == 2)))
    , (8, decide (d.mch ≤ 2048) && (!e.omaskEn || d.mch % 32 == 0)) ]

/-! ## SP.HARROW (R231 to R233) -/

/-- Descriptor 3 of SP.HARROW. -/
structure HarrowDesc where
  mask  : Nat
  pitch : Nat
  cnt   : Nat
  thr   : Nat
  mode  : Nat
  top   : Nat
  deriving DecidableEq, Repr

def harrowDesc (c : QCmd) : HarrowDesc :=
  { mask := c.word 24, pitch := c.bits 25 0 32, cnt := c.word 26, thr := c.bits 27 0 32, mode := c.bits 27 32 2
    top := c.bits 27 34 16 }

/-- The threshold is one R232 allows. -/
def HarrowDesc.thrOk (h : HarrowDesc) : Bool :=
  let one := 0x3F800000
  match h.mode with
  | 0 => h.thr == 2 ^ 31 || decide (h.thr ≤ 0x7F800000)
  | 1 => decide (0 < h.thr) && decide (h.thr ≤ one)
  | 2 => true
  | _ => false

def State.harrowReasons (_s : State) (t : Nat) (d : MxDesc) (h : HarrowDesc) : List Nat :=
  let nN := (d.n + 31) / 32
  let nR := (d.m + 31) / 32
  failing
    [ (1, d.fa == 6 && d.fb == 6)
    , (2, d.shapeOk)
    , (3, d.rangeOk t && areaIn t h.cnt (2 * nR)
        && (nR == 0 || nN == 0 || areaIn t h.mask ((nR - 1) * h.pitch + (nN + 7) / 8)))
    , (4, d.pats.all (fun p => p.2.1.aligned (mxUnit p.2.2).1))
    , (5, d.pats.all (fun p => (p.2.1.lv.drop 4).all (fun l => decide (l.1 ≤ 1))))
    , (6, h.thrOk)
    , (8, decide (d.mch ≤ 2048) && d.mch % 32 == 0) ]

/-- The score of an output block: none for a NaN or a poisoned bank value (R231, R235). -/
def blockScore (acc : List (List AccEl)) (r j : Nat) : Option Nat :=
  let els := ((acc.drop (32 * r)).take 32).flatMap (fun row => (row.drop (32 * j)).take 32)
  if els.any (fun a => a.p || (fmtFP32.decode a.x).isNan) then none
  else some (els.foldl (fun m a => max m (fpAbs a.x)) 0)

/-- The blocks of a row group that are marked (R232). FP32 patterns of magnitudes compare as numbers do. -/
def harrowMarks (h : HarrowDesc) (ss : List (Option Nat)) : List Bool :=
  let vals := ss.filterMap id
  let smax := vals.foldl max 0
  match h.mode with
  | 0 =>
    let thr := if h.thr = 2 ^ 31 then 0 else h.thr
    ss.map (fun x => match x with
      | some v => decide (thr ≤ v)
      | none => true)
  | 1 =>
    let bound := (fmtFP32.mul h.thr smax).1
    ss.map (fun x => match x with
      | some v => decide (0 < smax) && decide (bound ≤ v)
      | none => true)
  | _ => ss.zipIdx.map (fun x => match x.1 with
      | some v =>
        -- blocks ahead of this one: larger, or equal at a lower j
        let ahead := (ss.zipIdx.filter (fun y => match y.1 with
          | some u => decide (v < u) || (u == v && decide (y.2 < x.2))
          | none => false)).length
        decide (ahead < h.top)
      | none => true)

/-- A bit string, bit 0 first, as bytes. -/
def bitBytes (bs : List Bool) : List Nat :=
  (List.range ((bs.length + 7) / 8)).map (fun i =>
    (List.range 8).foldl (fun v k => v + (if bs.getD (8 * i + k) false then 2 ^ k else 0)) 0)

/-- SP.HARROW run: what it comes to and its accumulators. Mask bits and counts are clean of poisoned bank values (R235); under a
poisoned descriptor word every output is poisoned (R82). -/
def State.harrowRun (s : State) (d : MxDesc) (h : HarrowDesc) (badDesc : Bool) : SpeOut × List (List AccEl) :=
  let p := s.mxProduct d (s.mxStationary d false) none badDesc
  let nN := (d.n + 31) / 32
  let nR := (d.m + 31) / 32
  let groups := (List.range nR).map (fun r =>
    let ss := (List.range nN).map (fun j => blockScore p.1 r j)
    (r, ss, harrowMarks h ss))
  let nans := groups.flatMap (fun g => g.2.1.zipIdx.filterMap (fun x => if x.1.isNone then some (g.1, x.2) else none))
  let pa := d.portAc
  ({ SpeOut.none with
      mxStatus := p.2.1
      nan := nans.head?
      writes := groups.flatMap (fun g =>
        [(h.mask + g.1 * h.pitch, (bitBytes g.2.2).flatMap (fun b => markBytes 1 b badDesc)),
          (h.cnt + 2 * g.1, markBytes 2 (g.2.2.filter id).length badDesc)])
      scored := nR * nN
      marked := (groups.map (fun g => (g.2.2.filter id).length)).sum
      rows := pa.1, loads := pa.2
      flags := if badDesc || p.1.any (fun r => r.any (fun x => x.p)) then flagPOISON else 0
      reads := d.reads }, p.1)

/-! ## Sorting -/

/-- Stable insertion by a strict order. -/
def insertStable {α : Type} (lt : α → α → Bool) (x : α) : List α → List α
  | [] => [x]
  | y :: ys => if lt x y then x :: y :: ys else y :: insertStable lt x ys

/-- A stable sort. -/
def sortStable {α : Type} (lt : α → α → Bool) (xs : List α) : List α := xs.foldl (fun r x => insertStable lt x r) []

/-- Merge passes of a number of partials, and the spill bytes each partial needs (R227). -/
def mergePasses (p : Nat) : Nat × Nat := if p ≤ 16384 then (1, 0) else if p ≤ 4194304 then (2, 16) else (3, 32)

/-- The spill area as a command of more than one pass leaves it: free bytes. -/
def spillWrites (base fresh n : Nat) : List (Nat × List (Byte × Bool)) :=
  if n = 0 then [] else [(base, (List.range n).map (fun k => (Config.spillByte fresh k, false)))]

/-! ## SP.SPGEMM (R224 to R229) -/

/-- A 32-bit word of memory and whether it is poisoned. -/
def State.u32 (s : State) (a : Nat) : Nat × Bool := (s.num a 4, s.poisoned a 4)

/-- Bytes of an SPGEMM value format. -/
def spBytes (f : Nat) : Nat := if f = 9 then 4 else 2

/-- A value as FP32 with its poison. -/
def State.spValue (s : State) (f a : Nat) : Nat × Bool :=
  (fmtFP32.encode (mxValue f (s.num a (spBytes f))), s.poisoned a (spBytes f))

/-- Descriptors of SP.SPGEMM (R224). -/
structure SpgDesc where
  m : Nat
  n : Nat
  k : Nat
  fa : Nat
  fb : Nat
  out : Nat
  rangeEn : Bool
  first : Nat
  last : Nat
  nzLo : Nat
  nzHi : Nat
  spill : Nat
  spillN : Nat
  near : Bool
  aPtr : Nat
  aCol : Nat
  aVal : Nat
  bKeys : Nat
  bPtr : Nat
  bCol : Nat
  bVal : Nat
  nb : Nat
  hdr : Nat
  cPtr : Nat
  cCol : Nat
  cVal : Nat
  nnzMax : Nat
  deriving DecidableEq, Repr

def spgDesc (c : QCmd) : SpgDesc :=
  { m := c.bits 0 0 32, n := c.bits 0 32 32, k := c.bits 1 0 32, fa := c.bits 1 32 4, fb := c.bits 1 36 4
    out := c.bits 1 40 3, rangeEn := c.bits 1 43 1 == 1, first := c.bits 2 0 32, last := c.bits 2 32 32
    nzLo := c.bits 3 0 32, nzHi := c.bits 3 32 32, spill := c.word 4, spillN := c.bits 5 0 48, near := c.bits 5 63 1 == 1
    aPtr := c.word 8, aCol := c.word 9, aVal := c.word 10
    bKeys := c.word 16, bPtr := c.word 17, bCol := c.word 18, bVal := c.word 19, nb := c.bits 20 0 32
    hdr := c.word 24, cPtr := c.word 25, cCol := c.word 26, cVal := c.word 27, nnzMax := c.bits 28 0 32 }

/-- Row pointer `i` of A (i counted from ROW_FIRST). -/
def SpgDesc.ptrA (d : SpgDesc) (s : State) (i : Nat) : Nat × Bool := s.u32 (d.aPtr + 4 * (i - d.first))

/-- The positions a command covers: NZ_LO and NZ_HI (R224). -/
def SpgDesc.range (d : SpgDesc) (s : State) : Nat × Nat :=
  if d.rangeEn then (d.nzLo, d.nzHi) else ((d.ptrA s d.first).1, (d.ptrA s (d.last + 1)).1)

/-- SP.SPGEMM is zero-work (R212). -/
def SpgDesc.zero (d : SpgDesc) : Bool :=
  d.m == 0 || d.n == 0 || d.k == 0 || (d.rangeEn && decide (d.nzHi ≤ d.nzLo))

/-- Row pointers from which a row is taken: the rows' spans of positions, first and end; a row whose pointers fall is empty
(R225). -/
def State.rowSpans (s : State) (ptr n : Nat) : List (Nat × Nat) :=
  (List.range n).filterMap (fun b =>
    let p := (s.u32 (ptr + 4 * b)).1
    let q := (s.u32 (ptr + 4 * (b + 1))).1
    if p < q then some (p, q) else none)

/-- The spans' elements of `w` bytes from a base: areas of memory. -/
def spanAreas (base w : Nat) (rs : List (Nat × Nat)) : List (Nat × Nat) := rs.map (fun r => (base + w * r.1, w * (r.2 - r.1)))

/-- The rows of B, as positions of COL and VAL. -/
def SpgDesc.spansB (d : SpgDesc) (s : State) : List (Nat × Nat) := s.rowSpans d.bPtr d.nb

/-- The output areas of C for `rows` rows (R228). -/
def outAreas (t hdr ptr col val rows nnz vb : Nat) : Bool :=
  areaIn t hdr 16 && areaIn t ptr (4 * (rows + 1)) && areaIn t col (4 * nnz) && areaIn t val (vb * nnz)

/-- Bytes of an output value: FP32 or BF16. -/
def outVal (o : Nat) : Nat := if o = 0 then 4 else 2

def State.spgReasons (s : State) (t : Nat) (d : SpgDesc) : List Nat :=
  let rows := d.last + 1 - d.first
  let fmt := [0, 9].contains d.fa && [0, 9].contains d.fb && decide (d.out ≤ 1)
  let ptrs := areaIn t d.aPtr (4 * (rows + 1)) && areaIn t d.bPtr (4 * (d.nb + 1)) && areaIn t d.bKeys (4 * d.nb)
  let body := !ptrs || (
    let r := d.range s
    areaIn t d.aCol (4 * (r.2 - r.1)) && areaIn t d.aVal (spBytes d.fa * (r.2 - r.1)) &&
      (spanAreas d.bCol 4 (d.spansB s) ++ spanAreas d.bVal (spBytes d.fb) (d.spansB s)).all (fun x => areaIn t x.1 x.2))
  failing
    [ (1, fmt)
    , (2, decide (d.first ≤ d.last) && decide (d.last < d.m))
    , (3, ptrs && body && outAreas t d.hdr d.cPtr d.cCol d.cVal rows d.nnzMax (outVal d.out)
        && (d.spillN == 0 || spillIn t d.spill d.spillN d.near))
    , (4, [d.aPtr, d.aCol, d.bKeys, d.bPtr, d.bCol, d.cPtr, d.cCol].all (fun a => a % 4 == 0)) ]

/-- A partial product: column, k, segment, B's position, value and poison (R226). -/
structure Partial where
  j : Nat
  k : Nat
  seg : Nat
  pos : Nat
  v : Nat
  p : Bool
  deriving DecidableEq, Repr

/-- The merge order within a row (R227). -/
def Partial.lt (a b : Partial) : Bool :=
  a.j < b.j || (a.j == b.j && (a.k < b.k || (a.k == b.k && (a.seg < b.seg || (a.seg == b.seg && a.pos < b.pos)))))

/-- Runs of equal column summed as FP32 chains from +0.0: column, sum, poison; and the conditions met. -/
def sumRuns : List (Nat × Nat × Bool) → List (Nat × Nat × Bool) × Nat
  | xs => xs.foldl (fun (acc : List (Nat × Nat × Bool) × Nat) x =>
      match acc.1 with
      | (j, v, p) :: rest =>
        if j = x.1 then
          let r := fmtFP32.add v x.2.1
          ((j, r.1, p || x.2.2) :: rest, acc.2 ||| r.2)
        else
          let r := fmtFP32.add 0 x.2.1
          ((x.1, r.1, x.2.2) :: acc.1, acc.2 ||| r.2)
      | [] =>
        let r := fmtFP32.add 0 x.2.1
        ([(x.1, r.1, x.2.2)], acc.2 ||| r.2)) ([], 0) |> fun r => (r.1.reverse, r.2)

/-- Rows of an output cut at NNZ_MAX: the rows that fit completely (R228). -/
def fitRows (limit : Nat) : Nat → List (List (Nat × Nat × Bool)) → List (List (Nat × Nat × Bool))
  | _, [] => []
  | used, r :: rs => if used + r.length ≤ limit then r :: fitRows limit (used + r.length) rs else []

/-- The writes of an output in CSR form (R228): pointers, columns, values, header. `flags` are the header's bits 96 up. -/
def csrWrites (hdr ptr col val out first : Nat) (rows : List (List (Nat × Nat × Bool))) (flags : Nat) (bad : Bool) :
    List (Nat × List (Byte × Bool)) × Bool :=
  let ents := rows.flatten
  let ptrs := rows.foldl (fun (l : List Nat) r => l ++ [l.getLastD 0 + r.length]) [0]
  let cv := ents.map (fun e => if out = 0 then (e.2.1, 0) else
    let c := cvtFp fmtBF16 false false false (fmtFP32.decode e.2.1)
    (c.bits, c.fl))
  let vb := outVal out
  ([(ptr, ptrs.flatMap (fun p => markBytes 4 p bad)),
    (col, ents.flatMap (fun e => markBytes 4 e.1 (e.2.2 || bad))),
    (val, (ents.zip cv).flatMap (fun e => markBytes vb e.2.1 (e.1.2.2 || bad))),
    (hdr, markBytes 4 first bad ++ markBytes 4 ((first + rows.length + 2 ^ 32 - 1) % 2 ^ 32) bad ++
      markBytes 4 ents.length bad ++ markBytes 4 flags bad)],
    cv.any (fun c => c.2 &&& stOF != 0))

/-- SP.SPGEMM run. -/
def State.spgRun (s : State) (fresh : Nat) (d : SpgDesc) (badDesc : Bool) : SpeOut :=
  let (lo, hi) := d.range s
  let rowsN := d.last + 1 - d.first
  -- B's keys by segment of 4,096 positions: (segment, position, key, its pointers)
  let keys := (List.range d.nb).map (fun b => (b / 4096, b, s.u32 (d.bKeys + 4 * b)))
  let inK := keys.filter (fun x => decide (x.2.2.1 < d.k))
  let loaded := inK.foldl (fun (acc : List (Nat × Nat × Nat × Bool) × Nat) x =>
    if acc.1.any (fun y => y.1 == x.1 && y.2.2.1 == x.2.2.1) then (acc.1, acc.2 + 1) else (acc.1 ++ [x], acc.2)) ([], 0)
  let bRow (b : Nat) : Nat × Nat × Bool :=
    let p := s.u32 (d.bPtr + 4 * b)
    let q := s.u32 (d.bPtr + 4 * (b + 1))
    (p.1, q.1, p.2 || q.2)
  let badB := (keys.filter (fun x => decide ((bRow x.2.1).2.1 < (bRow x.2.1).1))).map (fun x => x.2.2.1)
  let rows := (List.range rowsN).map (fun r =>
    let i := d.first + r
    let p := d.ptrA s i
    let q := d.ptrA s (i + 1)
    let bad := decide (q.1 < p.1)
    let a0 := max p.1 lo
    let a1 := if bad then a0 else min q.1 hi
    let els := (List.range (a1 - a0)).map (fun x =>
      let pos := a0 + x - lo
      (s.u32 (d.aCol + 4 * pos), s.spValue d.fa (d.aVal + spBytes d.fa * pos)))
    (i, bad, p.2 || q.2, els))
  let hits := rows.map (fun r => (r.1, r.2.2.2.flatMap (fun el =>
    if d.k ≤ el.1.1 then []
    else (loaded.1.filter (fun x => x.2.2.1 == el.1.1)).flatMap (fun x =>
      let br := bRow x.2.1
      (List.range (br.2.1 - br.1)).map (fun y =>
        let q := br.1 + y
        let c := s.u32 (d.bCol + 4 * q)
        let v := s.spValue d.fb (d.bVal + spBytes d.fb * q)
        let m := fmtFP32.mul el.2.1 v.1
        (c.1, Partial.mk c.1 el.1.1 x.1 q m.1
          (badDesc || r.2.2.1 || el.1.2 || el.2.2 || x.2.2.2 || br.2.2 || c.2 || v.2), m.2))))))
  let dropped := rows.flatMap (fun r => r.2.2.2.filterMap (fun (el : (Nat × Bool) × (Nat × Bool)) => if d.k ≤ el.1.1 then some (2, el.1.1) else none)) ++
    keys.filterMap (fun x => if d.k ≤ x.2.2.1 then some (3, x.2.2.1) else none) ++
    (d.spansB s).flatMap (fun r => (List.range (r.2 - r.1)).filterMap (fun y =>
      let c := (s.u32 (d.bCol + 4 * (r.1 + y))).1
      if d.n ≤ c then some (4, c) else none))
  let kept := hits.map (fun h => (h.1, h.2.filter (fun x => decide (x.1 < d.n))))
  let count := (kept.map (fun h => h.2.length)).sum
  let pass := mergePasses count
  let sums := kept.map (fun h =>
    let ps := sortStable Partial.lt (h.2.map (fun x => x.2.1))
    sumRuns (ps.map (fun p => (p.j, p.v, p.p))))
  let fl := kept.foldl (fun f h => h.2.foldl (fun f x => f ||| x.2.2) f) 0 ||| sums.foldl (fun f x => f ||| x.2) 0
  let p0 := (d.ptrA s d.first).1
  let pN := (d.ptrA s (d.last + 1)).1
  let part := (if d.rangeEn && decide (p0 < d.nzLo) then 1 else 0) + (if d.rangeEn && decide (d.nzHi < pN) then 2 else 0)
  let reads := [(d.aPtr, 4 * (rowsN + 1)), (d.aCol, 4 * (hi - lo)), (d.aVal, spBytes d.fa * (hi - lo)), (d.bKeys, 4 * d.nb),
    (d.bPtr, 4 * (d.nb + 1))] ++ spanAreas d.bCol 4 (d.spansB s) ++ spanAreas d.bVal (spBytes d.fb) (d.spansB s)
  let poisonIn := badDesc || reads.any (fun r => s.poisoned r.1 r.2)
  let spilled := decide (d.spillN < pass.2 * count)
  let base := { SpeOut.none with
    oor := dropped, dup := loaded.2, badPtr := rows.filterMap (fun (r : Nat × Bool × Bool × List ((Nat × Bool) × (Nat × Bool))) =>
      if r.2.1 then some r.1 else none) ++ badB
    cam := loaded.1.map (fun (x : Nat × Nat × Nat × Bool) => (x.2.1 % 4096, x.2.2.1))
    products := count, partials := count, passes := pass.1, reads := reads
    flags := if poisonIn then flagPOISON else 0 }
  if spilled then
    { base with
      spillFull := some (d.spillN / pass.2)
      flags := base.flags ||| flagERROR
      writes := spillWrites d.spill fresh d.spillN ++
        [(d.hdr, markBytes 4 d.first badDesc ++ markBytes 4 d.last badDesc ++ markBytes 4 0 badDesc
          ++ markBytes 4 (part + 4 + (if poisonIn then 8 else 0)) badDesc)] }
  else
    let all := sums.map (fun x => x.1)
    let fit := fitRows d.nnzMax 0 all
    let full := decide (fit.length < all.length)
    let w := csrWrites d.hdr d.cPtr d.cCol d.cVal d.out d.first fit
      (part + (if full then 4 else 0) + (if poisonIn then 8 else 0)) badDesc
    { base with
      nv := fl &&& stNV != 0, ovf := fl &&& stOF != 0 || w.2
      outFull := if full then some ((d.first + fit.length + 2 ^ 32 - 1) % 2 ^ 32) else none
      flags := base.flags ||| (if full then flagERROR else 0)
      writes := spillWrites d.spill fresh (pass.2 * count) ++ w.1 }

/-! ## SP.MERGE (R230) -/

/-- A fragment record: ROWPTR, COL, VAL, FIRST_ROW, ROWS. -/
structure Frag where
  ptr : Nat
  col : Nat
  val : Nat
  first : Nat
  rows : Nat
  deriving DecidableEq, Repr

def State.frag (s : State) (base f : Nat) : Frag :=
  let a := base + 32 * f
  { ptr := s.num a 8, col := s.num (a + 8) 8, val := s.num (a + 16) 8, first := s.num (a + 24) 4, rows := s.num (a + 28) 4 }

/-- The areas of a fragment's entries, its values of `vb` bytes each. -/
def State.fragAreas (s : State) (vb : Nat) (f : Frag) : List (Nat × Nat) :=
  let rs := s.rowSpans f.ptr f.rows
  spanAreas f.col 4 rs ++ spanAreas f.val vb rs

/-- The rows an output covers: from the lowest first row through the highest last row. -/
def fragSpan (fs : List Frag) : Nat × Nat :=
  let used := fs.filter (fun f => 0 < f.rows)
  match used with
  | [] => ((fs.head?.map (fun f => f.first)).getD 0, 0)
  | f :: _ =>
    let lo := used.foldl (fun m g => min m g.first) f.first
    (lo, used.foldl (fun m g => max m (g.first + g.rows)) 0 - lo)

def State.mergeReasons (s : State) (t : Nat) (c : QCmd) : List Nat :=
  let nf := c.bits 0 0 9
  let out := c.bits 0 9 3
  let base := c.word 1
  let table := areaIn t base (32 * nf)
  let fs := if table then (List.range nf).map (fun f => s.frag base f) else []
  let sp := fragSpan fs
  failing
    [ (1, decide (out ≤ 1))
    , (3, table && fs.all (fun f => areaIn t f.ptr (4 * (f.rows + 1)) &&
          (s.fragAreas (outVal out) f).all (fun x => areaIn t x.1 x.2))
        && outAreas t (c.word 8) (c.word 9) (c.word 10) (c.word 11) sp.2 (c.bits 12 0 32) (outVal out))
    , (4, base % 16 == 0 && [c.word 9, c.word 10].all (fun a => a % 4 == 0) &&
        fs.all (fun f => f.ptr % 4 == 0 && f.col % 4 == 0))
    , (9, decide (nf ≤ 256)) ]

/-- SP.MERGE run: the fragments' values have the output's type. -/
def State.mergeRun (s : State) (c : QCmd) (badDesc : Bool) : SpeOut :=
  let nf := c.bits 0 0 9
  let out := c.bits 0 9 3
  let base := c.word 1
  let fs := (List.range nf).map (fun f => (s.frag base f, s.poisoned (base + 32 * f) 32))
  let sp := fragSpan (fs.map (fun f => f.1))
  let fmt := if out = 0 then 9 else 0
  let vb := outVal out
  -- entries of a row of a fragment, and whether its pointers decrease
  let rowOf (f : Frag × Bool) (r : Nat) : List (Nat × Nat × Bool) × Bool :=
    if f.1.first ≤ r ∧ r < f.1.first + f.1.rows then
      let x := r - f.1.first
      let p := s.u32 (f.1.ptr + 4 * x)
      let q := s.u32 (f.1.ptr + 4 * (x + 1))
      if q.1 < p.1 then ([], true)
      else ((List.range (q.1 - p.1)).map (fun y =>
        let j := s.u32 (f.1.col + 4 * (p.1 + y))
        let v := s.spValue fmt (f.1.val + vb * (p.1 + y))
        (j.1, v.1, badDesc || f.2 || p.2 || q.2 || j.2 || v.2)), false)
    else ([], false)
  let rows := (List.range sp.2).map (fun x => (sp.1 + x, fs.map (fun f => rowOf f (sp.1 + x))))
  let ents := rows.map (fun r => r.2.flatMap (fun f => f.1))
  let count := (ents.map (fun e => e.length)).sum
  let sums := ents.map (fun e => sumRuns (sortStable (fun a b => decide (a.1 < b.1)) e))
  let fl := sums.foldl (fun f x => f ||| x.2) 0
  let reads := (base, 32 * nf) :: fs.flatMap (fun f =>
    (f.1.ptr, 4 * (f.1.rows + 1)) :: s.fragAreas vb f.1)
  let poisonIn := badDesc || reads.any (fun r => s.poisoned r.1 r.2)
  let all := sums.map (fun x => x.1)
  let fit := fitRows (c.bits 12 0 32) 0 all
  let full := decide (fit.length < all.length)
  let w := csrWrites (c.word 8) (c.word 9) (c.word 10) (c.word 11) out sp.1 fit
    ((if full then 4 else 0) + (if poisonIn then 8 else 0)) badDesc
  { SpeOut.none with
    badPtr := rows.flatMap (fun r => r.2.filterMap (fun f => if f.2 then some r.1 else none))
    partials := count, passes := 1, reads := reads
    nv := fl &&& stNV != 0, ovf := fl &&& stOF != 0 || w.2
    outFull := if full then some ((sp.1 + fit.length + 2 ^ 32 - 1) % 2 ^ 32) else none
    flags := (if poisonIn then flagPOISON else 0) ||| (if full then flagERROR else 0)
    writes := w.1 }

/-! ## SP.SORT (R234) -/

def sortReasons (t : Nat) (c : QCmd) : List Nat :=
  let n := c.bits 2 0 32
  let nb := c.bits 2 32 32
  let spillN := c.bits 7 0 48
  failing
    [ (3, areaIn t (c.word 0) (16 * n) && areaIn t (c.word 1) (16 * n)
        && (nb == 0 || (areaIn t (c.word 3) (4 * nb) && areaIn t (c.word 4) (4 * (nb + 1))))
        && (spillN == 0 || spillIn t (c.word 6) spillN (c.bits 7 63 1 == 1)))
    , (4, c.word 0 % 16 == 0 && c.word 1 % 16 == 0 && (nb == 0 || c.word 4 % 4 == 0))
    , (9, decide ((mergePasses n).2 * n ≤ spillN)) ]

/-- SP.SORT run. -/
def State.sortRun (s : State) (fresh : Nat) (c : QCmd) (badDesc : Bool) : SpeOut :=
  let n := c.bits 2 0 32
  let nb := c.bits 2 32 32
  let ents := (List.range n).map (fun i =>
    let a := c.word 0 + 16 * i
    ((s.num a 4, s.num (a + 4) 4), s.bytes a 16, s.poisoned a 16 || badDesc))
  let kept := if nb = 0 then ents else ents.filter (fun e => decide (e.1.1 < nb))
  let sorted := sortStable (fun a b => decide (a.1.1 < b.1.1) || (a.1.1 == b.1.1 && decide (a.1.2 < b.1.2))) kept
  let hist := (List.range nb).map (fun h => (kept.filter (fun e => e.1.1 == h)).length)
  let offs := hist.foldl (fun (l : List Nat) h => l ++ [l.getLastD 0 + h]) [0]
  let pass := mergePasses n
  { SpeOut.none with
    oor := if nb = 0 then [] else ents.filterMap (fun e => if nb ≤ e.1.1 then some (5, e.1.1) else none)
    partials := n, passes := pass.1, reads := [(c.word 0, 16 * n)]
    flags := if ents.any (fun e => e.2.2) then flagPOISON else 0
    writes := spillWrites (c.word 6) fresh (pass.2 * n) ++
      [(c.word 1, sorted.flatMap (fun e => e.2.1.map (fun b => (b, e.2.2))))] ++
      (if nb = 0 then [] else
        [(c.word 3, hist.flatMap (fun h => markBytes 4 h badDesc)), (c.word 4, offs.flatMap (fun o => markBytes 4 o badDesc))]) }

/-! ## Start and completion -/

/-- A rejected sparse command (R211). -/
def State.speReject (s : State) (t op token reason : Nat) : State :=
  let s1 := ((s.setFld (F.SPE_REJECT_REASON t) reason).setFld (F.SPE_REJECT_OP t) op).setFld (F.SPE_REJECT_TOKEN t) token
  ((s1.incFld (F.SPE_REJECT_COUNT t) 1).set1 (F.SPE_STATUS_REJECT t)).logTile t 0x0601 false [(1, op), (2, token), (1, reason)]

/-- A command's counts, status bits and events (R215, R217, R225, R227, R228, R232, R235 to R237). -/
def State.speEffects (s : State) (t op token : Nat) (o : SpeOut) (badDesc : Bool) : State :=
  let cnt (s : State) (f : Field) (n : Nat) : State := if n = 0 then s else s.incFld f n
  let route (r : Nat) : Nat := (o.routes.filter (fun x => x == r)).length
  let s1 := cnt (cnt (cnt (cnt s (F.SPE_CNT_ABSENT_VALUE t) (route 0)) (F.SPE_CNT_ARRAY_VALUE t) (route 1))
    (F.SPE_CNT_GRID_VALUE t) (route 2)) (F.SPE_CNT_MATCH_VALUE t) (route 3)
  let s2 := cnt (cnt (cnt (cnt (cnt s1 (F.SPE_CNT_PRODUCTS_VALUE t) o.products) (F.SPE_CNT_PARTIALS_VALUE t) o.partials)
    (F.SPE_CNT_PASSES_VALUE t) o.passes) (F.SPE_CNT_HARROW_BLOCKS_VALUE t) o.scored) (F.SPE_CNT_HARROW_MARKED_VALUE t) o.marked
  let s3 := if o.malformed = 0 then s2 else
    ((s2.incFld (F.SPE_CNT_MALFORMED_VALUE t) o.malformed).set1 (F.SPE_STATUS_MALFORMED_24 t)).logTile t 0x0602 false
      [(1, op), (2, token), (4, o.malformed)]
  let s4 := match o.oor with
    | [] => s3
    | x :: _ =>
      let a := (s3.incFld (F.SPE_CNT_OOR_VALUE t) o.oor.length).set1 (F.SPE_STATUS_OOR_INDEX t)
      let b := if a.flag (F.SPE_OOR_INFO_VALID t) then a else
        ((((a.set1 (F.SPE_OOR_INFO_VALID t)).setFld (F.SPE_OOR_INFO_KIND t) x.1).setFld (F.SPE_OOR_INFO_OP t) op).setFld
          (F.SPE_OOR_INFO_TOKEN t) token).setFld (F.SPE_OOR_INFO_INDEX t) x.2
      b.logTile t 0x0603 false [(1, op), (2, token), (1, x.1), (4, x.2), (4, o.oor.length)]
  let s5 := if o.dup = 0 then s4 else
    ((s4.incFld (F.SPE_CNT_DUP_VALUE t) o.dup).set1 (F.SPE_STATUS_DUP_INDEX t)).logTile t 0x0604 false
      [(1, op), (2, token), (4, o.dup)]
  let s6 := match o.badPtr with
    | [] => s5
    | r :: _ => ((s5.incFld (F.SPE_CNT_BADPTR_VALUE t) o.badPtr.length).set1 (F.SPE_STATUS_BAD_PTR t)).logTile t 0x0605 false
        [(1, op), (2, token), (4, r), (4, o.badPtr.length)]
  let s7 := match o.outFull with
    | none => s6
    | some r => (s6.set1 (F.SPE_STATUS_OUT_FULL t)).logTile t 0x0606 true [(1, op), (2, token), (4, r)]
  let s8 := match o.spillFull with
    | none => s7
    | some p => (s7.set1 (F.SPE_STATUS_SPILL_FULL t)).logTile t 0x0607 true [(1, op), (2, token), (4, p)]
  let words := (o.reads.flatMap (fun r => wordsOf r.1 r.2)).dedup
  let s9 := match words.find? (fun w => (s8.tag w).bad) with
    | some w => (s8.set1 (F.SPE_STATUS_POISON t)).logTile t 0x0608 false [(1, op), (2, token), (8, w)]
    | none => if badDesc then (s8.set1 (F.SPE_STATUS_POISON t)).logTile t 0x0608 false [(1, op), (2, token), (8, 0)] else s8
  let s10 := match o.nan with
    | none => s9
    | some (r, j) => (s9.set1 (F.SPE_STATUS_HARROW_NAN t)).logTile t 0x0609 false [(2, token), (4, r), (4, j)]
  let s11 := if o.nv then s10.set1 (F.SPE_STATUS_NV t) else s10
  let s12 := if o.ovf then s11.set1 (F.SPE_STATUS_OF t) else s11
  let s13 := words.foldl (fun s w => s.noteRead (s.own t) w) s12
  o.cam.foldl (fun s k => s.setCamKey t k.1 k.2) s13

/-- SP.MM and SP.HARROW act on the array as an MMA that neither uses nor keeps anything (R210). -/
def State.claimArray (s : State) (t : Nat) (d : MxDesc) (o : SpeOut) (acc : List (List AccEl)) (op token : Nat) : State :=
  let s1 := s.mxEpisode t
  let s2 := ((s1.setMxau t { s1.mxau t with stat := none, held := none }).setFld (F.MXA_STATUS_STAT_VALID t) 0).setFld
    (F.MXA_STATUS_CONT_HELD t) 0
  ((s2.orFld (fMxaSticky t) o.mxStatus).mxBanks t d acc).mxPush t
    ⟨op, false, token, 0, o.pkts, (0, 0), true, o.rows, o.loads⟩

/-- The claim at the head of the matrix queue is released (R210). -/
def State.dropClaim (s : State) (t : Nat) : State :=
  s.setTile t { s.tile t with mxaQ := (s.tile t).mxaQ.drop 1 }

/-- The command at the head of the sparse queue starts, with its claim at the head of the matrix queue where it needs one
(R210 to R212). The claim holds its place until the command completes, so no matrix command starts meanwhile. -/
def execSpeCommandStart (t : Fin 144) (ac : Nat) (upset : Upset) (s : State) : Host.Outcome State Fault Refusal :=
  let s0 := s.advance t ac
  match (s0.tile t).speQ, s0.speRun t with
  | c :: q, none =>
    match speArgs c.c with
    | none => .next s0
    | some (op, a) =>
      let claim := op == 0x40 || op == 0x43
      let claimOk := match (s0.tile t).mxaQ with
        | m :: _ => m.c == c.c
        | [] => false
      if (s0.tile t).ac ≤ c.ac ∨ (claim = true ∧ claimOk = false) then .next s0
      else
        let s1 := (s0.setTile t { s0.tile t with speQ := q }).upset upset
        let token := a.token.toNat
        let bad := c.poisoned
        let d := spMxDesc op a c
        let f := s1.takeFresh
        let reasons := match op with
          | 0x40 => s1.spmmReasons t d (spmmDesc c)
          | 0x41 => s1.spgReasons t (spgDesc c)
          | 0x42 => s1.mergeReasons t c
          | 0x43 => s1.harrowReasons t d (harrowDesc c)
          | _ => sortReasons t c
        let zero := match op with
          | 0x40 => spZero d (spmmPats d)
          | 0x41 => (spgDesc c).zero
          | 0x42 => c.bits 0 0 9 == 0
          | 0x43 => spZero d d.pats
          | _ => c.bits 2 0 32 == 0
        let pf := if bad then flagPOISON else 0
        -- a rejected or zero-work command releases its claim at once
        let free (s : State) : State := if claim then s.dropClaim t else s
        match reasons.head? with
        | some r => .next (((free s1).speReject t op token r).setSpeRun t (some ⟨op, a.te, token, flagERROR ||| pf, false, []⟩))
        | none =>
          if zero then .next ((free s1).setSpeRun t (some ⟨op, a.te, token, flagZERO_WORK ||| pf, false, []⟩))
          else
            let go (s : State) (o : SpeOut) : State :=
              ((s.speEffects t op token o bad).set1 (F.SPE_STATUS_BUSY t)).setSpeRun t
                (some ⟨op, a.te, token, o.flags ||| pf, claim, o.writes⟩)
            match op with
            | 0x40 =>
              let r := s1.spmmRun t d (spmmDesc c) bad
              .next ((go s1 r.1).claimArray t d r.1 r.2 op token)
            | 0x43 =>
              let r := s1.harrowRun d (harrowDesc c) bad
              .next ((go s1 r.1).claimArray t d r.1 r.2 op token)
            | 0x41 => .next (go f.1 (f.1.spgRun f.2 (spgDesc c) bad))
            | 0x42 => .next (go s1 (s1.mergeRun c bad))
            | _ => .next (go f.1 (f.1.sortRun f.2 c bad))
  | _, _ => .next s0

/-- The sparse command under way reaches its completion point (R209): its writes are visible, a claim is released, its token
produced. SP.MM completes once its last packet is delivered. The stalls of a command that claims the array come with the event
(R116, R210). -/
def execSpeCommandComplete (t : Fin 144) (ac stallTm stallFtq : Nat) (s : State) : Host.Outcome State Fault Refusal :=
  let s0 := s.advance t ac
  match s0.speRun t with
  | none => .next s0
  | some r =>
    let fin (s : State) : State :=
      let s1 := ((s.applyWrites (s.own t) r.writes).setSpeRun t none).setFld (F.SPE_STATUS_BUSY t) 0
      if r.te then s1.produce t r.token r.flags prodSPE else s1
    if r.claim then
      match (s0.mxau t).run with
      | m :: ms =>
        if m.op = r.op ∧ m.pkts.isEmpty = true then
          let s1 := (s0.setMxau t { s0.mxau t with run := ms }).dropClaim t
          let s2 := (s1.incFld (F.MXA_CNT_STREAM_AC_VALUE t) m.rows).incFld (F.MXA_CNT_LOAD_AC_VALUE t) m.loads
          .next (fin ((s2.incFld (F.MXA_CNT_STALL_TM_VALUE t) stallTm).incFld (F.MXA_CNT_STALL_FTQ_VALUE t) stallFtq))
        else .next s0
      | [] => .next s0
    else .next (fin s0)

end Sys2Proof.Machine
end

