-- ==== Sys2Proof/Machine/MemCmd.lean ====
section
/-! DEFINITION. Commands of the memory system: requests at a tier controller (R279), the patrol scrubbers (R283) and
writes of MEM_SCRUB (R290). -/
namespace Sys2Proof.Machine

/-- The answer of a tier controller to a read: data, poisoned, error. -/
def State.tierAnswer (s : State) (bs : List Byte) (bad err : Bool) : State :=
  { s with memu := { s.memu with answers := s.memu.answers ++ [(bs, bad, err)] } }

/-- The byte lies in the populated near or deep tier. -/
def inTier (a : Nat) : Bool := decide (2 ≤ tierOf a) && populated a

/-- A request at a near- or deep-tier controller, applied in order of arrival (R279 to R282); one that straddles a boundary is
split there, and a part that reaches no storage is answered under R271. -/
def execTierRequest (r : TierReq) (s : State) : Host.Outcome State Fault Refusal :=
  let q : Req := ⟨r.dev.toNat, r.src.toNat⟩
  let a := r.addr.toNat
  let n := if r.write then r.data.length else r.n
  let s0 := s.upset r.upset
  if n = 0 then .next s0
  else if r.write then
    .next ((parts 4 a n).foldl (fun s p =>
      if inTier p.1 then s.writeBytes q p.1 ((r.data.drop (p.1 - a)).take p.2) r.poison else s.unmapped q p.1 kindWrite) s0)
  else
    let x := (parts 4 a n).foldl (fun (x : State × List Byte × Bool × Bool) p =>
      if inTier p.1 then
        (x.1.noteReads q p.1 p.2, x.2.1 ++ x.1.bytes p.1 p.2, x.2.2.1 || x.1.poisoned p.1 p.2, x.2.2.2)
      else (x.1.unmapped q p.1 kindRead, x.2.1 ++ List.replicate p.2 0, x.2.2.1, true)) (s0, [], false, false)
    .next (x.1.tierAnswer x.2.1 x.2.2.1 x.2.2.2)

/-- The scrubber's next word: tier 0 near, 1 deep, 2 the memory of tile `t`. -/
def State.scrubAt (s : State) (tier t : Nat) : Nat :=
  match tier with
  | 0 => s.fld F.MEM_SCRUB_POS_NEAR_OFFSET
  | 1 => 0x010000000000 + s.fld F.MEM_SCRUB_POS_DEEP_OFFSET
  | _ => tileAddr t (Store.get (fun _ => 0) s.memu.scrubPos t)

/-- The scrubber moves to the next word of the populated part. -/
def State.scrubNext (s : State) (tier t : Nat) : State :=
  match tier with
  | 0 => (s.setFld F.MEM_SCRUB_POS_NEAR_OFFSET ((s.fld F.MEM_SCRUB_POS_NEAR_OFFSET + 8) % 0x00861C468000)).incFld
      F.MEM_CNT_SCRUB_NEAR_VALUE 1
  | 1 => (s.setFld F.MEM_SCRUB_POS_DEEP_OFFSET ((s.fld F.MEM_SCRUB_POS_DEEP_OFFSET + 8) % 0x009502F90000)).incFld
      F.MEM_CNT_SCRUB_DEEP_VALUE 1
  | _ =>
    let p := (Store.get (fun _ => 0) s.memu.scrubPos t + 4) % 0x600000
    { s with memu := { s.memu with scrubPos := Store.put (fun _ => 0) s.memu.scrubPos t p } }

/-- Scrubbing of a tier is enabled. -/
def State.scrubOn (s : State) (tier : Nat) : Bool :=
  match tier with
  | 0 => s.flag F.MEM_CTL_SCRUB_NEAR_EN
  | 1 => s.flag F.MEM_CTL_SCRUB_DEEP_EN
  | _ => s.flag F.MEM_CTL_SCRUB_TILE_EN

/-- One word scrubbed (R283); a corrected word is rewritten only under CE_WB_EN (R280). `upset` is the error the word is found with, `cancelled` a client's write between the
scrubber's read and its rewrite. -/
def execMemScrubStep (tier : Fin 3) (t : Fin 144) (upset : Option Bool) (cancelled : Bool) (s : State) :
    Host.Outcome State Fault Refusal :=
  if !s.scrubOn tier then .next s
  else
    let a := s.scrubAt tier t
    let q := s.own srcMEM
    let s0 := match upset with
      | some u => s.upset [(a, u)]
      | none => s
    let s1 := match s0.tag a with
      | .clean => s0
      | .marked => s0.noteRead q a
      | .ce =>
        let s2 := s0.countCE a
        if cancelled || !s2.flag F.MEM_CTL_CE_WB_EN then s2 else s2.setTag a .clean
      | .ue =>
        let s2 := s0.readUE q 3 a
        if cancelled then s2
        else
          let s3 := ((s2.setTag a .marked).incFld F.MEM_CNT_POISON_WR_VALUE 1).incFld F.MEM_CNT_SCRUB_UE_VALUE 1
          (s3.set1 F.MEM_STATUS_SCRUB_UE).logAt (s3.memTide a) (memSource a) 0x0804 true [(1, tierOf a), (8, a)]
    .next (s1.scrubNext tier t)

/-- A tile's scrub pass not done within twice its period (R283). -/
def execMemScrubLag (t : Fin 144) (elapsedMs : Nat) (s : State) : Host.Outcome State Fault Refusal :=
  if s.flag F.MEM_CTL_SCRUB_TILE_EN && decide (2 * s.fld F.MEM_SCRUB_TILE_MS < elapsedMs) then
    .next ((s.set1 F.MEM_STATUS_SCRUB_LAG).logTile t 0x0805 false [(1, t)])
  else .next s

/-- A write of MEM_SCRUB (R290). -/
def State.memScrubWrite (s : State) (v : Word) : State :=
  let ok (lo w a b : Nat) : Bool := decide (a ≤ bitsOf v.toNat lo w) && decide (bitsOf v.toNat lo w ≤ b)
  if ok 0 14 1 8760 && ok 16 14 1 8760 && ok 32 16 10 60000 then s.setReg R.MEM_SCRUB (v &&& 0xFFFF3FFF3FFF)
  else s.set1 F.MEM_STATUS_CFG_ERR

def execMemScrubWrite (v : BitVec 64) (s : State) : Host.Outcome State Fault Refusal := .next (s.memScrubWrite v)

end Sys2Proof.Machine
end

