-- ==== Sys2Proof/Machine/Fabric.lean ====
section
/-! DEFINITION. Fabric ports and their link layer (R291 to R300), packets (R301 to R303), routing and identity (R312,
R313), request timers (R310) and the check unit (R325, R326). -/
namespace Sys2Proof
open Sys2Proof.Machine

/-! ## Packets (R301, R302) -/

/-- The header's six words. -/
def FabPkt.words (p : FabPkt) : List Nat :=
  [ p.opc.toNat + p.vc.toNat <<< 8 + b2n p.pm <<< 11 + p.hops.toNat <<< 12 + p.dst.toNat <<< 16 + p.src.toNat <<< 32
      + p.len.toNat <<< 48
  , p.addr.toNat
  , p.tag.toNat + p.unit.toNat <<< 32 + p.qid.toNat <<< 48
  , p.opnd.toNat
  , p.opnd2.toNat
  , p.sub.toNat + p.alive.toNat <<< 8 + b2n p.first <<< 16 + b2n p.last <<< 17 + b2n p.e2e <<< 18 + b2n p.rep <<< 19
      + p.nak.toNat <<< 20 + p.flags.toNat <<< 24 + p.kind.toNat <<< 32 ]

/-- The poison mask's number. -/
def maskNat : List Bool → Nat
  | [] => 0
  | b :: bs => b2n b + 2 * maskNat bs

/-- The mask's bytes, padded to a multiple of 8; none without PM. -/
def FabPkt.maskBytes (p : FabPkt) : List Byte :=
  if p.pm then leBytes ((p.mask.length + 63) / 64 * 8) (maskNat p.mask) else []

/-- Bytes of the whole packet on a link. -/
def FabPkt.size (p : FabPkt) : Nat := 48 + p.payload.length + p.maskBytes.length + 16

/-- Its 64-byte credit units (R299). -/
def FabPkt.units (p : FabPkt) : Nat := (p.size + 63) / 64

/-- One step of the reflected CRC-32 of IEEE 802.3. -/
def crc32Bit (c : Nat) : Nat := if c % 2 = 1 then (c / 2) ^^^ 0xEDB88320 else c / 2

def crc32Byte (c : Nat) (b : Byte) : Nat :=
  crc32Bit (crc32Bit (crc32Bit (crc32Bit (crc32Bit (crc32Bit (crc32Bit (crc32Bit (c ^^^ b.toNat))))))))

/-- The link CRC: over header, payload, mask and the first 8 bytes of the trailer (R298). -/
def FabPkt.linkCrc (p : FabPkt) : Nat :=
  ((p.words.flatMap (leBytes 8) ++ p.payload ++ p.maskBytes ++ leBytes 8 p.crc.toNat).foldl crc32Byte 0xFFFFFFFF)
    ^^^ 0xFFFFFFFF

/-- The packet is a request that expects an answer: a request class (REQ, BULK) and not a CREDIT. -/
def FabPkt.asks (p : FabPkt) : Bool := (p.vc.toNat / 2 == 0 || p.vc.toNat / 2 == 2) && p.opc.toNat != 0x07

/-- One bit taken into the CRC-64 of ECMA-182, most significant first (R322). -/
def crc64Bit (c : Nat) : Nat := if c < 2 ^ 63 then 2 * c else (2 * c % 2 ^ 64) ^^^ 0x42F0E1EBA9EA3693

/-- One byte taken into the register. -/
def crc64Byte (c : Nat) (b : Byte) : Nat :=
  crc64Bit (crc64Bit (crc64Bit (crc64Bit (crc64Bit (crc64Bit (crc64Bit (crc64Bit (c ^^^ (b.toNat <<< 56)))))))))

/-- Bytes taken into the register; a message starts from 0 (R322). -/
def crc64 (c : Nat) (bs : List Byte) : Nat := bs.foldl crc64Byte c

/-- The header's 48 bytes. -/
def FabPkt.header (p : FabPkt) : List Byte := p.words.flatMap (leBytes 8)

/-- A packet whose header's words are given (R302). -/
def FabPkt.ofWords (w : Nat → Nat) : FabPkt :=
  { opc := BitVec.ofNat 8 (w 0), vc := BitVec.ofNat 3 (bitsOf (w 0) 8 3), pm := bitsOf (w 0) 11 1 == 1
    hops := BitVec.ofNat 4 (bitsOf (w 0) 12 4), dst := BitVec.ofNat 16 (bitsOf (w 0) 16 16)
    src := BitVec.ofNat 16 (bitsOf (w 0) 32 16), len := BitVec.ofNat 13 (bitsOf (w 0) 48 13), addr := BitVec.ofNat 48 (w 1)
    tag := BitVec.ofNat 32 (w 2), unit := BitVec.ofNat 16 (bitsOf (w 2) 32 16), qid := BitVec.ofNat 16 (bitsOf (w 2) 48 16)
    opnd := BitVec.ofNat 64 (w 3), opnd2 := BitVec.ofNat 64 (w 4), sub := BitVec.ofNat 8 (w 5)
    alive := BitVec.ofNat 8 (bitsOf (w 5) 8 8), first := bitsOf (w 5) 16 1 == 1, last := bitsOf (w 5) 17 1 == 1
    e2e := bitsOf (w 5) 18 1 == 1, rep := bitsOf (w 5) 19 1 == 1, nak := BitVec.ofNat 4 (bitsOf (w 5) 20 4)
    flags := BitVec.ofNat 8 (bitsOf (w 5) 24 8), kind := BitVec.ofNat 4 (bitsOf (w 5) 32 4)
    payload := [], mask := [], crc := 0 }

/-- A packet with nothing set. -/
def FabPkt.blank : FabPkt :=
  { opc := 0, vc := 0, pm := false, hops := 0, dst := 0, src := 0, len := 0, addr := 0, tag := 0, unit := 0, qid := 0, opnd := 0
    opnd2 := 0, sub := 0, alive := 0, first := false, last := false, e2e := false, rep := false, nak := 0, flags := 0, kind := 0
    payload := [], mask := [], crc := 0 }

/-- A packet with a payload, LEN and the mask of its poison (R311). -/
def FabPkt.carry (p : FabPkt) (bs : List (Byte × Bool)) : FabPkt :=
  let mask := (List.range ((bs.length + 7) / 8)).map (fun i => ((bs.drop (8 * i)).take 8).any (fun b => b.2))
  let pm := mask.any id
  { p with len := BitVec.ofNat 13 bs.length, payload := bs.map (fun b => b.1), pm := pm, mask := if pm then mask else [] }

/-- The payload's bytes with the poison of their words. -/
def FabPkt.data (p : FabPkt) : List (Byte × Bool) :=
  p.payload.zipIdx.map (fun b => (b.1, p.pm && p.mask.getD (b.2 / 8) false))

end Sys2Proof

namespace Sys2Proof.Machine

/-- Operations (R303). -/
def opREAD : Nat := 0x01
def opWRITE : Nat := 0x02
def opATOMIC : Nat := 0x03
def opSACC : Nat := 0x04
def opTOKENINC : Nat := 0x05
def opMSG : Nat := 0x06
def opCREDIT : Nat := 0x07
def opRDATA : Nat := 0x10
def opADATA : Nat := 0x11
def opACK : Nat := 0x12
def opNAK : Nat := 0x13
def opMGMT : Nat := 0x20

/-- Error answers (R309). -/
def nakUNMAPPED : Nat := 1
def nakREG : Nat := 2
def nakNOROUTE : Nat := 3
def nakHOP : Nat := 4
def nakOPC : Nat := 5
def nakSIZE : Nat := 6
def nakATOMIC : Nat := 7
def nakCRC : Nat := 8
def nakGAP : Nat := 9
def nakSPACE : Nat := 10
def nakLONG : Nat := 11
def nakQSTATE : Nat := 12

/-- An operation of R303. -/
def validOpc (o : Nat) : Bool := (decide (1 ≤ o) && decide (o ≤ 7)) || (decide (0x10 ≤ o) && decide (o ≤ 0x13)) || o == 0x20

/-! ## Links (R296 to R299) -/

/-- Link states. -/
def lkDISABLED : Nat := 0
def lkDOWN : Nat := 1
def lkTRAINING : Nat := 2
def lkUP : Nat := 3

/-- A link with nothing sent or received. -/
def Link.init : Link :=
  { txSeq := 0, replay := [], again := (0, 0), wait := [], used := List.replicate 8 0, rxNext := 0, rxSkip := false, rx := [] }

def State.link (s : State) (l : Nat) : Link := Store.get (fun _ => Link.init) s.fab.links l

def State.setLink (s : State) (l : Nat) (k : Link) : State :=
  { s with fab := { s.fab with links := Store.put (fun _ => Link.init) s.fab.links l k } }

/-- The state field of a link: port l / 2, half l % 2. -/
def fLinkState (l : Nat) : Field :=
  if l % 2 = 0 then F.FAB_PORT_STATUS_STATE0 (l / 2) else F.FAB_PORT_STATUS_STATE1 (l / 2)

/-- The link is UP. -/
def State.linkUp (s : State) (l : Nat) : Bool := s.fld (fLinkState l) == lkUP

/-- A control symbol sent: kinds 3 credit return (VC, units), 4 acknowledge, 5 replay request (sequence number). -/
def State.sendSym (s : State) (l kind a b : Nat) : State :=
  { s with fab := { s.fab with syms := s.fab.syms ++ [(l, kind, a, b)] } }

/-- Receive buffer of the partner in 64-byte units: guaranteed to each VC, shared (R299); an x4 half has half. -/
def State.bufUnits (s : State) (l : Nat) : Nat × Nat :=
  if s.flag (F.FAB_PORT_CFG_SPLIT (l / 2)) then (64, 1536) else (128, 3072)

/-- Credits for `n` more units on a VC: beyond what each VC is guaranteed, the VCs share one pool (DESIGN CHOICE, log entry
40). -/
def creditOk (g sh : Nat) (used : List Nat) (vc n : Nat) : Bool :=
  let u := used.set vc (used.getD vc 0 + n)
  decide ((u.map (fun x => x - g)).sum ≤ sh)

/-- Bytes held for replay. -/
def Link.held (k : Link) : Nat := (k.replay.map (fun x => x.2.size)).sum

/-- Packets waiting on a link go out in order, VC by VC, as credits and the replay buffer of 256 KiB allow (R298, R299).
Returns the link and the bytes sent. -/
def pumpLink (g sh : Nat) : List FabPkt → List Nat → Link → Nat → Link × Nat
  | [], _, k, n => (k, n)
  | p :: ps, blocked, k, n =>
    let vc := p.vc.toNat
    if blocked.contains vc || !creditOk g sh k.used vc p.units || decide (262144 < k.held + p.size) then
      pumpLink g sh ps (vc :: blocked) { k with wait := k.wait ++ [p] } n
    else
      pumpLink g sh ps blocked { k with
        txSeq := (k.txSeq + 1) % 2 ^ 32, replay := k.replay ++ [(k.txSeq, p)]
        used := k.used.set vc (k.used.getD vc 0 + p.units) } (n + p.size)

/-- The device is in Watch or Retention, in which links carry no packets (R394). -/
def State.asleep (s : State) : Bool := decide (2 ≤ s.fld F.PWR_STATE_CUR)

/-- A link sends what it can. -/
def State.pump (s : State) (l : Nat) : State :=
  if !s.linkUp l || s.asleep then s
  else
    let k := s.link l
    let b := s.bufUnits l
    let r := pumpLink b.1 b.2 k.wait [] { k with wait := [] } 0
    (s.setLink l r.1).incFld (F.FAB_PORT_CNT_BYTES_TX (l / 2)) r.2

/-- A link goes DOWN, or to another state that is not UP: its replay buffer and what waits for it are discarded; packets
already received stay (R298). -/
def State.linkReset (s : State) (l st : Nat) : State :=
  (s.setLink l { Link.init with rx := (s.link l).rx }).setFld (fLinkState l) st

/-- The counters of a port cleared (R420). -/
def State.portClear (s : State) (p : Nat) : State :=
  (((s.setReg (R.FAB_PORT_CNT_FEC p) 0).setReg (R.FAB_PORT_CNT_LINK p) 0).setReg (R.FAB_PORT_CNT_BYTES p) 0).setReg
    (R.FAB_PORT_CNT_DOWN p) 0

/-- A link goes DOWN (R298): counted, logged, retrained with AUTO_RETRAIN. -/
def State.linkLost (s : State) (l replays : Nat) : State :=
  let p := l / 2
  let n := (s.link l).replay.length
  let s1 := s.linkReset l (if s.flag (F.FAB_PORT_CFG_AUTO_RETRAIN p) then lkTRAINING else lkDOWN)
  let s2 := if l % 2 = 0 ∧ !s.flag (F.FAB_PORT_CFG_SPLIT p) then s1.setFld (F.FAB_PORT_STATUS_LANES_UP p) 0
    else s1.setFld (F.FAB_PORT_STATUS_LANES_UP p)
      (s1.fld (F.FAB_PORT_STATUS_LANES_UP p) &&& (if l % 2 = 0 then 0xF0 else 0x0F))
  ((s2.incFld (F.FAB_PORT_CNT_DOWN_DOWNS p) 1).set1 F.FAB_STATUS_LINK_DOWN).logDev srcFAB 0x0901 true
    [(1, p), (1, l % 2), (1, replays), (4, n)]

/-- A link fails. With AUTO_RETRAIN that is a port reset (R417, R420, R422): the port's counters are cleared once the loss is counted, and
the reset is recorded; during a job reset, which is wider, only the link goes DOWN (R418; log entry 124). -/
def State.linkDown (s : State) (l replays : Nat) : State :=
  let s1 := s.linkLost l replays
  if s.flag (F.FAB_PORT_CFG_AUTO_RETRAIN (l / 2)) && s.fw.jobWait.isNone then
    (((s1.portClear (l / 2)).set1 F.MBX_HOST_RESET_DONE).setFld F.MBX_HOST_LAST_RESET 7).logDev srcMBX 0x0D06 true [(1, 7), (1, l / 2)]
  else s1

/-! ## Entering and leaving the low-power states (R394 to R400) -/

/-- The voltage table's entry of a die for a frequency in MHz (R369). -/
def State.vf (s : State) (d f : Nat) : Nat := s.fld (F.PWR_VF_MV d ((f - 1200) / 25))

/-- The core rails set. -/
def State.setRails (s : State) (v : Nat → Nat) : State := { s with pwr := { s.pwr with rails := (List.range 4).map v } }

/-- Entry step 2 on the links: in Retention every one that is not DISABLED goes DOWN; in Watch each keeps one lane. -/
def State.linksSleep (s : State) (st : Nat) : State :=
  if st = 3 then
    let s1 := (List.range 32).foldl (fun s l => if s.fld (fLinkState l) = lkDISABLED then s else s.linkReset l lkDOWN) s
    (List.range 16).foldl (fun s p => s.setFld (F.FAB_PORT_STATUS_LANES_UP p) 0) s1
  else
    (List.range 16).foldl (fun s p => s.setFld (F.FAB_PORT_STATUS_LANES_UP p)
      (s.fld (F.FAB_PORT_STATUS_LANES_UP p) &&& (if s.flag (F.FAB_PORT_CFG_SPLIT p) then 0x11 else 0x01))) s

/-- Entry step 2 undone: from Retention the links train again, from Watch they regain their lanes. -/
def State.linksWake (s : State) (st : Nat) : State :=
  if st = 3 then
    (List.range 32).foldl (fun (s : State) l =>
      if s.fld (fLinkState l) = lkDOWN then s.setFld (fLinkState l) lkTRAINING else s) s
  else
    (List.range 16).foldl (fun s p =>
      let up0 := s.linkUp (2 * p)
      let up1 := s.linkUp (2 * p + 1)
      s.setFld (F.FAB_PORT_STATUS_LANES_UP p)
        (if s.flag (F.FAB_PORT_CFG_SPLIT p) then (if up0 then 0x0F else 0) + (if up1 then 0xF0 else 0)
          else if up0 then 0xFF else 0)) s

/-- Entry step `k` into state `st` is carried out (R396): of the five, step 2 acts on the links and the tiers' refresh, step 5 on the
rails; `steps` tells which are in effect. -/
def State.entryStep (s : State) (st k : Nat) : State :=
  let s1 := if k = 2 then s.linksSleep st else if k = 5 then s.setRails (fun d => s.fld (F.PWR_VF_MV d 85)) else s
  { s1 with pwr := { s1.pwr with steps := k } }

/-- Entry steps up to `n` are carried out. -/
def State.entryTo (s : State) (st n : Nat) : State :=
  (List.range (n - s.pwr.steps)).foldl (fun r k => r.entryStep st (s.pwr.steps + 1 + k)) s

/-- The near and deep tiers are in self-refresh (R394, R396). -/
def State.selfRefresh (s : State) : Bool := decide (2 ≤ s.pwr.steps)

/-- The device requests L1 in Watch and Retention when the host has enabled ASPM L1 (R404). -/
def State.askL1 (s : State) : State := { s with host := { s.host with l1 := s.host.aspmL1 && s.asleep } }

/-- A wake (R394, R396, R398, R400): an entry step under way is completed, the steps in effect are reversed, the wake is recorded, and
the device is in Idle, or in Active where it had not left it. The causes are given as bits. -/
def State.wake (s : State) (causes detail : Nat) : State :=
  let from' := s.fld F.PWR_STATE_CUR
  let cause := ((List.range 9).find? (fun c => causes.testBit c)).getD 0
  let s0 := match s.pwr.entering with
    | some st => s.entryTo st (min 5 (s.pwr.steps + 1))
    | none => s
  let s1 := ((s0.setFld F.PWR_WAKE_TIDE s.count).setFld F.PWR_WAKE_CAUSE cause).setFld F.PWR_WAKE_FROM from'
  let s2 := ((s1.setFld F.PWR_WAKE_DETAIL detail).setFld F.PWR_WAKE_MASK_SEEN causes).setFld F.PWR_WAKE_MASK_ABORTED
    (b2n s.pwr.entering.isSome)
  let s3 := s2.setFld F.PWR_STATE_CUR (if from' ≤ 1 then 0 else 1)
  let s4 := if s3.pwr.steps = 5 then s3.setRails (fun d => s3.vf d (s3.fld F.PWR_STATUS_FREQ)) else s3
  let s5 := if 2 ≤ s4.pwr.steps then s4.linksWake (s.pwr.entering.getD from') else s4
  let s6 := if from' = 3 ∧ s5.flag F.TIDE_CTL_ENABLE then s5.setFld F.TIDE_STATUS_STATE 1 else s5
  let s7 := { s6 with pwr := { s6.pwr with entering := none, entryUs := 0, steps := 0 } }
  let s8 := (s7.logDeliv srcPWR 0x0C0A false [(1, cause), (1, from'), (1, detail)]).askL1
  (List.range 32).foldl (fun s l => s.pump l) s8

/-- A packet other than a control symbol arrives on a link: it wakes the device from Watch at once, and is held until Idle is reached
(R397). -/
def State.wakePacket (s : State) (port : Nat) : State :=
  if s.fld F.PWR_STATE_CUR = 2 ∨ s.pwr.entering = some 2 then s.wake (1 <<< 5) port else s

/-- A host access wakes the device from Watch and Retention, and is held until Idle is reached (R397, R398). -/
def State.wakeHost (s : State) : State := if s.asleep || s.pwr.entering.isSome then s.wake (1 <<< 6) 0 else s

/-- A write of a port's CFG (R294, R296): FEC 3, or a change of SPLIT, MEDIUM or FEC while EN is 1, is refused. -/
def State.portCfg (s : State) (p : Nat) (v : Word) : State :=
  let en := s.flag (F.FAB_PORT_CFG_EN p)
  let static (w : Nat) : Nat := bitsOf w 1 4
  if bitsOf v.toNat 3 2 = 3 ∨ (en = true ∧ static v.toNat ≠ static (s.reg (R.FAB_PORT_CFG p)).toNat) then
    s.set1 F.FAB_STATUS_CFG_ERR
  else
    let s1 := s.setReg (R.FAB_PORT_CFG p) (v &&& 0xF3F)
    if !en && v.getLsbD 0 then
      let s2 := s1.linkReset (2 * p) lkTRAINING
      if v.getLsbD 1 then s2.linkReset (2 * p + 1) lkTRAINING else s2
    else if en && !v.getLsbD 0 then
      ((s1.linkReset (2 * p) lkDISABLED).linkReset (2 * p + 1) lkDISABLED).setFld (F.FAB_PORT_STATUS_LANES_UP p) 0
    else s1

def execFabPortCfgWrite (p : Fin 16) (v : BitVec 64) (s : State) : Host.Outcome State Fault Refusal :=
  .next (s.portCfg p v)

/-- Every lane of a link in TRAINING is trained and its delay valid (R296); while the port controllers are held it waits for their code
(R434). -/
def execLinkTrainingComplete (l : LinkId) (s : State) : Host.Outcome State Fault Refusal :=
  let p := l.val / 2
  if s.fld (fLinkState l) ≠ lkTRAINING ∨ s.flag (F.TIDE_LINK_VALID p) = false ∨ s.fw.held = true then .next s
  else
    let lanes := if !s.flag (F.FAB_PORT_CFG_SPLIT p) then 0xFF else if l.val % 2 = 0 then 0x0F else 0xF0
    .next (((s.setFld (fLinkState l) lkUP).orFld (F.FAB_PORT_STATUS_LANES_UP p) lanes).logDev srcFAB 0x0902 false
      [(1, p), (1, l.val % 2)])

/-- Whether the codewords of a packet are marked, and what CNT_FEC counts (R294). -/
def fecMark (fec corr uncorr : Nat) : Bool × Nat × Nat :=
  match fec with
  | 1 => (decide (0 < corr + uncorr), 0, corr + uncorr)
  | 2 => (false, corr, 0)
  | _ => (decide (0 < uncorr), corr, uncorr)

/-- A packet has the link's next sequence number, one already received, or a later one. -/
def seqAhead (a b : Nat) : Bool := decide ((a + 2 ^ 32 - b) % 2 ^ 32 < 2 ^ 31)

/-- The packet is local (R312, R313). -/
def State.isLocal (s : State) (p : FabPkt) : Bool := s.flag F.FAB_ID_VALID && p.dst.toNat == s.fld F.FAB_ID_ID

/-- A packet arriving as local goes into the capture record (R460, classes 3 and 4). -/
def State.captureRx (s : State) (p : FabPkt) : State :=
  if p.payload.isEmpty then s.capture 3 false p.header
  else s.capture 4 (p.pm && p.mask.any id) (p.header ++ p.payload ++ p.maskBytes)

/-- A unit arrives on a link (R297, R298). A good packet is acknowledged and, in sequence, received; any other is discarded
with all later ones and its replay requested; a replayed packet that fails again is asked for again. A packet wakes the device from Watch (R397). -/
def execLinkPacketRx (l : LinkId) (u : LinkUnit) (corr uncorr : Nat) (s : State) : Host.Outcome State Fault Refusal :=
  let p := l.val / 2
  if !s.linkUp l then .next s
  else
    let m := fecMark (s.fld (F.FAB_PORT_CFG_FEC p)) corr uncorr
    match u with
    | .symbol _ =>
      .next (((s.incFld (F.FAB_PORT_CNT_FEC_CORR p) m.2.1).incFld (F.FAB_PORT_CNT_FEC_UNCORR p) m.2.2).incFld
        (F.FAB_PORT_CNT_LINK_CRC_FAIL p) 1)
    | .packet pk seq crc =>
      let s0 := ((s.wakePacket p).incFld (F.FAB_PORT_CNT_FEC_CORR p) m.2.1).incFld (F.FAB_PORT_CNT_FEC_UNCORR p) m.2.2
      let k := s0.link l
      let good := crc.toNat == pk.linkCrc
      let s1 := if good then s0 else s0.incFld (F.FAB_PORT_CNT_LINK_CRC_FAIL p) 1
      if good && !m.1 && seq.toNat == k.rxNext then
        let s2 := (s1.setLink l { k with rxNext := (k.rxNext + 1) % 2 ^ 32, rxSkip := false, rx := k.rx ++ [pk] }).sendSym l 4
          seq.toNat 0
        .next (if s.isLocal pk then s2.captureRx pk else s2)
      else if good && !m.1 && !seqAhead seq.toNat k.rxNext then .next (s1.sendSym l 4 seq.toNat 0)
      else if k.rxSkip && seq.toNat != k.rxNext then .next s1
      else
        .next (((s1.setLink l { k with rxSkip := true }).sendSym l 5 k.rxNext 0).incFld (F.FAB_PORT_CNT_LINK_REPLAYS p) 1)

/-- Packets of a replay buffer acknowledged up to a sequence number. -/
def ackUpTo (seq : Nat) (r : List (Nat × FabPkt)) : List (Nat × FabPkt) := r.filter (fun x => !seqAhead seq x.1)

/-- An acknowledge symbol frees the replay buffer up to its packet (R298). -/
def execLinkAcknowledge (l : LinkId) (seq : BitVec 32) (s : State) : Host.Outcome State Fault Refusal :=
  let k := s.link l
  .next ((s.setLink l { k with replay := ackUpTo seq.toNat k.replay }).pump l)

/-- A replay request: the packets from a sequence number on are sent again; after REPLAY_MAX consecutive replays of one
packet the link goes DOWN (R298). -/
def execLinkReplayRequest (l : LinkId) (seq : BitVec 32) (s : State) : Host.Outcome State Fault Refusal :=
  if !s.linkUp l then .next s
  else
    let k := s.link l
    let n := if k.again.1 = seq.toNat then k.again.2 + 1 else 1
    let max' := max 1 (s.fld (F.FAB_PORT_CFG_REPLAY_MAX (l.val / 2)))
    if max' < n then .next (s.linkDown l max')
    else
      let bytes := ((k.replay.filter (fun x => seqAhead x.1 seq.toNat)).map (fun x => x.2.size)).sum
      .next ((s.setLink l { k with again := (seq.toNat, n) }).incFld (F.FAB_PORT_CNT_BYTES_TX (l.val / 2)) bytes)

/-- A credit-return symbol (R299). -/
def execCreditReturn (l : LinkId) (vc : BitVec 3) (n : Nat) (s : State) : Host.Outcome State Fault Refusal :=
  let k := s.link l
  .next ((s.setLink l { k with used := k.used.set vc.toNat (k.used.getD vc.toNat 0 - n) }).pump l)

/-! ## Sending and routing (R300, R312, R313) -/

/-- The link of a route half: half 1 only of a split port. -/
def State.linkOf (s : State) (port half : Nat) : Nat := if s.flag (F.FAB_PORT_CFG_SPLIT port) then 2 * port + half else 2 * port

/-- The link the route entry of a destination names now; none without a valid entry or with no link UP. -/
def State.routeOf (s : State) (dst : Nat) : Option Nat :=
  if !s.flag (F.FAB_ROUTE_VALID dst) then none
  else
    let a := s.linkOf (s.fld (F.FAB_ROUTE_PORT dst)) (s.fld (F.FAB_ROUTE_HALF dst))
    let b := s.linkOf (s.fld (F.FAB_ROUTE_ALT_PORT dst)) (s.fld (F.FAB_ROUTE_ALT_HALF dst))
    if s.linkUp a then some a
    else if s.flag (F.FAB_ROUTE_ALT_EN dst) && s.linkUp b then some b
    else none

/-- A packet put on a link. -/
def State.onLink (s : State) (l : Nat) (p : FabPkt) : State :=
  (s.setLink l { s.link l with wait := (s.link l).wait ++ [p] }).pump l

/-- A packet for this device put where local packets wait. -/
def State.loopBack (s : State) (p : FabPkt) : State := s.setLink 32 { s.link 32 with rx := (s.link 32).rx ++ [p] }

/-- A packet discarded for want of a route (R312); `port` is where it arrived, 0xFF for one of this device's own. -/
def State.dropNoRoute (s : State) (p : FabPkt) (port : Nat) : State :=
  ((s.incFld F.FAB_CNT_DROP_NO_ROUTE_VALUE 1).set1 F.FAB_STATUS_NO_ROUTE).oncePerTide (0x0903, p.dst.toNat, 0) (fun s =>
    s.logDev srcFAB 0x0903 false [(2, p.dst.toNat), (1, p.opc.toNat), (1, port)])

/-- The answer to a request, from this device. -/
def State.answerOf (s : State) (p : FabPkt) (opc : Nat) : FabPkt :=
  { FabPkt.blank with
    opc := BitVec.ofNat 8 opc, vc := 2, dst := p.src, src := BitVec.ofNat 16 (s.fld F.FAB_ID_ID), tag := p.tag, unit := p.unit }

/-- An error answer. -/
def State.nakOf (s : State) (p : FabPkt) (code : Nat) : FabPkt := { s.answerOf p opNAK with nak := BitVec.ofNat 4 code }

/-- A packet sent from this device is counted and goes into the capture record (R460, class 5). -/
def State.noteTx (s : State) (p : FabPkt) : State :=
  (s.incFld F.FAB_CNT_TX_LOCAL_VALUE 1).capture 5 false (p.header ++ leBytes 8 (crc64 0 p.payload))

/-! Replay (R463, R464): what the replayed device sends is not transmitted; it is compared with the recorded sends, and its
requests are matched with the recorded answers. -/

/-- The first field in which a send differs from the recorded one, by its place in R464's list; none where it does not. -/
def sendDiff (p w : FabPkt) (crc : Nat) : Option Nat :=
  if p.opc ≠ w.opc then some 0 else if p.dst ≠ w.dst then some 1 else if p.addr ≠ w.addr then some 2
  else if p.len ≠ w.len then some 3 else if p.qid ≠ w.qid then some 4 else if p.alive ≠ w.alive then some 5
  else if p.sub ≠ w.sub then some 6 else if crc64 0 p.payload ≠ crc then some 7 else none

/-- A divergence: the first is captured and logged, each is counted. -/
def State.diverge (s : State) (seq unit field : Nat) : State :=
  let first := s.rep.div = 0
  let s1 := { s with rep := { s.rep with div := s.rep.div + 1 } }.incFld F.EVT_REPLAY_DIVSEQ_COUNT 1
  if first then
    ((s1.setFld F.EVT_REPLAY_DIV_TIDE s.count).setFld F.EVT_REPLAY_DIVSEQ_SEQ seq).logDev srcEVT 0x0F06 true
      [(8, s.count), (4, seq), (2, unit), (1, field)]
  else s1

/-- Sends and recorded sends of one source unit, destination and class compared in order. -/
def State.repCompare (s : State) : State :=
  s.rep.sent.foldl (fun s p =>
    match s.rep.want.find? (fun w => w.2.1.unit == p.unit && w.2.1.dst == p.dst && w.2.1.vc.toNat / 2 == p.vc.toNat / 2) with
    | none => { s with rep := { s.rep with sent := s.rep.sent ++ [p] } }
    | some w =>
      let s1 := { s with rep := { s.rep with want := s.rep.want.erase w } }
      match sendDiff p w.2.1 w.2.2 with
      | some f => s1.diverge w.1 p.unit.toNat f
      | none => s1) { s with rep := { s.rep with sent := [] } }

/-- Held answers delivered to the requests they match, in order for each requester unit and destination. -/
def State.repMatch (s : State) : State :=
  s.rep.held.foldl (fun s h =>
    match s.rep.opn.find? (fun r => r.unit == h.unit && r.dst == h.src) with
    | none => { s with rep := { s.rep with held := s.rep.held ++ [h] } }
    | some r => ({ s with rep := { s.rep with opn := s.rep.opn.erase r } }).loopBack { h with tag := r.tag, vc := 2 })
    { s with rep := { s.rep with held := [] } }

/-- A packet the replayed device sends. -/
def State.repSend (s : State) (p : FabPkt) : State :=
  let s1 := { s with rep := { s.rep with sent := s.rep.sent ++ [p], opn := if p.asks then s.rep.opn ++ [p] else s.rep.opn } }
  s1.repCompare.repMatch

/-- A packet addressed to this device's own ID, whatever VALID is (R266, R313). -/
def State.isOwn (s : State) (p : FabPkt) : Bool := p.dst.toNat == s.fld F.FAB_ID_ID

/-- A packet of this device goes out, where it can: to this device itself, or to the link of its route. -/
def State.sendOut (s : State) (p : FabPkt) (lost : State → State) : State :=
  if s.flag F.EVT_STATUS_REPLAY_RUN then (s.incFld F.FAB_CNT_TX_LOCAL_VALUE 1).repSend p
  else if s.isOwn p then ((s.noteTx p).captureRx p).loopBack p
  else match s.routeOf p.dst.toNat with
    | some l => (s.noteTx p).onLink l p
    | none => lost (s.dropNoRoute p 0xFF)

/-- A packet of this device that expects no answer goes out. -/
def State.fabPost (s : State) (p : FabPkt) : State := s.sendOut p id

/-- An answer sent to the requester of a packet. -/
def State.fabAnswer (s : State) (p : FabPkt) (code : Nat) : State :=
  if code = 0 then s.fabPost (s.answerOf p opACK)
  else (s.incFld F.FAB_CNT_NAK_TX_VALUE 1).fabPost (s.nakOf p code)

/-- The requests outstanding, with their count in FAB_STATUS. -/
def State.setReqs (s : State) (rs : List FabReq) : State :=
  { s with fab := { s.fab with reqs := rs } }.setFld F.FAB_STATUS_OUTSTANDING rs.length

/-- A request of this device sent: it takes a tag and waits for its answer. Without a valid ID, and without a route, it is
answered at once with NAK NO_ROUTE, which waits among the local packets; one to the own ID reaches the local map whatever VALID is
(R312, R313). -/
def State.fabSend (s : State) (p0 : FabPkt) (cl : Client) : State :=
  let tag := s.fab.tag
  let p : FabPkt := { p0 with tag := BitVec.ofNat 32 tag, src := BitVec.ofNat 16 (s.fld F.FAB_ID_ID) }
  let s1 := ({ s with fab := { s.fab with tag := (tag + 1) % 2 ^ 32 } }).setReqs
    (s.fab.reqs ++ [FabReq.mk (tag % 2 ^ 32) p.unit.toNat p.dst.toNat p.opc.toNat cl])
  if !s.flag F.FAB_ID_VALID && !s.isOwn p then
    (s1.incFld F.FAB_CNT_DROP_NO_ROUTE_VALUE 1).loopBack (s.nakOf p nakNOROUTE)
  else s1.sendOut p (fun s => s.loopBack (s.nakOf p nakNOROUTE))

/-! ## Taking received packets -/

/-- The front packet of a virtual channel's receive buffer. -/
def State.rxFront (s : State) (l vc : Nat) : Option FabPkt := (s.link l).rx.find? (fun p => p.vc.toNat == vc)

/-- That packet leaves the buffer: its units go back to the sender as credits (R299). -/
def State.rxTake (s : State) (l : Nat) (p : FabPkt) : State :=
  let s1 := s.setLink l { s.link l with rx := (s.link l).rx.erase p }
  if l = 32 then s1 else s1.sendSym l 3 p.vc.toNat p.units

/-- A packet that is not local is forwarded through its route entry (R300, R312). -/
def execPacketForward (l : RxId) (vc : BitVec 3) (s : State) : Host.Outcome State Fault Refusal :=
  match s.rxFront l vc.toNat with
  | none => .next s
  | some p =>
    if s.isLocal p || l.val == 32 then .next s
    else
      let s1 := s.rxTake l p
      let fail (s : State) (code : Nat) : State := if p.asks then s.fabAnswer p code else s
      if max 1 (s.fld F.FAB_CTL_HOP_MAX) < p.hops.toNat + 1 then
        let s2 := ((s1.incFld F.FAB_CNT_DROP_HOP_VALUE 1).set1 F.FAB_STATUS_HOP_LIMIT).oncePerTide (0x0904, p.dst.toNat, 0)
          (fun s => s.logDev srcFAB 0x0904 false [(2, p.dst.toNat), (2, p.src.toNat)])
        .next (fail s2 nakHOP)
      else
        match s.routeOf p.dst.toNat with
        | none => .next (fail (s1.dropNoRoute p (l.val / 2)) nakNOROUTE)
        | some o =>
          let c := p.vc.toNat / 2
          let up := (s.fld (F.FAB_ROUTE_LAYER_UP p.dst.toNat)).testBit c
          .next ((s1.incFld F.FAB_CNT_FWD_VALUE 1).onLink o { p with
            hops := p.hops + 1, vc := if up then BitVec.ofNat 3 (2 * c + 1) else p.vc })

/-- The front packet of a channel, if it is local and of the given operation (R312). A local packet of an operation R303
does not list is taken by the same rows: it is answered BAD_OPC, or discarded and counted as an answer. -/
def State.takeLocal (s : State) (l : RxId) (vc : BitVec 3) (opc : Nat) (f : State → FabPkt → State) : State :=
  match s.rxFront l vc.toNat with
  | none => s
  | some p =>
    if !(s.isLocal p || l.val == 32) then s
    else
      let s1 (_ : Unit) : State := (s.rxTake l p).incFld F.FAB_CNT_RX_LOCAL_VALUE 1
      if p.opc.toNat = opc then f (s1 ()) p
      else if validOpc p.opc.toNat then s
      else if p.asks then (s1 ()).fabAnswer p nakOPC
      else ((s1 ()).incFld F.FAB_CNT_LATE_RSP_VALUE 1).set1 F.FAB_STATUS_LATE_RSP

/-- Poisoned words that arrive are counted (R311). -/
def State.notePoisonRx (s : State) (p : FabPkt) : State :=
  let n := if p.pm then (p.mask.filter id).length else 0
  if n = 0 then s else (s.incFld F.FAB_CNT_POISON_RX_VALUE n).set1 F.FAB_STATUS_POISON_RX

/-- An answer with the tag of no outstanding request (R310). -/
def State.lateRsp (s : State) : State := (s.incFld F.FAB_CNT_LATE_RSP_VALUE 1).set1 F.FAB_STATUS_LATE_RSP

/-- The outstanding request of an answer. -/
def State.reqOf (s : State) (tag : Nat) : Option FabReq := s.fab.reqs.find? (fun r => r.tag == tag)

/-- It is no longer outstanding. -/
def State.dropReq (s : State) (r : FabReq) : State := s.setReqs (s.fab.reqs.erase r)

/-! ## Identity and the check unit -/

/-- A queue is ACTIVE. -/
def State.anyActive (s : State) : Bool :=
  s.que.q.any (fun x => match x.2 with
    | some q => q.state == 1
    | none => false)

/-- A write of FAB_ID (R313). -/
def State.fabIdWrite (s : State) (v : Word) : State :=
  if s.anyActive || !s.fab.reqs.isEmpty then s.set1 F.FAB_STATUS_CFG_ERR else s.setReg R.FAB_ID (v &&& 0x1FFFF)

def execFabIdWrite (v : BitVec 64) (s : State) : Host.Outcome State Fault Refusal := .next (s.fabIdWrite v)

/-- The running value set; RESULT shows its complement (R325, R326). -/
def State.setMcrc (s : State) (v : Nat) : State :=
  (s.setFld F.FAB_MCRC_VALUE_VALUE v).setFld F.FAB_MCRC_RESULT_RESULT (v % 2 ^ 32 ^^^ 0xFFFFFFFF)

/-- Bytes fed to the check unit, least significant first (R325). -/
def State.mcrcFeed (s : State) (n v : Nat) : State := s.setMcrc (crcRun (s.fld F.FAB_MCRC_VALUE_VALUE) (leBytes n v))

def execFabMcrcData8 (v : BitVec 32) (s : State) : Host.Outcome State Fault Refusal := .next (s.mcrcFeed 1 v.toNat)

def execFabMcrcData16 (v : BitVec 32) (s : State) : Host.Outcome State Fault Refusal := .next (s.mcrcFeed 2 v.toNat)

def execFabMcrcData32 (v : BitVec 32) (s : State) : Host.Outcome State Fault Refusal := .next (s.mcrcFeed 4 v.toNat)

def execFabMcrcInit (_ : BitVec 32) (s : State) : Host.Outcome State Fault Refusal := .next (s.setMcrc 0xFFFFFFFF)

def execFabMcrcValueWrite (v : BitVec 32) (s : State) : Host.Outcome State Fault Refusal := .next (s.setMcrc v.toNat)

end Sys2Proof.Machine
end

