-- ==== Sys2Proof/Machine/Queue.lean ====
section
/-! DEFINITION. Hardware queues: contexts and their states (R315, R316), QUE_QCTL commands and doorbells (R321, R324,
R329). -/
namespace Sys2Proof.Machine

/-- Where a queue's context lies (R315). -/
def State.ctxAddr (s : State) (q : Nat) : Nat := s.fld F.QUE_CTX_BASE_BASE + 64 * q

/-- A context as its words read (R316). -/
def ctxOf (w : Nat → Nat) : Queue :=
  { ring := bitsOf (w 0) 0 48, log2 := bitsOf (w 0) 48 5, recv := bitsOf (w 0) 53 1 == 1, cls := bitsOf (w 0) 54 2
    state := quACTIVE, retry := bitsOf (w 0) 59 3, head := bitsOf (w 1) 0 32, tail := bitsOf (w 1) 32 32
    pdev := bitsOf (w 2) 0 16, pqid := bitsOf (w 2) 16 16, cred := bitsOf (w 2) 32 16, alive := bitsOf (w 2) 48 8
    opn := bitsOf (w 2) 56 1 == 1, buf := w 3, bsize := bitsOf (w 4) 0 32, token := bitsOf (w 4) 32 12
    tile := bitsOf (w 4) 44 8, tokEn := bitsOf (w 4) 52 1 == 1, infl := [], rx := QueRx.none, pays := [] }

/-- A queue command not allowed in the queue's state (R329). -/
def State.queRefuse (s : State) : State := s.set1 F.QUE_STATUS_CFG_ERR

/-- QUE_QCTL ENABLE: a DISABLED queue's context is loaded and the queue ACTIVE (R315, R316, R329); the context's words in memory,
stale from now on, are not written. -/
def State.queueEnable (s : State) (q : Nat) : State :=
  let a := s.ctxAddr q
  let x := ctxOf (fun k => s.num (a + 8 * k) 8)
  if (s.queue q).isSome then s.queRefuse
  else if x.log2 = 0 ∨ 16 < x.log2 then (s.noteReads (s.own srcQUE) a 64).queRefuse
  else (s.noteReads (s.own srcQUE) a 64).setQueue q (some x)

def execQueueEnable (m : Master) (q : BitVec 16) (s : State) : Host.Outcome State Fault Refusal :=
  .next ((s.noteBy m R.QUE_QCTL).queueEnable q.toNat)

/-- QUE_QCTL DISABLE: an ACTIVE or failed queue drains (R329). -/
def State.queueDisable (s : State) (q : Nat) : State :=
  match s.queue q with
  | some x => if x.state = quACTIVE ∨ x.state = quERROR then s.setQueue q (some { x with state := quDRAINING }) else s.queRefuse
  | none => s.queRefuse

def execQueueDisable (m : Master) (q : BitVec 16) (s : State) : Host.Outcome State Fault Refusal :=
  .next ((s.noteBy m R.QUE_QCTL).queueDisable q.toNat)

/-- QUE_QCTL RESET_ALIVE: ALIVE, EXP and OPEN cleared on a queue DISABLED or in ERROR (R324, R329). -/
def State.resetAlive (s : State) (q : Nat) : State :=
  match s.queue q with
  | some x => if x.state = quERROR then s.setQueue q (some { x with alive := 0, opn := false, rx := QueRx.none }) else s.queRefuse
  | none =>
    let a := s.ctxAddr q + 16
    s.writeBytes (s.own srcQUE) a (leBytes 8 (putBits (BitVec.ofNat 64 (s.num a 8)) 48 9 0).toNat) false

def execResetAlive (m : Master) (q : BitVec 16) (s : State) : Host.Outcome State Fault Refusal :=
  .next ((s.noteBy m R.QUE_QCTL).resetAlive q.toNat)

/-- The words of a queue's context (R316); reserved bits are zero. -/
def Queue.words (x : Queue) (state : Nat) : List Nat :=
  [ x.ring % 2 ^ 48 + x.log2 % 32 * 2 ^ 48 + b2n x.recv * 2 ^ 53 + x.cls % 4 * 2 ^ 54 + state * 2 ^ 56 + x.retry % 8 * 2 ^ 59
  , x.head % 2 ^ 32 + x.tail % 2 ^ 32 * 2 ^ 32
  , x.pdev % 2 ^ 16 + x.pqid % 2 ^ 16 * 2 ^ 16 + x.cred % 2 ^ 16 * 2 ^ 32 + x.alive % 256 * 2 ^ 48 + b2n x.opn * 2 ^ 56
  , x.buf
  , x.bsize % 2 ^ 32 + x.token % 4096 * 2 ^ 32 + x.tile % 256 * 2 ^ 44 + b2n x.tokEn * 2 ^ 52 ]

/-- A queue DISABLED: its whole cached context is written back (R315, R329). -/
def State.queueClose (s : State) (q : Nat) (x : Queue) : State :=
  (s.writeBytes (s.own srcQUE) (s.ctxAddr q) ((x.words quDISABLED).flatMap (leBytes 8)) false).setQueue q none

/-- A drained queue becomes DISABLED. -/
def execQueueDrainEnd (q : BitVec 16) (s : State) : Host.Outcome State Fault Refusal :=
  match s.queue q.toNat with
  | some x => if x.state ≠ quDRAINING ∨ x.infl.isEmpty = false then .next s else .next (s.queueClose q.toNat x)
  | none => .next s

/-- A CREDIT packet of `n` end-to-end credits (R303, R321); without a valid ID none leaves for another device (R313). -/
def State.sendCredit (s : State) (dev qid n : Nat) : State :=
  if !s.flag F.FAB_ID_VALID && dev != s.fld F.FAB_ID_ID then s.incFld F.FAB_CNT_DROP_NO_ROUTE_VALUE 1
  else s.fabPost { FabPkt.blank with
    opc := 0x07, vc := 4, dst := BitVec.ofNat 16 dev, src := BitVec.ofNat 16 (s.fld F.FAB_ID_ID), unit := BitVec.ofNat 16 srcQUE
    qid := BitVec.ofNat 16 qid, opnd := BitVec.ofNat 64 n }

/-- A SEND queue's doorbell: its new TAIL, neither backward nor beyond the ring (R317, R329). -/
def State.dbTail (s : State) (q v : Nat) (x : Queue) : State :=
  if idxDiff v x.head ≤ 2 ^ x.log2 ∧ idxDiff x.tail x.head ≤ idxDiff v x.head then s.setQueue q (some { x with tail := v })
  else s.queRefuse

/-- A RECV queue's doorbell: its new HEAD frees slots and returns that many credits (R321, R329). -/
def State.dbHead (s : State) (q v : Nat) (x : Queue) : State :=
  let n := idxDiff v x.head
  if idxDiff x.tail x.head < n then s.queRefuse
  else if n = 0 then s
  else (s.setQueue q (some { x with head := v })).sendCredit x.pdev x.pqid n

/-- A write of QUE_DB[q]; one to a DISABLED queue, whose indices the S7 does not hold, is refused (log entry 41). -/
def State.doorbell (s : State) (q v : Nat) : State :=
  match s.queue q with
  | some x => if x.recv then s.dbHead q v x else s.dbTail q v x
  | none => s.queRefuse

/-- The doorbell of a SEND queue. -/
def execQueDbTail (m : Master) (q : BitVec 16) (v : BitVec 32) (s : State) : Host.Outcome State Fault Refusal :=
  let s1 := s.noteBy m (R.QUE_DB q.toNat)
  match s1.queue q.toNat with
  | some x => .next (if x.recv then s1 else s1.dbTail q.toNat v.toNat x)
  | none => .next s1.queRefuse

/-- The doorbell of a RECV queue. -/
def execQueDbHead (m : Master) (q : BitVec 16) (v : BitVec 32) (s : State) : Host.Outcome State Fault Refusal :=
  let s1 := s.noteBy m (R.QUE_DB q.toNat)
  match s1.queue q.toNat with
  | some x => .next (if x.recv then s1.dbHead q.toNat v.toNat x else s1)
  | none => .next s1.queRefuse

/-- A write of QUE_QCTL (R329). -/
def State.qctlWrite (s : State) (v : Word) : State :=
  let q := bitsOf v.toNat 0 16
  match bitsOf v.toNat 16 2 with
  | 1 => s.queueEnable q
  | 2 => s.queueDisable q
  | 3 => s.resetAlive q
  | _ => s

/-- A write of QUE_CTX_BASE, refused while EN is 1 (R329); the base is a multiple of 64. -/
def State.ctxBaseWrite (s : State) (v : Word) : State :=
  if s.flag F.QUE_CTL_EN then s.queRefuse else s.setReg R.QUE_CTX_BASE (v &&& 0xFFFFFFFFFFFF)

end Sys2Proof.Machine
end

