-- ==== Sys2Proof/Machine/GreCtl.lean ====
section
/-! DEFINITION. Reduction channels: their configuration (R337, R338, R357), the ends a bucket can come to (R344, R346), the
acknowledgement of their messages. -/
namespace Sys2Proof.Machine

/-- Links of a channel (R338). -/
def State.greLinks (s : State) (c : Nat) : Nat :=
  match s.fld (F.GRE_CHAN_CFG_TOPO c) with
  | 0 => 1
  | 1 => 2
  | _ => 1 + s.fld (F.GRE_CHAN_CFG_CHILDREN c)

/-- A bucket's token (R344). -/
def State.grePay (s : State) (b : GreBucket) (flags : Nat) : State :=
  if b.te then s.postDone b.tile (.gre b.ord) b.token flags prodGRE else s

/-- A bucket of which nothing is left to do. -/
def State.greDrop (s : State) (b : GreBucket) : State :=
  s.setBuckets b.chan (s.gre.buckets.filter (fun x => x.ord != b.ord))

/-- A bucket's token is produced, the last that the engine does for it. -/
def State.greToken (s : State) (b : GreBucket) (flags : Nat) : State := (s.greDrop b).grePay b flags

/-- A complete bucket's token is produced; the bucket stays while pad blocks are still to arrive. -/
def State.greFinish (s : State) (b : GreBucket) (flags : Nat) : State :=
  if b.blks.all (fun y => y.fin) then s.greToken b flags
  else (s.setBuckets b.chan (s.gre.buckets.map (fun x => if x.ord = b.ord then
    { b with done := some (b.done.getD s.tide.delivered), paid := true } else x))).grePay b flags

/-- A bucket is complete: counted (R344). -/
def State.greCounted (s : State) (b : GreBucket) : State :=
  (s.incFld F.GRE_CNT_BUCKETS_VALUE 1).setFld (F.GRE_CHAN_SEQ_DONE_SEQ b.chan) (s.fld (F.GRE_CHAN_SEQ_DONE_SEQ b.chan) + 1)

/-- A bucket is complete and its token produced. -/
def State.greDone (s : State) (b : GreBucket) (flags : Nat) : State := (s.greCounted b).greToken b flags

/-- Every outstanding bucket of a channel completes with its token flagged ERROR; nothing further is written or expected. -/
def State.greFail (s : State) (c : Nat) : State :=
  (s.bucketsOf c).foldl (fun s b => s.greDone b flagERROR)
    (s.setBuckets c (s.gre.buckets.filter (fun b => !(b.chan == c && b.paid))))

/-- A channel enters ERROR (R346): the capture, the state, GRE_CHAN_ERROR, its buckets. Kinds 1 mismatch, 2 queue error,
3 stall. -/
def State.greChanError (s : State) (c kind link seq : Nat) : State :=
  let n := (s.bucketsOf c).length
  let s1 := if s.flag F.GRE_ERR_INFO_VALID then s else
    ((((s.set1 F.GRE_ERR_INFO_VALID).setFld F.GRE_ERR_INFO_KIND kind).setFld F.GRE_ERR_INFO_CHAN c).setFld
      F.GRE_ERR_INFO_LINK link).setFld F.GRE_ERR_INFO_SEQ seq
  let s2 := ((s1.setFld (F.GRE_CHAN_STATE_STATE c) 2).setFld (F.GRE_CHAN_STATE_ERR_KIND c) kind).set1 F.GRE_STATUS_CHAN_ERROR
  (s2.logDeliv srcGRE 0x0A09 true [(1, c), (1, kind), (1, n)]).greFail c

/-- The channel and link a queue of the firmware range serves (R338). -/
def State.greOfQueue (s : State) (q : Nat) : Option (Nat × Nat) :=
  (List.range 256).findSome? (fun c =>
    let b := s.fld (F.GRE_CHAN_LINK_QBASE c)
    if s.fld (F.GRE_CHAN_STATE_STATE c) = 1 ∧ b ≤ q ∧ q < b + 2 * s.greLinks c then some (c, (q - b) / 2) else none)

/-- A link queue in ERROR puts its channel in ERROR (R346). -/
def State.greQueueError (s : State) (q : Nat) : State :=
  match s.greOfQueue q with
  | some (c, l) => s.greChanError c 2 l ((s.bucketsOf c).head?.map (fun b => b.seq) |>.getD (s.fld (F.GRE_CHAN_SEQ_NEXT_SEQ c)))
  | none => s

/-- A message of a bucket is acknowledged (R344). -/
def State.greAcked (s : State) (c seq : Nat) : State :=
  match (s.bucketsOf c).find? (fun b => b.seq == seq) with
  | some b => s.setBucket { b with unacked := b.unacked - 1, quiet := 0 }
  | none => s

/-- A configuration write refused. -/
def State.greRefuse (s : State) : State := s.set1 F.GRE_STATUS_CFG_ERR

/-- The conditions for a write of 1 to CFG.EN (R357). -/
def State.greCfgOk (s : State) (c : Nat) (v : Word) : Bool :=
  let topo := bitsOf v.toNat 1 2
  let p := bitsOf v.toNat 16 15
  let pos := bitsOf v.toNat 32 15
  let kids := bitsOf v.toNat 5 3
  let links := if topo = 0 then 1 else if topo = 1 then 2 else 1 + kids
  let qb := s.fld (F.GRE_CHAN_LINK_QBASE c)
  let pin := s.fld (F.GRE_CHAN_LINK_P_IN c)
  topo != 3 && decide (1 ≤ p) && decide (p ≤ 16384) && decide (pos < p) && decide (kids ≤ 4)
    && (topo != 1 || (decide (2 ≤ pin) && p % pin == 0)) && qb % 2 == 0 && decide (qb + 2 * links ≤ 1024)
    && (bitsOf v.toNat 4 1 == 0 || decide (c < 16)) && (pos != 0 || bitsOf v.toNat 48 16 == s.fld F.FAB_ID_ID)

/-- A channel's link queue that is in ERROR already: the first of them, if any. -/
def State.greBadQueue (s : State) (c : Nat) : Option Nat :=
  ((List.range (2 * s.greLinks c)).map (fun k => s.fld (F.GRE_CHAN_LINK_QBASE c) + k)).find? (fun q =>
    match s.queue q with
    | some x => x.state == quERROR
    | none => false)

/-- A channel enabled: its numbers rise from 0 (R343). A link queue in ERROR puts it in ERROR at once (R346). -/
def State.greEnable (s : State) (c : Nat) (v : Word) : State :=
  if s.flag (F.GRE_CHAN_CFG_EN c) then s.greRefuse
  else if !s.greCfgOk c v then s.greRefuse
  else
    let s1 := ((s.setReg (R.GRE_CHAN_CFG c) (v &&& 0xFFFF7FFF7FFF0FFF)).setReg (R.GRE_CHAN_SEQ c) 0).setReg (R.GRE_CHAN_STATE c) 1
    match s1.greBadQueue c with
    | some q => s1.greChanError c 2 ((q - s.fld (F.GRE_CHAN_LINK_QBASE c)) / 2) 0
    | none => s1

/-- A channel disabled: its outstanding buckets complete with ERROR (R357). The other fields of CFG stand. -/
def State.greDisable (s : State) (c : Nat) : State :=
  ((s.greFail c).setFld (F.GRE_CHAN_CFG_EN c) 0).setFld (F.GRE_CHAN_STATE_STATE c) 0

/-- A write of a channel's CFG (R357). -/
def State.greCfgWrite (s : State) (c : Nat) (v : Word) : State :=
  if v.getLsbD 0 then s.greEnable c v
  else if s.flag (F.GRE_CHAN_CFG_EN c) then s.greDisable c
  else s.setReg (R.GRE_CHAN_CFG c) (v &&& 0xFFFF7FFF7FFF0FFF)

/-- A write of a channel's LINK or INIT, refused while it is enabled (R357). -/
def State.greLinkWrite (s : State) (c : Nat) (v : Word) : State :=
  if s.flag (F.GRE_CHAN_CFG_EN c) then s.greRefuse else s.setReg (R.GRE_CHAN_LINK c) (v &&& 0x7FFF03FF)

def State.greInitWrite (s : State) (c : Nat) (v : Word) : State :=
  if s.flag (F.GRE_CHAN_CFG_EN c) then s.greRefuse else s.setReg (R.GRE_CHAN_INIT c) (v &&& 0xFFFF)

/-- A write of CFG with EN = 1. -/
def execGreChanEnable (m : Master) (c : Fin 256) (v : BitVec 64) (s : State) : Host.Outcome State Fault Refusal :=
  let s1 := s.noteBy m (R.GRE_CHAN_CFG c)
  .next (if v.getLsbD 0 then s1.greEnable c v else s1)

/-- A write of CFG with EN = 0 on an enabled channel. -/
def execGreChanDisable (m : Master) (c : Fin 256) (v : BitVec 64) (s : State) : Host.Outcome State Fault Refusal :=
  let s1 := s.noteBy m (R.GRE_CHAN_CFG c)
  .next (if !v.getLsbD 0 && s1.flag (F.GRE_CHAN_CFG_EN c) then s1.greDisable c else s1)

end Sys2Proof.Machine
end

