-- ==== Sys2Proof/Machine/Power.lean ====
section
/-! DEFINITION. The power and thermal controller (R369 to R386), budget shifting (R387 to R393) and the low-power states
(R394 to R400). Frequencies are in MHz, voltages in mV. The controller's clock is its commands: PWR_ACTIVITY_ESTIMATE every µs,
PWR_CONTROL_INTERVAL every 10 µs, PWR_CALIBRATION every ms. -/
namespace Sys2Proof.Machine

/-! ## Flash and the factory record's current limits -/

/-- A byte of the flash; an erased byte reads 0xFF (log entry 15). -/
def State.flashByte (s : State) (o : Nat) : Byte := Store.get (fun _ => 0xFF) s.flash o

/-- `n` bytes of the flash. -/
def State.flashBytes (s : State) (o n : Nat) : List Byte := (List.range n).map (fun k => s.flashByte (o + k))

/-- The core-rail current limit of a die, in A (R375, R435). -/
def State.ilimit (s : State) (d : Nat) : Nat := leNat (s.flashBytes (0x20300 + 2 * d) 2)

/-! ## Caps and frequencies -/

/-- The effective cap without the coolant reduction. -/
def State.capBudget (s : State) : Nat := min 2800 (max 900 ((s.fld F.PWR_CTL_CAP : Int) + s.pwr.delta).toNat)

/-- PWR_STATUS.CAP_EFF follows CAP, the budget moves and the coolant reduction (R374). -/
def State.capUpdate (s : State) : State := s.setFld F.PWR_STATUS_CAP_EFF (max 900 (s.capBudget - s.pwr.cool))

/-- The level frequency of a cap (R384): the entry at or below it, in steps of 50 W from 900 W, of the booted image's level table
(R428); before an image is booted the entries the manual prints, the others free (log entry 42). -/
def State.levelFreq (s : State) (cap : Nat) : Nat :=
  match s.fw.level[cap / 50 - 18]? with
  | some f => f
  | none =>
    match cap / 50 * 50 with
    | 900 => 1200
    | 1200 => 1600
    | 1600 => 2100
    | 2000 => 2500
    | 2400 => 2850
    | 2800 => 3200
    | c => Config.levelFreq c

/-- The highest frequency the part may run at: the level frequency in level mode, else 3.3 GHz (R371, R384). -/
def State.topFreq (s : State) : Nat := if s.flag F.PWR_CTL_LEVEL_EN then s.levelFreq (s.fld F.PWR_CTL_CAP) else 3300

/-- Throttle reasons (R381), as bits. -/
def rsCAP : Nat := 1
def rsCURRENT : Nat := 2
def rsDROOP : Nat := 4
def rsJUNC : Nat := 8
def rsCOOL : Nat := 16
def rsHOST : Nat := 32
def rsDONATED : Nat := 64

/-- Throttle times accounted up to `time` for the reasons active until now (R381). -/
def State.pwrTime (s : State) (time : Nat) : State :=
  let dt := time - s.pwr.last
  let s1 := (List.range 7).foldl (fun s r =>
    if s.pwr.active.testBit r then s.incFld (F.PWR_THR_TIME_NS r) dt else s) s
  let s2 := if s.pwr.active = 0 then s1 else s1.incFld (F.PWR_THR_TIME_NS 7) dt
  { s2 with pwr := { s2.pwr with last := max time s.pwr.last } }

/-- Reasons that become active: their time counts from now, and PWR_STATUS.REASONS shows them for this interval (R381, log entry 123). -/
def State.addReason (s : State) (r : Nat) : State :=
  ({ s with pwr := { s.pwr with active := s.pwr.active ||| r } }).orFld F.PWR_STATUS_REASONS r

/-- Reasons that end: PWR_STATUS.REASONS goes on showing them until the next interval. -/
def State.dropReason (s : State) (r : Nat) : State := { s with pwr := { s.pwr with active := s.pwr.active &&& (127 - r) } }

/-- A reason other than DROOP that holds the frequency below the level frequency is a breach, logged once per breach (R385). -/
def State.levelBreach (s : State) : State :=
  let f := s.fld F.PWR_STATUS_FREQ
  let low := s.flag F.PWR_CTL_LEVEL_EN && decide (f < s.topFreq) && s.pwr.active &&& 123 != 0
  let s1 := if low && !s.pwr.breach then
      (s.set1 F.PWR_STATUS_LEVEL_BREACH).logDeliv srcPWR 0x0C06 false
        [(1, ((List.range 7).find? (fun r => r != 2 && s.pwr.active.testBit r)).getD 0), (2, f)]
    else s
  { s1 with pwr := { s1.pwr with breach := low } }

/-- The frequency set at once; an increase that waited is dropped. -/
def State.forceFreq (s : State) (f : Nat) : State :=
  { s.setFld F.PWR_STATUS_FREQ f with pwr := { s.pwr with pend := none } }

/-- The highest of the 85 steps that passes a test, 1.2 GHz where none does. -/
def topStep (ok : Nat → Bool) : Nat :=
  1200 + 25 * ((List.range 85).foldl (fun b k => if ok k then k else b) 0)

/-! ## Rails (R370) -/

/-- `x` moves toward `y` by at most `n`. -/
def toward (x y n : Nat) : Nat := if x ≤ y then min y (x + n) else max y (x - n)

/-- The voltage a die's rail goes to: the table's for the frequency, or for the increase that waits; the retention voltage with entry
step 5 in effect; 0 for a die held powered down. -/
def State.railGoal (s : State) (d : Nat) : Nat :=
  if !s.diesUp then 0
  else if s.pwr.steps = 5 then s.fld (F.PWR_VF_MV d 85)
  else s.vf d (s.pwr.pend.getD (s.fld F.PWR_STATUS_FREQ))

/-- The rails after 1 µs: each slews by at most 10 mV. -/
def State.slew (s : State) : State := s.setRails (fun d => toward (s.pwr.rails.getD d 0) (s.railGoal d) 10)

/-- Every die's rail has reached the table voltage of a frequency. -/
def State.railsReach (s : State) (f : Nat) : Bool := (List.range 4).all (fun d => decide (s.vf d f ≤ s.pwr.rails.getD d 0))

/-- The increase that waits applies once every rail has reached the new step's voltage (R370). -/
def execFrequencyIncreaseApply (s : State) : Host.Outcome State Fault Refusal :=
  match s.pwr.pend with
  | some f => .next (if s.railsReach f then s.forceFreq f else s)
  | none => .next s

/-! ## Estimates (R372) -/

/-- The sum of counts, each times the energy of its kind. -/
def weigh (energy : Nat → Nat) (counts : List Nat) : Nat := (counts.zipIdx.map (fun (x : Nat × Nat) => x.1 * energy x.2)).sum

/-- A tile's estimate for 1 µs in pJ. -/
def tileEst (counts : List Nat) : Nat := weigh Config.eventPj counts

/-- A die's estimate for 1 µs in pJ: its tiles and its uncore, the leakage term at the hottest junction and the rail's voltage. -/
def State.dieEst (s : State) (p : PwrSample) (d : Nat) : Nat :=
  ((p.tiles.filter (fun x => x.1.val / 36 == d)).map (fun x => tileEst x.2)).sum + weigh Config.uncorePj (p.bytes.getD d [])
    + Config.leakPj d (p.temps.getD d 0) (s.pwr.rails.getD d 0)

/-- A die's last estimate, calibrated, in 2^-14 pJ (R373): over 1 µs that is its power in 2^-14 µW. -/
def State.calEst (s : State) (d : Nat) : Nat := s.pwr.est.getD d 0 * s.fld (F.PWR_CAL_K d)

/-- A die's predicted power at a frequency in µW: its last estimate scaled by f·V² (R374). Before the table is loaded its voltages are 0,
and nothing is predicted (log entry 125). -/
def State.predDie (s : State) (f d : Nat) : Nat :=
  s.calEst d * (f * s.vf d f ^ 2) / (16384 * (s.pwr.estF * s.vf d s.pwr.estF ^ 2))

/-- The predicted module total at a frequency in µW: the dies, and the memory and auxiliary rails as measured. -/
def State.predTotal (s : State) (f : Nat) : Nat := ((List.range 4).map (s.predDie f)).sum + 1000 * s.pwr.aux

/-- Every die's predicted current at a frequency keeps its limit (R375): power over voltage, in A. A die without a rail has none. -/
def State.currentOk (s : State) (f : Nat) : Bool :=
  (List.range 4).all (fun d => s.pwr.rails.getD d 0 == 0 || decide (s.predDie f d ≤ s.ilimit d * 1000 * s.vf d f))

/-- A die's estimated current exceeds its limit now (R375). -/
def State.overCurrent (s : State) : Bool :=
  (List.range 4).any (fun d =>
    s.pwr.rails.getD d 0 != 0 && decide (s.ilimit d * 1000 * s.pwr.rails.getD d 0 * 16384 < s.calEst d))

/-! ## The control interval (R371) -/

/-- One control interval (R371, R374 to R376, R378, R384, R385): the lowest ceiling is chosen; a decrease applies at once, an increase
of at most four steps waits for the rails. -/
def execPwrControlInterval (time : Nat) (s : State) : Host.Outcome State Fault Refusal :=
  let s0 := s.pwrTime time
  let cap := s0.fld F.PWR_STATUS_CAP_EFF
  let power := topStep (fun k => decide (s0.predTotal (1200 + 25 * k) ≤ cap * 1000000))
  let current := topStep (fun k => s0.currentOk (1200 + 25 * k))
  let host := if s0.flag F.PWR_HOST_BRAKE then 1200 else s0.fld F.PWR_HOST_FMAX
  let junc := if s0.pwr.crit then 1200 else s0.pwr.junc
  let top := s0.topFreq
  let f := min (min (min power current) (min host junc)) (min top 3300)
  let binds (c : Nat) : Bool := c == f && decide (c < top)
  let base := s0.fld F.PWR_CTL_CAP - s0.pwr.cool
  let reasons := (if binds power && decide (base ≤ cap) then rsCAP else 0) ||| (if binds current then rsCURRENT else 0)
    ||| (if s0.pwr.stretch ≠ 0 then rsDROOP else 0) ||| (if binds junc then rsJUNC else 0)
    ||| (if s0.pwr.cool ≠ 0 && binds power then rsCOOL else 0)
    ||| (if binds host || s0.flag F.PWR_HOST_BRAKE then rsHOST else 0)
    ||| (if binds power && decide (cap < base) then rsDONATED else 0)
  let s1 := ({ s0 with pwr := { s0.pwr with active := reasons, fmaxOn := binds (s0.fld F.PWR_HOST_FMAX) } }).setFld
    F.PWR_STATUS_REASONS reasons
  let cur := s1.fld F.PWR_STATUS_FREQ
  if f ≤ cur then .next (s1.forceFreq f).levelBreach
  else .next ({ s1 with pwr := { s1.pwr with pend := some (min f (cur + 100)) } }).levelBreach

/-! ## Energies, calibration, temperatures -/

/-- A µJ counter raised by an amount in `unit`ths of a µJ, with its remainder. -/
def energyAdd (rem x unit : Nat) : Nat × Nat := ((rem + x) / unit, (rem + x) % unit)

/-- A tile's energy raised by its calibrated estimate (R382): the estimate in pJ times the die's K, unsigned 2.14. -/
def State.tileEnergy (s : State) (t pj : Nat) : State :=
  let r := energyAdd (Store.get (fun _ => 0) s.pwr.tileRem t) (pj * s.fld (F.PWR_CAL_K (t / 36))) (1000000 * 16384)
  let s1 := s.incFld (F.PWR_TILE_ENERGY_UJ t) r.1
  { s1 with pwr := { s1.pwr with tileRem := Store.put (fun _ => 0) s1.pwr.tileRem t r.2 } }

/-- The measured energies of 1 µs counted (R382), and the estimates formed (R372); both are summed for the millisecond (R373). -/
def State.estimate (s : State) (p : PwrSample) : State :=
  let s1 := p.tiles.foldl (fun s x => s.tileEnergy x.1 (tileEst x.2)) s
  let dev := energyAdd s1.pwr.devRem p.input 1000
  let s2 := s1.incFld F.PWR_ENERGY_DEV_UJ dev.1
  let dies := (List.range 4).map (fun d => energyAdd (s2.pwr.dieRem.getD d 0) (p.dies.getD d 0) 1000)
  let s3 := dies.zipIdx.foldl (fun s x => s.incFld (F.PWR_ENERGY_DIE_UJ x.2) x.1.1) s2
  let est := (List.range 4).map (s.dieEst p)
  let s4 := { s3 with pwr := { s3.pwr with
    devRem := dev.2, dieRem := dies.map (fun (x : Nat × Nat) => x.2), est := est, estF := s.fld F.PWR_STATUS_FREQ, aux := p.aux
    msEst := (List.range 4).map (fun d => s3.pwr.msEst.getD d 0 + est.getD d 0)
    msMeas := (List.range 4).map (fun d => s3.pwr.msMeas.getD d 0 + p.dies.getD d 0), msIn := s3.pwr.msIn + p.input } }
  { s4 with pwr := { s4.pwr with msTot := s4.pwr.msTot + ((List.range 4).map s4.calEst).sum + p.aux * 1000 * 16384 } }

/-- Entry steps done so many µs after the entry began (R396). -/
def entryDone (us : Nat) : Nat :=
  if us < 1 then 0 else if us < 11 then 1 else if us < 12 then 2 else if us < 13 then 3 else if us < 28 then 4 else 5

/-- An entry under way goes on for 1 µs. -/
def State.entryTick (s : State) : State :=
  match s.pwr.entering with
  | some st => ({ s with pwr := { s.pwr with entryUs := s.pwr.entryUs + 1 } }).entryTo st (entryDone (s.pwr.entryUs + 1))
  | none => s

/-- 1 µs of the controller: rails slew, an entry goes on, energies are counted, estimates formed, and a die over its current limit costs
four steps at once, until the next interval (R370, R372, R375, R382, R396). -/
def execPwrActivityEstimate (p : PwrSample) (s : State) : Host.Outcome State Fault Refusal :=
  let s1 := ((s.pwrTime p.time).slew.entryTick).estimate p
  if s1.overCurrent then
    .next ((s1.forceFreq (max 1200 (s1.fld F.PWR_STATUS_FREQ - 100))).addReason rsCURRENT).levelBreach
  else .next s1

/-- A die's correction factor after a millisecond (R373), in units of 2^-14, from the measured and the estimated energy in one unit; and
whether it left its range. -/
def calStep (k meas est : Nat) : Nat × Bool :=
  let x : Nat := if est = 0 then Config.calNoEstimate k meas else (3 * k * est + meas * 16384) / (4 * est)
  if x < 12288 then (12288, true) else if 21790 < x then (21790, true) else (x, false)

/-- A millisecond ends (R373): each die's factor is updated, the module total and the input power are reported in W, and the sums start
again. -/
def execPwrCalibration (s : State) : Host.Outcome State Fault Refusal :=
  let s1 := (List.range 4).foldl (fun s d =>
    let r := calStep (s.fld (F.PWR_CAL_K d)) (1000 * s.pwr.msMeas.getD d 0) (s.pwr.msEst.getD d 0)
    let s2 := s.setFld (F.PWR_CAL_K d) r.1
    if r.2 then (s2.set1 F.PWR_STATUS_CAL_RANGE).logDeliv srcPWR 0x0C01 false [(1, d), (2, r.1)] else s2) s
  let s2 := (s1.setFld F.PWR_POWER_P_EST (min 65535 (s.pwr.msTot / (16384 * 1000000000)))).setFld F.PWR_POWER_P_MEAS
    (min 65535 (s.pwr.msIn / 1000000))
  .next { s2 with pwr := { s2.pwr with msEst := [0, 0, 0, 0], msMeas := [0, 0, 0, 0], msTot := 0, msIn := 0 } }

/-- The junction ceiling moves a step; 110 °C forces 1.2 GHz (R378). `temps` are the 64 sensors, 16 a die. -/
def execJunctionStep (temps : List Nat) (s : State) : Host.Outcome State Fault Refusal :=
  let hot := temps.foldl max 0
  let lim := s.fld F.PWR_CTL_JUNC_THROTTLE
  let j := if lim ≤ hot then max 1200 (s.pwr.junc - 25) else if hot + 2 ≤ lim then min 3300 (s.pwr.junc + 25) else s.pwr.junc
  let s1 := { s.setFld F.PWR_POWER_TJ_MAX (min hot 255) with pwr := { s.pwr with junc := j, crit := decide (110 ≤ hot) } }
  if 110 ≤ hot ∧ s.pwr.crit = false then
    let k := (temps.idxOf? hot).getD 0
    .next (((((s1.forceFreq 1200).addReason rsJUNC).set1 F.PWR_STATUS_JUNC_CRIT).logDeliv srcPWR 0x0C02 true
      [(1, k / 16), (1, k % 16), (1, hot)])).levelBreach
  else .next s1

/-- The coolant sensors (R380). -/
def execCoolantSample (inlet outlet : Nat) (s : State) : Host.Outcome State Fault Refusal :=
  let cut := 100 * max (inlet - s.fld F.PWR_CTL_COOL_IN_MAX) (outlet - s.fld F.PWR_CTL_COOL_OUT_MAX)
  let s1 := (s.setFld F.PWR_POWER_COOL_IN (min inlet 255)).setFld F.PWR_POWER_COOL_OUT (min outlet 255)
  let s2 := ({ s1 with pwr := { s1.pwr with cool := cut } }).capUpdate
  if s.pwr.cool = 0 ∧ cut ≠ 0 then .next (s2.logDeliv srcPWR 0x0C04 true [(1, inlet), (1, outlet), (2, cut)]) else .next s2

/-! ## Droop (R377) -/

/-- The supply below which a die's detector trips: the table voltage less DROOP_MV. -/
def State.droopAt (s : State) (d : Nat) : Nat := s.vf d (s.fld F.PWR_STATUS_FREQ) - s.fld F.PWR_CTL_DROOP_MV

/-- A die's supply, the lowest of its four points, in mV: below the threshold its clock is stretched, and its count of calm ac starts
again. -/
def execDroopTrip (die : Fin 4) (supply time : Nat) (s : State) : Host.Outcome State Fault Refusal :=
  if s.droopAt die ≤ supply then .next s
  else
    let s1 := s.pwrTime time
    .next (({ s1 with pwr := { s1.pwr with
      stretch := s1.pwr.stretch ||| 1 <<< die.val, calm := s1.pwr.calm.set die 0 } }).addReason rsDROOP)

/-- Consecutive supplies above a threshold, after `n` before them; the count stops at 256, which ends a stretch. -/
def calmRun (at' : Nat) : Nat → List Nat → Nat
  | n, [] => n
  | n, x :: xs => if 256 ≤ n then n else calmRun at' (if at' < x then n + 1 else 0) xs

/-- A stretched die's supply in its next stretched ac: after 256 consecutive ones above the threshold the stretch ends. -/
def execDroopStretchEnd (die : Fin 4) (supplies : List Nat) (time : Nat) (s : State) : Host.Outcome State Fault Refusal :=
  if !s.pwr.stretch.testBit die then .next s
  else
    let s1 := s.pwrTime time
    let n := calmRun (s1.droopAt die) (s1.pwr.calm.getD die 0) supplies
    if n < 256 then .next { s1 with pwr := { s1.pwr with calm := s1.pwr.calm.set die n } }
    else
      let m := s1.pwr.stretch &&& (15 - 1 <<< die.val)
      let s2 := { s1 with pwr := { s1.pwr with stretch := m, calm := s1.pwr.calm.set die 0 } }
      .next (if m = 0 then s2.dropReason rsDROOP else s2)

/-! ## Power brake (R376) -/

/-- PWRBRK# asserted: 1.2 GHz, held until the next interval and while asserted. -/
def execPwrBrake (time : Nat) (s : State) : Host.Outcome State Fault Refusal :=
  if s.flag F.PWR_HOST_BRAKE then .next s
  else
    let s1 := (s.pwrTime time).set1 F.PWR_HOST_BRAKE
    let f := s1.takeFresh
    .next (((f.1.forceFreq 1200).addReason rsHOST).logDeliv srcPWR 0x0C05 true [(4, Config.brakeUs f.2)]).levelBreach

/-- PWRBRK# deasserted: the brake no longer counts as HOST_LIMIT; FMAX goes on counting where it binds. -/
def execPwrBrakeRelease (time : Nat) (s : State) : Host.Outcome State Fault Refusal :=
  if !s.flag F.PWR_HOST_BRAKE then .next s
  else
    let s1 := (s.pwrTime time).setFld F.PWR_HOST_BRAKE 0
    .next (if s1.pwr.fmaxOn then s1 else s1.dropReason rsHOST)

/-! ## Register writes (R402) -/

/-- A write refused for a field out of range. -/
def State.pwrRefuse (s : State) : State := s.set1 F.PWR_STATUS_CFG_ERR

/-- A field of a word lies in a range. -/
def inRange (v : Word) (lo w a b : Nat) : Bool := decide (a ≤ bitsOf v.toNat lo w) && decide (bitsOf v.toNat lo w ≤ b)

/-- A write of PWR_CTL (R384, R402). A member starts with an effective cap equal to CAP (R387). -/
def State.pwrCtl (s : State) (v : Word) : State :=
  if (v.getLsbD 0 && v.getLsbD 1) || !(inRange v 16 12 900 2800 && inRange v 32 7 10 100 && inRange v 40 8 70 105
      && inRange v 48 8 15 50 && inRange v 56 8 25 70) then s.pwrRefuse
  else
    let was := s.flag F.PWR_CTL_BUDGET_EN
    let s1 := s.setReg R.PWR_CTL (v &&& 0xFFFFFF7F0FFF0003)
    let s2 := if was = v.getLsbD 1 then s1 else
      { s1 with pwr := { s1.pwr with delta := 0, quiet := 0, lost := false, moves := [] } }
    s2.capUpdate

def execPwrCtlWrite (v : BitVec 64) (s : State) : Host.Outcome State Fault Refusal := .next (s.pwrCtl v)

/-- A write of PWR_HOST.FMAX. -/
def State.pwrHostWrite (s : State) (v : Word) : State :=
  if inRange v 0 12 1200 3300 && bitsOf v.toNat 0 12 % 25 == 0 then s.setFld F.PWR_HOST_FMAX (bitsOf v.toNat 0 12)
  else s.pwrRefuse

/-- A write of PWR_STATE: NEXT and WATCH_MS, and the W1C REFUSED. -/
def State.pwrStateWrite (s : State) (v : Word) : State :=
  if inRange v 16 14 1 10000 then
    let s1 := (s.setFld F.PWR_STATE_NEXT (bitsOf v.toNat 0 2)).setFld F.PWR_STATE_WATCH_MS (bitsOf v.toNat 16 14)
    if v.getLsbD 8 then s1.setFld F.PWR_STATE_REFUSED 0 else s1
  else s.pwrRefuse

/-- A write of PWR_QENERGY: the base is a multiple of 8. -/
def State.qenergyWrite (s : State) (v : Word) : State :=
  if bitsOf v.toNat 0 3 = 0 then s.setReg R.PWR_QENERGY (v &&& 0x8000FFFFFFFFFFFF) else s.pwrRefuse

/-- A write of PWR_GRP_CTL. -/
def State.grpCtlWrite (s : State) (v : Word) : State :=
  if inRange v 32 4 3 15 && inRange v 40 11 0 1900 then s.setReg R.PWR_GRP_CTL (v &&& 0xFF07FF0F01FFFFFF) else s.pwrRefuse

/-- A write of PWR_GRP_CFG. -/
def State.grpCfgWrite (s : State) (v : Word) : State :=
  if inRange v 0 9 1 256 && decide (bitsOf v.toNat 16 10 < bitsOf v.toNat 32 10) then
    s.setReg R.PWR_GRP_CFG (v &&& 0x3FF03FF01FF)
  else s.pwrRefuse

/-- A write of a word of PWR_GRP_MOVE; its last word makes the move stand for the controller. -/
def State.moveWrite (s : State) (w : Nat) (v : Word) : State :=
  let s1 := s.setReg (R.PWR_GRP_MOVE w) v
  if w = 3 then { s1 with pwr := { s1.pwr with moveNew := true } } else s1

/-- A write of PWR_GRP_ACK[i]. -/
def State.ackWrite (s : State) (i : Nat) (v : Word) : State :=
  let s1 := s.setReg (R.PWR_GRP_ACK i) (v &&& 0xFFFFFFFFFFF)
  { s1 with pwr := { s1.pwr with ackNew := s1.pwr.ackNew.erase i ++ [i] } }

/-! ## Budget traffic (R387 to R393) -/

/-- A budget message: words written into a register of another device's PWR_ block, or of this one's. -/
def State.budgetSend (s : State) (dev addr : Nat) (ws : List Nat) (here : State → State) : State :=
  if dev = s.fld F.FAB_ID_ID then here s
  else
    let bs := (ws.flatMap (leBytes 8)).map (fun b => (b, false))
    s.fabSend ({ FabPkt.blank with
      opc := 0x02, vc := 0, dst := BitVec.ofNat 16 dev, addr := BitVec.ofNat 48 addr, unit := BitVec.ofNat 16 srcPWR }.carry bs) .none

/-- The report of tide `t` into the master's inbox (R388). -/
def State.budgetReport (s : State) (t : Nat) : State :=
  let i := s.fld F.PWR_GRP_CTL_INDEX
  let ws := [t + s.fld F.FAB_ID_ID * 2 ^ 48, s.fld F.TIDE_SLACK_SLACK + s.fld F.TIDE_SLACK_OVERRUN_STREAMS * 2 ^ 32,
    s.fld F.PWR_CTL_CAP + s.capBudget * 2 ^ 16, 0]
  s.budgetSend (s.fld F.PWR_GRP_CTL_MASTER_ID) (R.PWR_GRP_INBOX i 0) ws (fun s =>
    ws.zipIdx.foldl (fun s w => s.setReg (R.PWR_GRP_INBOX i w.2) (BitVec.ofNat 64 w.1)) s)

/-- A member's acknowledgement (R390, R391). -/
def State.budgetAck (s : State) (round : Nat) : State :=
  let i := s.fld F.PWR_GRP_CTL_INDEX
  let w := round % 2 ^ 32 + s.capBudget * 2 ^ 32
  s.budgetSend (s.fld F.PWR_GRP_CTL_MASTER_ID) (R.PWR_GRP_ACK i) [w] (fun s => s.ackWrite i (BitVec.ofNat 64 w))

/-- A move applied (R390). -/
def State.applyMove (s : State) (m : PwrMove) : State :=
  let s1 := { s with pwr := { s.pwr with delta := (m.cap : Int) - (s.fld F.PWR_CTL_CAP : Int) } }
  ((s1.capUpdate).setFld F.PWR_GRP_STATUS_ROUND m.round).budgetAck m.round

/-- A move message from the master. -/
def State.sendMove (s : State) (i cap teff seq kind : Nat) : State :=
  let ws := [teff + s.fld F.FAB_ID_ID * 2 ^ 48, cap % 4096 + kind * 2 ^ 16, seq, 0]
  s.budgetSend (s.fld (F.PWR_GRP_MEMBER_DEVICE_ID i)) (R.PWR_GRP_MOVE 0) ws (fun s =>
    ws.zipIdx.foldl (fun s w => s.moveWrite w.2 (BitVec.ofNat 64 w.1)) s)

/-- A member as the master knows it: index, tide of its latest report (none: never reported), CAP, effective cap, slack,
overrunning streams. -/
structure Member where
  i    : Nat
  tide : Option Nat
  cap  : Nat
  eff  : Nat
  slack : Nat
  ovr  : Nat
  deriving DecidableEq, Repr

/-- The members of the group (R387): the VALID entries below MEMBERS. One that has never reported counts at 2,800 W (log
entry 46). -/
def State.members (s : State) : List Member :=
  ((List.range (s.fld F.PWR_GRP_CFG_MEMBERS)).filter (fun i => s.flag (F.PWR_GRP_MEMBER_VALID i))).map (fun i =>
    let w (k : Nat) : Nat := (s.reg (R.PWR_GRP_INBOX i k)).toNat
    if w 2 = 0 then ⟨i, none, 0, 2800, 0, 0⟩
    else ⟨i, some (bitsOf (w 0) 0 48), bitsOf (w 2) 0 12, bitsOf (w 2) 16 12, bitsOf (w 1) 0 32, bitsOf (w 1) 32 16⟩)

/-- Budget given out in order: each entry (index, effective cap, most) takes or gives what is left. -/
def share : Nat → List (Nat × Nat) → List (Nat × Nat)
  | _, [] => []
  | left, (i, most) :: xs => if left = 0 then [] else (i, min left most) :: share (left - min left most) xs

/-- Insertion of members by an order. -/
def insertMember (lt : Member → Member → Bool) (m : Member) : List Member → List Member
  | [] => [m]
  | x :: xs => if lt m x then m :: x :: xs else x :: insertMember lt m xs

def sortMembers (lt : Member → Member → Bool) (ms : List Member) : List Member :=
  ms.foldl (fun l m => insertMember lt m l) []

/-- What R389 decides: donors and recipients with their new effective caps. -/
def roundMoves (budget period lo hi moveMax : Nat) (all rep : List Member) : List (Nat × Nat) × List (Nat × Nat) :=
  let low (m : Member) : Bool := decide (m.slack * 1024 < lo * period)
  let high (m : Member) : Bool := decide (hi * period < m.slack * 1024)
  let wants (m : Member) : Bool := decide (0 < m.ovr) || low m
  let want (m : Member) : Nat := if wants m then min moveMax (2800 - m.eff) else 0
  let give (m : Member) : Nat :=
    if wants m then 0 else if high m then min moveMax (m.eff - 900) else if m.cap < m.eff then min moveMax (m.eff - m.cap) else 0
  let free : Int := (budget : Int) - ((all.map (fun m => m.eff)).sum : Nat)
  let m : Int := min (free + ((rep.map give).sum : Nat)) ((rep.map want).sum : Nat)
  let donors := sortMembers (fun a b => decide (b.slack < a.slack)) (rep.filter (fun x => decide (0 < give x)))
  let recips := sortMembers (fun a b => decide (b.ovr < a.ovr) || (a.ovr == b.ovr && decide (a.slack < b.slack)))
    (rep.filter (fun x => decide (0 < want x)))
  let take := share (max 0 (m - free)).toNat (donors.map (fun x => (x.i, give x)))
  let add := share m.toNat (recips.map (fun x => (x.i, want x)))
  let eff (i : Nat) : Nat := ((all.find? (fun x => x.i == i)).map (fun x => x.eff)).getD 0
  (take.map (fun x => (x.1, eff x.1 - x.2)), add.map (fun x => (x.1, eff x.1 + x.2)))

/-- The increases of the round are written once every decrease is acknowledged (R390). -/
def State.roundIncrease (s : State) : State :=
  match s.pwr.round with
  | some r =>
    if r.dec.isEmpty && !r.sent then
      let s1 := r.incs.foldl (fun s x => s.sendMove x.1 x.2 r.teff r.seq 1) s
      { s1 with pwr := { s1.pwr with
        round := if r.incs.isEmpty then none else some { r with sent := true } } }
    else s
  | none => s

/-- The master runs a round (R389 to R391), at most one per tide and none before the last has finished. -/
def execBudgetRound (s : State) : Host.Outcome State Fault Refusal :=
  let t := s.tide.delivered - 2
  if !s.flag F.PWR_GRP_CTL_IS_MASTER || s.pwr.round.isSome || decide (s.tide.delivered < 2)
      || s.pwr.roundAt == s.tide.delivered then .next s
  else
    let all := s.members
    let rep := all.filter (fun m => m.tide == some t && decide (s.pwr.lastTeff < t))
    let mv := roundMoves (s.fld F.PWR_GRP_BUDGET_BUDGET) (s.fld F.TIDE_PERIOD_PERIOD) (s.fld F.PWR_GRP_CFG_SLACK_LO)
      (s.fld F.PWR_GRP_CFG_SLACK_HI) (s.fld F.PWR_GRP_CTL_MOVE_MAX) all rep
    let teff := t + s.fld F.PWR_GRP_CTL_MOVE_LEAD
    let seq := (s.pwr.seq + 1) % 2 ^ 32
    let moved := mv.1.map (fun x => x.1) ++ mv.2.map (fun x => x.1)
    let s1 := mv.1.foldl (fun s x => s.sendMove x.1 x.2 teff seq 0) s
    let s2 := (all.filter (fun m => !moved.contains m.i)).foldl (fun s m => s.sendMove m.i m.eff teff seq 2) s1
    let r : PwrRound := ⟨seq, teff, mv.1.map (fun x => x.1), mv.2, false, mv.2.map (fun x => x.1)⟩
    .next ({ s2 with pwr := { s2.pwr with
      seq := seq, lastTeff := teff, roundAt := s.tide.delivered, round := some r } }).roundIncrease

/-- The move standing in PWR_GRP_MOVE: T_eff, cap, increase, hold, round. -/
def State.theMove (s : State) : Nat × Nat × Bool × Bool × Nat :=
  let w (k : Nat) : Nat := (s.reg (R.PWR_GRP_MOVE k)).toNat
  (bitsOf (w 0) 0 48, bitsOf (w 1) 0 12, bitsOf (w 1) 16 1 == 1, bitsOf (w 1) 17 1 == 1, bitsOf (w 2) 0 32)

/-- A move message taken: it counts under R393. -/
def State.moveHeard (s : State) : State := { s with pwr := { s.pwr with moveNew := false, quiet := 0, lost := false } }

/-- A decrease arrives (R390). -/
def execBudgetDecreaseRx (s : State) : Host.Outcome State Fault Refusal :=
  let (teff, cap, inc, hold, seq) := s.theMove
  if !s.pwr.moveNew || inc || hold then .next s
  else
    let s1 := s.moveHeard
    if teff ≤ s.tide.delivered then .next (s1.applyMove ⟨teff, cap, seq⟩)
    else .next { s1 with pwr := { s1.pwr with moves := s1.pwr.moves ++ [⟨teff, cap, seq⟩] } }

/-- An increase arrives (R390). -/
def execBudgetIncreaseRx (s : State) : Host.Outcome State Fault Refusal :=
  let (teff, cap, inc, hold, seq) := s.theMove
  if !s.pwr.moveNew || !inc || hold then .next s
  else
    let s1 := s.moveHeard
    if s.tide.delivered < teff then .next { s1 with pwr := { s1.pwr with moves := s1.pwr.moves ++ [⟨teff, cap, seq⟩] } }
    else if s.tide.delivered = teff then
      .next { s1 with pwr := { s1.pwr with moves := s1.pwr.moves ++ [⟨teff + 1, cap, seq⟩] } }
    else
      .next ((((s1.incFld F.PWR_GRP_STATUS_DISCARDED 1).set1 F.PWR_STATUS_LATE_MOVE).logDeliv srcPWR 0x0C08 false
        [(4, seq), (8, teff)]).budgetAck seq)

/-- A hold message (R391). -/
def execBudgetHoldRx (s : State) : Host.Outcome State Fault Refusal :=
  let (_, _, _, hold, seq) := s.theMove
  if !s.pwr.moveNew || !hold then .next s else .next (s.moveHeard.budgetAck seq)

/-- An acknowledgement of member `i` reaches the master (R390). -/
def execBudgetAckRx (i : Fin 256) (s : State) : Host.Outcome State Fault Refusal :=
  if !s.pwr.ackNew.contains i.val then .next s
  else
    let s1 := { s with pwr := { s.pwr with ackNew := s.pwr.ackNew.erase i.val } }
    match s1.pwr.round with
    | some r =>
      if s1.fld (F.PWR_GRP_ACK_ROUND i) ≠ r.seq then .next s1
      else
        let r1 := { r with dec := r.dec.erase i.val, wait := if r.sent then r.wait.erase i.val else r.wait }
        if r1.sent && r1.wait.isEmpty then .next { s1 with pwr := { s1.pwr with round := none } }
        else .next ({ s1 with pwr := { s1.pwr with round := some r1 } }).roundIncrease
    | none => .next s1

/-- No move message for MASTER_TMO tides (R393). -/
def execBudgetMasterLost (s : State) : Host.Outcome State Fault Refusal :=
  if !s.flag F.PWR_CTL_BUDGET_EN || s.pwr.lost || decide (s.pwr.quiet < max 1 (s.fld F.PWR_GRP_CTL_MASTER_TMO)) then .next s
  else
    let s1 := ({ s with pwr := { s.pwr with delta := min 0 s.pwr.delta, lost := true } }).capUpdate
    .next ((s1.set1 F.PWR_STATUS_MASTER_LOST).logDeliv srcPWR 0x0C07 true
      [(2, s1.fld F.PWR_GRP_CTL_MASTER_ID), (2, s1.capBudget)])

/-- A queue's counter raised by the transport energy of the bytes it moved over the fabric, in the near tier and in the deep tier
(R383); what is below 1 µJ is carried, as R382 says of the other counters (log entry 45). -/
def State.queEnergy (s : State) (q : Nat) (bytes : List Nat) : State :=
  let r := energyAdd (Store.get (fun _ => 0) s.pwr.queRem q) (weigh Config.transportPj bytes) 1000000
  let a := s.fld F.PWR_QENERGY_BASE + 8 * q
  let s1 := s.devWrite srcPWR a (leBytes 8 (s.num a 8 + r.1)) false
  { s1 with pwr := { s1.pwr with queRem := Store.put (fun _ => 0) s1.pwr.queRem q r.2 } }

/-- What the controller does at the delivery of a tide (R383, R388, R390): queue energies, its report, moves due, the end of
a round. -/
def State.pwrTide (s : State) (d : Nat) : State :=
  let s1 := if s.flag F.PWR_QENERGY_EN then s.pwr.moved.foldl (fun s m => s.queEnergy m.1 [m.2.1, m.2.2.1, m.2.2.2]) s else s
  let s2 := { s1 with pwr := { s1.pwr with moved := [] } }
  if !s2.flag F.PWR_CTL_BUDGET_EN then s2
  else
    let s3 := s2.budgetReport (d - 1)
    let due := s3.pwr.moves.filter (fun m => decide (m.tide ≤ d))
    let s4 := { s3 with pwr := { s3.pwr with
      moves := s3.pwr.moves.filter (fun m => decide (d < m.tide)), quiet := s3.pwr.quiet + 1 } }
    let s5 := due.foldl (fun s m => s.applyMove m) s4
    match s5.pwr.round with
    | some r => if r.teff + 2 ≤ d then { s5 with pwr := { s5.pwr with round := none } } else s5
    | none => s5

/-! ## Low-power states (R394 to R400) -/

/-- A doorbell bit is set and unmasked; with DB_EN that is a wake source (R397). -/
def State.belled (s : State) : Bool :=
  s.flag F.PWR_WATCH_THR_DB_EN && (List.range 6).any (fun a => s.reg (R.MBX_DB a) &&& ~~~ s.reg (R.MBX_DB_MASK a) != 0)

/-- Why an entry into `next` is refused; 0 where it is not (R395). `wake` is a wake source outside the device's registers that is
pending; a doorbell wakes from every state but Retention. -/
def State.entryRefusal (s : State) (next : Nat) (wake : Bool) : Nat :=
  let busy := (List.range 144).any (fun t =>
    (List.range 8).any (fun st => decide (1 ≤ s.stState t st) && decide (s.stState t st ≤ 5))
    || !((s.tile t).mxaQ.isEmpty && (s.tile t).lxeQ.isEmpty && (s.tile t).postQ.isEmpty && (s.tile t).speQ.isEmpty))
  if busy then 1
  else if next ≠ 1 ∧ s.que.q.any (fun x => decide (1024 ≤ x.1)) then 2
  else if next ≠ 1 ∧ s.flag F.GRE_CTL_EN then 3
  else if next ≠ 1 ∧ s.fab.reqs.isEmpty = false then 4
  else if wake ∨ (next ≠ 3 ∧ s.belled = true) then 5
  else 0

/-- The management processor waits with NEXT set (R395, R396). -/
def execPwrStateEnter (wake : Bool) (s : State) : Host.Outcome State Fault Refusal :=
  let next := s.fld F.PWR_STATE_NEXT
  if next = 0 then .next s
  else
    let r := s.entryRefusal next wake
    if r ≠ 0 then
      .next (((s.setFld F.PWR_STATE_REFUSE r).set1 F.PWR_STATE_REFUSED).logDeliv srcPWR 0x0C09 false [(1, next), (1, r)])
    else if next = 1 then .next ((s.setFld F.PWR_STATE_CUR 1).setFld F.PWR_STATE_REFUSE 0)
    else .next { s.setFld F.PWR_STATE_REFUSE 0 with pwr := { s.pwr with entering := some next, entryUs := 0, steps := 0 } }

/-- The last entry step completes (R396): the steps not yet done are, and the new state is current. In Retention the tide unit stops
(R394). -/
def execLowPowerEntryComplete (s : State) : Host.Outcome State Fault Refusal :=
  match s.pwr.entering with
  | none => .next s
  | some st =>
    let s0 := s.entryTo st 5
    let s1 := ({ s0.setFld F.PWR_STATE_CUR st with pwr := { s0.pwr with entering := none } }).askL1
    if st = 3 then
      .next { s1 with tide := { s1.tide with
        locked := false, marks := [], held := false, gapHere := false, masterNext := none, pend := [] } }
    else .next s1

/-- A wake source (R394, R397, R398): from Retention only a host access, the wake signal or the SMBus wakes. -/
def execPowerWake (causes : BitVec 9) (detail : BitVec 8) (s : State) : Host.Outcome State Fault Refusal :=
  let c := if s.fld F.PWR_STATE_CUR = 3 then causes.toNat &&& 0x1C0 else causes.toNat
  if c = 0 ∨ (s.fld F.PWR_STATE_CUR = 0 ∧ s.pwr.entering.isNone = true) then .next s else .next (s.wake c detail.toNat)

/-- The Watch sampler compares and wakes on a crossing (R397). A value at its threshold crosses. The detail is that of the lowest cause:
the doorbell bit, the junction sensor, coolant sensor 0 (the inlet), the first port without a heartbeat. -/
def execWatchSample (w : WatchData) (s : State) : Host.Outcome State Fault Refusal :=
  if s.fld F.PWR_STATE_CUR ≠ 2 then .next s
  else
    let hot := decide (s.fld F.PWR_WATCH_THR_JUNC_HI ≤ w.junc)
    let warm := decide (s.fld F.PWR_WATCH_THR_COOL_HI ≤ w.cool)
    let lost := (List.range 16).filter (fun p => (s.fld F.PWR_WATCH_THR_HB_PORTS).testBit p && !w.ports.getLsbD p)
    let causes := (if s.belled then 2 else 0) + (if hot then 4 else 0) + (if warm then 8 else 0) + (if lost.isEmpty then 0 else 16)
    let bit := ((List.range 6).findSome? (fun a =>
      (List.range 64).find? (fun k => (s.reg (R.MBX_DB a) &&& ~~~ s.reg (R.MBX_DB_MASK a)).getLsbD k))).getD 0
    let detail := if s.belled then bit else if hot then w.sensor.toNat else if warm then 0 else lost.headD 0
    if causes = 0 then .next s else .next (s.wake causes detail)

end Sys2Proof.Machine
end

