-- ==== Sys2Proof/Machine/Mailbox.lean ====
section
/-! DEFINITION. Mailbox channels (R409 to R414), doorbells (R412) and MSI-X (R408). -/
namespace Sys2Proof.Machine

/-! ## MSI-X (R408) -/

/-- A pending message goes once its vector may send. -/
def State.flushVector (s : State) (v : Nat) : State :=
  if (s.reg R.MBX_PBA).getLsbD v && s.vectorOpen v && !(decide (32 ≤ v) && s.host.sentTide.contains v) then
    (s.setReg R.MBX_PBA (s.reg R.MBX_PBA &&& ~~~ BitVec.ofNat 64 (1 <<< v))).sendVector v
  else s

/-- Every pending message that may go. -/
def State.flushVectors (s : State) : State := (List.range 64).foldl (fun s v => s.flushVector v) s

/-- A write of a word of the MSI-X table. -/
def State.msixWrite (s : State) (v w : Nat) (x : Word) : State :=
  (s.setReg (R.MBX_MSIX v w) (if w = 1 then x &&& 0x1FFFFFFFF else x)).flushVector v

/-- The message pending on a vector is sent. -/
def execMsixPendingSend (v : Fin 64) (s : State) : Host.Outcome State Fault Refusal := .next (s.flushVector v)

/-! ## Doorbells (R412) -/

/-- Doorbell bit `c` of an agent set: for the host, unmasked and newly set, vector `c` is signalled. Senders in hardware have
no doorbell. -/
def State.ring (s : State) (a c : Nat) : State :=
  if 5 < a then s
  else
    let bit : Word := BitVec.ofNat 64 (1 <<< c)
    let was := (s.reg (R.MBX_DB a)).getLsbD c
    let s1 := s.setReg (R.MBX_DB a) (s.reg (R.MBX_DB a) ||| bit)
    if a = 0 ∧ was = false ∧ (s.reg (R.MBX_DB_MASK 0)).getLsbD c = false then s1.signal c else s1

/-- A write of an agent's mask: a set bit of the host that it unmasks is signalled (R408). -/
def State.dbMaskWrite (s : State) (a : Nat) (v : Word) : State :=
  let old := s.reg (R.MBX_DB_MASK a)
  let s1 := s.setReg (R.MBX_DB_MASK a) (v &&& 0xFFFFFFFF)
  if a ≠ 0 then s1
  else (List.range 32).foldl (fun s c =>
    if old.getLsbD c && !v.getLsbD c && (s.reg (R.MBX_DB 0)).getLsbD c then s.signal c else s) s1

/-! ## Channels -/

/-- Mailbox status codes (R18). -/
def mbOK : Nat := 0
def mbBUSY : Nat := 1
def mbABORTED : Nat := 2
def mbINVALID : Nat := 3
def mbDENIED : Nat := 4
def mbTIMEOUT : Nat := 5
def mbNOSPACE : Nat := 6
def mbVERIFY : Nat := 7

/-- Channel states (R411). -/
def chIDLE : Nat := 0
def chPENDING : Nat := 1
def chTAKEN : Nat := 2
def chDONE : Nat := 3

/-- A byte of a channel's buffers: 0x000 request, 0x400 reply. Buffers read 0 before they are written (log entry 11). -/
def State.mbByte (s : State) (c o : Nat) : Byte := Store.get (fun _ => 0) s.mbox (c * 0x800 + o)

def State.mbBytes (s : State) (c o n : Nat) : List Byte := (List.range n).map (fun k => s.mbByte c (o + k))

/-- Bytes put into a channel's buffers, poisoned or clean. -/
def State.mbStore (s : State) (c o : Nat) (bs : List Byte) (bad : Bool) : State :=
  { s with
    mbox := bs.zipIdx.foldl (fun m b => Store.put (fun _ => 0) m (c * 0x800 + o + b.2) b.1) s.mbox
    mboxBad := (List.range bs.length).foldl (fun m k => Store.put (fun _ => false) m (c * 0x800 + o + k) bad) s.mboxBad }

/-- Bytes put into a channel's buffers, by the S7 itself. -/
def State.mbPut (s : State) (c o : Nat) (bs : List Byte) : State := s.mbStore c o bs false

/-- Some byte of a stretch of a channel's buffers is poisoned (R453). -/
def State.mbPoison (s : State) (c o n : Nat) : Bool :=
  (List.range n).any (fun k => Store.get (fun _ => false) s.mboxBad (c * 0x800 + o + k))

/-- The request header: CMD, LEN, CRC_EN, TAG, CRC (R410). -/
def State.mbCmd (s : State) (c : Nat) : Nat := leNat (s.mbBytes c 0 2)
def State.mbLen (s : State) (c : Nat) : Nat := bitsOf (leNat (s.mbBytes c 0 4)) 16 11
def State.mbCrcEn (s : State) (c : Nat) : Bool := bitsOf (leNat (s.mbBytes c 0 4)) 27 1 == 1
def State.mbTag (s : State) (c : Nat) : Nat := leNat (s.mbBytes c 4 4)
def State.mbCrc (s : State) (c : Nat) : Nat := leNat (s.mbBytes c 8 4)

/-- The request's payload. -/
def State.mbPayload (s : State) (c : Nat) : List Byte := s.mbBytes c 16 (min 1008 (s.mbLen c))

/-- A reply put into the reply buffer: header, DETAIL, payload (R410). -/
def State.mbReply (s : State) (c status detail : Nat) (payload : List Byte) : State :=
  s.mbPut c 0x400 (leBytes 8 (status + payload.length * 2 ^ 16 + s.mbTag c * 2 ^ 32) ++ leBytes 8 detail ++ payload)

/-- A reply buffer's payload cleared. -/
def State.mbClearReply (s : State) (c : Nat) : State := s.mbPut c 0x410 (List.replicate 1008 0)

/-- A management packet of this device (R413): a reply of the proxy to a device. -/
def State.mgmtReply (s : State) (c dev tag : Nat) (bs : List Byte) : State :=
  s.fabPost ({ FabPkt.blank with
    opc := 0x20, vc := 6, dst := BitVec.ofNat 16 dev, src := BitVec.ofNat 16 (s.fld F.FAB_ID_ID), tag := BitVec.ofNat 32 tag
    unit := BitVec.ofNat 16 srcMBX, opnd := BitVec.ofNat 64 (c + 32) }.carry (bs.map (fun b => (b, false))))

/-- A channel reaches DONE: the sender's doorbell bit is set; the fabric manager proxy returns the reply and releases the
channel (R411, R413). -/
def State.chDone (s : State) (c : Nat) : State :=
  let tx := s.fld (F.MBX_CH_STATUS_TX_AGENT c)
  let s1 := (s.setFld (F.MBX_CH_STATUS_STATE c) chDONE).ring tx c
  if tx = 7 then { s1 with mod := { s1.mod with db := s1.mod.db ||| 1 <<< c } }
  else if tx = 6 then
    let w := Store.get (fun _ => (0, 0)) s1.proxy c
    let n := 16 + min 1008 (bitsOf (leNat (s1.mbBytes c 0x400 4)) 16 11)
    (s1.mgmtReply c w.1 w.2 (s1.mbBytes c 0x400 n)).setFld (F.MBX_CH_STATUS_STATE c) chIDLE
  else s1

/-- SEND (R411). -/
def State.chSend (s : State) (c : Nat) : State :=
  let st := s.fld (F.MBX_CH_STATUS_STATE c)
  if st ≠ chIDLE then
    (s.set1 (F.MBX_CH_STATUS_OVERSEND c)).logDev srcMBX 0x0D03 false [(2, c), (1, st)]
  else if s.mbCmd c / 0x8000 % 2 = 1 ∧ s.flag (F.MBX_CH_STATUS_SECURE c) = false then
    (((s.mbReply c mbDENIED 0 []).logDev srcMBX 0x0D01 false [(2, c), (2, s.mbCmd c), (4, s.mbTag c)])).chDone c
  else
    let rx := s.fld (F.MBX_CH_STATUS_RX_AGENT c)
    (((s.setFld (F.MBX_CH_STATUS_STATE c) chPENDING).incFld (F.MBX_CH_CNT_SENT c) 1).ring rx c).capture 0
      (s.mbPoison c 0 (16 + min 1008 (s.mbLen c))) (leBytes 8 (c + rx * 2 ^ 8) ++ s.mbBytes c 0 (16 + min 1008 (s.mbLen c)))

/-- TAKE (R411). -/
def State.chTake (s : State) (c : Nat) : State :=
  if s.fld (F.MBX_CH_STATUS_STATE c) = chPENDING then s.setFld (F.MBX_CH_STATUS_STATE c) chTAKEN else s

/-- REPLY (R411). -/
def State.chReply (s : State) (c : Nat) : State :=
  match s.fld (F.MBX_CH_STATUS_STATE c) with
  | 2 => s.chDone c
  | 1 => ((s.mbClearReply c).mbReply c mbBUSY 0 []).chDone c
  | _ => s

/-- RELEASE (R411). -/
def State.chRelease (s : State) (c : Nat) : State :=
  if s.fld (F.MBX_CH_STATUS_STATE c) = chDONE then
    let s1 := s.setFld (F.MBX_CH_STATUS_STATE c) chIDLE
    { s1 with mod := { s1.mod with db := if s1.mod.db.testBit c then s1.mod.db - 1 <<< c else s1.mod.db } }
  else s

/-- A write of MBX_CH_CTL: its bits act in the order SEND, TAKE, REPLY, RELEASE (log entry 47). -/
def State.chCtlWrite (s : State) (c : Nat) (v : Word) : State :=
  let s1 := if v.getLsbD 0 then s.chSend c else s
  let s2 := if v.getLsbD 1 then s1.chTake c else s1
  let s3 := if v.getLsbD 2 then s2.chReply c else s2
  if v.getLsbD 3 then s3.chRelease c else s3

/-- A write of a byte of a channel's buffers by a master: the request buffer in IDLE, the reply buffer in TAKEN, else it is
ignored (R411). -/
def State.mbWrite (s : State) (c o : Nat) (bs : List Byte) (bad : Bool) : State :=
  let st := s.fld (F.MBX_CH_STATUS_STATE c)
  if (o < 0x400 ∧ st = chIDLE) ∨ (0x400 ≤ o ∧ st = chTAKEN) then s.mbStore c o bs bad
  else s.set1 (F.MBX_CH_STATUS_WRITE_IGNORED c)

def execSend (c : Fin 24) (s : State) : Host.Outcome State Fault Refusal := .next (s.chSend c)

def execTake (c : Fin 24) (s : State) : Host.Outcome State Fault Refusal := .next (s.chTake c)

def execReply (c : Fin 24) (s : State) : Host.Outcome State Fault Refusal := .next (s.chReply c)

def execRelease (c : Fin 24) (s : State) : Host.Outcome State Fault Refusal := .next (s.chRelease c)

/-- A channel whose receiver is reset (R414): its buffers are cleared, and an outstanding request is answered
ABORTED_RX_RESET. -/
def State.chAbort (s : State) (c : Nat) : State :=
  let st := s.fld (F.MBX_CH_STATUS_STATE c)
  let tag := s.mbTag c
  let s1 := s.mbPut c 0 (List.replicate 0x800 0)
  if st = chPENDING ∨ st = chTAKEN then
    (((s1.mbPut c 0x400 (leBytes 8 (mbABORTED + tag * 2 ^ 32))).incFld (F.MBX_CH_CNT_ABORTED c) 1).logDev srcMBX 0x0D02 false
      [(2, c), (1, s.fld (F.MBX_CH_STATUS_RX_AGENT c)), (4, tag)]).chDone c
  else s1

/-- A write of MBX_WIN (R425): the window's base lies in the register regions. -/
def State.winWrite (s : State) (v : Word) : State :=
  let a := bitsOf v.toNat 24 24 <<< 24
  match regionOf a with
  | .tileRegs => s.setReg R.MBX_WIN (v &&& 0xFFFFFF000000)
  | .devRegs => s.setReg R.MBX_WIN (v &&& 0xFFFFFF000000)
  | .diag => s.setReg R.MBX_WIN (v &&& 0xFFFFFF000000)
  | _ => s.set1 F.MBX_STATUS_CFG_ERR

/-- A write of MBX_BAR2: a multiple of the BAR2 size (R425). -/
def State.bar2Write (s : State) (v : Word) : State :=
  if v.toNat % 2 ^ s.host.bar2Log2 = 0 then s.setReg R.MBX_BAR2 v else s.set1 F.MBX_STATUS_CFG_ERR

end Sys2Proof.Machine
end

