-- ==== Sys2Proof/Machine/Key.lean ====
section
/-! DEFINITION. The key unit and the management processor's registers of boot, trial, measurement, attestation and watchdog
(R438, R443 to R445, R447, R455, R468), and SHA3-512. -/
namespace Sys2Proof.Machine

/-! ## SHA3-512 (FIPS 202) -/

/-- A lane rotated left. -/
def rotLane (x n : Nat) : Nat := (x <<< (n % 64) ||| x >>> (64 - n % 64)) % 2 ^ 64

/-- The rotation offsets by lane (x + 5 y). -/
def keccakRot : List Nat := [0, 1, 62, 28, 27, 36, 44, 6, 55, 20, 3, 10, 43, 25, 39, 41, 45, 15, 21, 8, 18, 2, 61, 56, 14]

/-- The round constants. -/
def keccakRC : List Nat :=
  [0x1, 0x8082, 0x800000000000808A, 0x8000000080008000, 0x808B, 0x80000001, 0x8000000080008081, 0x8000000000008009, 0x8A,
    0x88, 0x80008009, 0x8000000A, 0x8000808B, 0x800000000000008B, 0x8000000000008089, 0x8000000000008003, 0x8000000000008002,
    0x8000000000000080, 0x800A, 0x800000008000000A, 0x8000000080008081, 0x8000000000008080, 0x80000001, 0x8000000080008008]

/-- One round of Keccak-f[1600]. -/
def keccakRound (a : List Nat) (rc : Nat) : List Nat :=
  let g (k : Nat) : Nat := a.getD k 0
  let c := (List.range 5).map (fun x => g x ^^^ g (x + 5) ^^^ g (x + 10) ^^^ g (x + 15) ^^^ g (x + 20))
  let d := (List.range 5).map (fun x => c.getD ((x + 4) % 5) 0 ^^^ rotLane (c.getD ((x + 1) % 5) 0) 1)
  let t := (List.range 25).map (fun k => g k ^^^ d.getD (k % 5) 0)
  let b := (List.range 25).map (fun k =>
    let x := (k % 5 + 3 * (k / 5)) % 5
    let y := k % 5
    rotLane (t.getD (x + 5 * y) 0) (keccakRot.getD (x + 5 * y) 0))
  (List.range 25).map (fun k =>
    let y := k / 5 * 5
    let v := b.getD k 0 ^^^ ((2 ^ 64 - 1 - b.getD ((k + 1) % 5 + y) 0) &&& b.getD ((k + 2) % 5 + y) 0)
    if k = 0 then v ^^^ rc else v)

/-- Keccak-f[1600]. -/
def keccakF (a : List Nat) : List Nat := keccakRC.foldl keccakRound a

/-- Blocks of 72 bytes absorbed. -/
def sha3Absorb : Nat → List Byte → List Nat → List Nat
  | 0, _, a => a
  | n + 1, bs, a =>
    if bs.isEmpty then a
    else sha3Absorb n (bs.drop 72) (keccakF (a.zipIdx.map (fun x =>
      if x.2 < 9 then x.1 ^^^ leNat ((bs.drop (8 * x.2)).take 8) else x.1)))

/-- The padding of SHA3-512. -/
def sha3Pad (n : Nat) : List Byte :=
  let k := 72 - n % 72
  if k = 1 then [0x86] else 0x06 :: List.replicate (k - 2) 0 ++ [0x80]

/-- The 64 bytes of the SHA3-512 of bytes. -/
def sha3 (bs : List Byte) : List Byte :=
  let m := bs ++ sha3Pad bs.length
  ((sha3Absorb (m.length / 72) m (List.replicate 25 0)).take 8).flatMap (leBytes 8)

/-! ## Measurements (R443) -/

/-- A measurement's 64 bytes. -/
def State.meas (s : State) (i : Nat) : List Byte := (List.range 8).flatMap (fun w => leBytes 8 (s.reg (R.MGP_MEAS i w)).toNat)

/-- A measurement set. -/
def State.setMeas (s : State) (i : Nat) (bs : List Byte) : State :=
  (List.range 8).foldl (fun s w => s.setReg (R.MGP_MEAS i w) (BitVec.ofNat 64 (leNat ((bs.drop (8 * w)).take 8)))) s

/-- Measurement `i` extended with 64 bytes; 0 and 1 are refused. -/
def State.extend (s : State) (i : Nat) (data : List Byte) : State :=
  if i < 2 then s.set1 F.MGP_ATT_CTL_EXT_REFUSED else s.setMeas i (sha3 (s.meas i ++ data))

/-- A write of INDEX: the measurement is extended with the data registers. -/
def State.measExt (s : State) (i : Nat) : State :=
  s.extend i ((List.range 8).flatMap (fun w => leBytes 8 (s.reg (R.MGP_MEAS_EXT_DATA w)).toNat))

def execMgpMeasExt (m : Master) (index : BitVec 3) (s : State) : Host.Outcome State Fault Refusal :=
  .next ((s.noteBy m R.MGP_MEAS_EXT).measExt index.toNat)

/-! ## Trial timer and watchdog (R438, R455) -/

/-- A reset in progress absorbs a request for one of narrower scope (R418): a cold reset a warm one and a restart, a warm reset a
restart. The trial timer's restart is not absorbed: the reset in progress waits for the very image it gives up (log entry 126). -/
def absorbed (going kind : Nat) : Bool :=
  (going == 1 && decide (kind < 5)) || ((going == 2 || going == 3) && kind == 4)

/-- A reset asked for (R417); one already asked for stands. -/
def State.askReset (s : State) (kind : Nat) : State :=
  if absorbed s.fw.kind kind || s.fw.sched.contains kind then s
  else { s with fw := { s.fw with sched := s.fw.sched ++ [kind] } }

/-- The ms left on the trial timer, which counts down in the tide unit's local time of 0.25 ns (R438); while it is not armed, what its
register holds. -/
def State.trialLeft (s : State) : Nat :=
  if s.flag F.MGP_TRIAL_ARMED then 120000 - (s.tide.now - s.fw.trialAt) / 4000000 else s.fld F.MGP_TRIAL_REMAIN_MS

/-- MGP_TRIAL as it reads. -/
def State.trialWord (s : State) : Word := BitVec.ofNat 64 (putBits (s.reg R.MGP_TRIAL) 0 17 s.trialLeft).toNat

/-- The trial timer stopped; the trial stays RUNNING. -/
def State.trialStop (s : State) : State := (s.setFld F.MGP_TRIAL_REMAIN_MS s.trialLeft).setFld F.MGP_TRIAL_ARMED 0

def execMgpTrialStop (m : Master) (s : State) : Host.Outcome State Fault Refusal :=
  .next (s.noteBy m R.MGP_TRIAL).trialStop

/-- The trial timer expires: a management processor restart. -/
def execMgpTrialExpire (s : State) : Host.Outcome State Fault Refusal :=
  if !s.flag F.MGP_TRIAL_ARMED || s.trialLeft != 0 then .next s
  else .next ((((s.setFld F.MGP_TRIAL_ARMED 0).setFld F.MGP_TRIAL_REMAIN_MS 0).set1 F.MGP_TRIAL_EXPIRED).askReset 5)

/-- KICK reloads the watchdog. -/
def State.wdtKick (s : State) : State := s.setFld F.MGP_WDT_REMAIN_MS (s.fld F.MGP_WDT_TIMEOUT_MS)

def execMgpWdtKick (m : Master) (s : State) : Host.Outcome State Fault Refusal :=
  .next (s.noteBy m R.MGP_WDT).wdtKick

/-- The watchdog reaches 0; during a restart or a wider reset it is absorbed (R418). -/
def execMgpWdtExpire (s : State) : Host.Outcome State Fault Refusal :=
  if !s.flag F.MGP_WDT_EN || s.fw.kind != 0 then .next s
  else
    let s1 := ((s.setFld F.MGP_WDT_REMAIN_MS 0).set1 F.MGP_WDT_EXPIRED).askReset 4
    .next { s1 with fw := { s1.fw with wdtLog := true } }

/-- A write of MGP_WDT's fields: TIMEOUT_MS out of range refuses the whole write (R467). `w1` holds the one-shot bits. -/
def State.wdtWrite (s : State) (v w1 : Word) : State :=
  if !inRange v 0 16 10 60000 then s.set1 F.EVT_STATUS_CFG_ERR
  else
    let s1 := (s.setFld F.MGP_WDT_TIMEOUT_MS (bitsOf v.toNat 0 16)).setFld F.MGP_WDT_EN (bitsOf v.toNat 16 1)
    let s2 := if w1.getLsbD 18 then s1.setFld F.MGP_WDT_EXPIRED 0 else s1
    if w1.getLsbD 17 then s2.wdtKick else s2

/-- A write of DCP_HB. -/
def State.dcpHbWrite (s : State) (d : Nat) (v : Word) : State :=
  if !inRange v 0 16 10 10000 then s.set1 F.EVT_STATUS_CFG_ERR
  else ((s.setFld (F.DCP_HB_PERIOD_MS d) (bitsOf v.toNat 0 16)).setFld (F.DCP_HB_MISS_MAX d) (bitsOf v.toNat 16 4)).setFld
    (F.DCP_HB_EN d) (bitsOf v.toNat 20 1)

/-- A die controller reads MGP_HB (R456): the read that makes MISS_MAX consecutive reads without a change reports it. A controller
held in reset reads nothing (R433). -/
def execDcpHeartbeatCheck (die : Fin 4) (s : State) : Host.Outcome State Fault Refusal :=
  if !s.flag (F.DCP_HB_EN die) || s.fw.held then .next s
  else
    let n := s.fld F.MGP_HB_COUNT
    let old := s.fw.hb.getD die.val 0
    let s1 := { s with fw := { s.fw with hb := s.fw.hb.set die.val n } }
    if n ≠ old then .next (s1.setFld (F.DCP_HB_MISSES die) 0)
    else
      let m := s.fld (F.DCP_HB_MISSES die) + 1
      let lim := max 1 (s.fld (F.DCP_HB_MISS_MAX die))
      let s2 := s1.setFld (F.DCP_HB_MISSES die) (min 15 m)
      if m = lim then
        let s3 := s2.logDev (srcDCP die.val) 0x0F02 true [(1, die.val), (4, n)]
        .next (if die.val = 0 then s3.askReset 4 else s3)
      else .next s2

/-- The management processor reads each DCP_ALIVE (R456): a count unchanged in 5 reads is logged and its die controller
reloaded, which aborts the channel that controller receives (R414). A management processor that is not released reads nothing. -/
def execDcpAliveCheck (s : State) : Host.Outcome State Fault Refusal :=
  if !s.fw.released then .next s
  else .next ((List.range 4).foldl (fun s d =>
    let n := s.fld (F.DCP_ALIVE_COUNT d)
    let old := s.fw.alive.getD d (0, 0)
    let k := if n = old.1 then old.2 + 1 else 0
    if k = 5 then
      (({ s with fw := { s.fw with alive := s.fw.alive.set d (n, 0) } }).logDev srcMGP 0x0F03 true [(1, d), (4, n)]).chAbort (14 + d)
    else { s with fw := { s.fw with alive := s.fw.alive.set d (n, k) } }) s)

/-! ## Attestation (R444, R445) -/

/-- The public identity key's bytes. -/
def State.idKeyBytes (s : State) : List Byte := (List.range 324).flatMap (fun w => leBytes 8 (s.reg (R.MGP_IDKEY w)).toNat)

/-- The report's bytes 0x000 to 0x2BF (R444). Its sequence number counts it (log entry 50). -/
def State.reportBody (s : State) : List Byte :=
  leBytes 4 0x54415A43 ++ leBytes 4 1 ++ leBytes 8 5331 ++ s.flashBytes 0x20010 16
    ++ leBytes 2 (if s.flag F.FAB_ID_VALID then s.fld F.FAB_ID_ID else 0xFFFF) ++ leBytes 1 (s.fld F.MGP_BOOT_SLOT)
    ++ leBytes 1 (s.fld F.MGP_BOOT_TRIAL) ++ leBytes 4 s.fw.ver ++ leBytes 4 s.fw.svn ++ s.flashBytes 0x20004 2
    ++ leBytes 2 (match s.fw.sett with
      | some x => x.2
      | none => Config.noSettings)
    ++ leBytes 8 s.count ++ leBytes 8 (s.fld F.MGP_ATT_CTL_SEQ + 1)
    ++ (List.range 8).flatMap (fun w => leBytes 8 (s.reg (R.MGP_ATT_NONCE w)).toNat)
    ++ (List.range 8).flatMap (fun i => s.meas i) ++ sha3 s.idKeyBytes

/-- The whole report of 5,331 bytes. -/
def State.report (s : State) : List Byte :=
  let b := s.reportBody
  b ++ (List.range 4627).map (fun k => Config.signByte (leNat (sha3 b)) k)

/-- A write to another device in packets of one run each, cut at 4 KiB boundaries of the destination. -/
def remotePieces : Nat → Nat → List Byte → List (Nat × List Byte)
  | 0, _, _ => []
  | n + 1, a, bs =>
    if bs.isEmpty then []
    else
      let k := 4096 - a % 4096
      (a, bs.take k) :: remotePieces n (a + k) (bs.drop k)

/-- A write of GO: the report is assembled and signed; on its way to another device it is sent in packets. -/
def State.attGo (s : State) : State :=
  if s.flag F.MGP_ATT_CTL_BUSY then s
  else
    let dest := (s.reg R.MGP_ATT_DEST).toNat
    let rep := s.report
    let s1 := s.set1 F.MGP_ATT_CTL_BUSY
    let dev := dest / 2 ^ 48
    if dev = s.fld F.FAB_ID_ID then { s1 with fw := { s1.fw with att := some ⟨rep, dest, 0, false⟩ } }
    else
      let ps := remotePieces 3 (dest % 2 ^ 48) rep
      ps.foldl (fun s p => s.fabSend ({ FabPkt.blank with
        opc := 0x02, vc := 0, dst := BitVec.ofNat 16 dev, addr := BitVec.ofNat 48 p.1, unit := BitVec.ofNat 16 srcMGP }.carry
          (p.2.map (fun b => (b, false)))) .att)
        { s1 with fw := { s1.fw with att := some ⟨rep, dest, ps.length, false⟩ } }

def execMgpAttGo (m : Master) (s : State) : Host.Outcome State Fault Refusal :=
  .next (s.noteBy m R.MGP_ATT_CTL).attGo

end Sys2Proof.Machine
end

