-- ==== Sys2Proof/Machine/Tide.lean ====
section
/-! DEFINITION. The tide unit (01_tide.md): marks, number and epoch rules, coasting, mastership, skew. Instants are in ps
of local time; commands give local time in units of 0.25 ns (R19). The flywheel predicts the last accepted mark's instant plus a
period that is free within R36's bound (log entry 26). -/
namespace Sys2Proof.Machine

/-! Tide states (R54). -/
def tdDISABLED : Nat := 0
def tdUNSYNC : Nat := 1
def tdLOCKED : Nat := 2
def tdCOAST : Nat := 3
def tdHOLD : Nat := 4
def tdMASTER : Nat := 5
def tdDEPOSED : Nat := 6

/-- A tide symbol's fields (R23). -/
structure SymFields where
  tide   : Nat
  source : Nat
  epoch  : Nat
  hop    : Nat
  typ    : Nat
  ttt    : Nat
  check  : Nat
  deriving DecidableEq, Repr

def symFields (b : BitVec 112) : SymFields :=
  let x := b.toNat
  { tide := bitsOf x 0 48, source := bitsOf x 48 16, epoch := bitsOf x 64 8, hop := bitsOf x 72 4, typ := bitsOf x 76 4,
    ttt := bitsOf x 80 24, check := bitsOf x 104 8 }

/-- CRC-8 with x^8+x^2+x+1 over bits [103:0], fed from bit 103 down (R23). -/
def crc8 (x : Nat) : Nat :=
  (List.range 104).foldl (fun c k =>
    let inb := (c / 128 + bitsOf x (103 - k) 1) % 2
    let c' := c * 2 % 256
    if inb = 1 then c' ^^^ 7 else c') 0

/-- A symbol with its CHECK (R23). -/
def mkSymbol (tide source epoch hop typ ttt : Nat) : BitVec 112 :=
  let x := tide % 2 ^ 48 + 2 ^ 48 * (source % 2 ^ 16) + 2 ^ 64 * (epoch % 256) + 2 ^ 72 * (hop % 16) + 2 ^ 76 * (typ % 16)
    + 2 ^ 80 * (ttt % 2 ^ 24)
  BitVec.ofNat 112 (x + 2 ^ 104 * crc8 x)

/-- The tide unit's record changed. -/
def State.setTide (s : State) (u : TideUnit) : State := { s with tide := u }

/-- Local time in ps of a stamp in units of 0.25 ns. -/
def psOf (time : Nat) : Nat := time * 250

/-- PERIOD, LEAD and WINDOW in ps. -/
def State.periodPs (s : State) : Nat := s.fld F.TIDE_PERIOD_PERIOD * 10000
def State.leadPs (s : State) : Nat := s.fld F.TIDE_LEAD_LEAD * 10000
def State.windowPs (s : State) : Nat := s.fld F.TIDE_LEAD_WINDOW * 10000

/-- Local time moves on to a stamp (never back); TIDE_TIME reads it in ns (R54). -/
def State.tideNow (s : State) (time : Nat) : State :=
  let n := max s.tide.now (psOf time)
  (s.setTide { s.tide with now := n }).setFld F.TIDE_TIME_TIME (n / 1000)

/-- The tide unit's state code. -/
def State.tdState (s : State) : Nat := s.fld F.TIDE_STATUS_STATE

/-- The flywheel locked to no marks. -/
def TideUnit.unlock (u : TideUnit) : TideUnit := { u with locked := false, marks := [], held := false, gapHere := false }

/-- The flywheel's period after accepted marks, newest first (R36): from the 64th on within 0.5 ppm of their mean interval,
else free. DESIGN CHOICE (log entry 26): the mean interval stands for the frequency of the accepted instants. -/
def flyPeriod (marks : List (Nat × Nat)) (raw : Nat) : Nat :=
  match marks[0]?, marks[63]? with
  | some a, some b =>
    let d := a.2 - b.2
    let k := max 1 (a.1 - b.1)
    max ((d * 1999999 + (k * 2000000 - 1)) / (k * 2000000)) (min raw (d * 2000001 / (k * 2000000)))
  | _, _ => raw

/-- The frame slack of tide `t` written at instant `t + 1` (R49). -/
def State.writeSlack (s : State) (t inst : Nat) : State :=
  let gaps := (s.tide.closes.filter (fun c => c.1 == t)).map (fun c => (inst - psOf c.2) / 10000)
  let opens := s.regs.foldl (fun n p =>
    let st := (p.1 - R.TSQ_STREAM_FRAME 0 0) % 0x800000 / 0x80
    if R.TSQ_STREAM_FRAME 0 0 ≤ p.1 ∧ st < 8 ∧ p.1 = R.TSQ_STREAM_FRAME ((p.1 - R.TSQ_STREAM_FRAME 0 0) / 0x800000) st
        ∧ (p.1 - R.TSQ_STREAM_FRAME 0 0) / 0x800000 < 144
        ∧ bitsOf p.2.toNat 0 48 = t ∧ bitsOf p.2.toNat 48 1 = 1 then n + 1 else n) 0
  let slack := match gaps with
    | [] => if opens = 0 then s.fld F.TIDE_PERIOD_PERIOD else 0
    | g :: gs => gs.foldl min g
  ((s.setFld F.TIDE_SLACK_SLACK (min slack (2 ^ 32 - 1))).setFld F.TIDE_SLACK_OVERRUN_STREAMS opens).setTide
    { s.tide with closes := [] }

/-- Skews of echoes whose tides, `first` to `last`, this device has now taken (R41). -/
def State.settleEchoes (s : State) (first last inst : Nat) : State :=
  let (here, rest) := s.tide.echoWait.partition (fun e => decide (first ≤ e.2.1) && decide (e.2.1 ≤ last))
  here.foldl (fun s e => s.setFld (F.TIDE_LINK_NBR_SKEW e.1) (ofSigned 32 (e.2.2 - (inst : Int))))
    (s.setTide { s.tide with echoWait := rest })

/-- Tides `first` to `last` taken at an instant (R20, R21, R49, R460): the count rises, the slack of each tide before a taken
one is written in order (in a jump the last stands), and the tides go on their way to the consumers. DESIGN CHOICE (log entry
27): the last 16 own instants are kept for the neighbour skew of R41. -/
def State.takeTides (s : State) (first last kind inst : Nat) : State :=
  let s0 := s.writeSlack (first - 1) inst
  let s1 := if first < last then s0.writeSlack (last - 1) inst else s0
  let s2 := (s1.setFld F.TIDE_COUNT_COUNT last).setFld F.TIDE_INSTANT_LAST (inst / 1000)
  let s3 := s2.setTide { s2.tide with
    deliv := s2.tide.deliv ++ [TakenTide.mk first last kind], sinceEcho := s2.tide.sinceEcho + (last + 1 - first),
    instants := ((first, last, inst) :: s2.tide.instants).take 16 }
  (List.range (last + 1 - first)).foldl (fun s k => s.capture 6 false (leBytes 8 (first + k + 2 ^ 48 * kind)))
    (s3.settleEchoes first last inst)

/-- A tide was taken from the mark of number `n`, computed instant `mark` (R36, R37, R42): locked, the mark's offset from the
prediction recorded, the next instant predicted, the runs ended; the window of that tide has its mark (R31). DESIGN CHOICE (log
entry 26): a mark taken while the flywheel predicts nothing records no offset; LAST keeps the low 32 bits of a larger offset, and
MAX_ABS stops at its largest value. -/
def State.lockTo (s : State) (n mark : Nat) : State :=
  let s1 := if s.tide.locked then
      let off : Int := (mark : Int) - (s.tide.flyNext : Int)
      let s2 := s.setFld F.TIDE_OFFSET_LAST (ofSigned 32 off)
      if s2.fld F.TIDE_OFFSET_EXT_MAX_ABS < off.natAbs then
        s2.setFld F.TIDE_OFFSET_EXT_MAX_ABS (min off.natAbs (2 ^ 32 - 1)) else s2
    else s
  let f := s1.takeFresh
  let marks := ((n, mark) :: s.tide.marks).take 64
  let per := flyPeriod marks (Config.flyPeriod f.2)
  ((f.1.setFld F.TIDE_STATUS_STATE tdLOCKED).setFld F.TIDE_STATUS_MISS_RUN 0).setTide { s1.tide with
    locked := true, flyNext := mark + per, flyPer := per, marks := marks, held := false, gapHere := false, limitRun := false,
    gapRun := 0, gapLogged := false, repLogged := false, bMiss := if s1.tide.masterSeen then 0 else s1.tide.bMiss,
    masterSeen := false }

/-- The earliest pending tide. -/
def firstPend : List PendTide → Option PendTide
  | [] => none
  | p :: ps => match firstPend ps with
    | some q => if q.inst < p.inst then some q else some p
    | none => some p

/-- A pending mark's tide taken at its instant; one whose number the count has already reached counts in REPEAT and
changes nothing else (R37, R39). -/
def State.takePend (s : State) (p : PendTide) : State :=
  let s0 := s.setTide { s.tide with pend := s.tide.pend.erase p }
  if p.num ≤ s0.count then s0.incFld F.TIDE_ERRCNT0_REPEAT 1
  else if s0.count = 0 then (s0.takeTides p.num p.num 0 p.inst).lockTo p.num p.mark
  else if p.num = s0.count + 1 then (s0.takeTides p.num p.num 0 p.inst).lockTo p.num p.mark
  else s0.incFld F.TIDE_ERRCNT0_GAP 1

/-- A jump from the count to N (R37, R39): every tide between is delivered, JUMPED is set and TIDE_JUMP logged; one whose number
the count has already reached counts in REPEAT and changes nothing else. The flywheel locks afresh: intervals across a jump say
nothing of the period (log entry 26). -/
def State.takeJump (s : State) (n inst mark : Nat) : State :=
  if n ≤ s.count then s.incFld F.TIDE_ERRCNT0_REPEAT 1
  else
    let c := s.count
    let s1 := ((s.incFld F.TIDE_ERRCNT1_JUMP 1).set1 F.TIDE_STATUS_JUMPED).logDev srcTIDE 0x0108 true [(8, c), (8, n)]
    let s2 := s1.takeTides (c + 1) n 2 inst
    (s2.setTide { s2.tide with marks := [] }).lockTo n mark

/-- Symbols sent on the ports of a mask. -/
def State.sendSymbol (s : State) (mask : Nat) (b : BitVec 112) (at' : Nat) : State :=
  s.setTide { s.tide with out := s.tide.out ++
    ((List.range 16).filter (fun p => mask.testBit p)).map (fun p => (p, b, at')) }

/-- The validity rules of R28. -/
def State.markValid (s : State) (port : Nat) (b : BitVec 112) : Bool :=
  let m := symFields b
  m.check == crc8 b.toNat && m.typ == 0 && decide (m.hop ≤ 8) && m.tide != 0 && s.flag (F.TIDE_LINK_VALID port) &&
    ((m.source == s.fld F.TIDE_IDS_MASTER_ID && port == s.fld F.TIDE_TREE_UP_A && s.flag F.TIDE_TREE_UP_A_EN) ||
     (m.source == s.fld F.TIDE_IDS_BACKUP_ID && port == s.fld F.TIDE_TREE_UP_B && s.flag F.TIDE_TREE_UP_B_EN))

/-- The count a mark is judged against (R37): what the device will hold once every pending tide is taken. -/
def State.judgedCount (s : State) : Nat := s.tide.pend.foldl (fun m p => max m p.num) s.count

/-- The master is deposed (R33): it stops emitting and becomes a recipient in state DEPOSED. -/
def State.depose (s : State) (source epoch : Nat) : State :=
  let s1 := ((s.set1 F.TIDE_STATUS_DEPOSED).setFld F.TIDE_STATUS_STATE tdDEPOSED).setTide
    { s.tide.unlock with masterNext := none, pend := [], deposed := true }
  s1.logDev srcTIDE 0x0105 true [(2, source), (1, epoch)]

/-- Epoch and source adopted. -/
def State.adopt (s : State) (source epoch : Nat) : State :=
  (s.setFld F.TIDE_STATUS_EPOCH epoch).setFld F.TIDE_STATUS_SOURCE source

/-- An accepted mark: its tide waits for its instant, or is taken at once when the instant has come (R27, R37). -/
def State.acceptMark (s : State) (n inst mark : Nat) (jump late : Bool) : State :=
  let p : PendTide := ⟨n, inst, jump, mark⟩
  let s1 := s.setTide { s.tide with
    pend := s.tide.pend ++ [p], gapRun := 0, gapLogged := false, repLogged := false }
  if late && !jump then s1.takePend p else s1

/-- A mark's computed instant lies in the window that follows the predicted instant (R36, R38). -/
def State.inWindow (s : State) (mark : Nat) : Bool :=
  s.tide.locked && decide (s.tide.flyNext ≤ mark) && decide (mark ≤ s.tide.flyNext + s.windowPs)

/-- A mark's computed instant lies after the last window's close and not after the next one's: it is the mark of the predicted
tide (R36, R39). -/
def State.forPrediction (s : State) (mark : Nat) : Bool :=
  s.tide.locked && decide (s.tide.flyNext + s.windowPs < mark + s.tide.flyPer) && decide (mark ≤ s.tide.flyNext + s.windowPs)

/-- The number rules (R37, R38). `fresh` marks the first mark of a new epoch, `mark` is the mark's computed instant, `inst` when its
tide is taken. DESIGN CHOICE (log entry 105): "each one above the last" asks for rising numbers, not for successors. -/
def State.judgeMark (s : State) (n inst mark source : Nat) (fresh late : Bool) : State :=
  let c := s.judgedCount
  let unsync := s.tdState = tdUNSYNC ∨ s.tdState = tdDEPOSED
  if c = 0 then s.acceptMark n inst mark false late
  else if n = c + 1 then s.acceptMark n inst mark false late
  else if n ≤ c then
    let s1 := s.incFld F.TIDE_ERRCNT0_REPEAT 1
    let s2 := if s.tide.repLogged && !(fresh && !decide unsync) then s1
      else s1.logDev srcTIDE 0x0106 false [(8, n), (8, s.count), (2, source)]
    let s3 := s2.setTide { s2.tide with repLogged := true, gapRun := 0, gapLogged := false }
    if unsync then s3
    else (s3.setFld F.TIDE_STATUS_STATE tdHOLD).setTide { s3.tide with held := s3.tide.held || s.inWindow mark }
  else if unsync ∨ fresh then s.acceptMark n s.tide.now mark true late
  else
    let run := if s.tide.gapRun ≠ 0 ∧ s.tide.gapLast < n then s.tide.gapRun + 1 else 1
    if max 1 (s.fld F.TIDE_CTL_RESYNC_N) ≤ run then s.acceptMark n inst mark true late
    else
      let s1 := s.incFld F.TIDE_ERRCNT0_GAP 1
      let s2 := if s.tide.gapLogged then s1 else s1.logDev srcTIDE 0x0107 false [(8, n), (8, s.count), (2, source)]
      (s2.setFld F.TIDE_STATUS_STATE tdCOAST).setTide { s2.tide with
        gapRun := run, gapLast := n, gapLogged := true, repLogged := false, gapHere := s2.tide.gapHere || s.forPrediction mark }

/-- The epoch rules (R32), then the number rules. -/
def State.applyMark (s : State) (m : SymFields) (port inst mark : Nat) (late : Bool) : State :=
  let master := s.tdState = tdMASTER
  let ep := s.fld F.TIDE_STATUS_EPOCH
  let src := s.fld F.TIDE_STATUS_SOURCE
  let judge (s : State) (fresh : Bool) : State := s.judgeMark m.tide inst mark m.source fresh late
  if s.judgedCount = 0 ∧ ¬ master then judge (s.adopt m.source m.epoch) false
  else if m.epoch < ep then s.incFld F.TIDE_ERRCNT0_STALE_EPOCH 1
  else if m.epoch = ep ∧ m.source = src then (if master then s else judge s false)
  else if m.epoch = ep then
    let s1 := s.incFld F.TIDE_ERRCNT1_DUAL 1
    let s2 := if s.tide.dualLogged then s1 else
      ((s1.set1 F.TIDE_STATUS_DUAL_MASTER).logDev srcTIDE 0x0104 true
        [(2, src), (2, m.source), (1, ep), (1, port)]).setTide { s1.tide with dualLogged := true }
    if src < m.source then s2
    else
      let s3 := if master then s2.depose m.source m.epoch else s2
      judge (s3.adopt m.source m.epoch) false
  else
    let s1 := if master then s.depose m.source m.epoch else s
    judge ((s1.adopt m.source m.epoch).setTide { s1.tide with dualLogged := false }) true

/-- A tide mark symbol arrives (R25, R27, R28, R32, R37). A disabled unit does not look at marks; an echo is not one. -/
def State.markRx (s : State) (port : Nat) (b : BitVec 112) : State :=
  let m := symFields b
  if !s.flag F.TIDE_CTL_ENABLE then s
  else if m.check = crc8 b.toNat ∧ m.typ = 1 then s
  else if !s.markValid port b then s.incFld F.TIDE_ERRCNT1_REJECT 1
  else
    let arrival := s.tide.now
    let inst0 : Int := (arrival : Int) - (s.fld (F.TIDE_LINK_DELAY port) : Int) + (m.ttt * 250 : Nat)
    let late := decide (inst0 ≤ (arrival : Int))
    let inst := if late then arrival else inst0.toNat
    let s1 := if late then
        (s.incFld F.TIDE_ERRCNT1_LATE 1).logDev srcTIDE 0x0109 false
          [(8, m.tide), (1, port), (4, ((arrival : Int) - inst0).toNat)]
      else s
    let s2 := if m.source = s.fld F.TIDE_IDS_MASTER_ID then s1.setTide { s1.tide with masterSeen := true } else s1
    let treeA := m.source = s.fld F.TIDE_IDS_MASTER_ID ∧ port = s.fld F.TIDE_TREE_UP_A ∧ s.fld F.TIDE_TREE_UP_A_EN = 1
    let s3 := s2.applyMark m port inst inst0.toNat late
    s3.sendSymbol (s3.fld (if treeA then F.TIDE_TREE_DOWN_A else F.TIDE_TREE_DOWN_B))
      (mkSymbol m.tide m.source m.epoch (m.hop + 1) 0 (if late then 0 else (inst - arrival) / 250)) arrival

/-- A command of the tide unit at a local time: nothing happens but the time's passing while the device is in Retention, in which
the unit is stopped (R394, R398). -/
def State.tideDo (s : State) (time : Nat) (f : State → State) : State :=
  let s0 := s.tideNow time
  if s0.fld F.PWR_STATE_CUR = 3 then s0 else f s0

def execTideMarkRx (sym : TideSym) (s : State) : Host.Outcome State Fault Refusal :=
  .next (s.tideDo sym.time (fun s => s.markRx sym.port sym.bits))

/-- The earliest pending jump whose instant has come is taken (R39). -/
def State.dueJump (s : State) : State :=
  match firstPend (s.tide.pend.filter (fun p => p.jump && decide (p.inst ≤ s.tide.now))) with
  | none => s
  | some p => (s.setTide { s.tide with pend := s.tide.pend.erase p }).takeJump p.num p.inst p.mark

def execTideJump (time : Nat) (s : State) : Host.Outcome State Fault Refusal := .next (s.tideDo time State.dueJump)

/-- The earliest accepted mark whose instant has come is taken (R37). -/
def State.duePend (s : State) : State :=
  match firstPend (s.tide.pend.filter (fun p => !p.jump && decide (p.inst ≤ s.tide.now))) with
  | none => s
  | some p => s.takePend p

def execPendingTideTake (time : Nat) (s : State) : Host.Outcome State Fault Refusal := .next (s.tideDo time State.duePend)

/-- The miss run reaches COAST_MAX (R35): once per run. -/
def State.coastLimit (s : State) : State :=
  let m := s.fld F.TIDE_CTL_COAST_MAX
  if m ≠ 0 ∧ m ≤ s.fld F.TIDE_STATUS_MISS_RUN ∧ !s.tide.limitRun then
    ((s.set1 F.TIDE_STATUS_COAST_LIMIT).setTide { s.tide with limitRun := true }).logDev srcTIDE 0x0102 true
      [(8, s.count), (1, s.fld F.TIDE_STATUS_MISS_RUN)]
  else s

/-- The epoch one above the current one (R31, R34). DESIGN CHOICE (log entry 116): above 255 it is 0. -/
def State.nextEpoch (s : State) : Nat := (s.fld F.TIDE_STATUS_EPOCH + 1) % 256

/-- The backup's count of misses of the master; on the third in a row it takes over (R31). -/
def State.backupMiss (s : State) : State :=
  if s.fld F.TIDE_CTL_ROLE ≠ 2 ∨ s.tdState = tdMASTER then s
  else if s.tide.masterSeen then s.setTide { s.tide with bMiss := 0, masterSeen := false }
  else if s.tide.bMiss + 1 < 3 then s.setTide { s.tide with bMiss := s.tide.bMiss + 1 }
  else
    let s1 := ((s.adopt (s.fld F.FAB_ID_ID) s.nextEpoch).setFld F.TIDE_STATUS_STATE tdMASTER).set1 F.TIDE_STATUS_TAKEOVER
    (s1.setTide { s1.tide with
      bMiss := 0, masterSeen := false, masterNext := some s1.tide.flyNext, dualLogged := false, pend := [] }).logDev
      srcTIDE 0x0103 true [(1, s.nextEpoch), (8, s1.count)]

/-- The prediction steps to the next tide; the window behind it is done with. -/
def State.nextWindow (s : State) : State :=
  s.setTide { s.tide with flyNext := s.tide.flyNext + s.tide.flyPer, held := false, gapHere := false }

/-- A window that had a valid mark which takes no tide (R38, R39): no miss; one from the master ends the backup's run. -/
def State.noMiss (s : State) : State :=
  s.setTide { s.tide with bMiss := if s.tide.masterSeen then 0 else s.tide.bMiss, masterSeen := false }

/-- The next tide taken at the close of its window (R36). -/
def State.coast (s : State) : State :=
  (if s.tdState = tdMASTER then s else s.setFld F.TIDE_STATUS_STATE tdCOAST).takeTides (s.count + 1) (s.count + 1) 1 s.tide.now

/-- The window after a predicted instant closes (R31, R35 to R39). A unit not locked to marks, a master whose own first instant
has come, or a tide already accepted from a mark, has no miss; a held tide is neither missed nor coasted; one for which a gapped
mark came is coasted without a miss. The tide at which a backup takes over is coasted whatever COAST_EN is (R31 step 1, log entry
76). -/
def State.windowClose (s : State) : State :=
  let st := s.tdState
  let mine : Bool := match s.tide.masterNext with
    | some i => st == tdMASTER && decide (i ≤ s.tide.flyNext)
    | none => false
  if !s.flag F.TIDE_CTL_ENABLE ∨ !s.tide.locked ∨ st = tdUNSYNC ∨ st = tdDEPOSED ∨ mine
      ∨ s.tide.now < s.tide.flyNext + s.windowPs then s
  else if s.tide.held then s.nextWindow.noMiss
  else if s.tide.pend.any (fun p => decide (s.count < p.num)) then s
  else if s.tide.gapHere then
    let s1 := s.nextWindow.noMiss
    if s.flag F.TIDE_CTL_COAST_EN then s1.coast else s1
  else
    let s1 := s.incFld F.TIDE_STATUS_MISS_RUN 1
    let third := s.fld F.TIDE_CTL_ROLE == 2 && st != tdMASTER && !s.tide.masterSeen && decide (2 ≤ s.tide.bMiss)
    let s2 := if s.flag F.TIDE_CTL_COAST_EN || third then
        ((s1.incFld F.TIDE_ERRCNT0_MISSED 1).logDev srcTIDE 0x0101 false
          [(8, s.count + 1), (1, s1.fld F.TIDE_STATUS_MISS_RUN)]).coastLimit.coast
      else s1.coastLimit
    s2.nextWindow.backupMiss

def execMissWindowClose (time : Nat) (s : State) : Host.Outcome State Fault Refusal := .next (s.tideDo time State.windowClose)

/-- The ports on which this master emits (R30). -/
def State.masterPorts (s : State) : Nat :=
  let own := s.fld F.FAB_ID_ID
  if own = s.fld F.TIDE_IDS_BACKUP_ID ∧ own ≠ s.fld F.TIDE_IDS_MASTER_ID then s.fld F.TIDE_TREE_DOWN_B
  else s.fld F.TIDE_TREE_DOWN_A

/-- The master's mark for its next tide goes out LEAD before the instant (R26, R30): once per tide. -/
def State.emitMark (s : State) : State :=
  match s.tide.masterNext with
  | none => s
  | some i =>
    if s.tdState ≠ tdMASTER ∨ s.tide.now + s.leadPs < i ∨ s.tide.emitted = s.count + 1 then s
    else
      let s1 := s.sendSymbol s.masterPorts
        (mkSymbol (s.count + 1) (s.fld F.FAB_ID_ID) (s.fld F.TIDE_STATUS_EPOCH) 1 0 (s.fld F.TIDE_LEAD_LEAD * 40)) s.tide.now
      s1.setTide { s1.tide with emitted := s.count + 1 }

def execMasterMarkEmit (time : Nat) (s : State) : Host.Outcome State Fault Refusal :=
  .next (s.tideDo time State.emitMark)

/-- The master takes its next tide at its own instant (R30). -/
def State.masterTake (s : State) : State :=
  match s.tide.masterNext with
  | none => s
  | some i =>
    if s.tdState ≠ tdMASTER ∨ s.tide.now < i then s
    else
      let s1 := s.takeTides (s.count + 1) (s.count + 1) 0 i
      s1.setTide { s1.tide.unlock with masterNext := some (i + s.periodPs) }

def execMasterTideTake (time : Nat) (s : State) : Host.Outcome State Fault Refusal :=
  .next (s.tideDo time State.masterTake)

/-- The ports an echo goes to (R41). -/
def State.echoPorts (s : State) : Nat :=
  (if s.flag F.TIDE_TREE_UP_A_EN then 1 <<< s.fld F.TIDE_TREE_UP_A else 0) |||
  (if s.flag F.TIDE_TREE_UP_B_EN then 1 <<< s.fld F.TIDE_TREE_UP_B else 0) |||
  s.fld F.TIDE_TREE_DOWN_A ||| s.fld F.TIDE_TREE_DOWN_B

/-- An echo goes out every ECHO_EVERY tides (R41); its HOP is 0 (DESIGN CHOICE, log entry 27). -/
def State.sendEcho (s : State) : State :=
  let every := s.fld F.TIDE_CTL_ECHO_EVERY
  if !s.flag F.TIDE_CTL_ENABLE ∨ every = 0 ∨ s.tide.sinceEcho < every then s
  else
    let inst := match s.tide.instants with
      | p :: _ => p.2.2
      | [] => s.tide.now
    let s1 := s.setTide { s.tide with sinceEcho := 0 }
    s1.sendSymbol s.echoPorts
      (mkSymbol s.count (s.fld F.FAB_ID_ID) (s.fld F.TIDE_STATUS_EPOCH) 0 1 ((s.tide.now - inst) / 250)) s.tide.now

def execEchoSend (time : Nat) (s : State) : Host.Outcome State Fault Refusal :=
  .next (s.tideDo time State.sendEcho)

/-- An echo arrives: the neighbour's instant less the own instant of the same number (R41). DESIGN CHOICE (log entry 27): an echo
is ignored while the unit is disabled or the port's delay is not valid, and where the own instant is no longer kept. -/
def State.echoRx (s : State) (port : Fin 16) (b : BitVec 112) : State :=
  let m := symFields b
  if !s.flag F.TIDE_CTL_ENABLE ∨ m.check ≠ crc8 b.toNat ∨ m.typ ≠ 1 ∨ !s.flag (F.TIDE_LINK_VALID port) then s
  else
    let nbr : Int := (s.tide.now : Int) - (s.fld (F.TIDE_LINK_DELAY port) : Int) - ((m.ttt * 250 : Nat) : Int)
    match s.tide.instants.find? (fun p => decide (p.1 ≤ m.tide) && decide (m.tide ≤ p.2.1)) with
    | some p => s.setFld (F.TIDE_LINK_NBR_SKEW port) (ofSigned 32 (nbr - (p.2.2 : Int)))
    | none => if s.count < m.tide then s.setTide { s.tide with echoWait := (port, m.tide, nbr) :: s.tide.echoWait } else s

def execTideEchoRx (sym : TideSym) (s : State) : Host.Outcome State Fault Refusal :=
  .next (s.tideDo sym.time (fun s => s.echoRx sym.port sym.bits))

/-- A link delay measured: half the round trip less the far end's turnaround, in ps; none when no exchange of the last
second gave one (R24, R54). DESIGN CHOICE (log entry 116): a delay beyond the 24 bits of DELAY reads 2^24 − 1 ps. -/
def State.measureDelay (s : State) (port : Nat) (m : Option (Nat × Nat)) : State :=
  match m with
  | some (trip, turn) =>
    (s.setFld (F.TIDE_LINK_DELAY port) (min ((trip - turn) / 2) (2 ^ 24 - 1))).set1 (F.TIDE_LINK_VALID port)
  | none => s.setFld (F.TIDE_LINK_VALID port) 0

def execLinkDelayMeasure (port : Fin 16) (m : Option (Nat × Nat)) (time : Nat) (s : State) :
    Host.Outcome State Fault Refusal :=
  .next ((s.tideNow time).measureDelay port m)

/-! ## Configuration (R22, R26, R30, R34, R40, R54) -/

/-- LEAD and WINDOW in range and LEAD + WINDOW at most PERIOD / 2 (R26). -/
def leadOk (lead window period : Nat) : Bool :=
  decide (200 ≤ lead) && decide (lead ≤ 1600) && decide (10 ≤ window) && decide (window ≤ 1600) &&
    decide (2 * (lead + window) ≤ period)

/-- PERIOD in its range (R22). -/
def periodOk (p : Nat) : Bool := decide (2000 ≤ p) && decide (p ≤ 100000000)

/-- The unit's configuration lets ENABLE become 1. -/
def State.tideCfgOk (s : State) : Bool :=
  periodOk (s.fld F.TIDE_PERIOD_PERIOD) &&
    leadOk (s.fld F.TIDE_LEAD_LEAD) (s.fld F.TIDE_LEAD_WINDOW) (s.fld F.TIDE_PERIOD_PERIOD)

/-- A write of ENABLE (R30, R40, R54). A device deposed since its last ROLE write does not become master again (R33); it starts
as a recipient does (log entry 116). -/
def State.tideEnable (s : State) (v : Nat) : State :=
  if v = 0 then
    ((s.setFld F.TIDE_CTL_ENABLE 0).setFld F.TIDE_STATUS_STATE tdDISABLED).setTide
      { s.tide.unlock with pend := [], masterNext := none }
  else if s.flag F.TIDE_CTL_ENABLE then s
  else if !s.tideCfgOk then s.set1 F.TIDE_STATUS_CFG_ERR
  else if s.fld F.TIDE_CTL_ROLE = 1 ∧ !s.tide.deposed then
    let s1 := (s.set1 F.TIDE_CTL_ENABLE).setFld F.TIDE_STATUS_STATE tdMASTER
    (s1.setFld F.TIDE_STATUS_SOURCE (s.fld F.FAB_ID_ID)).setTide
      { s1.tide with masterNext := some (s.tide.now + s.periodPs), emitted := 0 }
  else (s.set1 F.TIDE_CTL_ENABLE).setFld F.TIDE_STATUS_STATE tdUNSYNC

def execTideCtlEnable (m : Master) (v : BitVec 1) (time : Nat) (s : State) : Host.Outcome State Fault Refusal :=
  .next (((s.noteBy m R.TIDE_CTL).tideNow time).tideEnable v.toNat)

/-- The first predicted instant at least LEAD after now (R34). -/
def nextAfter (flyNext period earliest : Nat) : Nat :=
  if earliest ≤ flyNext ∨ period = 0 then flyNext
  else flyNext + (earliest - flyNext + period - 1) / period * period

/-- A write of ROLE (R33, R34, R40, R54). DESIGN CHOICE (log entry 116): 1 written on a device in state MASTER raises no epoch and
changes nothing else. -/
def State.tideRole (s : State) (v : Nat) : State :=
  if v = 3 then s.set1 F.TIDE_STATUS_CFG_ERR
  else
    let st := s.tdState
    let s0 := (s.setFld F.TIDE_CTL_ROLE v).setTide { s.tide with bMiss := 0, masterSeen := false, deposed := false }
    if !s.flag F.TIDE_CTL_ENABLE then s0
    else if v = 1 then
      if st = tdMASTER then s0
      else
        let s1 := (s0.adopt (s.fld F.FAB_ID_ID) s.nextEpoch).setFld F.TIDE_STATUS_STATE tdMASTER
        let next := if s.tide.locked ∧ s.count ≠ 0 ∧ st ≠ tdUNSYNC ∧ st ≠ tdDEPOSED then
            nextAfter s.tide.flyNext s.tide.flyPer (s.tide.now + s.leadPs)
          else s.tide.now + s.periodPs
        s1.setTide { s1.tide with masterNext := some next, emitted := 0, pend := [], dualLogged := false }
    else if st = tdMASTER then
      (s0.setFld F.TIDE_STATUS_STATE tdUNSYNC).setTide { s0.tide.unlock with masterNext := none, pend := [] }
    else s0

def execTideCtlRole (m : Master) (v : BitVec 2) (time : Nat) (s : State) : Host.Outcome State Fault Refusal :=
  .next (((s.noteBy m R.TIDE_CTL).tideNow time).tideRole v.toNat)

/-- A write of TIDE_PERIOD (R22). -/
def State.tidePeriodWrite (s : State) (v : Word) : State :=
  let p := bitsOf v.toNat 0 27
  if s.flag F.TIDE_CTL_ENABLE || !periodOk p then s.set1 F.TIDE_STATUS_CFG_ERR else s.setFld F.TIDE_PERIOD_PERIOD p

def execTidePeriodWrite (m : Master) (v : BitVec 64) (s : State) : Host.Outcome State Fault Refusal :=
  .next ((s.noteBy m R.TIDE_PERIOD).tidePeriodWrite v)

/-- A write of TIDE_LEAD (R26). -/
def State.tideLeadWrite (s : State) (v : Word) : State :=
  let l := bitsOf v.toNat 0 11
  let w := bitsOf v.toNat 16 11
  if leadOk l w (s.fld F.TIDE_PERIOD_PERIOD) then (s.setFld F.TIDE_LEAD_LEAD l).setFld F.TIDE_LEAD_WINDOW w
  else s.set1 F.TIDE_STATUS_CFG_ERR

def execTideLeadWrite (m : Master) (v : BitVec 64) (s : State) : Host.Outcome State Fault Refusal :=
  .next ((s.noteBy m R.TIDE_LEAD).tideLeadWrite v)

/-- A write of TIDE_LOAD (R20, R54): delivers no tide. -/
def State.tideLoad (s : State) (v : Word) : State :=
  let n := bitsOf v.toNat 0 48
  if s.fld F.TIDE_CTL_ROLE = 1 ∧ !s.flag F.TIDE_CTL_ENABLE ∧ s.count ≤ n then s.setFld F.TIDE_COUNT_COUNT n
  else s.set1 F.TIDE_STATUS_CFG_ERR

def execTideLoad (m : Master) (v : BitVec 64) (s : State) : Host.Outcome State Fault Refusal :=
  .next ((s.noteBy m R.TIDE_LOAD).tideLoad v)

end Sys2Proof.Machine
end

