-- ==== Sys2Proof/Machine/Bus.lean ====
section
/-! DEFINITION. Accesses to the local map: every register's reads and writes with their access codes (R14, R15, R272), the
windows, the splitting of an access at boundaries with its errors (R271), and the logging of register writes during a job
(R284, R407). -/
namespace Sys2Proof.Machine

/-! ## Layout engine control (R265) -/

/-- A write of LXE_CTL. -/
def State.lxeCtl (s : State) (t : Nat) (v : Word) : State :=
  let b := bitsOf v.toNat 0 11
  let n := bitsOf v.toNat 16 11
  if 1536 < b + n ∨ 1024 < n then s.set1 (F.LXE_STATUS_CFG_ERR t)
  else (s.setFld (F.LXE_CTL_STAGE_BASE t) b).setFld (F.LXE_CTL_STAGE_SIZE t) n

def execLxeCtlWrite (m : Master) (t : Fin 144) (v : BitVec 64) (s : State) : Host.Outcome State Fault Refusal :=
  .next ((s.noteBy m (R.LXE_CTL t)).lxeCtl t v)

/-! ## Replay control and entropy (R460, R463, R464) -/

/-- A byte of the replay record's ring. -/
def State.repByte (s : State) (pos : Nat) : Byte :=
  s.byte (s.fld F.EVT_REPLAY_BASE_BASE + pos % max 1 (s.fld F.EVT_REPLAY_SIZE_SIZE))

/-- `n` bytes at a position of the record, as a number. -/
def State.repNum (s : State) (pos n : Nat) : Nat := leNat ((List.range n).map (fun k => s.repByte (pos + k)))

/-- Class of the record at a position. -/
def State.repClass (s : State) (pos : Nat) : Nat := bitsOf (s.repNum pos 8) 48 3

/-- Replay with nothing read. -/
def RepUnit.init : RepUnit := { held := [], opn := [], want := [], sent := [], rng := [], last := 0, inj := 0, div := 0 }

/-- A write of GO (R463). That FAB_ID is the captured device's is firmware's part (log entry 54). -/
def State.replayGo (s : State) : State :=
  if (List.range 16).any (fun p => s.flag (F.FAB_PORT_CFG_EN p)) || s.flag F.TIDE_CTL_ENABLE || s.flag F.EVT_CAP_CTL_EN
      || !s.flag F.FAB_ID_VALID || s.repClass (s.fld F.EVT_REPLAY_START_POS) != 6 then
    s.set1 F.EVT_STATUS_CFG_ERR
  else
    let s1 := (s.set1 F.EVT_STATUS_REPLAY_RUN).setFld F.EVT_REPLAY_POS_POS (s.fld F.EVT_REPLAY_START_POS)
    { s1 with rep := RepUnit.init }

def execEvtReplayGo (s : State) : Host.Outcome State Fault Refusal := .next s.replayGo

/-- Replay ends (R464): its record holds the last tide and two counts, of 4 bytes each (R448). -/
def State.replayEnd (s : State) : State :=
  if !s.flag F.EVT_STATUS_REPLAY_RUN then s
  else
    (s.logDev srcEVT 0x0F07 false [(8, s.rep.last), (4, s.rep.inj), (4, s.rep.div)]).setFld F.EVT_STATUS_REPLAY_RUN 0

def execEvtReplayStop (s : State) : Host.Outcome State Fault Refusal := .next s.replayEnd

/-- A read of EVT_RNG: fresh entropy, captured; in replay the recorded values in order. -/
def State.rngRead (s : State) : State × Word :=
  if s.flag F.EVT_STATUS_REPLAY_RUN then
    match s.rep.rng with
    | v :: vs => ({ s with rep := { s.rep with rng := vs } }, v)
    | [] => ({ s with rep := { s.rep with div := s.rep.div + 1 } }.incFld F.EVT_REPLAY_DIVSEQ_COUNT 1, 0)
  else
    let f := s.takeFresh
    let v := Config.entropy f.2
    (f.1.capture 2 false (leBytes 8 v.toNat), v)

def execEvtRngRead (s : State) : Host.Outcome State Fault Refusal := .next s.rngRead.1

/-! ## Register reads -/

/-- 64 bits of a vector engine's window (R178): visible while no stream that owns the engine is in RUN or FENCE. -/
def State.vregWindow (s : State) (t e o : Nat) : Nat :=
  let busy := (List.range 8).any (fun st => s.vxeOf t st == some e && (s.stState t st == stRUN || s.stState t st == stFENCE))
  if busy then 0
  else if o < 0x10000 then bitsOf (s.vreg t e (o / 1024)).bits.toNat (8 * (o % 1024)) 64
  else if o < 0x10800 then bitsOf (s.mreg t e ((o - 0x10000) / 128)).bits.toNat (8 * (o % 128)) 64
  else if 0x11000 ≤ o ∧ o < 0x11800 then bitsOf (s.vreg t e ((o - 0x11000) / 32)).poison.toNat (8 * (o % 32)) 64
  else if 0x11800 ≤ o ∧ o < 0x12000 then bitsOf (s.mreg t e ((o - 0x11800) / 128)).poison.toNat (8 * (o % 128)) 64
  else 0

/-- 8 bytes of table bank `b` from an offset. -/
def State.sfuWord (s : State) (t b o : Nat) : Nat := leNat ((List.range 8).map (fun k => s.sfuByte t b (o + k)))

/-- What a register stored under its own address reads as: WO fields read as 0, reserved addresses as 0 (R14, R15). -/
def State.plainReg (s : State) (a : Nat) : Word :=
  match rowAt a with
  | some r => s.reg a &&& ~~~ r.mask (fun x => x == .wo)
  | none => 0

/-- The 8-byte word at an offset of a tile's register block. -/
def State.tileReg (s : State) (t o a : Nat) : Word :=
  if o = 0x808 then
    let h := s.tile t
    BitVec.ofNat 64 (h.mxaQ.length + h.lxeQ.length * 2 ^ 8 + h.postQ.length * 2 ^ 16)
  else if 0x180000 ≤ o ∧ o < 0x200000 then
    let w := (o - 0x180000) / 4
    if s.flag (F.MXA_STATUS_BUSY t) then 0
    else BitVec.ofNat 64 ((s.accWord t (w / 65536) (w % 65536)).toNat
      + (s.accWord t ((w + 1) / 65536) ((w + 1) % 65536)).toNat * 2 ^ 32)
  else if 0x240000 ≤ o ∧ o < 0x2C0000 then BitVec.ofNat 64 (s.vregWindow t ((o - 0x240000) / 0x40000) ((o - 0x240000) % 0x40000))
  else if 0x410000 ≤ o ∧ o < 0x418800 then BitVec.ofNat 64 (s.sfuWord t (1 - s.sfuBank t) (o - 0x410000))
  else if 0x420000 ≤ o ∧ o < 0x428800 then BitVec.ofNat 64 (s.sfuWord t (s.sfuBank t) (o - 0x420000))
  else if o = 0x500020 then BitVec.ofNat 64 (s.tile t).speQ.length
  else if 0x510000 ≤ o ∧ o < 0x514000 then
    if s.flag (F.SPE_STATUS_BUSY t) then 0
    else
      let k := (o - 0x510000) / 4
      BitVec.ofNat 64 ((s.camKey t k).toNat + (s.camKey t (k + 1)).toNat * 2 ^ 32)
  else s.plainReg a

/-- The channel and offset of a mailbox buffer address; none for another. -/
def mbxBuffer (a : Nat) : Option (Nat × Nat) :=
  let o := a - 0x38006000000
  if 0x38006000000 ≤ a ∧ o < 0x18000 ∧ o % 0x1000 < 0x800 then some (o / 0x1000, o % 0x1000) else none

/-- The logical tile that a physical tile carries (R466). -/
def State.logicalOf (s : State) (p : Nat) : Option Nat :=
  if s.flag (F.DIAG_PTILE_ENABLED p) then some (s.fld (F.DIAG_PTILE_LOGICAL p)) else none

/-- A register-space address with the diagnostic window resolved (R466): the address of the register it reaches; none where
the access is an error. -/
def State.diagMap (s : State) (a : Nat) : Option Nat :=
  match regionOf a with
  | .diag =>
    let p := (a - 0x39000000000) / 0x800000
    let o := (a - 0x39000000000) % 0x800000
    match s.logicalOf p with
    | some t => if o < 0x700000 then some (0x30000000000 + t * 0x800000 + o) else some a
    | none => if 0x700000 ≤ o ∧ o < 0x700008 then some a else none
  | _ => some a

/-- The 8-byte word at a register address, before the read's own effect. -/
def State.regWord (s : State) (a : Nat) : Word :=
  match regionOf a with
  | .tileRegs => s.tileReg ((a - 0x30000000000) / 0x800000) ((a - 0x30000000000) % 0x800000) a
  | .diag => if (a - 0x39000000000) % 0x800000 = 0x700000 then s.reg a else 0
  | _ =>
    match mbxBuffer a with
    | some (c, o) => BitVec.ofNat 64 (leNat (s.mbBytes c o 8))
    | none => if a = R.MGP_TRIAL then s.trialWord else s.plainReg a

/-- Bits of the 8 bytes at an address that an access of `n` bytes at `x` covers. -/
def laneMask (x n : Nat) : Word :=
  if n = 4 then (if x % 8 = 4 then 0xFFFFFFFF00000000 else 0xFFFFFFFF) else 0xFFFFFFFFFFFFFFFF

/-- A read of the lanes `m` of the 8 bytes at `a`: RC bits that it returned are cleared (R14, R272). -/
def State.regRead (s : State) (a : Nat) (m : Word) : State × Word :=
  if a = R.EVT_RNG then (if m &&& 0xFFFFFFFF = 0 then (s, 0) else s.rngRead)
  else
    let w := s.regWord a
    match rowAt a with
    | some r =>
      let rc := r.mask (fun x => x == .rc) &&& m
      (if rc = 0 then s else s.setReg a (s.reg a &&& ~~~ rc), w)
    | none => (s, w)

/-! ## Register writes -/

/-- What RW fields a write leaves: lanes not covered keep their value (R272); one-shot bits are the write's own. -/
def mergeWrite (r : RegRow) (old w m : Word) : Word := ((old &&& r.mask (fun x => x == .rw)) &&& ~~~ m) ||| (w &&& m)

/-- A write that acts by its access codes alone (R14). -/
def State.plainWrite (s : State) (a : Nat) (w m : Word) : State :=
  match rowAt a with
  | none => s
  | some r =>
    let rw := r.mask (fun x => x == .rw || x == .wo) &&& m
    let w1c := r.mask (fun x => x == .w1c) &&& m
    s.setReg a (((s.reg a &&& ~~~ rw) ||| (w &&& rw)) &&& ~~~ (w &&& w1c))

/-- A write refused by the event unit (R467). -/
def State.evtRefuse (s : State) : State := s.set1 F.EVT_STATUS_CFG_ERR

/-- A write of TIDE_CTL (R54): the plain fields, then ROLE where it changes, then ENABLE (log entry 55). -/
def State.tideCtlWrite (s : State) (a : Nat) (v w m : Word) : State :=
  let s1 := s.plainWrite a w (m &&& 0xFFFFF8)
  let r := bitsOf v.toNat 1 2
  let s2 := if bitsOf m.toNat 1 2 = 0 ∨ (r = s1.fld F.TIDE_CTL_ROLE ∧ !(s1.tide.deposed && r == 1)) then s1 else s1.tideRole r
  if bitsOf v.toNat 0 1 = s2.fld F.TIDE_CTL_ENABLE then s2 else s2.tideEnable (bitsOf v.toNat 0 1)

/-- A write of TSQ_CTL (R98). The order of its parts is DESIGN CHOICE (log entry 55): the plain fields, then START, HALT, RESUME
and UNFREEZE. -/
def State.tsqCtlWrite (s : State) (t a : Nat) (w m : Word) : State :=
  let s1 := s.plainWrite a w m
  let x := (w &&& m).toNat
  let s2 := if bitsOf x 0 8 = 0 then s1 else s1.start t (bitsOf x 0 8)
  let s3 := (s2.haltMask t (bitsOf x 8 8)).resumeMask t (bitsOf x 16 8)
  if bitsOf x 25 1 = 1 then (List.range 8).foldl (fun s k => s.setFld (F.TSQ_EVCNT_SEL_FROZEN t k) 0) s3 else s3

/-- A write into the SFU's shadow bank (R186). -/
def State.sfuShadow (s : State) (t o : Nat) (w m : Word) : State :=
  let b := 1 - s.sfuBank t
  (List.range 8).foldl (fun s k =>
    if bitsOf m.toNat (8 * k) 1 = 1 then s.setSfuByte t b (o + k) (BitVec.ofNat 8 (bitsOf w.toNat (8 * k) 8)) else s) s

/-- A write of the lanes `m` at an offset of a tile's register block. -/
def State.tileRegWrite (s : State) (t o a : Nat) (w m : Word) : State :=
  let v := match rowAt a with
    | some r => mergeWrite r (s.reg a) w m
    | none => w &&& m
  if o = 0 then s.tsqCtlWrite t a w m
  else if 0x1000 ≤ o ∧ o < 0x1800 then
    s.sregWrite t ((o - 0x1000) / 0x100) (o % 0x100 / 8) v
  else if 0x2000 ≤ o ∧ o < 0xA000 then s.tokenWrite t ((o - 0x2000) / 8) v
  else if o = 0x100000 then s.mxaCtl t v
  else if o = 0x300000 then s.ftqCtl t v
  else if o = 0x400000 then s.sfuCtl t v
  else if o = 0x400010 then s.sfuSwapWrite t v
  else if 0x410000 ≤ o ∧ o < 0x418800 then s.sfuShadow t (o - 0x410000) w m
  else if o = 0x600000 then s.lxeCtl t v
  else s.plainWrite a w m

/-- A write in the MBX_ block (R408 to R412, R425). -/
def State.mbxWrite (s : State) (a : Nat) (v w m : Word) (bad : Bool) : State :=
  match mbxBuffer a with
  | some (c, o) =>
    if m = 0xFFFFFFFF then s.mbWrite c o (leBytes 4 w.toNat) bad
    else if m = 0xFFFFFFFF00000000 then s.mbWrite c (o + 4) (leBytes 4 (w.toNat / 2 ^ 32)) bad
    else s.mbWrite c o (leBytes 8 w.toNat) bad
  | none =>
    let o := a - 0x38006000000
    if o < 0x18000 ∧ o % 0x1000 = 0x800 then s.chCtlWrite (o / 0x1000) (w &&& m)
    else if 0x20008 ≤ o ∧ o < 0x20060 ∧ o % 16 = 8 then s.dbMaskWrite ((o - 0x20008) / 16) v
    else if a = R.MBX_WIN then s.winWrite v
    else if a = R.MBX_BAR2 then s.bar2Write v
    else if 0xF00000 ≤ o ∧ o < 0xF00400 then s.msixWrite ((o - 0xF00000) / 16) (o % 16 / 8) v
    else s.plainWrite a w m

/-- A write in the EVT_ block (R467, R468). -/
def State.evtWrite (s : State) (a : Nat) (v w m : Word) : State :=
  let b := bitsOf v.toNat 0 48
  if a = R.EVT_CTL then s.evtCtlWrite v
  else if a = R.EVT_RING_BASE ∨ a = R.EVT_CAP_BASE then (if b % 4096 = 0 then s.setReg a (v &&& 0xFFFFFFFFFFFF) else s.evtRefuse)
  else if a = R.EVT_RD then s.evtRdWrite v
  else if a = R.EVT_SW_COMMIT then (if (w &&& m).getLsbD 0 then s.swCommit else s)
  else if a = R.EVT_AUDIT then
    (if b % 4096 = 0 ∧ log2Ok (bitsOf v.toNat 48 5) = true then s.setReg a (v &&& 0x1FFFFFFFFFFFFF) else s.evtRefuse)
  else if a = R.EVT_AUDIT_RD then s.auditRdWrite v
  else if a = R.EVT_CAP_CTL then s.capCtlWrite v
  else if a = R.EVT_CAP_SIZE then
    (if b % 4096 = 0 ∧ 0x100000 ≤ b then s.setReg a (v &&& 0xFFFFFFFFFFFF) else s.evtRefuse)
  else if a = R.EVT_REPLAY_CTL then
    let s1 := if (w &&& m).getLsbD 0 then s.replayGo else s
    if (w &&& m).getLsbD 1 then s1.replayEnd else s1
  else s.plainWrite a w m

/-- A write into the tide unit's registers (R54); `v` is what the written fields are to hold. -/
def State.tideRegWrite (s : State) (a : Nat) (v w m : Word) : State :=
  if a = R.TIDE_CTL then s.tideCtlWrite a v w m
  else if a = R.TIDE_PERIOD then s.tidePeriodWrite v
  else if a = R.TIDE_LEAD then s.tideLeadWrite v
  else if a = R.TIDE_LOAD then s.tideLoad v
  else s.plainWrite a w m

/-- A write into the fabric's registers at offset `o` (R325, R326). -/
def State.fabRegWrite (s : State) (a o : Nat) (v w m : Word) : State :=
  if a = R.FAB_ID then s.fabIdWrite v
  else if 0x100 ≤ o ∧ o < 0x500 ∧ o % 0x40 = 0 then s.portCfg ((o - 0x100) / 0x40) v
  else if m &&& 0xFFFFFFFF = 0 then s.plainWrite a w m
  else if a = R.FAB_MCRC_DATA8 then s.mcrcFeed 1 w.toNat
  else if a = R.FAB_MCRC_DATA16 then s.mcrcFeed 2 w.toNat
  else if a = R.FAB_MCRC_DATA32 then s.mcrcFeed 4 w.toNat
  else if a = R.FAB_MCRC_INIT then s.setMcrc 0xFFFFFFFF
  else if a = R.FAB_MCRC_VALUE then s.setMcrc v.toNat
  else s.plainWrite a w m

/-- A write into the queue unit's registers. -/
def State.queRegWrite (s : State) (a o : Nat) (v w m : Word) : State :=
  if a = R.QUE_CTX_BASE then s.ctxBaseWrite v
  else if a = R.QUE_QCTL then s.qctlWrite (w &&& m)
  else if 0x100000 ≤ o ∧ o < 0x180000 ∧ m &&& 0xFFFFFFFF ≠ 0 then s.doorbell ((o - 0x100000) / 8) (w.toNat % 2 ^ 32)
  else s.plainWrite a w m

/-- A write into the reduction engine's registers. -/
def State.greRegWrite (s : State) (a o : Nat) (v w m : Word) : State :=
  if 0x1000 ≤ o ∧ o < 0x5000 then
    if o % 0x40 = 0 then s.greCfgWrite ((o - 0x1000) / 0x40) v
    else if o % 0x40 = 8 then s.greLinkWrite ((o - 0x1000) / 0x40) v
    else if o % 0x40 = 16 then s.greInitWrite ((o - 0x1000) / 0x40) v
    else s.plainWrite a w m
  else s.plainWrite a w m

/-- A write into the power controller's registers (R402). -/
def State.pwrRegWrite (s : State) (a o : Nat) (v w m : Word) : State :=
  if a = R.PWR_CTL then s.pwrCtl v
  else if a = R.PWR_HOST then s.pwrHostWrite v
  else if a = R.PWR_STATE then s.pwrStateWrite v
  else if a = R.PWR_QENERGY then s.qenergyWrite v
  else if a = R.PWR_GRP_CTL then s.grpCtlWrite v
  else if a = R.PWR_GRP_CFG then s.grpCfgWrite v
  else if 0x4000 ≤ o ∧ o < 0x4020 then s.moveWrite ((o - 0x4000) / 8) v
  else if 0x4800 ≤ o ∧ o < 0x5000 then s.ackWrite ((o - 0x4800) / 8) v
  else s.plainWrite a w m

/-- A write into the management processor's registers. -/
def State.mgpRegWrite (s : State) (a : Nat) (v w m : Word) : State :=
  if a = R.MGP_TRIAL then
    let s1 := s.plainWrite a w m
    if (w &&& m).getLsbD 18 then s1.trialStop else s1
  else if a = R.MGP_MEAS_EXT then (if m &&& 0xFFFFFFFF = 0 then s else s.measExt (bitsOf w.toNat 0 3))
  else if a = R.MGP_ATT_CTL then
    let s1 := s.plainWrite a w m
    if (w &&& m).getLsbD 0 then s1.attGo else s1
  else if a = R.MGP_WDT then s.wdtWrite v (w &&& m)
  else s.plainWrite a w m

/-- A write of the lanes `m` of a device register (R402, R425, R447, R468 and the tables of the other blocks). -/
def State.devRegWrite (s : State) (a : Nat) (w m : Word) (bad : Bool) : State :=
  let v := match rowAt a with
    | some r => mergeWrite r (s.reg a) w m
    | none => w &&& m
  let o := (a - 0x38000000000) % 0x1000000
  if a < 0x38001000000 then s.tideRegWrite a v w m
  else if a < 0x38002000000 then (if a = R.MEM_SCRUB then s.memScrubWrite v else s.plainWrite a w m)
  else if a < 0x38003000000 then s.fabRegWrite a o v w m
  else if a < 0x38004000000 then s.queRegWrite a o v w m
  else if a < 0x38005000000 then s.greRegWrite a o v w m
  else if a < 0x38006000000 then s.pwrRegWrite a o v w m
  else if a < 0x38007000000 then s.mbxWrite a v w m bad
  else if a < 0x38008000000 then s.mgpRegWrite a v w m
  else if a < 0x38009000000 then (if o % 0x400000 = 0x100 then s.dcpHbWrite (o / 0x400000) v else s.plainWrite a w m)
  else s.evtWrite a v w m

/-- Lanes `m` of the register at an address cover some bit a write acts on; a write of reserved or read-only bits alone has no
effect (R15). An address without a row of its own belongs to a window. -/
def lanesAct (a : Nat) (m : Word) : Bool :=
  match rowAt a with
  | some r => r.mask (fun x => x == .rw || x == .wo || x == .w1c || x == .w1s) &&& m != 0
  | none => true

/-- A write of the lanes `m` of the 8 bytes at a resolved register address. -/
def State.regWrite (s : State) (a : Nat) (w m : Word) (bad : Bool) : State :=
  if !lanesAct a m then s
  else match regionOf a with
  | .tileRegs => s.tileRegWrite ((a - 0x30000000000) / 0x800000) ((a - 0x30000000000) % 0x800000) a w m
  | .devRegs => if a < 0x3800A000000 then s.devRegWrite a w m bad else s
  | _ => s

/-! ## Accesses of any size (R271, R272) -/

/-- The size and alignment that register space accepts (R272). -/
def regShape (a n : Nat) : Bool := (n == 4 && a % 4 == 0) || (a % 8 == 0 && n % 8 == 0)

/-- Accesses within register space. -/
def isRegs (a : Nat) : Bool := match regionOf a with
  | .tileRegs => true
  | .devRegs => true
  | .diag => true
  | _ => false

/-- The 8-byte steps of a register access. -/
def regSteps (a n : Nat) : List Nat := if n = 4 then [a - a % 8] else (List.range (n / 8)).map (fun k => a + 8 * k)

/-- Error codes of an access: 0 none, 1 unmapped or unpopulated, 2 register access. The first of two stands. -/
def errOr (a b : Nat) : Nat := if a = 0 then b else a

/-- A read of one part. -/
def State.partRead (s : State) (q : Req) (a n : Nat) : State × List (Byte × Bool) × Nat :=
  let zeros := List.replicate n ((0 : Byte), false)
  if populated a then
    (s.noteReads q a n, (List.range n).map (fun k => (s.byte (a + k), (s.tag (wordBase (a + k))).bad)), 0)
  else if isRegs a then
    if regShape a n && (s.diagMap a).isSome then
      (regSteps a n).foldl (fun (r : State × List (Byte × Bool) × Nat) x =>
        match r.1.diagMap x with
        | some y =>
          let m := laneMask a n
          let v := r.1.regRead y m
          let bs := leBytes 8 v.2.toNat
          let bad (k : Nat) : Bool := match mbxBuffer y with
            | some (c, o) => Store.get (fun _ => false) r.1.mboxBad (c * 0x800 + o + k)
            | none => false
          let tagged := bs.zipIdx.map (fun b => (b.1, bad b.2))
          (v.1, r.2.1 ++ (if n = 4 then (tagged.drop (a % 8)).take 4 else tagged), r.2.2)
        | none => (r.1.unmapped q x kindRead, r.2.1 ++ List.replicate 8 (0, false), errOr r.2.2 1)) (s, [], 0)
    else (s.unmapped q a kindRead, zeros, if (s.diagMap a).isSome then 2 else 1)
  else (s.unmapped q a kindRead, zeros, 1)

/-- A read of `n` bytes of the local map: the bytes with their poison, and the error met. -/
def State.busRead (s : State) (q : Req) (a n : Nat) : State × List (Byte × Bool) × Nat :=
  (parts 4 a n).foldl (fun (r : State × List (Byte × Bool) × Nat) p =>
    let x := r.1.partRead q p.1 p.2
    (x.1, r.2.1 ++ x.2.1, errOr r.2.2 x.2.2)) (s, [], 0)

/-- Bytes stored in one populated part, each word poisoned if a byte of it is. -/
def State.storeMixed (s : State) (q : Req) (a : Nat) (bs : List (Byte × Bool)) : State :=
  (wordsOf a bs.length).foldl (fun s w =>
    let lo := max a w
    let piece := (bs.drop (lo - a)).take (w + granule w - lo)
    s.writeBytes q lo (piece.map (fun b => b.1)) (piece.any (fun b => b.2))) s

/-- A write of one part. -/
def State.partWrite (s : State) (q : Req) (a : Nat) (bs : List (Byte × Bool)) : State × Nat :=
  let n := bs.length
  if populated a then (s.storeMixed q a bs, 0)
  else if isRegs a then
    if regShape a n && (s.diagMap a).isSome then
      (regSteps a n).foldl (fun (r : State × Nat) x =>
        match r.1.diagMap x with
        | some y =>
          let k := if n = 4 then 0 else x - a
          let ds := (bs.drop k).take 8
          let w := leNat (ds.map (fun b => b.1))
          let w := if n = 4 ∧ a % 8 = 4 then w * 2 ^ 32 else w
          ((r.1.noteRegWrite q (if n = 4 then a else x) y).regWrite y (BitVec.ofNat 64 w) (laneMask a n) (ds.any (fun b => b.2)),
            r.2)
        | none => (r.1.unmapped q x kindWrite, errOr r.2 1)) (s, 0)
    else (s.unmapped q a kindWrite, if (s.diagMap a).isSome then 2 else 1)
  else (s.unmapped q a kindWrite, 1)

/-- A write of bytes of the local map, and the error met. -/
def State.busWrite (s : State) (q : Req) (a : Nat) (bs : List (Byte × Bool)) : State × Nat :=
  (parts 4 a bs.length).foldl (fun (r : State × Nat) p =>
    let x := r.1.partWrite q p.1 ((bs.drop (p.1 - a)).take p.2)
    (x.1, errOr r.2 x.2)) (s, 0)

/-- A write of clean bytes. -/
def State.busPut (s : State) (q : Req) (a : Nat) (bs : List Byte) : State × Nat := s.busWrite q a (bs.map (fun b => (b, false)))

/-! ## Commands -/

/-- A write of registers by a master of this device or another (R10, R14). -/
def execRegisterWrite (m : Master) (addr : BitVec 48) (data : List Byte) (time : Nat) (s : State) :
    Host.Outcome State Fault Refusal :=
  if isRegs addr.toNat then .next ((s.tideNow time).busPut ⟨m.dev.toNat, m.src.toNat⟩ addr.toNat data).1 else .next s

/-- A write of MBX_WIN or MBX_BAR2. -/
def execMbxWinWrite (bar2 : Bool) (v : BitVec 64) (s : State) : Host.Outcome State Fault Refusal :=
  .next (if bar2 then s.bar2Write v else s.winWrite v)

end Sys2Proof.Machine
end

