-- ==== Sys2Proof/Machine/Layout.lean ====
section
/-! DEFINITION. The layout engine: dispatch checks (R245, R250, R251, R255), reads and writes at hall addresses (R244), copies,
windows, conversion, the pruning pack, FP64 slicing, gather and scatter (R249 to R261), poison (R263). -/
namespace Sys2Proof.Machine

/-! ## Posting -/

def execLxCopy (i : Iss) (a : PostArgs) (s : State) : Host.Outcome State Fault Refusal :=
  .next (s.issueFenced i (.lxCopy i a) [a.sa.toNat] (fun s => s.postBody i (.lxCopy i a) a.sa .lxe 3 false))

def execLxCvt (i : Iss) (a : PostArgs) (s : State) : Host.Outcome State Fault Refusal :=
  .next (s.issueFenced i (.lxCvt i a) [a.sa.toNat] (fun s => s.postBody i (.lxCvt i a) a.sa .lxe 3 false))

def execLxWin (i : Iss) (a : PostArgs) (s : State) : Host.Outcome State Fault Refusal :=
  .next (s.issueFenced i (.lxWin i a) [a.sa.toNat] (fun s => s.postBody i (.lxWin i a) a.sa .lxe 4 false))

def execLxPrune (i : Iss) (a : PostArgs) (s : State) : Host.Outcome State Fault Refusal :=
  .next (s.issueFenced i (.lxPrune i a) [a.sa.toNat] (fun s => s.postBody i (.lxPrune i a) a.sa .lxe 2 false))

def execLxGather (i : Iss) (a : PostArgs) (s : State) : Host.Outcome State Fault Refusal :=
  .next (s.issueFenced i (.lxGather i a) [a.sa.toNat] (fun s => s.postBody i (.lxGather i a) a.sa .lxe 4 false))

def execLxScat (i : Iss) (a : PostArgs) (s : State) : Host.Outcome State Fault Refusal :=
  .next (s.issueFenced i (.lxScat i a) [a.sa.toNat] (fun s => s.postBody i (.lxScat i a) a.sa .lxe 4 false))

def execLxFp64s (i : Iss) (a : PostArgs) (s : State) : Host.Outcome State Fault Refusal :=
  .next (s.issueFenced i (.lxFp64s i a) [a.sa.toNat] (fun s => s.postBody i (.lxFp64s i a) a.sa .lxe 3 false))

def execLxFill (i : Iss) (a : PostArgs) (s : State) : Host.Outcome State Fault Refusal :=
  .next (s.issueFenced i (.lxFill i a) [a.sa.toNat] (fun s => s.postBody i (.lxFill i a) a.sa .lxe 2 false))

/-- OP and operands of a layout command (R241). -/
def lxArgs : Instr → Option (Nat × PostArgs)
  | .lxCopy _ a => some (0, a)
  | .lxCvt _ a => some (1, a)
  | .lxWin _ a => some (2, a)
  | .lxPrune _ a => some (3, a)
  | .lxGather _ a => some (4, a)
  | .lxScat _ a => some (5, a)
  | .lxFp64s _ a => some (6, a)
  | .lxFill _ a => some (7, a)
  | _ => none

/-! ## Element types (R243) -/

/-- Bits of an element. -/
def lxBits (e : Nat) : Nat := 8 * (lxUnit e).1 / (lxUnit e).2

/-- The vector engines' type code of a type that converts (R148); none for the others. -/
def lxType : Nat → Option Nat
  | 0x00 => some 3
  | 0x01 => some 4
  | 0x02 => some 7
  | 0x03 => some 8
  | 0x04 => some 9
  | 0x05 => some 10
  | 0x06 => some 11
  | 0x07 => some 0
  | 0x08 => some 12
  | 0x09 => some 5
  | 0x0C => some 1
  | 0x0D => some 2
  | 0x0E => some 6
  | _ => none

/-! ## Accumulation (R261) -/

/-! Conditions of an application. -/
def acNV : Nat := 1
def acOF : Nat := 2
def acWRAP : Nat := 4
def acERI : Nat := 8

/-- The ERI format's non-finite code (R261). -/
def eriNF : Nat := 2 ^ 63

/-- The sum of two ERI elements: exact, saturating; NF absorbs. -/
def eriAdd (x y : Nat) : Nat × Bool :=
  if x = eriNF ∨ y = eriNF then (eriNF, false)
  else
    let z := toSigned 64 x + toSigned 64 y
    let m : Int := ((2 ^ 63 - 1 : Nat) : Int)
    if m < z then (2 ^ 63 - 1, true) else if z < -m then (ofSigned 64 (-m), true) else (ofSigned 64 z, false)

/-- A floating-point sum with its conditions. -/
def accFp (f : Fmt) (d s : Nat) : Nat × Nat :=
  let r := f.add d s
  (r.1, (if r.2 &&& stNV ≠ 0 then acNV else 0) + (if r.2 &&& stOF ≠ 0 then acOF else 0))

/-- One application: the new element and its conditions. -/
def accApply (aop ety d s : Nat) : Nat × Nat :=
  match aop with
  | 0 => (s, 0)
  | 1 => match ety with
    | 0x09 => accFp fmtFP32 d s
    | 0x00 => accFp fmtBF16 d s
    | 0x0D =>
      let z := toSigned 32 d + toSigned 32 s
      let r := ofSigned 32 z
      (r, if toSigned 32 r = z then 0 else acWRAP)
    | _ =>
      let r := eriAdd d s
      (r.1, if r.2 then acERI else 0)
  | _ => match ety with
    | 0x09 => ((fmtFP32.minmax (aop == 2) d s).1, 0)
    | 0x00 => ((fmtBF16.minmax (aop == 2) d s).1, 0)
    | _ => (if (aop == 2) == decide (toSigned 32 d < toSigned 32 s) then s else d, 0)

/-- One application at an element of the local map: an element of register space or of no storage is an error (R271, R272).
A poisoned operand poisons the element. -/
def State.accAt (s : State) (q : Req) (aop ety a : Nat) (bs : List (Byte × Bool)) : State × Nat × Nat :=
  let n := bs.length
  if populated a && populated (a + n - 1) then
    let bad := s.poisoned a n || bs.any (fun b => b.2)
    let r := accApply aop ety (s.num a n) (leNat (bs.map (fun b => b.1)))
    (s.rmwBytes q a (leBytes n r.1) bad, r.2, 0)
  else (s.unmapped q a kindSacc, 0, if isRegs a then 2 else 1)

/-! ## Fields of a command -/

/-- Type, rank and pattern of descriptor `d`. -/
def QCmd.ety (c : QCmd) (d : Nat) : Nat := c.bits (8 * d + 7) 0 5
def QCmd.rank (c : QCmd) (d : Nat) : Nat := c.bits (8 * d + 7) 8 3

/-- The descriptor of a command's destination; none for LX.PRUNE. -/
def lxDst (op : Nat) : Option Nat :=
  match op with
  | 3 => none
  | 4 => some 3
  | 5 => some 3
  | 7 => some 1
  | _ => some 2

/-- A command with an index list. -/
def lxIndexed (op : Nat) : Bool := op == 4 || op == 5

/-- The descriptors that are tensors. -/
def lxTensors (op : Nat) : List Nat :=
  match op with
  | 3 => [1]
  | 7 => [1]
  | 4 => [1, 2, 3]
  | 5 => [1, 2, 3]
  | _ => [1, 2]

/-- Operation-descriptor fields (R242). -/
def QCmd.lxStage (c : QCmd) : Bool := c.bits 0 0 1 == 1
def QCmd.lxWrap (c : QCmd) : Bool := c.bits 0 1 1 == 1
def QCmd.lxSat (c : QCmd) : Bool := c.bits 0 2 1 == 1
def QCmd.lxMx (c : QCmd) : Bool := c.bits 0 3 1 == 1
def QCmd.lxRnd (c : QCmd) : Nat := c.bits 0 4 2
def QCmd.lxAop (c : QCmd) : Nat := c.bits 0 6 2
def QCmd.lxMxl (c : QCmd) : Nat := c.bits 0 8 3
def QCmd.lxRl (c : QCmd) : Nat := c.bits 0 11 3
def QCmd.lxGm (c : QCmd) : Bool := c.bits 0 14 1 == 1
def QCmd.lxGiven (c : QCmd) : Bool := c.bits 0 15 1 == 1
def QCmd.lxPair (c : QCmd) : Bool := c.bits 0 16 1 == 1
def QCmd.lxArea (c : QCmd) : Nat := c.word 3

/-- A poisoned word of the operation descriptor, or of a window descriptor (R263). -/
def QCmd.lxBad (c : QCmd) (op : Nat) : Bool :=
  (c.bad.take 16).any id || (op == 2 && ((c.bad.drop 48).take 16).any id)

/-- Elements of a tensor. -/
def QCmd.elems (c : QCmd) (d : Nat) : Nat := (c.pat d).total * (lxUnit (c.ety d)).2

/-- The product of counts of a pattern's levels `a` to `b - 1`. -/
def Pat.prod (p : Pat) (a b : Nat) : Nat := ((p.lv.take b).drop a).foldl (fun n l => n * l.1) 1

/-- A row command's indexed tensor: its descriptor, rows S, and the elements R of a row as units (R257, R260). -/
def lxRows (op : Nat) : Nat := if op = 4 then 1 else 3
def QCmd.rowCount (c : QCmd) (op : Nat) : Nat := ((c.pat (lxRows op)).lv.getD (c.rank (lxRows op) - 1) (0, 0)).1
def QCmd.rowLen (c : QCmd) (op : Nat) : Nat := (c.pat (lxRows op)).prod 0 (c.rank (lxRows op) - 1)

/-- The addresses of row `x` of the indexed tensor. -/
def QCmd.rowAddrs (c : QCmd) (op x : Nat) : List Nat :=
  let p := c.pat (lxRows op)
  let k := c.rank (lxRows op) - 1
  let st := (p.lv.getD k (0, 0)).2
  (Pat.mk (ofSigned 64 ((p.base : Int) + (x : Int) * st)) (p.lv.take k)).addrs

/-- Block-scaled conversion narrows (R253). -/
def QCmd.lxDown (c : QCmd) : Bool := decide (lxBits (c.ety 2) < lxBits (c.ety 1))

/-- The descriptor of the narrow side. -/
def QCmd.lxNarrow (c : QCmd) : Nat := if c.lxDown then 2 else 1

/-- Elements of a run of MX blocks (R253). -/
def QCmd.mxRun (c : QCmd) : Nat :=
  let d := c.lxNarrow
  if c.lxMxl = 0 ∨ 6 ≤ c.lxMxl then c.elems d else (c.pat d).prod 0 c.lxMxl * (lxUnit (c.ety d)).2

/-- The block of an element, and the number of blocks. -/
def QCmd.mxBlock (c : QCmd) (e : Nat) : Nat :=
  let r := max 1 c.mxRun
  e / r * ((r + 31) / 32) + e % r / 32
def QCmd.mxBlocks (c : QCmd) : Nat :=
  let r := max 1 c.mxRun
  c.elems c.lxNarrow / r * ((r + 31) / 32)

/-- FP64S groups, and the group of an element (R255). -/
def QCmd.groups (c : QCmd) : Nat := if c.lxGm then (c.pat 1).prod 0 c.lxRl else (c.pat 1).prod c.lxRl 6
def QCmd.groupOf (c : QCmd) (e : Nat) : Nat :=
  let n := max 1 ((c.pat 1).prod 0 c.lxRl)
  if c.lxGm then e % n else e / n

/-- LX.PRUNE: rows of a block, its value bytes and its bytes (R214, R254). -/
def QCmd.prK (c : QCmd) : Nat :=
  let e := c.ety 1
  if e ≤ 1 then 128 else if e = 6 ∨ e = 8 then (if c.lxPair then 256 else 512) else 256
def QCmd.prVals (c : QCmd) : Nat := packedBytes (c.ety 1) (16 * c.prK)
def QCmd.prBytes (c : QCmd) : Nat := c.prVals + 8 * c.prK
def QCmd.prPitch (c : QCmd) : Nat := c.bits 5 0 32

/-! ## Dispatch checks (R245) -/

/-- A condition of reason FMT. -/
def QCmd.lxFmtBad (c : QCmd) (op : Nat) : Bool :=
  let s := c.ety 1
  let d := c.ety ((lxDst op).getD 1)
  let valid := (lxTensors op).all (fun k => decide (c.ety k ≤ 0x10))
  let okOp := match op with
    | 1 => match lxType s, lxType d with
      | some a, some b => cvtPair a b && (!c.lxMx || mxPair a b) && c.lxRnd != 3 && (c.lxRnd != 2 || b == 3)
      | _, _ => false
    | 3 => decide (s ≤ 8)
    | 4 => s == d && c.ety 2 == 0x0D
    | 5 => s == d && c.ety 2 == 0x0D && accOk c.lxAop s
    | 6 => s == 0x0E && d == 0x0A
    | 7 => true
    | _ => s == d
  !(valid && okOp)

/-- A condition of reason SHAPE, looked at whatever the ranks are (R482): at a rank below 1 a row is one unit, at one above 6 all
six levels (log entry 93). -/
def QCmd.lxShapeBad (c : QCmd) (op : Nat) : Bool :=
  match op with
  | 3 => c.elems 1 == 0 || c.elems 1 % (c.prK * 32) != 0
  | 4 => (c.pat 3).total != (c.pat 2).total * c.rowLen 4
  | 5 => (c.pat 1).total != (c.pat 2).total * c.rowLen 5
  | 7 => false
  | _ => c.elems 1 != c.elems 2

/-- BASE and the strides below RANK are multiples of the unit. -/
def QCmd.lxAligned (c : QCmd) (d : Nat) : Bool :=
  let u := (lxUnit (c.ety d)).1
  let m := if u = 3 then 1 else u
  (c.pat d).base % m == 0 && ((c.pat d).lv.take (c.rank d)).all (fun l => l.2 % (m : Int) == 0)

/-- A condition of reason ALIGN. -/
def QCmd.lxAlignBad (c : QCmd) (op : Nat) : Bool :=
  (lxTensors op).any (fun d => !c.lxAligned d) || (op == 3 && (c.word 4 % 16 != 0 || c.prPitch % 16 != 0))
    || (op == 6 && c.lxArea % 2 != 0)

/-- A condition of reason RANK. -/
def QCmd.lxRankBad (c : QCmd) (op : Nat) : Bool :=
  (lxTensors op).any (fun d => decide (6 < c.rank d) || ((c.pat d).lv.drop (c.rank d)).any (fun l => l.1 != 1))
    || (lxIndexed op && c.rank (lxRows op) == 0)

/-- Ranges of hall addresses: the first and last byte; none for an empty one (R239). -/
abbrev Foot := Option (Int × Int)

def Foot.meets : Foot → Foot → Bool
  | some a, some b => decide (a.1 ≤ b.2) && decide (b.1 ≤ a.2)
  | _, _ => false

/-- The footprint of a tensor, moved by `x` bytes. -/
def QCmd.foot (c : QCmd) (d x : Nat) : Foot :=
  (c.pat d).span.map (fun r => (r.1 + (x : Int), r.2 + (x : Int) + ((lxUnit (c.ety d)).1 : Int) - 1))

/-- The range of `n` bytes at an address. -/
def areaFoot (a n : Nat) : Foot := if n = 0 then none else some ((a : Int), ((a + n - 1 : Nat) : Int))

/-- The footprints a command reads beside its source, and those it writes beside its destination (R250). -/
def QCmd.lxSideReads (c : QCmd) (op : Nat) : List Foot :=
  match op with
  | 1 => if c.lxMx && !c.lxDown then [areaFoot c.lxArea c.mxBlocks] else []
  | 4 => [c.foot 2 0]
  | 5 => [c.foot 2 0]
  | 6 => if c.lxGiven then [areaFoot c.lxArea (2 * c.groups)] else []
  | _ => []
def QCmd.lxSideWrites (c : QCmd) (op : Nat) : List Foot :=
  match op with
  | 1 => if c.lxMx && c.lxDown then [areaFoot c.lxArea c.mxBlocks] else []
  | 3 => [areaFoot (c.word 4) ((c.elems 1 / (c.prK * 32) - 1) * c.prPitch + c.prBytes)]
  | 6 => (if c.lxGiven then [] else [areaFoot c.lxArea (2 * c.groups)])
      ++ (List.range 6).map (fun i => c.foot 2 ((i + 1) * c.bits 4 0 40))
  | _ => []

/-- Source and destination of an element-wise command are one pattern with one unit size (R250). -/
def QCmd.lxInPlace (c : QCmd) (op : Nat) : Bool :=
  decide (op ≤ 2) && c.pat 1 == c.pat 2 && (lxUnit (c.ety 1)).1 == (lxUnit (c.ety 2)).1

/-- The command overlaps (R250). -/
def QCmd.lxOverlap (c : QCmd) (op : Nat) : Bool :=
  let src := if op = 7 then none else c.foot 1 0
  let dst := match lxDst op with
    | some d => c.foot d 0
    | none => none
  let reads := c.lxSideReads op
  let writes := c.lxSideWrites op
  (!c.lxInPlace op && dst.meets src) || reads.any (fun r => dst.meets r) || writes.any (fun w => w.meets src)
    || writes.any (fun w => reads.any (fun r => w.meets r))

/-- The hall address of the staging area, and its size. -/
def State.stageBase (s : State) (t : Nat) : Nat := s.fld F.FAB_ID_ID * 2 ^ 48 + tileAddr t (4096 * s.fld (F.LXE_CTL_STAGE_BASE t))
def State.stageSize (s : State) (t : Nat) : Nat := 4096 * s.fld (F.LXE_CTL_STAGE_SIZE t)

/-- The command runs through the staging area (R251). -/
def QCmd.lxStaged (c : QCmd) (op : Nat) : Bool := c.lxStage && c.lxOverlap op

/-- The staging area meets a footprint of the command. -/
def State.stageConflict (s : State) (t : Nat) (c : QCmd) (op : Nat) : Bool :=
  let st := areaFoot (s.stageBase t) (s.stageSize t)
  let own := ((lxTensors op).map (fun d => c.foot d 0)) ++ c.lxSideReads op ++ c.lxSideWrites op
  own.any (fun f => st.meets f)

/-- The reasons for which a command is rejected, lowest first. -/
def State.lxReasons (s : State) (t : Nat) (c : QCmd) (op : Nat) : List Nat :=
  let ovl := c.lxOverlap op
  ([ (1, c.lxFmtBad op), (2, c.lxShapeBad op), (3, c.lxAlignBad op), (4, ovl && !c.lxStage)
   , (5, ovl && c.lxStage && decide (s.stageSize t < (c.pat 1).total * (lxUnit (c.ety 1)).1))
   , (6, ovl && c.lxStage && s.stageConflict t c op)
   , (7, op == 6 && c.lxGm && decide (4096 < c.groups)), (8, c.lxRankBad op) ]).filterMap
    (fun x => if x.2 then some x.1 else none)

/-- A zero-work command (R246). -/
def QCmd.lxZero (c : QCmd) (op : Nat) : Bool :=
  (lxTensors op).any (fun d => (c.pat d).total == 0) || (lxIndexed op && c.rowLen op == 0)

/-! ## What a command reads -/

/-- Places of the data read start here; those below hold indices, scales or exponents. -/
def lxData : Nat := 2 ^ 60

/-- The first reads: place, hall address, bytes. -/
def QCmd.lxFirst (c : QCmd) (op : Nat) : List (Nat × Nat × Nat) :=
  match op with
  | 1 => if c.lxMx && !c.lxDown then
      (List.range c.mxBlocks).map (fun b => (b, (c.lxArea + b) % 2 ^ 64, 1)) else []
  | 4 => (c.pat 2).addrs.zipIdx.map (fun x => (x.2, x.1, 4))
  | 5 => (c.pat 2).addrs.zipIdx.map (fun x => (x.2, x.1, 4))
  | 6 => if c.lxGiven then
      (List.range c.groups).map (fun g => (g, (c.lxArea + 2 * g) % 2 ^ 64, 2)) else []
  | _ => []

/-- What was read at a place: its number and whether it is poisoned. -/
def LxeRun.val (r : LxeRun) (k : Nat) : Nat × Bool :=
  match Store.get (fun _ => none) r.got k with
  | some bs => (leNat (bs.map (fun b => b.1)), bs.any (fun b => b.2))
  | none => (0, false)

/-- An index judged (R258): the row reached, and 0 or the kind counted: 1 negative, 2 beyond size, 3 poisoned. -/
def judgeIdx (wrap : Bool) (size : Nat) (x : Nat × Bool) : Option Nat × Nat :=
  let i := toSigned 32 x.1
  if x.2 then (none, 3)
  else if 0 ≤ i then (if i < (size : Int) then (some i.toNat, 0) else (none, 2))
  else if wrap = true ∧ 0 ≤ i + (size : Int) then (some (i + (size : Int)).toNat, 0)
  else (none, 1)

/-- The indices of a run, judged. -/
def LxeRun.rows (r : LxeRun) (op : Nat) : List (Option Nat × Nat) :=
  (List.range (r.c.pat 2).total).map (fun k => judgeIdx r.c.lxWrap (r.c.rowCount op) (r.val k))

/-- For each output row of a gather, the first output row of its window of 256 that names the same source row (R259). -/
def gatherLeaders (rows : List (Option Nat × Nat)) : List (Option (Nat × Nat)) :=
  rows.zipIdx.map (fun x =>
    match x.1.1 with
    | none => none
    | some row =>
      let w := x.2 / 256 * 256
      let same := ((rows.drop w).take 256).zipIdx.find? (fun y => y.1.1 == some row)
      some (row, w + (same.map (fun y => y.2)).getD 0))

/-- The window coordinates of a unit of LX.WIN lie within every axis (R252). -/
def QCmd.winIn (c : QCmd) (e : Nat) : Bool :=
  let p := c.pat 1
  let w (k : Nat) := 24 + k
  let axis (k : Nat) : Nat := c.bits (w 0) (2 * k) 2
  let coef (k : Nat) : Int := toSigned 16 (if k < 4 then c.bits (w 1) (16 * k) 16 else c.bits (w 2) (16 * (k - 4)) 16)
  let idx (k : Nat) : Nat := e / max 1 (p.prod 0 k) % max 1 (p.lv.getD k (1, 0)).1
  [1, 2, 3].all (fun a =>
    let ks := (List.range 6).filter (fun k => axis k == a)
    ks.isEmpty ||
      (let x := ks.foldl (fun (z : Int) k => z + (idx k : Int) * coef k) 0 - toSigned 32 (c.bits (w (2 + a)) 0 32)
       decide (0 ≤ x) && decide (x < (c.bits (w (2 + a)) 32 32 : Int))))

/-- The data reads: place, hall address, bytes. A row that a scatter drops is not read (log entry 74). -/
def LxeRun.second (r : LxeRun) (op : Nat) : List (Nat × Nat × Nat) :=
  let c := r.c
  let u := (lxUnit (c.ety 1)).1
  let whole := (c.pat 1).addrs.zipIdx.map (fun x => (lxData + x.2, x.1, u))
  match op with
  | 2 => whole.filter (fun x => c.winIn (x.1 - lxData))
  | 4 =>
    if c.lxStaged 4 then whole
    else (gatherLeaders (r.rows 4)).zipIdx.flatMap (fun x =>
      match x.1 with
      | some (row, lead) =>
        if lead = x.2 then (c.rowAddrs 4 row).zipIdx.map (fun a => (lxData + x.2 * c.rowLen 4 + a.2, a.1, u)) else []
      | none => [])
  | 5 =>
    let rows := r.rows 5
    let len := c.rowLen 5
    if c.lxStaged 5 then whole
    else whole.filter (fun x => match rows.getD ((x.1 - lxData) / max 1 len) (none, 0) with
      | (some _, _) => true
      | _ => false)
  | 7 => []
  | _ => whole

/-! ## What a command writes -/

/-- A write: bytes with their poison at a hall address (R244), or an application of one element (R260, R261). -/
inductive LxWrite where
  | put (a : Nat) (bs : List (Byte × Bool))
  | acc (aop ety a : Nat) (bs : List (Byte × Bool))
  deriving DecidableEq, Repr

/-- Its bytes. -/
def LxWrite.bytes : LxWrite → List (Byte × Bool)
  | .put _ bs => bs
  | .acc _ _ _ bs => bs

/-- Every byte poisoned. -/
def LxWrite.spoil : LxWrite → LxWrite
  | .put a bs => .put a (bs.map (fun b => (b.1, true)))
  | .acc o e a bs => .acc o e a (bs.map (fun b => (b.1, true)))

/-- What a command does: its writes in order; conversion conditions and those counted in the census; indices offending
(kind, index as read); row reads saved; non-zeros dropped; FP64S elements saturated with the first group; a group marked
non-finite. -/
structure LxOut where
  writes : List LxWrite
  fl     : Nat
  cvts   : List Cvt
  idx    : List (Nat × Nat)
  saved  : Nat
  drops  : Nat
  sat    : List Nat
  nonfin : Bool
  deriving DecidableEq, Repr

/-- Writes alone. -/
def LxOut.just (ws : List LxWrite) : LxOut := ⟨ws, 0, [], [], 0, 0, [], false⟩

/-- A unit as read: its bytes number and poison. -/
def LxeRun.unit (r : LxeRun) (e : Nat) : Nat × Bool := r.val (lxData + e)

/-- Element `e` of the source. -/
def LxeRun.elem (r : LxeRun) (e : Nat) : Nat × Bool :=
  let g := (lxUnit (r.c.ety 1)).2
  let w := lxBits (r.c.ety 1)
  let x := r.unit (e / g)
  (bitsOf x.1 (w * (e % g)) w, x.2)

/-- Elements packed into units written at the destination's addresses; a unit with a poisoned element is poisoned. -/
def packUnits (ety : Nat) (addrs : List Nat) (els : List (Nat × Bool)) : List LxWrite :=
  let u := lxUnit ety
  let w := lxBits ety
  addrs.zipIdx.map (fun a =>
    let here := (els.drop (a.2 * u.2)).take u.2
    let x := here.zipIdx.foldl (fun n e => n + (e.1.1 % 2 ^ w) * 2 ^ (w * e.2)) 0
    .put a.1 (markBytes u.1 x (here.any (fun e => e.2))))

/-- LX.COPY, LX.WIN: unit by unit. -/
def LxeRun.copyOut (r : LxeRun) : LxOut :=
  let u := (lxUnit (r.c.ety 2)).1
  LxOut.just ((r.c.pat 2).addrs.zipIdx.map (fun a => .put a.1 (markBytes u (r.unit a.2).1 (r.unit a.2).2)))

/-- RND 2 (R126, R253): an exact value goes through FP32; an overflow follows R149 with SAT. -/
def lxStoch (seed e : Nat) (sat : Bool) (v : FV) : Cvt :=
  let f := cvtFp fmtFP32 false false false v
  let c := srBF16 (srBits seed (e / 2 ^ 32 % 2 ^ 32) (e % 2 ^ 32)) f.bits
  let nz := match v with
    | .fin _ m _ => m != 0
    | _ => false
  let ovl := c.fl &&& stOF ≠ 0 || f.fl &&& stOF ≠ 0
  if ovl && sat then
    ⟨fmtBF16.encode (.fin (bitsOf c.bits 15 1 == 1) fmtBF16.maxM fmtBF16.maxE), stOF + stNX + stSAT, true, false⟩
  else ⟨c.bits, (c.fl ||| f.fl), c.sat || f.sat, nz && bitsOf c.bits 0 15 == 0⟩

/-- LX.CVT (R253): the elements, then the scales of a block-scaled narrowing. A poisoned element of a narrowing block, and a
poisoned scale, poison every element of the block (R263). -/
def LxeRun.cvtOut (r : LxeRun) : LxOut :=
  let c := r.c
  let src := (lxType (c.ety 1)).getD 5
  let dst := (lxType (c.ety 2)).getD 5
  let n := c.elems 1
  let rz := c.lxRnd == 1
  let down := c.lxMx && c.lxDown
  let els := (List.range n).map (fun e => r.elem e)
  let blocks := if down then
      (List.range c.mxBlocks).map (fun b =>
        let m := (List.range n).filter (fun e => c.mxBlock e == b)
        (mxScale dst (m.map (fun e => valueOf src (els.getD e (0, false)).1)), m.any (fun e => (els.getD e (0, false)).2)))
    else (List.range (if c.lxMx then c.mxBlocks else 0)).map (fun b => r.val b)
  let scale (e : Nat) : Nat × Bool := blocks.getD (c.mxBlock e) (127, false)
  let one (e : Nat) (x : Nat) : Cvt :=
    if down then
      let b := (scale e).1
      if b = 0xFF then ⟨0, 0, false, false⟩ else cvtTo dst rz true true (mxDown dst b (valueOf src x))
    else
      let v := if c.lxMx then mxUp src (scale e).1 x else valueOf src x
      if c.lxRnd = 2 then lxStoch (c.word 2) e c.lxSat v else cvtTo dst rz c.lxSat false v
  let res := els.zipIdx.map (fun x => (one x.2 x.1.1, x.1.2 || (c.lxMx && (scale x.2).2)))
  let scales := if down then
      blocks.zipIdx.map (fun b => LxWrite.put ((c.lxArea + b.2) % 2 ^ 64) (markBytes 1 b.1.1 b.1.2))
    else []
  { LxOut.just (packUnits (c.ety 2) (c.pat 2).addrs (res.map (fun x => (x.1.bits, x.2))) ++ scales) with
    fl := res.foldl (fun f x => f ||| x.1.fl) (if down && blocks.any (fun b => b.1 == 0xFF) then stNV else 0)
    cvts := (res.filter (fun x => !x.2)).map (fun x => x.1) }

/-- The slots of a pruned group of four (R216): the two positions kept, ascending, and the non-zeros dropped. -/
def pruneGroup (ty : Nat) (xs : List Nat) : List Nat × Nat :=
  let v (k : Nat) : FV := valueOf ty (xs.getD k 0)
  let live := [0, 1, 2, 3].filter (fun k => !(v k).isZero)
  let bigger (a b : Nat) : Bool := match v a, v b with
    | .nan, .nan => false
    | .nan, _ => true
    | _, .nan => false
    | .inf _, .inf _ => false
    | .inf _, _ => true
    | _, .inf _ => false
    | .fin _ m e, .fin _ m' e' => cmpMag m e m' e' == .gt
  let ranked := sortStable (fun a b => bigger a b) live
  let kept := ranked.take 2
  let free := ([0, 1, 2, 3].filter (fun k => !kept.contains k)).take (2 - kept.length)
  (sortStable (fun a b => decide (a < b)) (kept ++ free), live.length - 2)

/-- LX.PRUNE (R254): block by block, values then metadata. A poisoned element poisons its group's slots and metadata. -/
def LxeRun.pruneOut (r : LxeRun) : LxOut :=
  let c := r.c
  let ty := (lxType (c.ety 1)).getD 3
  let k := c.prK
  let nb := c.elems 1 / (k * 32)
  let w := lxBits (c.ety 1)
  let u := lxUnit (c.ety 1)
  let group (b g n : Nat) : List (Nat × Bool) := (List.range 4).map (fun p => r.elem (b * k * 32 + (4 * g + p) * 32 + n))
  let one (b : Nat) : List LxWrite × Nat :=
    let gs := (List.range (k / 4)).map (fun g => (List.range 32).map (fun n =>
      let xs := group b g n
      let q := pruneGroup ty (xs.map (fun x => x.1))
      (xs, q, xs.any (fun x => x.2))))
    let slot (s : Nat) (x : List (Nat × Bool) × (List Nat × Nat) × Bool) : Nat × Bool :=
      let p := x.2.1.1.getD s 0
      let e := (x.1.getD p (0, false)).1
      (if (valueOf ty e).isZero then 0 else e, x.2.2)
    let vals := gs.flatMap (fun row => row.map (slot 0) ++ row.map (slot 1))
    let base := c.word 4 + b * c.prPitch
    let units := (List.range (vals.length / u.2)).map (fun j =>
      let here := (vals.drop (j * u.2)).take u.2
      let x := here.zipIdx.foldl (fun n e => n + e.1.1 * 2 ^ (w * e.2)) 0
      LxWrite.put ((base + j * u.1) % 2 ^ 64) (markBytes u.1 x (here.any (fun e => e.2))))
    let meta' := (gs.flatMap (fun row => row)).zipIdx.map (fun x =>
      LxWrite.put ((base + c.prVals + x.2) % 2 ^ 64)
        (markBytes 1 (x.1.2.1.1.getD 0 0 + 16 * x.1.2.1.1.getD 1 0) x.1.2.2))
    (units ++ meta', (gs.flatMap (fun row => row.map (fun x => x.2.1.2))).sum)
  let all := (List.range nb).map one
  { LxOut.just (all.flatMap (fun x => x.1)) with drops := (all.map (fun x => x.2)).sum }

/-- The digits of X (R129). -/
def slicedDigits : Nat → Int → List Nat
  | 0, _ => []
  | n + 1, x =>
    let d := (x + 128) % 256 - 128
    ofSigned 8 d :: slicedDigits n ((x - d) / 256)

/-- X of an element under exponent E, and whether it saturates (R129, R255). -/
def slicedX (e : Int) (x : Nat) : Int × Bool :=
  match fmtFP64.decode x with
  | .nan => (Config.slicedNan x, false)
  | .inf n => (if n then -(2 ^ 54 - 1) else 2 ^ 54 - 1, true)
  | .fin n m k =>
    if cmpMag m k 1 (e + 1) = .lt then
      let q := (toUnit false m (k + 53 - e) 0).1
      (if n then -(q : Int) else q, false)
    else (if n then -(2 ^ 54 - 1) else 2 ^ 54 - 1, true)

/-- The exponent of a group of FP64 patterns (R255): 0x7FFF marks a NaN or an infinity. -/
def groupExp (xs : List Nat) : Int :=
  let vs := xs.map fmtFP64.decode
  if vs.any (fun v => match v with
    | .fin .. => false
    | _ => true) then 0x7FFF
  else
    let a := vs.foldl (fun a v => match v with
      | .fin _ m e => maxMag a (m, e)
      | _ => a) (0, 0)
    if a.1 = 0 then -1074 else floorLog2 a.1 a.2

/-- LX.FP64S (R255): each element's digits on the seven planes, then the exponents. -/
def LxeRun.slicedOut (r : LxeRun) : LxOut :=
  let c := r.c
  let n := (c.pat 1).total
  let els := (List.range n).map (fun e => r.unit e)
  let exps : List (Int × Bool) := (List.range c.groups).map (fun g =>
    if c.lxGiven then (toSigned 16 (r.val g).1, (r.val g).2)
    else
      let m := (List.range n).filter (fun e => c.groupOf e == g)
      (groupExp (m.map (fun e => (els.getD e (0, false)).1)), m.any (fun e => (els.getD e (0, false)).2)))
  let ex (e : Nat) : Int × Bool := exps.getD (c.groupOf e) (0, false)
  let res := els.zipIdx.map (fun x =>
    let g := ex x.2
    let q := if g.1 = 0x7FFF then (0, false) else slicedX g.1 x.1.1
    (q.1, q.2, x.1.2 || g.2, c.groupOf x.2))
  let plane := c.bits 4 0 40
  let digits := ((c.pat 2).addrs.zip res).flatMap (fun x =>
    (slicedDigits 7 x.2.1).zipIdx.map (fun d => LxWrite.put ((x.1 + d.2 * plane) % 2 ^ 64) (markBytes 1 d.1 x.2.2.2.1)))
  let ews := if c.lxGiven then [] else exps.zipIdx.map (fun g =>
    LxWrite.put ((c.lxArea + 2 * g.2) % 2 ^ 64) (markBytes 2 (ofSigned 16 g.1.1) g.1.2))
  { LxOut.just (digits ++ ews) with
    sat := (res.filter (fun x => x.2.1)).map (fun x => x.2.2.2), nonfin := exps.any (fun g => g.1 == 0x7FFF) }

/-- LX.FILL (R256). -/
def LxeRun.fillOut (r : LxeRun) : LxOut :=
  let u := (lxUnit (r.c.ety 1)).1
  LxOut.just ((r.c.pat 1).addrs.map (fun a => .put a (markBytes u (r.c.word 4) false)))

/-- Offending indices with their kinds, as read. -/
def LxeRun.offends (r : LxeRun) (rows : List (Option Nat × Nat)) : List (Nat × Nat) :=
  rows.zipIdx.filterMap (fun x => if x.1.2 = 0 then none else some (x.1.2, (r.val x.2).1))

/-- LX.GATHER (R257 to R259). -/
def LxeRun.gatherOut (r : LxeRun) : LxOut :=
  let c := r.c
  let rows := r.rows 4
  let lead := gatherLeaders rows
  let len := c.rowLen 4
  let u := (lxUnit (c.ety 1)).1
  let ws := (c.pat 3).addrs.zipIdx.map (fun a =>
    let k := a.2 / max 1 len
    let j := a.2 % max 1 len
    let x : Nat × Bool := match lead.getD k none with
      | some (row, l) => r.unit ((if c.lxStaged 4 then row else l) * len + j)
      | none => (0, (rows.getD k (none, 0)).2 == 3)
    LxWrite.put a.1 (markBytes u x.1 x.2))
  let leaders := (lead.zipIdx.filter (fun x => match x.1 with
    | some (_, l) => l == x.2
    | none => false)).length
  { LxOut.just ws with idx := r.offends rows, saved := (lead.filter (fun x => x.isSome)).length - leaders }

/-- LX.SCAT (R260, R261): rows in ascending order. -/
def LxeRun.scatOut (r : LxeRun) : LxOut :=
  let c := r.c
  let rows := r.rows 5
  let len := c.rowLen 5
  let u := (lxUnit (c.ety 1)).1
  let ws := rows.zipIdx.flatMap (fun x =>
    match x.1.1 with
    | none => []
    | some row => (c.rowAddrs 5 row).zipIdx.map (fun a =>
        let e := r.unit (x.2 * len + a.2)
        let bs := markBytes u e.1 e.2
        if c.lxAop = 0 then LxWrite.put a.1 bs else LxWrite.acc c.lxAop (c.ety 1) a.1 bs))
  { LxOut.just ws with idx := r.offends rows }

/-- What a command whose reads are all present does. -/
def LxeRun.out (r : LxeRun) (op : Nat) : LxOut :=
  let o := match op with
    | 1 => r.cvtOut
    | 3 => r.pruneOut
    | 4 => r.gatherOut
    | 5 => r.scatOut
    | 6 => r.slicedOut
    | 7 => r.fillOut
    | _ => r.copyOut
  if r.c.lxBad op then { o with writes := o.writes.map LxWrite.spoil } else o

/-! ## Running -/

/-- Layout commands under way in a tile. -/
def State.lxRuns (s : State) (t : Nat) : List LxeRun := Store.get (fun _ => []) s.lxe t

def State.setLxRuns (s : State) (t : Nat) (rs : List LxeRun) : State := { s with lxe := Store.put (fun _ => []) s.lxe t rs }

/-- A command's record replaced. -/
def State.setLxRun (s : State) (t : Nat) (r : LxeRun) : State :=
  s.setLxRuns t ((s.lxRuns t).map (fun x => if x.id = r.id then r else x))

/-- A unit answered with an error. -/
def LxeRun.fault (r : LxeRun) (a : Nat) : LxeRun :=
  { r with errs := r.errs + 1, errAt := if r.errs = 0 then a else r.errAt }

/-- The device of a hall address is this one (R266). -/
def State.hereAt (s : State) (a : Nat) : Bool := a / 2 ^ 48 == s.fld F.FAB_ID_ID

/-- What was read put in place; an error delivers clean zeros (R244). -/
def LxeRun.take (r : LxeRun) (k a n : Nat) (bs : List (Byte × Bool)) (err : Bool) : LxeRun :=
  let r1 := if err then r.fault a else r
  let v := if err then List.replicate n ((0 : Byte), false) else bs
  { r1 with got := Store.put (fun _ => none) r1.got k (some v) }

/-- Reads made: those of this device at once, others as READ packets (R244). -/
def State.lxRead (s : State) (t : Nat) (r : LxeRun) (rs : List (Nat × Nat × Nat)) : State × LxeRun :=
  rs.foldl (fun (x : State × LxeRun) q =>
    if x.1.hereAt q.2.1 then
      let v := x.1.busRead (x.1.own t) (q.2.1 % 2 ^ 48) q.2.2
      (v.1, x.2.take q.1 q.2.1 q.2.2 v.2.1 (v.2.2 != 0))
    else
      (x.1.fabSend { FabPkt.blank with
        opc := 0x01, dst := BitVec.ofNat 16 (q.2.1 / 2 ^ 48), addr := BitVec.ofNat 48 q.2.1, unit := BitVec.ofNat 16 t
        len := BitVec.ofNat 13 q.2.2 } (.lxeRead t r.id q.1 q.2.1 q.2.2), { x.2 with wait := x.2.wait + 1 })) (s, r)

/-- The status bits of applications made here (R261). -/
def State.lxAccBits (s : State) (t fl : Nat) : State :=
  s.orFld ⟨R.LXE_STATUS t, 13, 5⟩ ((if fl &&& acNV ≠ 0 then 1 else 0) ||| (if fl &&& acOF ≠ 0 then 2 else 0)
    ||| (if fl &&& acWRAP ≠ 0 then 8 else 0) ||| (if fl &&& acERI ≠ 0 then 16 else 0))

/-- Several units answered with an error. -/
def LxeRun.faults (r : LxeRun) (a n : Nat) : LxeRun :=
  { r with errs := r.errs + n, errAt := if r.errs = 0 then a else r.errAt }

/-- Writes of consecutive units into one memory word of this device made as one write, with the units in it, so that a
word all of whose bytes are written is written completely (R281, log entry 75). `mine` names the device's own addresses. -/
def lxJoin (mine : Nat → Bool) : List LxWrite → List (LxWrite × Nat)
  | [] => []
  | w :: ws =>
    match w, lxJoin mine ws with
    | .put a bs, (.put b cs, n) :: rest =>
      if mine a && mine b && b == a + bs.length && b % 8 != 0 && populated (a % 2 ^ 48)
          && populated ((b + cs.length - 1) % 2 ^ 48) then (.put a (bs ++ cs), n + 1) :: rest
      else (.put a bs, 1) :: (.put b cs, n) :: rest
    | x, xs => (x, 1) :: xs

/-- Writes made in order: the state, the command, the conditions of applications here, saturated ERI elements' addresses. -/
def State.lxWrites (s : State) (t : Nat) (r : LxeRun) (ws : List LxWrite) : State × LxeRun × Nat × List Nat :=
  (lxJoin s.hereAt ws).foldl (fun (x : State × LxeRun × Nat × List Nat) wn =>
    let w := wn.1
    let send (a : Nat) (p : FabPkt) : State × LxeRun × Nat × List Nat :=
      (x.1.fabSend ({ p with dst := BitVec.ofNat 16 (a / 2 ^ 48), addr := BitVec.ofNat 48 a, unit := BitVec.ofNat 16 t }.carry
        w.bytes) (.lxeWrite t r.id a), { x.2.1 with acks := x.2.1.acks + 1 }, x.2.2)
    match w with
    | .put a bs =>
      if x.1.hereAt a then
        let v := x.1.busWrite (x.1.own t) (a % 2 ^ 48) bs
        (v.1, if v.2 = 0 then x.2.1 else x.2.1.faults a wn.2, x.2.2)
      else send a { FabPkt.blank with opc := 0x02 }
    | .acc aop ety a bs =>
      if x.1.hereAt a then
        let v := x.1.accAt (x.1.own t) aop ety (a % 2 ^ 48) bs
        (v.1, if v.2.2 = 0 then x.2.1 else x.2.1.fault a, x.2.2.1 ||| v.2.1,
          if v.2.1 &&& acERI ≠ 0 then x.2.2.2 ++ [a] else x.2.2.2)
      else send a { FabPkt.blank with opc := 0x04, sub := BitVec.ofNat 8 (aop + ety * 4) }) (s, r, 0, [])

/-- The index events and counts of a command (R258). -/
def State.lxIndexEv (s : State) (t op token : Nat) (idx : List (Nat × Nat)) : State :=
  match idx with
  | [] => s
  | x :: _ =>
    let neg := (idx.filter (fun y => y.1 == 1)).length
    let oor := idx.length - neg
    let s1 := ((s.incFld (F.LXE_CNT_IDX_NEG_VALUE t) neg).incFld (F.LXE_CNT_IDX_OOR_VALUE t) oor).set1 (F.LXE_STATUS_IDX t)
    let s2 := if s1.flag (F.LXE_IDX_INFO_VALID t) then s1 else
      ((((s1.set1 (F.LXE_IDX_INFO_VALID t)).setFld (F.LXE_IDX_INFO_KIND t) x.1).setFld (F.LXE_IDX_INFO_OP t) op).setFld
        (F.LXE_IDX_INFO_TOKEN t) token).setFld (F.LXE_IDX_INFO_INDEX t) x.2
    s2.logTile t 0x0702 false [(1, op), (2, token), (4, x.2), (4, neg), (4, oor)]

/-- The first poisoned item a command read (R263): a data unit's or scale's place, by address; 0 for a descriptor word. -/
def LxeRun.firstBad (r : LxeRun) (op : Nat) : Nat :=
  ((r.c.lxFirst op ++ r.second op).find? (fun x => (r.val x.1).2)).map (fun x => x.2.1) |>.getD 0

/-- Every read of a command is present: it makes its writes (R241, R251), with its counts, status bits and events. -/
def State.lxForm (s : State) (t : Nat) (r : LxeRun) (op token : Nat) : State :=
  let c := r.c
  let o := r.out op
  let u := (lxUnit (c.ety 1)).1
  let staged := c.lxStaged op
  let stage := if staged then
      [LxWrite.put r.base ((List.range (c.pat 1).total).flatMap (fun e => markBytes u (r.unit e).1 (r.unit e).2))]
    else []
  let cnt (s : State) (f : Field) (n : Nat) : State := if n = 0 then s else s.incFld f n
  let rd := ((c.lxFirst op ++ r.second op).map (fun x => x.2.2)).sum
    + (o.writes.map (fun w => match w with
      | .acc _ _ a bs => if s.hereAt a then bs.length else 0
      | .put _ _ => 0)).sum
  let wr := (o.writes.map (fun w => w.bytes.length)).sum
  let s1 := cnt (cnt s (F.LXE_CNT_BYTES_RD_VALUE t) rd) (F.LXE_CNT_BYTES_WR_VALUE t) wr
  let s2 := (cnt (cnt (cnt s1 (F.LXE_CNT_IDX_COALESCED_VALUE t) o.saved) (F.LXE_CNT_PRUNE_DROP_VALUE t) o.drops)
    (F.LXE_CNT_STAGED_VALUE t) (b2n staged)).lxIndexEv t op token o.idx
  let npois := (o.writes.filter (fun w => w.bytes.any (fun b => b.2))).length
    + (if op = 5 then (o.idx.filter (fun x => x.1 == 3)).length else 0)
  let s3 := if npois = 0 then s2 else
    ((s2.incFld (F.LXE_CNT_POISON_VALUE t) npois).set1 (F.LXE_STATUS_POISON t)).logTile t 0x0704 false
      [(1, op), (2, token), (8, r.firstBad op)]
  let s4 := s3.orFld ⟨R.LXE_STATUS t, 13, 3⟩ ((if o.fl &&& stNV ≠ 0 then 1 else 0) ||| (if o.fl &&& stOF ≠ 0 then 2 else 0)
    ||| (if o.fl &&& stSAT ≠ 0 then 4 else 0))
  let s5 := if op = 1 then s4.censusCvts t ((lxType (c.ety 1)).getD 5) ((lxType (c.ety 2)).getD 5) o.cvts else s4
  let s6 := match o.sat with
    | [] => s5
    | g :: _ => ((s5.incFld (F.LXE_CNT_SAT64_VALUE t) o.sat.length).set1 (F.LXE_STATUS_SAT64 t)).logTile t 0x0705 false
        [(2, token), (4, g), (4, o.sat.length)]
  let s7 := if o.nonfin then s6.set1 (F.LXE_STATUS_NONFINITE64 t) else s6
  let x := s7.lxWrites t { r with stage := 2, flags := r.flags ||| (if npois = 0 then 0 else flagPOISON) } (stage ++ o.writes)
  let s8 := x.1.lxAccBits t x.2.2.1
  let s9 := match x.2.2.2 with
    | [] => s8
    | a :: _ => s8.logTile t 0x0706 false [(2, token), (8, a), (4, x.2.2.2.length)]
  s9.setLxRun t x.2.1

/-- The second reads begin once the first are present, and the writes once those are. -/
def State.lxAdvance (s : State) (t : Nat) (r : LxeRun) (op token : Nat) : State :=
  if r.wait ≠ 0 then s.setLxRun t r
  else if r.stage = 0 then
    let x := s.lxRead t { r with stage := 1 } (r.second op)
    if x.2.wait = 0 then x.1.lxForm t x.2 op token else x.1.setLxRun t x.2
  else s.lxForm t r op token

/-- A command to which a request's answer belongs. -/
def State.lxFind (s : State) (t id : Nat) : Option LxeRun := (s.lxRuns t).find? (fun r => r.id == id)

/-- The answer to a layout read. -/
def State.lxAnswerRead (s : State) (t id k a n : Nat) (bs : List (Byte × Bool)) (err : Bool) : State :=
  match s.lxFind t id with
  | none => s
  | some r =>
    match lxArgs r.c.c with
    | none => s
    | some (op, g) =>
      let r1 := r.take k a n bs err
      s.lxAdvance t { r1 with wait := r1.wait - 1 } op g.token.toNat

/-- The answer to a layout write. -/
def State.lxAnswerWrite (s : State) (t id a : Nat) (err : Bool) : State :=
  match s.lxFind t id with
  | none => s
  | some r =>
    let r1 := if err then r.fault a else r
    s.setLxRun t { r1 with acks := r1.acks - 1 }

/-- A rejected command (R245). -/
def State.lxReject (s : State) (t op token reason : Nat) : State :=
  let s1 := ((s.setFld (F.LXE_REJECT_REASON t) reason).setFld (F.LXE_REJECT_OP t) op).setFld (F.LXE_REJECT_TOKEN t) token
  ((s1.incFld (F.LXE_REJECT_COUNT t) 1).set1 (F.LXE_STATUS_REJECT t)).logTile t 0x0701 false [(1, op), (2, token), (1, reason)]

/-- The command at the head of the layout queue starts once the previous one's writes are issued (R241): checks, then its
reads; a rejected or zero-work command has nothing further to do but its tokens. -/
def execLxeCommandStart (t : Fin 144) (ac : Nat) (upset : Upset) (s : State) : Host.Outcome State Fault Refusal :=
  let s0 := s.advance t ac
  match (s0.tile t).lxeQ with
  | [] => .next s0
  | c :: q =>
    match lxArgs c.c with
    | none => .next s0
    | some (op, a) =>
      if (s0.tile t).ac ≤ c.ac ∨ (s0.lxRuns t).any (fun r => r.stage != 2) = true then .next s0
      else
        let s1 := (s0.setTile t { s0.tile t with lxeQ := q }).upset upset
        let token := a.token.toNat
        let r : LxeRun := { id := s1.lxeId, c := c, stage := 0, ordered := false, got := [], wait := 0, acks := 0, flags := 0
                            errs := 0, errAt := 0, base := s1.stageBase t }
        let s2 := { s1 with lxeId := s1.lxeId + 1 }
        let idle (s : State) (fl : Nat) : State :=
          s.setLxRuns t (s.lxRuns t ++ [{ r with stage := 2, ordered := true, flags := fl }])
        match (s2.lxReasons t c op).head? with
        | some n => .next (idle (s2.lxReject t op token n) flagERROR)
        | none =>
          if c.lxZero op then .next (idle s2 flagZERO_WORK)
          else
            let s3 := (s2.set1 (F.LXE_STATUS_BUSY t)).setLxRuns t (s2.lxRuns t ++ [r])
            let x := s3.lxRead t r (c.lxFirst op)
            .next (x.1.lxAdvance t x.2 op token)

/-- A token increment that arrives from a remote command, or a remote increment naming a tile of this device (R247, R307); one
naming no tile is dropped (log entry 58). -/
def State.remoteInc (s : State) (t k n flags : Nat) : State :=
  if t < 144 then s.tokUpd t (.inc (k % 4096) n (flags ||| flagREMOTE) prodFAB) else s

/-- A remote increment of a command of source unit `unit` goes to the device that holds the token, on a virtual channel. -/
def State.sendInc (s : State) (unit vc dev tile k flags : Nat) : State :=
  if dev = s.fld F.FAB_ID_ID then s.remoteInc tile k 1 flags
  else s.fabSend { FabPkt.blank with
    opc := 0x05, vc := BitVec.ofNat 3 vc, dst := BitVec.ofNat 16 dev, unit := BitVec.ofNat 16 unit, flags := BitVec.ofNat 8 (flags ||| flagREMOTE)
    opnd := BitVec.ofNat 64 (k % 4096 + tile % 256 * 2 ^ 12 + 2 ^ 20) } .none

/-- The oldest layout command that may complete: its writes made and answered; a rejected or zero-work one only after every
earlier one (R247). -/
def State.lxReady (s : State) (t : Nat) : Option LxeRun :=
  match s.lxRuns t with
  | [] => none
  | r :: rs => (r :: rs.filter (fun x => !x.ordered)).find? (fun x => x.stage == 2 && x.acks == 0)

/-- A layout command completes: counted, its access errors logged, its tokens produced (R244, R247). -/
def execLxeCommandComplete (t : Fin 144) (ac stallTm : Nat) (s : State) : Host.Outcome State Fault Refusal :=
  let s0 := s.advance t ac
  match s0.lxReady t with
  | none => .next s0
  | some r =>
    match lxArgs r.c.c with
    | none => .next s0
    | some (op, a) =>
      let token := a.token.toNat
      let rest := (s0.lxRuns t).filter (fun x => x.id != r.id)
      let s1 := ((s0.setLxRuns t rest).incFld (F.LXE_CNT_CMDS_VALUE t) 1).incFld (F.LXE_CNT_STALL_TM_VALUE t) stallTm
      let s2 := if rest.isEmpty then s1.setFld (F.LXE_STATUS_BUSY t) 0 else s1
      let s3 := if r.errs = 0 then s2 else
        ((s2.incFld (F.LXE_CNT_ACCESS_ERR_VALUE t) r.errs).set1 (F.LXE_STATUS_ACCESS_ERR t)).logTile t 0x0703 true
          [(1, op), (2, token), (8, r.errAt), (4, r.errs)]
      let fl := r.flags ||| (if r.errs = 0 then 0 else flagERROR)
      let s4 := if a.te then s3.produce t token fl prodLXE else s3
      .next (if r.c.bits 1 12 1 = 1 then
        s4.sendInc t 0 (r.c.bits 1 48 16) (r.c.bits 1 16 8) (r.c.bits 1 0 12) fl else s4)

end Sys2Proof.Machine
end

