-- ==== Sys2Proof/Machine/QueEng.lean ====
section
/-! DEFINITION. The post engine (R317) and the send side of the queue engine: descriptors, their packets, turns, answers,
going back, completion (R317 to R324). -/
namespace Sys2Proof.Machine

/-! ## Q.POST (R317) -/

/-- Q.POST: its three descriptors are copied into the post queue; the post engine acts on them from the next ac on (R82, R317). -/
def execQPost (i : Iss) (a : PostArgs) (s : State) : Host.Outcome State Fault Refusal :=
  .next (s.issueFenced i (.qPost i a) [a.sa.toNat] (fun s => s.postBody i (.qPost i a) a.sa .post 3 false))

/-! ## Turns (R320, R321) -/

/-- Bytes a queue moved, for its transport energy (R383). -/
def State.noteMoved (s : State) (q fab near deep : Nat) : State :=
  let m := Store.get (fun _ => (0, 0, 0)) s.pwr.moved q
  let u := Store.put (fun _ => (0, 0, 0)) s.pwr.moved q (m.1 + fab, m.2.1 + near, m.2.2 + deep)
  { s with pwr := { s.pwr with moved := u } }

/-- Bytes read, written, or (an accumulation, counted twice) both at a local-map address by a queue. -/
def State.noteTouched (s : State) (q a n : Nat) : State :=
  match regionOf a with
  | .near => s.noteMoved q 0 n 0
  | .deep => s.noteMoved q 0 0 n
  | _ => s

/-- A descriptor replaced in its queue. -/
def Queue.setDesc (x : Queue) (d : QueDesc) : Queue := { x with infl := x.infl.map (fun y => if y.idx = d.idx then d else y) }

/-- The source of a descriptor read from the local map (R318): the device field of a local address is not looked at (log entry
61). -/
def State.queSource (s : State) (q : Nat) (d : QueDesc) : State × List (Byte × Bool) :=
  if d.kind = 0 ∨ d.kind = 2 ∨ d.kind = 3 then
    (d.pat 1).addrs.foldl (fun (r : State × List (Byte × Bool)) a =>
      let v := (r.1.noteTouched q (a % 2 ^ 48) d.unit).busRead (r.1.own srcQUE) (a % 2 ^ 48) d.unit
      (v.1, r.2 ++ v.2.1)) (s, [])
  else (s, [])

/-- The next descriptor of an ACTIVE SEND queue taken from its ring, or the next message of the reduction engine (R319,
R338); none where there is none. -/
def State.queTake (s : State) (q : Nat) (x : Queue) : Option State :=
  let idx := (x.head + x.infl.length) % 2 ^ 32
  if idx ≠ x.tail then
    let a := x.slot idx
    let words := (List.range 24).map (fun k => s.num (a + 8 * k) 8)
    let d := QueDesc.new idx words (s.poisoned a 192)
    let s1 := s.noteReads (s.own srcQUE) a 192
    match d.reject x with
    | some r => some (s1.setQueue q (some { x with infl := x.infl ++ [{ d with fail := r + 16, flags := d.flags ||| flagERROR }] }))
    | none =>
      if d.pieces.isEmpty && d.kind != 3 then
        some (s1.setQueue q (some { x with infl := x.infl ++ [{ d with flags := d.flags ||| flagZERO_WORK }] }))
      else
        let v := s1.queSource q d
        let pay := if d.bad then v.2.map (fun b => (b.1, true)) else v.2
        let zero := d.kind == 3 && pay.isEmpty
        some (v.1.setQueue q (some { x with infl := x.infl ++ [{ d with
          pay := pay
          flags := d.flags ||| (if pay.any (fun b => b.2) then flagPOISON else 0) ||| (if zero then flagZERO_WORK else 0) }] }))
  else match x.pays with
    | (c, b, imm, pay) :: ps =>
      if idxDiff x.tail x.head < 2 ^ x.log2 then
        some (s.setQueue q (some { x with
          tail := (x.tail + 1) % 2 ^ 32, pays := ps
          infl := x.infl ++ [{ QueDesc.new idx [0, 0, imm] false with pay := pay, gre := some (c, b) }] }))
      else none
    | [] => none

/-- The first descriptor in flight that has a packet to send. -/
def Queue.sender (x : Queue) : Option QueDesc := x.infl.find? (fun d => !d.done && decide (d.sent < d.pieces.length))

/-- Descriptors are taken until one has a packet to send. -/
def State.queFill : Nat → State → Nat → State
  | 0, s, _ => s
  | n + 1, s, q =>
    match s.queue q with
    | none => s
    | some x =>
      if x.sender.isSome ∨ x.state ≠ quACTIVE then s
      else match s.queTake q x with
        | some s1 => State.queFill n s1 q
        | none => s

/-- Packet `k` of a descriptor (R302, R318, R322). -/
def quePacket (x : Queue) (d : QueDesc) (k : Nat) : FabPkt :=
  let ps := d.pieces
  let p := ps.getD k ⟨0, 0, 0, 0⟩
  let base := { FabPkt.blank with vc := BitVec.ofNat 3 (d.vc x), unit := BitVec.ofNat 16 srcQUE }
  let msg (b : FabPkt) : FabPkt :=
    if d.e2e x then
      let last := k + 1 == ps.length
      { b with
        e2e := true, alive := BitVec.ofNat 8 d.alive, qid := BitVec.ofNat 16 x.pqid, opnd := BitVec.ofNat 64 (d.w.getD 2 0)
        opnd2 := BitVec.ofNat 64 (d.pay.length + p.off * 2 ^ 32), first := k == 0, last := last, kind := BitVec.ofNat 4 d.kind
        crc := if last then BitVec.ofNat 64 (crc64 0 (d.pay.map (fun y => y.1))) else 0 }
    else b
  let data (opc : Nat) : FabPkt := ({ base with
    opc := BitVec.ofNat 8 opc, dst := BitVec.ofNat 16 (p.dst / 2 ^ 48), addr := BitVec.ofNat 48 p.dst }).carry
      ((d.pay.drop p.off).take p.len)
  match d.kind with
  | 0 => msg (data 0x02)
  | 1 => { base with
      opc := 0x01, dst := BitVec.ofNat 16 (p.src / 2 ^ 48), addr := BitVec.ofNat 48 p.src, len := BitVec.ofNat 13 p.len }
  | 2 => msg { data 0x04 with sub := BitVec.ofNat 8 (d.bits 0 4 2 + d.ety 1 * 4) }
  | 3 => msg { data 0x06 with dst := BitVec.ofNat 16 x.pdev, addr := 0 }
  | 4 => { base with
      opc := 0x03, dst := BitVec.ofNat 16 (p.dst / 2 ^ 48), addr := BitVec.ofNat 48 p.dst
      sub := BitVec.ofNat 8 (d.bits 0 8 4 + d.bits 0 12 1 * 16), opnd := BitVec.ofNat 64 (d.w.getD 2 0)
      opnd2 := BitVec.ofNat 64 (d.w.getD 3 0) }
  | _ => { base with
      opc := 0x05, dst := BitVec.ofNat 16 (d.bits 1 48 16), flags := BitVec.ofNat 8 (flagREMOTE ||| d.flags)
      opnd := BitVec.ofNat 64 (d.bits 1 20 12 + d.bits 1 32 8 * 2 ^ 12 + 2 ^ 20) }

/-- The link that a packet would take has credits and replay space for it (R299, R320); a packet that no link takes needs
none. -/
def State.canSend (s : State) (p : FabPkt) : Bool :=
  if s.flag F.EVT_STATUS_REPLAY_RUN || !s.flag F.FAB_ID_VALID || s.isLocal p then true
  else match s.routeOf p.dst.toNat with
    | none => true
    | some l =>
      let k := s.link l
      let b := s.bufUnits l
      !k.wait.any (fun w => w.vc == p.vc) && creditOk b.1 b.2 k.used p.vc.toNat p.units
        && decide (k.held + p.size ≤ 262144)

/-- A queue's turn: its next packet goes out, or it is passed over (R320, R321): the state and whether a packet went. -/
def State.queTurn (s : State) (q : Nat) : State × Bool :=
  let s1 := s.queFill 65537 q
  match s1.queue q with
  | none => (s1, false)
  | some x =>
    match x.sender with
    | none => (s1, false)
    | some d =>
      let new := d.e2e x && !d.held
      if new && x.cred == 0 then (s1.incFld F.QUE_CNT_CREDIT_WAIT_VALUE 1, false)
      else
        let d1 := if new then { d with held := true, alive := x.alive } else d
        let p := quePacket x d1 d.sent
        if !s1.canSend p then (s1, false)
        else
          let x1 := if new then { x with cred := x.cred - 1, alive := (x.alive + 1) % 256 } else x
          let s2 := s1.setQueue q (some (x1.setDesc { d1 with sent := d.sent + 1, all := d.all + 1 }))
          ((s2.noteMoved q p.payload.length 0 0).fabSend p (.queue q d.idx d.tries d.sent), true)

/-- SEND queues in the order of service (R320). -/
def State.queOrder (s : State) : List Nat :=
  let qs := (s.que.q.filter (fun y => match y.2 with
    | some x => !x.recv && (x.state == quACTIVE || x.state == quDRAINING)
    | none => false)).map (fun y => y.1)
  let rest := qs.filter (fun q => decide (1024 ≤ q))
  qs.filter (fun q => decide (q < 1024)) ++ rest.filter (fun q => decide (s.que.turn < q))
    ++ rest.filter (fun q => decide (q ≤ s.que.turn))

/-- The queue engine's turn (R320). -/
def execQueuePacketSend (upset : Upset) (s : State) : Host.Outcome State Fault Refusal :=
  if !s.flag F.QUE_CTL_EN then .next s
  else
    let s0 := s.upset upset
    .next (s0.queOrder.foldl (fun (r : State × Bool) q =>
      if r.2 then r
      else
        let v := r.1.queTurn q
        if v.2 && decide (1024 ≤ q) then ({ v.1 with que := { v.1.que with turn := q } }, true) else v) (s0, false)).1

/-! ## Answers (R319, R324) -/

/-- An answer to a packet of a queue: data, an ACK (with REPEAT or not), or a failure by its STATUS code. -/
inductive QueAns where
  | data (bs : List (Byte × Bool))
  | ack (rep : Bool)
  | fail (code : Nat)
  deriving DecidableEq, Repr

/-- STATUS of a request that got no answer (log entry 62). -/
def quTIMEOUT : Nat := 0xFF

/-- A descriptor fails: its queue enters ERROR (R319). -/
def State.queFail (s : State) (q : Nat) (x : Queue) (d : QueDesc) (code : Nat) : State :=
  let x1 := { x.setDesc { d with fail := code, flags := d.flags ||| flagERROR } with state := quERROR }
  (((s.setQueue q (some x1)).set1 F.QUE_STATUS_QUEUE_ERROR).logDev srcQUE 0x0910 true [(2, q), (4, d.idx), (1, code)]).greQueueError
    q

/-- A queue goes back to its oldest incomplete end-to-end descriptor (R324); one not yet sent again is already back. -/
def State.queGoBack (s : State) (q : Nat) (x : Queue) (code : Nat) : State :=
  match x.infl.find? (fun d => d.held && !d.done) with
  | none => s
  | some d =>
    if x.retry ≤ d.tries then s.queFail q x d code
    else
      let again (y : QueDesc) : Bool := y.held && !y.done && y.sent != 0
      let back (y : QueDesc) : QueDesc := if again y then { y with tries := y.tries + 1, sent := 0, ans := 0 } else y
      let n := (x.infl.filter again).length
      (s.setQueue q (some { x with infl := x.infl.map back })).incFld F.QUE_CNT_RETRANSMITS_VALUE n

/-- An answer reaches packet `k` of an attempt at a descriptor; one to an earlier attempt has no effect. -/
def State.queAnswer (s : State) (q idx tries k : Nat) (a : QueAns) : State :=
  match s.queue q with
  | none => s
  | some x =>
    match x.infl.find? (fun d => d.idx == idx && d.tries == tries && !d.done) with
    | none => s
    | some d =>
      let p := d.pieces.getD k ⟨0, 0, 0, 0⟩
      match a with
      | .fail code =>
        if d.e2e x && (code == 8 || code == 9 || code == quTIMEOUT) then s.queGoBack q x code else s.queFail q x d code
      | .ack rep =>
        if rep && decide (0 < d.tries) && d.ans == 0 then
          s.setQueue q (some (x.setDesc { d with rept := true, ans := 1, bytes := d.pay.length }))
        else
          s.setQueue q (some (x.setDesc { d with ans := d.ans + 1, bytes := d.bytes + (if d.kind = 5 then 0 else p.len) }))
      | .data bs =>
        let at' := (if d.kind = 4 then d.w.getD 4 0 else p.dst) % 2 ^ 48
        let n := if d.kind = 4 then (if d.bits 0 12 1 = 1 then 8 else 4) else p.len
        let xs := (bs.take n).map (fun b => (b.1, b.2 || d.bad))
        let s1 := ((s.noteTouched q at' xs.length).busWrite (s.own srcQUE) at' xs).1
        s1.setQueue q (some (x.setDesc { d with
          ans := d.ans + 1, bytes := d.bytes + xs.length
          flags := d.flags ||| (if xs.any (fun b => b.2) then flagPOISON else 0) }))

/-! ## Completion (R319) -/

/-- The oldest descriptor of a queue completes: its record, HEAD, its tokens. -/
def State.queRetire (s : State) (q : Nat) (x : Queue) (d : QueDesc) : State :=
  let status := d.fail % 256
  let rec' := leBytes 8 (status + min 7 d.tries * 2 ^ 8 + d.all % 2 ^ 32 * 2 ^ 32) ++ leBytes 8 d.bytes
    ++ leBytes 8 (s.count % 2 ^ 48) ++ List.replicate 40 0
  let s1 := ((s.busPut (s.own srcQUE) (x.slot d.idx + 192) rec').1.setQueue q (some { x with
    infl := x.infl.drop 1, head := (x.head + 1) % 2 ^ 32 })).incFld F.QUE_CNT_DESC_DONE_VALUE 1
  match d.gre with
  | some (c, b) => if d.fail = 0 then s1.greAcked c b else s1
  | none =>
    let s2 := if d.bits 0 15 1 = 1 ∧ d.bits 1 12 8 < 144 then
        s1.postDone (d.bits 1 12 8) (.que q d.idx) (d.bits 1 0 12) d.flags prodQUE
      else s1
    if d.bits 0 14 1 = 1 ∧ (d.kind ≠ 5 ∨ (17 ≤ d.fail ∧ d.fail ≤ 22)) then
      s2.sendInc srcQUE (d.vc x) (d.bits 1 48 16) (d.bits 1 32 8) (d.bits 1 20 12) d.flags
    else s2

/-- A descriptor whose packets are all answered completes, in ring order. -/
def execQueueDescComplete (q : BitVec 16) (s : State) : Host.Outcome State Fault Refusal :=
  match s.queue q.toNat with
  | none => .next s
  | some x =>
    match x.infl with
    | d :: _ => .next (if d.done then s.queRetire q.toNat x d else s)
    | [] => .next s

end Sys2Proof.Machine
end

