-- ==== Sys2Proof/Machine/HostIf.lean ====
section
/-! DEFINITION. The PCI Express function: link training, BAR accesses, configuration writes (R403 to R408), and the loss of a
fabric link (R298). -/
namespace Sys2Proof.Machine

/-- The function's fixed identity: class code and device ID (R403). -/
def pcieClass : Nat := 0x120000
def pcieDevice : Nat := 0x5700

/-- BAR accesses are decoded: not in D3hot, nor without the rails (R404, R477). -/
def State.barOpen (s : State) : Bool := !s.host.d3hot && s.mod.good && !s.mod.tripped

/-- A warm reset by FLR has been asked for and has not yet run (R421, log entry 127). -/
def State.warmGoing (s : State) : Bool := s.fw.sched.contains 2

/-- A memory request that arrives during a warm reset is completed with Unsupported Request (R421). -/
def State.unsupported (s : State) (write : Bool) (bar off : Nat) : State :=
  { s with host := { s.host with unsup := s.host.unsup ++ [(write, bar, off)] } }

/-- The hall address a BAR offset reaches (R405); none beyond the BAR. -/
def State.barAddr (s : State) (bar2 : Bool) (off n : Nat) : Option Nat :=
  if bar2 then
    if off + n ≤ 2 ^ s.host.bar2Log2 then some (((s.reg R.MBX_BAR2).toNat + off) % 2 ^ 64) else none
  else if off + n ≤ 0x1000000 then some (s.fld F.FAB_ID_ID * 2 ^ 48 + 0x38006000000 + off)
  else if 0x1000000 ≤ off ∧ off + n ≤ 0x4000000 then
    some (s.fld F.FAB_ID_ID * 2 ^ 48 + ((s.reg R.MBX_WIN).toNat + (off - 0x1000000)) % 2 ^ 48)
  else none

/-- A host access answered with an error (R406); `kind` 0 for a read, 1 for a write. -/
def State.hostErr (s : State) (bar addr kind : Nat) : State :=
  ((s.set1 F.MBX_STATUS_HOST_ERR).incFld F.MBX_CNT_HOST_ERR_VALUE 1).oncePerTide (0x0D04, 0, 0) (fun s =>
    s.logDev srcMBX 0x0D04 true [(1, bar), (8, addr), (1, kind)])

/-- A host read is completed with data (R406, R453). -/
def State.hostData (s : State) (bar addr : Nat) (bs : List (Byte × Bool)) : State :=
  let bad := bs.any (fun b => b.2)
  let s1 := { s with host := { s.host with reads := s.host.reads ++ [(bs.map (fun b => b.1), bad)] } }
  if bad then s1.oncePerTide (0x0F08, 0, 0) (fun s => s.logDev srcMBX 0x0F08 false [(1, bar), (8, addr)]) else s1

/-- A host read that is answered with an error completes with zeros. -/
def State.hostReadErr (s : State) (bar addr n : Nat) : State :=
  (s.hostErr bar addr 0).hostData bar addr (List.replicate n ((0 : Byte), false))

/-- The BAR's number. -/
def barNum (bar2 : Bool) : Nat := if bar2 then 2 else 0

/-- A host read through a BAR; it wakes the device (R397, R398). -/
def execHostBarRead (bar2 : Bool) (off n : Nat) (upset : Upset) (s : State) : Host.Outcome State Fault Refusal :=
  if !s.barOpen then .next s
  else if s.warmGoing then .next (s.unsupported false (barNum bar2) off)
  else match s.barAddr bar2 off n with
    | none => .next s
    | some a =>
      let s0 := s.wakeHost.upset upset
      if s0.hereAt a then
        let v := s0.busRead (s0.own srcHOST) (a % 2 ^ 48) n
        .next (if v.2.2 = 0 then v.1.hostData (barNum bar2) a v.2.1 else v.1.hostReadErr (barNum bar2) a n)
      else
        .next (s0.fabSend { FabPkt.blank with
          opc := 0x01, dst := BitVec.ofNat 16 (a / 2 ^ 48), addr := BitVec.ofNat 48 a, unit := BitVec.ofNat 16 srcHOST
          len := BitVec.ofNat 13 n } (.hostRead (barNum bar2) a n))

/-- A host write through a BAR; one that reaches the local map goes into the capture record (R460, class 1). It wakes the device
(R397, R398). -/
def execHostBarWrite (bar2 : Bool) (off : Nat) (data : List Byte) (poison : Bool) (s : State) :
    Host.Outcome State Fault Refusal :=
  if !s.barOpen then .next s
  else if s.warmGoing then .next (s.unsupported true (barNum bar2) off)
  else match s.barAddr bar2 off data.length with
    | none => .next s
    | some a =>
      let s0 := s.wakeHost
      let bs := data.map (fun b => (b, poison))
      if s0.hereAt a then
        let s1 := s0.capture 1 poison (leBytes 8 (a % 2 ^ 48) ++ data)
        let v := s1.busWrite (s1.own srcHOST) (a % 2 ^ 48) bs
        .next (if v.2 = 0 then v.1 else v.1.hostErr (barNum bar2) a 1)
      else
        .next (s0.fabSend ({ FabPkt.blank with
          opc := 0x02, dst := BitVec.ofNat 16 (a / 2 ^ 48), addr := BitVec.ofNat 48 a
          unit := BitVec.ofNat 16 srcHOST }.carry bs) (.hostWrite (barNum bar2) a))

/-- The link trains to a width and a generation 1 to 7 (7 for 128 GT/s), in flit mode where the partner supports it; less than x16 at
128 GT/s is logged (R403). -/
def execHostLinkTraining (width rate : Nat) (flit : Bool) (s : State) : Host.Outcome State Fault Refusal :=
  let s1 := { s with host := { s.host with width := width, rate := rate, flit := flit } }
  .next (if width < 16 ∨ rate < 7 then s1.logDev srcMBX 0x0D07 true [(1, width), (1, rate)] else s1)

/-- A configuration-space write of the host (R403 to R405, R408). Sizes that are not offered change nothing. -/
def execPcieConfigWrite (w : CfgWrite) (s : State) : Host.Outcome State Fault Refusal :=
  match w with
  | .busMaster on => .next ({ s with host := { s.host with busMaster := on } }).flushVectors
  | .d3hot on => .next { s with host := { s.host with d3hot := on } }
  | .bar2Size n => .next (if 30 ≤ n ∧ n ≤ 48 then { s with host := { s.host with bar2Log2 := n } } else s)
  | .aspmL1 on => .next ({ s with host := { s.host with aspmL1 := on } }).askL1
  | .payload n => .next (if [128, 256, 512].contains n then { s with host := { s.host with mps := n } } else s)
  | .readRequest n =>
    .next (if [128, 256, 512, 1024, 2048, 4096].contains n then { s with host := { s.host with mrrs := n } } else s)
  | .tag10 on => .next { s with host := { s.host with tag10 := on } }

/-- A link that is UP loses its partner or signal and goes DOWN (R298). -/
def execLinkFailure (l : LinkId) (s : State) : Host.Outcome State Fault Refusal :=
  .next (if s.linkUp l then s.linkDown l 0 else s)

end Sys2Proof.Machine
end

