-- ==== Sys2Proof/Machine/Packets.lean ====
section
/-! DEFINITION. Packets for this device (R303 to R311): requests carried out, the receive side of end-to-end messages (R321 to
R323), answers handed to their requesters, timeouts, and management packets (R413). -/
namespace Sys2Proof.Machine

/-- The requester of a packet. -/
def reqOfPkt (p : FabPkt) : Req := { dev := p.src.toNat, src := p.unit.toNat }

/-- The NAK code of an access error: 1 UNMAPPED, 2 REG_ACCESS (R309). -/
def nakOfErr (e : Nat) : Nat := if e = 2 then nakREG else if e = 1 then nakUNMAPPED else 0

/-! ## Receive queues (R321 to R323) -/

/-- The address of a slot of a RECV queue's ring. -/
def Queue.entry (x : Queue) (i : Nat) : Nat := x.ring + 64 * (i % 2 ^ x.log2)

/-- The hall address of a RECV queue's buffer for a slot. -/
def Queue.buffer (x : Queue) (i : Nat) : Nat := (x.buf + i % 2 ^ x.log2 * x.bsize) % 2 ^ 64

/-- An ACK with REPEAT (R323). -/
def State.ackRepeat (s : State) (p : FabPkt) : State := s.fabPost { s.answerOf p opACK with rep := true }

/-- The answer of a packet whose message is discarded: 1 to 15 a NAK code, 16 an ACK with REPEAT. -/
def State.skipAnswer (s : State) (p : FabPkt) (skip : Nat) : State :=
  if skip = 16 then s.ackRepeat p else s.fabAnswer p skip

/-- A message is complete: its completion entry and token (R321). The entry names the queue's expected sender queue (log entry
63); the token carries the entry's ERROR and POISON. -/
def State.recvDone (s : State) (q : Nat) (x : Queue) (r : QueRx) (p : FabPkt) (good : Bool) : State :=
  let err := r.err || !good
  let entry := leBytes 8 (p.src.toNat + x.pqid * 2 ^ 16 + r.kind * 2 ^ 32 + p.alive.toNat * 2 ^ 36 + b2n err * 2 ^ 48
      + b2n r.pois * 2 ^ 49 + b2n r.rest * 2 ^ 50)
    ++ leBytes 8 r.len ++ leBytes 8 p.opnd.toNat ++ leBytes 8 (s.count % 2 ^ 48) ++ leBytes 8 r.addr ++ List.replicate 24 0
  let s1 := ((s.noteTouched q (x.entry x.tail) 64).busPut (s.own srcQUE) (x.entry x.tail) entry).1
  let s2 := s1.setQueue q (some { x with
    tail := (x.tail + 1) % 2 ^ 32, opn := false, rx := QueRx.none, alive := if good then (x.alive + 1) % 256 else x.alive })
  let s3 := if good then s2.incFld F.QUE_CNT_MSG_RX_VALUE 1
    else (s2.incFld F.QUE_CNT_CRC_FAIL_VALUE 1).logDev srcFAB 0x0906 true [(2, q), (2, p.src.toNat), (1, p.alive.toNat)]
  if x.tokEn ∧ x.tile < 144 then
    s3.produce x.tile x.token ((if err then flagERROR else 0) ||| (if r.pois then flagPOISON else 0)) prodQUE
  else s3

/-- A packet of the open message is applied; at LAST the CRC-64 is checked (R322, R323). -/
def State.recvApply (s : State) (q : Nat) (x : Queue) (r : QueRx) (p : FabPkt) (f : State → Queue → FabPkt → State × Nat) :
    State :=
  let bad := p.pm && p.mask.any id
  let v := f s x p
  let r1 := { r with crc := crc64 r.crc p.payload, pois := r.pois || bad, err := r.err || v.2 != 0 }
  if p.last then
    let good := r1.crc == p.crc.toNat
    (v.1.recvDone q x r1 p good).fabAnswer p (if good then v.2 else nakCRC)
  else (v.1.setQueue q (some { x with opn := true, rx := r1 })).fabAnswer p v.2

/-- The FIRST packet of a message refused for its space or length (R321): it takes no entry and leaves EXP. -/
def State.recvReject (s : State) (q : Nat) (x : Queue) (p : FabPkt) (code : Nat) : State :=
  (((s.setQueue q (some { x with rx := { x.rx with skip := code } })).incFld F.QUE_CNT_RX_REJECT_VALUE 1).set1
    F.QUE_STATUS_RX_REJECT).logDev srcQUE 0x0911 false [(2, q), (2, p.src.toNat), (1, code)]

/-- A packet of an end-to-end message at its receive queue (R323); `f` applies its data. -/
def State.recvE2E (s : State) (p : FabPkt) (f : State → Queue → FabPkt → State × Nat) : State :=
  let q := p.qid.toNat
  match s.queue q with
  | none => s.fabAnswer p nakQSTATE
  | some x =>
    if x.recv = false ∨ x.state ≠ quACTIVE then s.fabAnswer p nakQSTATE
    else if p.first then
      let d := (p.alive.toNat + 256 - x.alive) % 256
      let det := [(2, q), (2, p.src.toNat), (1, p.alive.toNat), (1, x.alive)]
      if d = 0 then
        let len := bitsOf p.opnd2.toNat 0 32
        let restart := x.opn
        let s1 := if restart then
            (s.incFld F.QUE_CNT_RESTARTS_VALUE 1).logDev srcFAB 0x0909 true
              [(2, q), (2, p.src.toNat), (1, p.alive.toNat), (1, p.kind.toNat)]
          else s
        if 2 ^ x.log2 ≤ idxDiff x.tail x.head then (s1.recvReject q x p nakSPACE).fabAnswer p nakSPACE
        else if x.bsize < len then (s1.recvReject q x p nakLONG).fabAnswer p nakLONG
        else
          let twice := restart && p.kind == 2
          let at' := if p.opc.toNat = opMSG then x.buffer x.tail else s1.fld F.FAB_ID_ID * 2 ^ 48 + p.addr.toNat
          s1.recvApply q x { kind := p.kind.toNat, len := len, crc := 0, addr := at', err := twice, pois := false, rest := twice
                             skip := 0 } p f
      else if d ≤ 127 then
        (((s.setQueue q (some { x with rx := { x.rx with skip := nakGAP } })).incFld F.QUE_CNT_GAPS_VALUE 1).logDev srcFAB
          0x0907 false det).fabAnswer p nakGAP
      else
        (((s.setQueue q (some { x with rx := { x.rx with skip := 16 } })).incFld F.QUE_CNT_REPEATS_VALUE 1).logDev srcFAB
          0x0908 false det).ackRepeat p
    else if x.rx.skip ≠ 0 then s.skipAnswer p x.rx.skip
    else if x.opn then s.recvApply q x x.rx p f
    else s.fabAnswer p nakGAP

/-! ## Requests -/

/-- READ (R303, R304). -/
def State.pktRead (s : State) (p : FabPkt) : State :=
  let v := s.busRead (reqOfPkt p) p.addr.toNat p.len.toNat
  if v.2.2 ≠ 0 then v.1.fabAnswer p (nakOfErr v.2.2) else v.1.fabPost ((v.1.answerOf p opRDATA).carry v.2.1)

/-- A WRITE's data stored. -/
def State.pktStore (s : State) (p : FabPkt) : State × Nat :=
  let v := s.busWrite (reqOfPkt p) p.addr.toNat p.data
  (v.1, nakOfErr v.2)

/-- A SACC's elements applied in ascending order (R304, R306), part by part as regions split it; with AOP STORE each part is
written. -/
def State.pktSacc (s : State) (p : FabPkt) : State × Nat :=
  let aop := bitsOf p.sub.toNat 0 2
  let ety := bitsOf p.sub.toNat 2 5
  let u := (lxUnit ety).1
  if p.payload.isEmpty then (s, 0)
  else if !(decide (ety ≤ 0x10) && accOk aop ety) || p.payload.length % u != 0 || p.addr.toNat % u != 0 then (s, nakSIZE)
  else
    let q := reqOfPkt p
    let r := (parts 4 p.addr.toNat p.payload.length).foldl (fun (r : State × Nat) x =>
      let bs := (p.data.drop (x.1 - p.addr.toNat)).take x.2
      if !populated x.1 then (r.1.unmapped q x.1 kindSacc, errOr r.2 (if isRegs x.1 then 2 else 1))
      else if aop = 0 then (r.1.storeMixed q x.1 bs, r.2)
      else ((List.range (x.2 / u)).foldl (fun s k => (s.accAt q aop ety (x.1 + k * u) ((bs.drop (k * u)).take u)).1) r.1, r.2))
      (s, 0)
    (r.1, nakOfErr r.2)

/-- A new value of an ATOMIC of `w` bits (R305). -/
def atomicNew (op w old x y : Nat) : Nat :=
  match op with
  | 0 => x
  | 1 => if old = y then x else old
  | 2 => (old + x) % 2 ^ w
  | 3 => old &&& x
  | 4 => old ||| x
  | 5 => old ^^^ x
  | 6 => if toSigned w x < toSigned w old then x else old
  | 7 => if toSigned w old < toSigned w x then x else old
  | 8 => min old x
  | 9 => max old x
  | _ => ((if w = 32 then fmtFP32 else fmtFP64).add old x).1

/-- ATOMIC (R305): a word read poisoned stays poisoned (log entry 64). -/
def State.pktAtomic (s : State) (p : FabPkt) : State :=
  let op := bitsOf p.sub.toNat 0 4
  let n := if bitsOf p.sub.toNat 4 1 = 1 then 8 else 4
  let a := p.addr.toNat
  let q := reqOfPkt p
  if isRegs a then (s.unmapped q a kindAtomic).fabAnswer p nakREG
  else if 10 < op ∨ a % n ≠ 0 then s.fabAnswer p nakATOMIC
  else if !(populated a && populated (a + n - 1)) then (s.unmapped q a kindAtomic).fabAnswer p nakUNMAPPED
  else
    let old := s.num a n
    let bad := s.poisoned a n
    let new := atomicNew op (8 * n) old (p.opnd.toNat % 2 ^ (8 * n)) (p.opnd2.toNat % 2 ^ (8 * n))
    let s1 := s.rmwBytes q a (leBytes n new) bad
    s1.fabPost ((s1.answerOf p opADATA).carry ((leBytes 8 old).map (fun b => (b, bad))))

/-- TOKEN_INC (R307). The requests that arrived before it have been carried out: each packet is carried out when it is taken. -/
def State.pktToken (s : State) (p : FabPkt) : State :=
  let o := p.opnd.toNat
  (s.remoteInc (bitsOf o 12 8) (bitsOf o 0 12) (bitsOf o 20 16) p.flags.toNat).fabAnswer p 0

/-- A MSG's data put into the receive buffer (R321); a buffer on another device is written over the fabric (log entry 65). -/
def State.msgStore (s : State) (x : Queue) (p : FabPkt) : State × Nat :=
  let a := (x.buffer x.tail + bitsOf p.opnd2.toNat 32 32) % 2 ^ 64
  if s.hereAt a then
    let v := (s.noteTouched p.qid.toNat (a % 2 ^ 48) p.payload.length).busWrite (s.own srcQUE) (a % 2 ^ 48) p.data
    (v.1, nakOfErr v.2)
  else
    (s.fabSend ({ FabPkt.blank with
      opc := 0x02, dst := BitVec.ofNat 16 (a / 2 ^ 48), addr := BitVec.ofNat 48 a, unit := BitVec.ofNat 16 srcQUE }.carry
        p.data) .none, 0)

def execRead (l : RxId) (vc : BitVec 3) (upset : Upset) (s : State) : Host.Outcome State Fault Refusal :=
  .next (s.takeLocal l vc opREAD (fun s p => (s.upset upset).pktRead p))

def execWrite (l : RxId) (vc : BitVec 3) (s : State) : Host.Outcome State Fault Refusal :=
  .next (s.takeLocal l vc opWRITE (fun s0 p =>
    let s := s0.notePoisonRx p
    if p.e2e then s.recvE2E p (fun s _ p => (s.noteTouched p.qid.toNat p.addr.toNat p.payload.length).pktStore p)
    else
      let v := s.pktStore p
      v.1.fabAnswer p v.2))

def execAtomic (l : RxId) (vc : BitVec 3) (upset : Upset) (s : State) : Host.Outcome State Fault Refusal :=
  .next (s.takeLocal l vc opATOMIC (fun s p => (s.upset upset).pktAtomic p))

def execSacc (l : RxId) (vc : BitVec 3) (upset : Upset) (s : State) : Host.Outcome State Fault Refusal :=
  .next (s.takeLocal l vc opSACC (fun s0 p =>
    let s := (s0.upset upset).notePoisonRx p
    if p.e2e then s.recvE2E p (fun s _ p => (s.noteTouched p.qid.toNat p.addr.toNat (2 * p.payload.length)).pktSacc p)
    else
      let v := s.pktSacc p
      v.1.fabAnswer p v.2))

def execTokenInc (l : RxId) (vc : BitVec 3) (s : State) : Host.Outcome State Fault Refusal :=
  .next (s.takeLocal l vc opTOKENINC (fun s p => s.pktToken p))

def execMsg (l : RxId) (vc : BitVec 3) (s : State) : Host.Outcome State Fault Refusal :=
  .next (s.takeLocal l vc opMSG (fun s p => (s.notePoisonRx p).recvE2E p State.msgStore))

/-- CREDIT: end-to-end credits return to a SEND queue (R303); to any other queue it has no effect. -/
def execCredit (l : RxId) (vc : BitVec 3) (s : State) : Host.Outcome State Fault Refusal :=
  .next (s.takeLocal l vc opCREDIT (fun s p =>
    match s.queue p.qid.toNat with
    | some x => if x.recv then s else
        s.setQueue p.qid.toNat (some { x with cred := min 65535 (x.cred + bitsOf p.opnd.toNat 0 32) })
    | none => s))

/-! ## Answers (R309, R310) -/

/-- An answer as its requester sees it: data, an acknowledgement, or an error by its STATUS code. -/
def State.deliver (s : State) (cl : Client) (a : QueAns) : State :=
  match cl with
  | .lxeRead t id k at' n => match a with
    | .data bs => s.lxAnswerRead t id k at' n bs false
    | _ => s.lxAnswerRead t id k at' n [] true
  | .lxeWrite t id at' => match a with
    | .fail _ => s.lxAnswerWrite t id at' true
    | _ => s.lxAnswerWrite t id at' false
  | .queue q idx tries k => s.queAnswer q idx tries k a
  | .att =>
    match s.fw.att with
    | none => s
    | some r =>
      let err := match a with
        | .fail _ => true
        | _ => false
      { s with fw := { s.fw with att := some { r with acks := r.acks - 1, err := r.err || err } } }
  | .hostRead bar at' n => match a with
    | .data bs => s.hostData bar at' bs
    | _ => s.hostReadErr bar at' n
  | .hostWrite bar at' => match a with
    | .fail _ => s.hostErr bar at' 1
    | _ => s
  | .none => s

/-- An answer matched with its request; one with the tag of none is discarded (R310). -/
def State.pktAnswer (s : State) (p : FabPkt) (a : QueAns) : State :=
  match s.reqOf p.tag.toNat with
  | none => s.lateRsp
  | some r => (s.dropReq r).deliver r.cl a

def execRdata (l : RxId) (vc : BitVec 3) (s : State) : Host.Outcome State Fault Refusal :=
  .next (s.takeLocal l vc opRDATA (fun s p => (s.notePoisonRx p).pktAnswer p (.data p.data)))

def execAdata (l : RxId) (vc : BitVec 3) (s : State) : Host.Outcome State Fault Refusal :=
  .next (s.takeLocal l vc opADATA (fun s p => (s.notePoisonRx p).pktAnswer p (.data p.data)))

def execAck (l : RxId) (vc : BitVec 3) (s : State) : Host.Outcome State Fault Refusal :=
  .next (s.takeLocal l vc opACK (fun s p => s.pktAnswer p (.ack p.rep)))

def execNak (l : RxId) (vc : BitVec 3) (s : State) : Host.Outcome State Fault Refusal :=
  .next (s.takeLocal l vc opNAK (fun s p =>
    ((s.incFld F.FAB_CNT_NAK_RX_VALUE 1).set1 F.FAB_STATUS_NAK_RX).pktAnswer p (.fail p.nak.toNat)))

/-- A request gets no answer in time: its requester proceeds as on an error answer (R310). -/
def execFabReqTimeout (tag : BitVec 32) (s : State) : Host.Outcome State Fault Refusal :=
  match s.reqOf tag.toNat with
  | none => .next s
  | some r =>
    let s1 := ((s.dropReq r).incFld F.FAB_CNT_REQ_TIMEOUT_VALUE 1).set1 F.FAB_STATUS_REQ_TIMEOUT
    let s2 := s1.oncePerTide (0x0905, r.unit, 0) (fun s =>
      s.logDev srcFAB 0x0905 false [(2, r.unit), (2, r.dst), (1, r.opc), (4, r.tag)])
    .next (s2.deliver r.cl (.fail quTIMEOUT))

/-! ## Management packets (R413) -/

/-- A request of the fabric manager for channel `c`: put into the channel and sent, or answered BUSY. -/
def State.proxyTake (s : State) (c : Nat) (p : FabPkt) : State :=
  if s.fld (F.MBX_CH_STATUS_STATE c) ≠ chIDLE then
    s.mgmtReply c p.src.toNat p.tag.toNat
      (leBytes 8 (mbBUSY + leNat ((p.payload.drop 4).take 4) * 2 ^ 32) ++ List.replicate 8 0)
  else
    let s1 := s.mbStore c 0 (p.payload.take 1024) (p.pm && p.mask.any id)
    ({ s1 with proxy := Store.put (fun _ => (0, 0)) s1.proxy c (p.src.toNat, p.tag.toNat) }).chSend c

/-- A management packet: a request for channel 19 or 20 goes to the proxy, any other to firmware. -/
def execMgmt (l : RxId) (vc : BitVec 3) (s : State) : Host.Outcome State Fault Refusal :=
  .next (s.takeLocal l vc opMGMT (fun s0 p =>
    let s := s0.notePoisonRx p
    let c := bitsOf p.opnd.toNat 0 5
    if (c = 19 ∨ c = 20) ∧ bitsOf p.opnd.toNat 5 1 = 0 then s.proxyTake c p
    else { s with fab := { s.fab with mgmt := s.fab.mgmt ++ [p] } }))

end Sys2Proof.Machine
end

