-- ==== Sys2Proof/Machine/Gre.lean ====
section
/-! DEFINITION. The gradient reduction engine: ERI block records (R330 to R335), posting (R340 to R342), starting (R343), the
movement of blocks through rings, rings of rings and trees (R338, R339), mismatches (R346), late contributions and carries
(R347 to R349), re-runs (R351), completion (R344, R345), poison (R354). -/
namespace Sys2Proof.Machine

/-- The format of a source. -/
def greFmt : Nat → Fmt
  | 0 => fmtFP32
  | 1 => fmtBF16
  | _ => fmtFP64

/-! ## Block records (R331) -/

/-- The marker of an unscaled record, and of a MAXE without an exponent. -/
def greMark : Nat := 0x8000

/-- The header's two words. -/
def GreRec.header (r : GreRec) : List Byte :=
  leBytes 8 (r.scale + r.maxe * 2 ^ 16 + r.delta * 2 ^ 32 + b2n r.ovf * 2 ^ 48 + b2n r.nf * 2 ^ 49 + b2n r.poison * 2 ^ 50
    + b2n r.rerun * 2 ^ 51)
  ++ leBytes 8 (r.block + r.contrib * 2 ^ 16 + r.carried * 2 ^ 32)

/-- A record as it travels: 8,208 B. -/
def GreRec.bytes (r : GreRec) : List Byte := r.header ++ r.els.flatMap (leBytes 8)

/-- A record read from bytes with their poison: the record, whether a header word is poisoned, the poisoned elements. -/
def GreRec.parse (bs : List (Byte × Bool)) : GreRec × Bool × List Nat :=
  let word (k : Nat) : Nat := leNat (((bs.drop (8 * k)).take 8).map (fun b => b.1))
  let bad (k : Nat) : Bool := ((bs.drop (8 * k)).take 8).any (fun b => b.2)
  let w := word 0
  let v := word 1
  ({ scale := bitsOf w 0 16, maxe := bitsOf w 16 16, delta := bitsOf w 32 16, ovf := bitsOf w 48 1 == 1
     nf := bitsOf w 49 1 == 1, poison := bitsOf w 50 1 == 1, rerun := bitsOf w 51 1 == 1, block := bitsOf v 0 16
     contrib := bitsOf v 16 16, carried := bitsOf v 32 16, els := (List.range 1024).map (fun k => word (k + 2)) },
   bad 0 || bad 1, (List.range 1024).filter (fun k => bad (k + 2)))

/-- Combined elements: NF absorbs (R331). -/
def greAdd (x y : Nat) : Nat := if x = eriNF ∨ y = eriNF then eriNF else (x + y) % 2 ^ 64

/-- The larger of two MAXE fields, 0x8000 lowest. -/
def maxMaxe (x y : Nat) : Nat :=
  if x = greMark then y else if y = greMark then x else if toSigned 16 x < toSigned 16 y then y else x

/-- Two records of one block combined (R331). -/
def GreRec.combine (a b : GreRec) : GreRec :=
  { scale := if a.scale = greMark then b.scale else a.scale, maxe := maxMaxe a.maxe b.maxe, delta := max a.delta b.delta
    ovf := a.ovf || b.ovf, nf := a.nf || b.nf, poison := a.poison || b.poison, rerun := a.rerun, block := a.block
    contrib := (a.contrib + b.contrib) % 2 ^ 16, carried := (a.carried + b.carried) % 2 ^ 16
    els := (a.els.zip b.els).map (fun x => greAdd x.1 x.2) }


/-- ⌈log₂ P⌉ (R332). -/
def greHead (p : Nat) : Nat := if p ≤ 1 then 0 else Nat.log2 (p - 1) + 1

/-! ## Contributions (R332, R335) -/

/-- An element converted at scale S: its integer, or none for NF; and e(x) where it is finite and not 0. -/
def greConv (f : Fmt) (sc : Int) (x : Nat) : Option Int × Option Int :=
  match f.decode x with
  | .fin n m e =>
    if m = 0 then (some 0, none)
    else
      let q := (toUnit false m e sc).1
      (some (if n then -(q : Int) else q), some (floorLog2 m e + 1))
  | _ => (none, none)

/-- A number of 16 bits as the scale's clamp leaves it. -/
def greClamp (x : Int) : Int := max (-32767) (min 32767 x)

/-- A block of zeros (a pad block, or a late contribution). -/
def greZeros (block : Nat) (scale : Nat) (rerun : Bool) (contrib : Nat) : GreRec :=
  { scale := scale, maxe := greMark, delta := 0, ovf := false, nf := false, poison := false, rerun := rerun, block := block
    contrib := contrib, carried := 0, els := List.replicate 1024 0 }

/-- The prediction entry of a block and its poison; DEFAULT_E stands for 0x8000 (R335). -/
def State.greEntry (s : State) (b : GreBucket) (i : Nat) : Int × Bool :=
  let a := b.maxeA + 2 * i
  let x := s.num a 2
  (toSigned 16 (if x = greMark then s.fld (F.GRE_CHAN_INIT_DEFAULT_E b.chan) else x), s.poisoned a 2)

/-- A device's contribution to block `i`, at the predicted scale or, in a re-run, at the scale given; and the elements that
poison made NF. -/
def State.greContrib (s : State) (b : GreBucket) (i : Nat) (rr : Option Int) : GreRec × Nat :=
  let h := greHead (s.fld (F.GRE_CHAN_CFG_P b.chan))
  let own := b2n (!b.late)
  if b.real ≤ i then (greZeros i 0 rr.isSome own, 0)
  else
    let e := s.greEntry b i
    let sc : Int := match rr with
      | some x => x
      | none => greClamp (e.1 + s.fld (F.GRE_CHAN_CFG_MARGIN b.chan) - 62 + h)
    if rr.isNone && e.2 then
      ({ greZeros i greMark false own with nf := true, poison := true, els := List.replicate 1024 eriNF }, 1024)
    else if b.late then (greZeros i (ofSigned 16 sc) rr.isSome 0, 0)
    else
      let f := greFmt b.sfmt
      let n := greBytes b.sfmt
      let lim : Int := ((2 ^ (62 - h) : Nat) : Int)
      -- an element's integer, the exponents of its clean finite parts, and whether poison made it NF
      let one (k : Nat) : Option Int × List Int × Bool :=
        let j := 1024 * i + k
        if b.count ≤ j then (some 0, [], false)
        else
          let part (a : Nat) : Option Int × Option Int × Bool :=
            if s.poisoned a n then (none, none, true)
            else
              let c := greConv f sc (s.num a n)
              (c.1, c.2, false)
          let x := part (b.src + n * j)
          let y := if b.carryIn then part (b.carryA + 64 + n * j) else (some 0, none, false)
          let v : Option Int := match x.1, y.1 with
            | some p, some q => some (p + q)
            | _, _ => none
          (v, x.2.1.toList ++ y.2.1.toList, x.2.2 || y.2.2)
      let rs := (List.range 1024).map one
      let big (v : Option Int) : Bool := match v with
        | some z => decide (lim < z) || decide (z < -lim)
        | none => false
      let ovf := rs.any (fun r => big r.1)
      let es := rs.flatMap (fun r => r.2.1)
      let maxe : Option Int := es.foldl (fun m e => some (match m with
        | some x => max x e
        | none => e)) none
      let delta := if ovf then ((maxe.getD 0) - sc - 62 + h + (b2n b.carryIn : Nat)).toNat else 0
      let npois := (rs.filter (fun r => r.2.2)).length
      ({ scale := ofSigned 16 sc
         maxe := match maxe with
           | some x => ofSigned 16 x
           | none => greMark
         delta := delta % 2 ^ 16, ovf := ovf, nf := rs.any (fun r => r.1.isNone), poison := npois != 0 || b.carryBad, rerun := rr.isSome
         block := i, contrib := 1, carried := b2n b.carryIn
         els := rs.map (fun r => match r.1 with
           | none => eriNF
           | some z => ofSigned 64 (max (-lim) (min lim z))) }, npois)

/-- What a contribution's reads do beside delivering. -/
def State.greNoteReads (s : State) (b : GreBucket) (i : Nat) (rr : Bool) : State :=
  if b.real ≤ i then s
  else
    let n := greBytes b.sfmt
    let len := n * (min b.count (1024 * (i + 1)) - 1024 * i)
    let s1 := if rr then s else s.noteReads (s.own srcGRE) (b.maxeA + 2 * i) 2
    if b.late then s1
    else
      let s2 := s1.noteReads (s1.own srcGRE) (b.src + n * 1024 * i) len
      if b.carryIn then s2.noteReads (s2.own srcGRE) (b.carryA + 64 + n * 1024 * i) len else s2

/-! ## Topologies (R338, R339) -/

/-- Blocks of shard `k` of `n` of a pass over `z` blocks: from the first to before the second. -/
def shardLo (n z k : Nat) : Nat := k * z / n

/-- The shard that holds block `j`. -/
def shardOf (n z j : Nat) : Nat :=
  ((List.range n).find? (fun k => decide (shardLo n z k ≤ j) && decide (j < shardLo n z (k + 1)))).getD 0

/-- A participant's place: topology, ring sizes (for a ring, the inner ring is the ring and the outer one participant), inner and
outer position, children, root. -/
structure GrePlace where
  topo : Nat
  n    : Nat
  q    : Nat
  ip   : Nat
  op   : Nat
  kids : Nat
  root : Bool
  deriving DecidableEq, Repr

def State.grePlace (s : State) (c : Nat) : GrePlace :=
  let p := s.fld (F.GRE_CHAN_CFG_P c)
  let pos := s.fld (F.GRE_CHAN_CFG_POS c)
  match s.fld (F.GRE_CHAN_CFG_TOPO c) with
  | 0 => ⟨0, p, 1, pos, 0, 0, pos == 0⟩
  | 1 =>
    let n := max 1 (s.fld (F.GRE_CHAN_LINK_P_IN c))
    ⟨1, n, p / n, pos % n, pos / n, 0, pos == 0⟩
  | _ => ⟨2, 1, 1, 0, 0, s.fld (F.GRE_CHAN_CFG_CHILDREN c), pos == 0⟩

/-- The inner shard of block `j` of `z`, and the outer shard of it within that. -/
def GrePlace.inner (g : GrePlace) (z j : Nat) : Nat := shardOf g.n z j
def GrePlace.outer (g : GrePlace) (z j : Nat) : Nat :=
  let k := g.inner z j
  shardOf g.q (shardLo g.n z (k + 1) - shardLo g.n z k) (j - shardLo g.n z k)

/-- A block is to arrive on a link in a direction (0 reduce, 1 gather). -/
def GrePlace.expects (g : GrePlace) (z j link dir : Nat) : Bool :=
  if g.topo = 2 then (if dir = 0 then decide (1 ≤ link) && decide (link ≤ g.kids) else link == 0 && !g.root)
  else
    let k := g.inner z j
    let o := g.outer z j
    match link, dir with
    | 0, 0 => decide (1 < g.n) && g.ip != (k + 1) % g.n
    | 0, _ => decide (1 < g.n) && g.ip != k
    | 1, 0 => g.topo == 1 && g.ip == k && decide (1 < g.q) && g.op != (o + 1) % g.q
    | 1, _ => g.topo == 1 && g.ip == k && decide (1 < g.q) && g.op != o
    | _, _ => false

/-- A record to send: link, direction, shard (for the grouping into messages), block of the pass. -/
structure GreSend where
  link  : Nat
  dir   : Nat
  shard : Nat
  j     : Nat
  deriving DecidableEq, Repr

/-- The shard named in a send on a link. -/
def GrePlace.key (g : GrePlace) (z j link : Nat) : Nat :=
  if g.topo = 2 then 0 else g.inner z j + (if link = 1 then (g.outer z j + 1) * 2 ^ 16 else 0)

def GrePlace.send (g : GrePlace) (z j link dir : Nat) : GreSend := ⟨link, dir, g.key z j link, j⟩

/-- Sends of a final block towards the others: down a tree, or around the inner ring. -/
def GrePlace.spread (g : GrePlace) (z j : Nat) : List GreSend :=
  if g.topo = 2 then (List.range g.kids).map (fun l => g.send z j (l + 1) 1)
  else if 1 < g.n then [g.send z j 0 1] else []

/-- The code of a link and direction in a block's record of arrivals. -/
def rxCode (link dir : Nat) : Nat := link * 4 + dir

/-- A block whose inner sum stands goes on to the outer ring (R339): it starts a shard, passes one on, or is final. -/
def GrePlace.outerStep (g : GrePlace) (z j : Nat) (b : GreBlk) : GreBlk × List GreSend :=
  let o := g.outer z j
  if !b.mid then (b, [])
  else if g.q ≤ 1 then ({ b with fin := true }, g.spread z j)
  else if g.op = (o + 1) % g.q then (b, [g.send z j 1 0])
  else if !b.rx.contains (rxCode 1 0) then (b, [])
  else if g.op = o then ({ b with fin := true }, g.send z j 1 1 :: g.spread z j)
  else (b, [g.send z j 1 0])

/-- A tree node's block once its children's records are in. -/
def GrePlace.treeStep (g : GrePlace) (z j : Nat) (b : GreBlk) : GreBlk × List GreSend :=
  if b.kids.length < g.kids then (b, [])
  else if g.root then ({ b with fin := true }, g.spread z j)
  else (b, [g.send z j 0 0])

/-- A block at the start of a pass. -/
def GrePlace.begin (g : GrePlace) (z j : Nat) (b : GreBlk) : GreBlk × List GreSend :=
  if g.topo = 2 then g.treeStep z j b
  else if g.n ≤ 1 then g.outerStep z j { b with mid := true }
  else if g.ip = (g.inner z j + 1) % g.n then (b, [g.send z j 0 0]) else (b, [])

/-- A record of a block arrives on a link in a direction. -/
def GrePlace.arrive (g : GrePlace) (z j link dir : Nat) (r : GreRec) (b0 : GreBlk) : GreBlk × List GreSend :=
  let b := { b0 with rx := rxCode link dir :: b0.rx }
  if dir = 0 then
    let b1 := { b with sum := b.sum.combine r }
    if g.topo = 2 then g.treeStep z j { b1 with kids := link :: b1.kids }
    else if link = 1 then g.outerStep z j b1
    else if g.ip = g.inner z j then g.outerStep z j { b1 with mid := true }
    else (b1, [g.send z j 0 0])
  else
    let b1 := { b with sum := r, fin := true }
    if g.topo = 2 then (b1, g.spread z j)
    else if link = 1 then
      (b1, (if (g.op + 1) % g.q = g.outer z j then [] else [g.send z j 1 1]) ++ g.spread z j)
    else (b1, if (g.ip + 1) % g.n = g.inner z j then [] else [g.send z j 0 1])

/-! ## Messages (R338) -/

/-- The block number of block `j` of the pass under way. -/
def GreBucket.blockNo (b : GreBucket) (j : Nat) : Nat := if b.pass = 0 then j else b.reran.getD j 0

/-- A bucket's messages posted: of each link, direction and shard, up to four records each, in ascending block order. -/
def State.greSendAll (s : State) (b : GreBucket) (xs : List GreSend) : State × GreBucket :=
  let keys := (xs.map (fun x => (x.link, x.dir, x.shard))).dedup
  keys.foldl (fun (r : State × GreBucket) k =>
    let js := sortStable (fun x y => decide (x < y)) ((xs.filter (fun x => (x.link, x.dir, x.shard) == k)).map (fun x => x.j))
    (groupsOf 4 js.length js).foldl (fun (r : State × GreBucket) g =>
      let pay := g.flatMap (fun j => match b.blks[j]? with
        | some y => y.sum.bytes
        | none => [])
      let imm := b.seq % 2 ^ 32 + b.count * 2 ^ 32 + (2 * b.pass + k.2.1) * 2 ^ 58
      let q := r.1.fld (F.GRE_CHAN_LINK_QBASE b.chan) + 2 * k.1
      let s1 := r.1.incFld F.GRE_CNT_BYTES_TX_VALUE pay.length
      let s2 := match s1.queue q with
        | some x => s1.setQueue q (some { x with pays := x.pays ++ [(b.chan, b.seq, imm, pay.map (fun y => (y, false)))] })
        | none => s1
      (s2, { r.2 with unacked := r.2.unacked + 1 })) r) (s, b)

/-- A pass begins (R339, R343, R351): the device's contributions to its blocks, and its first sends. -/
def State.greBegin (s : State) (b : GreBucket) (recs : List (GreRec × Nat)) : State :=
  let g := s.grePlace b.chan
  let z := recs.length
  let p := recs.foldl (fun (r : State × GreBucket) x => r.1.grePoison r.2 x.1.block (2 * b.pass) x.2) (s, b)
  let ys := recs.zipIdx.map (fun x =>
    g.begin z x.2 { sum := x.1.1, kids := [], mid := false, fin := false, rx := [] })
  let b1 := { p.2 with blks := ys.map (fun y => y.1), quiet := 0 }
  let r := p.1.greSendAll b1 (ys.flatMap (fun y => y.2))
  r.1.setBucket r.2

/-! ## Posting (R340 to R342) -/

/-! ## Posting (R340) -/

/-- GR.POST: its two descriptors are copied into the post queue (R82). -/
def execGrPost (i : Iss) (a : PostArgs) (s : State) : Host.Outcome State Fault Refusal :=
  .next (s.issueFenced i (.grPost i a) [a.sa.toNat] (fun s => s.postBody i (.grPost i a) a.sa .post 2 false))

/-! ## What a complete bucket reports (R344, R345) -/

/-- The final records of a bucket's real blocks: a re-run block keeps its first pass's MAXE. -/
def GreBucket.finals (b : GreBucket) : List GreRec :=
  if b.pass = 0 then (b.blks.take b.real).map (fun y => y.sum)
  else (b.fins.take b.real).map (fun f =>
    match b.blks.find? (fun y => y.sum.block == f.block) with
    | some y => { y.sum with maxe := f.maxe }
    | none => f)

/-- The final records a bucket's flags look at: its real blocks', and those of the pad blocks that are final. -/
def GreBucket.known (b : GreBucket) : List GreRec :=
  b.finals ++ (if b.pass = 0 then ((b.blks.drop b.real).filter (fun y => y.fin)).map (fun y => y.sum) else b.fins.drop b.real)

/-- The status record (R345): CONTRIB and CARRIED of the real blocks `fs`, NF and POISON of every final block. -/
def GreBucket.status (b : GreBucket) (fs : List GreRec) (tide : Nat) : List Byte :=
  let nfs := (b.known.filter (fun f => f.nf)).length
  let f0 := fs.headD (greZeros 0 0 false 0)
  leBytes 8 (b.seq % 2 ^ 32 + b2n b.late * 2 ^ 32 + b2n (b.outc == 1) * 2 ^ 33 + b2n (decide (2 ≤ b.outc)) * 2 ^ 34
    + b2n b.carryIn * 2 ^ 35 + b2n (nfs != 0) * 2 ^ 36 + b2n (b.known.any (fun f => f.poison)) * 2 ^ 37
    + b2n (!b.reran.isEmpty) * 2 ^ 38)
  ++ leBytes 8 (nfs % 2 ^ 16 + b.reran.length % 2 ^ 16 * 2 ^ 16 + f0.contrib * 2 ^ 32 + f0.carried * 2 ^ 48)
  ++ leBytes 8 (tide % 2 ^ 48) ++ List.replicate 8 0

/-- The flags of a bucket's token (R344). -/
def GreBucket.flags (b : GreBucket) : Nat := if b.known.any (fun f => f.poison) then flagPOISON else 0

/-! ## Deadlines and late contributions (R347, R348) -/

/-- The delivered deadline tide found contributions of a channel not ready: they are judged late. -/
def execGreDeadline (c : Fin 256) (s : State) : Host.Outcome State Fault Refusal :=
  .next (((s.bucketsOf c).filter (fun b => b.missed && !b.late)).foldl State.greLate s)

/-- The contribution is ready on time. -/
def GreBucket.onTime (b : GreBucket) : Bool := b.ready && !b.missed

/-- The carry header: its first word, and whether it is poisoned. -/
def State.carryHead (s : State) (b : GreBucket) : Nat × Bool := (s.num b.carryA 8, s.poisoned b.carryA 64)

/-- The late contribution of a channel that its outcome waits for. -/
def State.greUnresolved (s : State) (c : Nat) : Option GreBucket :=
  s.gre.buckets.find? (fun b => b.chan == c && b.late && b.ready && b.outc == 0)

/-- The outcome of a late contribution: logged; where the bucket was complete but for it, the status record says it and the
token follows. -/
def State.greOutcome (s : State) (b : GreBucket) (o : Nat) : State :=
  let b1 := { b with outc := o }
  let s1 := (s.setBucket b1).logDeliv srcGRE 0x0A03 false [(2, b.chan), (4, b.seq), (1, o - 1)]
  match b.done with
  | none => s1
  | some t => (s1.busPut (s1.own srcGRE) b.statA ((b1.status b.finals t).take 8)).1.greFinish b1 b.flags

/-- A late contribution's ready condition is met: it is dropped or carried. -/
def execGreLateResolved (c : Fin 256) (upset : Upset) (s : State) : Host.Outcome State Fault Refusal :=
  match s.greUnresolved c with
  | none => .next s
  | some b =>
    let s0 := s.upset upset
    let fin (s : State) (o : Nat) : State := s.greOutcome b o
    if !s0.flag (F.GRE_CHAN_CFG_POLICY c) then .next (fin (s0.incFld F.GRE_CNT_DROPPED_VALUE 1) 2)
    else
      let s1 := s0.noteReads (s0.own srcGRE) b.carryA 8
      if bitsOf (s1.carryHead b).1 63 1 = 1 then
        .next (fin ((s1.incFld F.GRE_CNT_CARRY_FULL_VALUE 1).set1 F.GRE_STATUS_CARRY_FULL) 3)
      else
        let v := s1.busRead (s1.own srcGRE) b.src (b.count * greBytes b.sfmt)
        let s2 := (v.1.busWrite (v.1.own srcGRE) (b.carryA + 64) v.2.1).1
        let head := leBytes 8 (b.count + b.sfmt * 2 ^ 26 + 2 ^ 63) ++ leBytes 8 (b.seq % 2 ^ 32 + b.chan * 2 ^ 32)
          ++ List.replicate 48 0
        .next (fin ((s2.busPut (s2.own srcGRE) b.carryA head).1.incFld F.GRE_CNT_CARRIED_VALUE 1) 1)

/-! ## Starting (R343) -/

/-- The conditions under which the oldest bucket not started of a channel starts. -/
def State.greMayStart (s : State) (b : GreBucket) : Bool :=
  let earlier := s.gre.buckets.filter (fun x => decide (x.ord < b.ord))
  let carry (x : GreBucket) : Bool := s.flag (F.GRE_CHAN_CFG_POLICY x.chan)
  (b.onTime || b.late)
    && (!s.flag (F.GRE_CHAN_CFG_BITTERN b.chan)
      || earlier.all (fun x => s.flag (F.GRE_CHAN_CFG_BITTERN x.chan) || x.onTime || x.late))
    && earlier.all (fun x => !x.isOut || x.maxeA != b.maxeA)
    && (!carry b || earlier.all (fun x => !carry x || x.carryA != b.carryA || x.onTime || (x.late && x.outc != 0)))

/-- The carry header read at the start (R349, R354): the bucket with its carry, and what is cleared. A poisoned header sets POISON
in the device's contribution to every real block (DESIGN CHOICE, log entry 103). -/
def State.greCarryIn (s : State) (b : GreBucket) : State × GreBucket :=
  if !s.flag (F.GRE_CHAN_CFG_POLICY b.chan) || b.late then (s, b)
  else
    let h := s.carryHead b
    let s1 := s.noteReads (s.own srcGRE) b.carryA 64
    let p := s1.grePoison { b with carryBad := h.2 } 0 0 (b2n h.2)
    if bitsOf h.1 63 1 = 0 then p
    else if bitsOf h.1 0 26 = b.count ∧ bitsOf h.1 26 2 = b.sfmt ∧ h.2 = false then (p.1, { p.2 with carryIn := true })
    else
      let s2 := (p.1.busPut (p.1.own srcGRE) b.carryA (leBytes 8 (h.1 % 2 ^ 63))).1
      (((s2.incFld F.GRE_CNT_CARRY_MISMATCH_VALUE 1).set1 F.GRE_STATUS_CARRY_MISMATCH).logDeliv srcGRE 0x0A0A false
        [(2, b.chan), (4, b.seq)], p.2)

/-- A bucket starts: it reads its carry header, forms its contributions and begins its first pass. -/
def execGreBucketStart (c : Fin 256) (upset : Upset) (s : State) : Host.Outcome State Fault Refusal :=
  match (s.bucketsOf c).find? (fun b => !b.started) with
  | none => .next s
  | some b =>
    if !s.greMayStart b then .next s
    else
      let s0 := s.upset upset
      let x := s0.greCarryIn { b with started := true }
      let blocks := List.range b.all
      let recs := blocks.map (fun i => x.1.greContrib x.2 i none)
      let s1 := blocks.foldl (fun s i => s.greNoteReads x.2 i false) x.1
      .next (s1.greBegin x.2 recs)

/-! ## Messages received (R346) -/

/-- Every block of the pass under way is final. -/
def GreBucket.passDone (b : GreBucket) : Bool := b.started && b.blks.all (fun y => y.fin)

/-- The real blocks whose first final header has OVF without NF (R351). -/
def GreBucket.toRerun (b : GreBucket) : List Nat :=
  if b.pass = 0 then ((b.blks.take b.real).filter (fun y => y.sum.ovf && !y.sum.nf)).map (fun y => y.sum.block) else []

/-- What a bucket says of a message of a phase on a link: it waits for the bucket, the bucket takes it, or a later bucket
does. -/
inductive GreExpect where
  | wait
  | here
  | past
  deriving DecidableEq, Repr

def GreBucket.expect (g : GrePlace) (b : GreBucket) (link phase : Nat) : GreExpect :=
  let more : Bool := b.blks.zipIdx.any (fun y =>
    g.expects b.blks.length y.2 link (phase % 2) && !y.1.rx.contains (rxCode link (phase % 2)))
  if !b.started then .wait
  else if phase / 2 = b.pass then (if more then .here else .past)
  else if phase / 2 < b.pass then .past
  else if b.isOut && (!b.passDone || !b.toRerun.isEmpty) then .wait
  else .past

/-- The bucket a message is checked against; none while it waits. -/
def greExpected (g : GrePlace) (link phase : Nat) : List GreBucket → Option GreBucket
  | [] => none
  | b :: bs => match b.expect g link phase with
    | .wait => none
    | .here => some b
    | .past => greExpected g link phase bs

/-- The place in the pass of a block number. -/
def GreBucket.place (b : GreBucket) (no : Nat) : Option Nat :=
  (List.range b.blks.length).find? (fun j => b.blockNo j == no)

/-- The records of a payload. -/
def greRecords : Nat → List (Byte × Bool) → List (GreRec × Bool × List Nat)
  | 0, _ => []
  | n + 1, bs => if bs.isEmpty then [] else GreRec.parse (bs.take 8208) :: greRecords n (bs.drop 8208)

/-- The field in which a message differs from what is expected, by its place in R346's list (5 a poisoned header word); none
where it does not. -/
def greDiffers (g : GrePlace) (b : GreBucket) (link phase imm len : Nat) (rs : List (GreRec × Bool × List Nat)) : Option Nat :=
  if bitsOf imm 0 32 ≠ b.seq then some 0
  else if bitsOf imm 32 26 ≠ b.count then some 1
  else if rs.any (fun r => r.2.1) then some 5
  else if rs.any (fun r => r.1.rerun != decide (2 ≤ phase)) then some 2
  else if len % 8208 ≠ 0 ∨ rs.isEmpty = true ∨ rs.any (fun r => match b.place r.1.block with
      | none => true
      | some j => !g.expects b.blks.length j link (phase % 2) || (match b.blks[j]? with
          | some y => y.rx.contains (rxCode link (phase % 2))
          | none => true)) = true then some 3
  else if rs.any (fun r => match (b.place r.1.block).bind (fun j => b.blks[j]?) with
      | none => false
      | some y => r.1.scale != greMark && y.sum.scale != greMark && r.1.scale != y.sum.scale) then some 4
  else none

/-- A mismatch puts the channel in ERROR. -/
def State.greMismatch (s : State) (b : GreBucket) (link field : Nat) : State :=
  ((s.set1 F.GRE_STATUS_MISMATCH).logDeliv srcGRE 0x0A07 true [(1, b.chan), (4, b.seq), (1, link), (1, field)]).greChanError
    b.chan 1 link b.seq

/-- A record with its poisoned elements made NF (R354): NF is set in a reduce phase only. -/
def GreRec.poisonEls (r : GreRec) (dir : Nat) (ks : List Nat) : GreRec :=
  if ks.isEmpty then r
  else { r with
    els := r.els.zipIdx.map (fun e => if ks.contains e.2 then eriNF else e.1), poison := true, nf := r.nf || dir == 0 }

/-- The records of a message combined or taken, with what they cause to be sent. -/
def State.greApply (s : State) (g : GrePlace) (b : GreBucket) (link phase : Nat) (rs : List (GreRec × Bool × List Nat)) :
    State :=
  let z := b.blks.length
  let r := rs.foldl (fun (r : State × GreBucket × List GreSend) x =>
    match b.place x.1.block with
    | none => r
    | some j => match r.2.1.blks[j]? with
      | none => r
      | some y =>
        let p := r.1.grePoison r.2.1 x.1.block phase x.2.2.length
        let v := g.arrive z j link (phase % 2) (x.1.poisonEls (phase % 2) x.2.2) y
        (p.1, { p.2 with blks := p.2.blks.set j v.1 }, r.2.2 ++ v.2)) (s, b, [])
  let w := r.1.greSendAll { r.2.1 with quiet := 0 } r.2.2
  if w.2.paid && w.2.blks.all (fun y => y.fin) then w.1.greDrop w.2 else w.1.setBucket w.2

/-- A message at the head of a link's RECV ring is taken, once its bucket has started; an entry with ERROR is discarded, its
message being sent again (log entry 66). -/
def execGreMessageRx (c : Fin 256) (link : Fin 5) (s : State) : Host.Outcome State Fault Refusal :=
  let q := s.fld (F.GRE_CHAN_LINK_QBASE c) + 2 * link.val + 1
  match s.queue q with
  | none => .next s
  | some x =>
    if s.fld (F.GRE_CHAN_STATE_STATE c) ≠ 1 ∨ x.recv = false ∨ x.head = x.tail then .next s
    else
      let a := x.entry x.head
      let w0 := s.num a 8
      let len := bitsOf (s.num (a + 8) 8) 0 32
      let imm := s.num (a + 16) 8
      let phase := bitsOf imm 58 3
      let free (s : State) : State := match s.queue q with
        | some y => s.dbHead q ((y.head + 1) % 2 ^ 32) y
        | none => s
      let s1 := s.noteReads (s.own srcGRE) a 64
      if bitsOf w0 48 1 = 1 then .next (free s1)
      else
        let g := s.grePlace c
        match greExpected g link.val phase (s.gre.buckets.filter (fun b => b.chan == c)) with
        | none => .next s
        | some b =>
          let v := s1.busRead (s1.own srcGRE) (s.num (a + 32) 8 % 2 ^ 48) len
          let rs := greRecords 5 v.2.1
          match greDiffers g b link.val phase imm len rs with
          | some f =>
            -- a poisoned header word is poison met, and handled as a mismatch (R354)
            let n := (rs.filter (fun r => r.2.1)).length
            .next (((free v.1).grePoison b (rs.head?.map (fun r => r.1.block) |>.getD 0) phase n).1.greMismatch b link.val f)
          | none => .next ((free v.1).greApply g b link.val phase rs)

/-! ## Re-run (R351, R352) -/

/-- The first pass of a bucket is complete and blocks overflowed: they are re-run at raised scales. -/
def execGreRerun (c : Fin 256) (upset : Upset) (s : State) : Host.Outcome State Fault Refusal :=
  match (s.bucketsOf c).find? (fun b => b.passDone && !b.toRerun.isEmpty) with
  | none => .next s
  | some b =>
    let s0 := s.upset upset
    let bl := b.toRerun
    let n := bl.length
    let fins := b.blks.map (fun y => y.sum)
    let b1 := { b with pass := 1, reran := bl, fins := fins, blks := [] }
    let recs := bl.map (fun i =>
      let f := fins[i]?.getD (greZeros i 0 false 0)
      s0.greContrib b1 i (some (greClamp (toSigned 16 f.scale + f.delta))))
    let s1 := bl.foldl (fun s i => s.greNoteReads b1 i true) s0
    let s2 := ((s1.incFld F.GRE_CNT_RERUN_BLOCKS_VALUE n).set1 F.GRE_STATUS_RERUN).logDeliv srcGRE 0x0A04 false
      [(2, b.chan), (4, b.seq), (2, n)]
    .next (s2.greBegin b1 recs)

/-! ## Completion (R344, R345) -/

/-- An element written in OUT_FMT (R334), and whether it overflowed. -/
def greOut (ofmt : Nat) (oexp : Int) (scale x : Nat) : Nat × Bool :=
  if ofmt = 3 then (x, false)
  else
    let f := greFmt ofmt
    if x = eriNF then (f.nanBits, false)
    else
      let v := toSigned 64 x
      let r := f.round false (.fin (decide (v < 0)) v.natAbs (toSigned 16 scale + oexp))
      (f.encode r.1, r.2 &&& stOF != 0)

/-- A block that is not final is still to be sent on by this participant: it has not passed the sum on yet, or it will pass the
result on. -/
def GrePlace.owes (g : GrePlace) (z j : Nat) (b : GreBlk) : Bool :=
  if g.topo = 2 then decide (b.kids.length < g.kids) || decide (0 < g.kids)
  else
    let k := g.inner z j
    g.ip == k || (g.ip != (k + 1) % g.n && !b.rx.contains (rxCode 0 0)) || (g.ip + 1) % g.n != k

/-- The oldest bucket of a channel may complete (R344): its real blocks final and none of them to be re-run, every message it
sends sent and acknowledged. A pad block that this participant would only receive may still be on its way. -/
def GreBucket.mayComplete (g : GrePlace) (b : GreBucket) : Bool :=
  b.started && b.toRerun.isEmpty && b.unacked == 0 && b.blks.zipIdx.all (fun y => y.1.fin ||
    (b.pass == 0 && decide (b.real ≤ y.2) && !g.owes b.blks.length y.2 y.1))

/-- Its token waits for the resolution of its late contribution. -/
def GreBucket.tokenWaits (b : GreBucket) : Bool := b.late && b.outc == 0

/-- The oldest bucket of a channel completes: results, MAXE entries, headers, status record, token (which waits
for the resolution of a late contribution). -/
def execGreBucketComplete (c : Fin 256) (s : State) : Host.Outcome State Fault Refusal :=
  match s.bucketsOf c with
  | [] => .next s
  | b :: _ =>
    if !b.mayComplete (s.grePlace c) then .next s
    else
      let fs := b.finals
      let ob := greBytes b.ofmt
      let q := s.own srcGRE
      let outs := fs.flatMap (fun f =>
        (f.els.take (b.count - 1024 * f.block)).map (fun x => greOut b.ofmt b.oexp f.scale x))
      let s1 := (s.busPut q b.dst (outs.flatMap (fun x => leBytes ob x.1))).1
      let s2 := if outs.any (fun x => x.2) then s1.set1 F.GRE_STATUS_OF else s1
      let s3 := (s2.busPut q b.maxeA (fs.flatMap (fun f => leBytes 2 f.maxe))).1
      let s4 := if b.hdrEn then (s3.busPut q b.hdrA (fs.flatMap (fun f => f.header))).1 else s3
      let s5 := (s4.busPut q b.statA (b.status fs s.tide.delivered)).1
      let s6 := if b.carryIn then (s5.busPut q b.carryA (leBytes 8 (s5.num b.carryA 8 % 2 ^ 63))).1 else s5
      let nfs := b.known.filter (fun f => f.nf)
      let s7 := s6.incFld F.GRE_CNT_BLOCKS_VALUE fs.length
      let s8 := match nfs with
        | [] => s7
        | f :: _ => ((s7.incFld F.GRE_CNT_NF_BLOCKS_VALUE nfs.length).set1 F.GRE_STATUS_NONFINITE).logDeliv srcGRE 0x0A05 true
            [(2, b.chan), (4, b.seq), (2, nfs.length), (2, f.block)]
      let s9 := s8.greCounted b
      .next (if b.tokenWaits then
          s9.setBuckets b.chan (s9.gre.buckets.map (fun x => if x.ord = b.ord then { b with done := some s.tide.delivered } else x))
        else s9.greFinish b b.flags)

/-- A started bucket made no progress for STALL_TIDES tides (R346). -/
def execGreStall (c : Fin 256) (s : State) : Host.Outcome State Fault Refusal :=
  let lim := s.fld F.GRE_CTL_STALL_TIDES
  match (s.bucketsOf c).find? (fun b => b.started && lim != 0 && decide (lim ≤ b.quiet)) with
  | none => .next s
  | some b =>
    .next (((s.set1 F.GRE_STATUS_STALL).logDeliv srcGRE 0x0A08 true [(1, b.chan), (4, b.seq), (1, b.quiet)]).greChanError c 3 0
      b.seq)

end Sys2Proof.Machine
end

