-- ==== Sys2Proof/Machine/Delivery.lean ====
section
/-! DEFINITION. The delivery of taken tides to their consumers (R21, R39): the tile sequencers with their wait timeouts and
the census (R92, R95, R152), the reduction engine (R346, R347), the power controller (R383, R388, R390) and the event
messages of the next tide (R408). -/
namespace Sys2Proof.Machine

/-- Waits of a tile count a delivered tide (R92), and its event counters count it (R95, code 0x11). -/
def State.tileTide (s : State) (t : Nat) : State :=
  (List.range 8).foldl (fun s st =>
    if s.stState t st = stWAITTOKEN then
      s.setStream t st { s.stream t st with waitTides := (s.stream t st).waitTides + 1 }
    else s) (s.countEv t 0x11 8 1)

/-- The reduction engine at a delivered tide: a contribution whose deadline it is and that is not ready has missed it (R347),
and started buckets count a tide without progress (R346). -/
def State.greTide (s : State) (d : Nat) : State :=
  { s with gre := { s.gre with buckets := s.gre.buckets.map (fun b =>
    let b1 := if b.deadline ≠ 0 ∧ b.deadline ≤ d ∧ b.ready = false then { b with missed := true } else b
    if b.started then { b1 with quiet := b1.quiet + 1 } else b1) } }

/-- One tide delivered to every consumer. -/
def State.deliverTide (s : State) (d : Nat) : State :=
  let s1 := { s with tide := { s.tide with delivered := d }, host := { s.host with sentTide := [] } }
  (((List.range 144).foldl (fun s t => s.tileTide t) s1).greTide d |>.pwrTide d).flushVectors

/-- A tile's census counts go into the snapshot registers and start again from 0 (R152). -/
def State.censusSnap (s : State) (t stamp : Nat) : State :=
  let s1 := (List.range 10).foldl (fun s f =>
    ((s.setFld (F.VXE_CENSUS_CONV_CONV t f) (s.censusCount t f 0)).setFld (F.VXE_CENSUS_SAT_SAT t f)
      (s.censusCount t f 1)).setFld (F.VXE_CENSUS_VANISH_VANISH t f) (s.censusCount t f 2))
    (s.setFld (F.VXE_CENSUS_TIDE_TIDE t) stamp)
  { s1 with census := s1.census.filter (fun p => decide (p.1 / 64 ≠ t)) }

/-- The tides `first` to `last` delivered in ascending order (R39), the census snapshot taken once (R152). -/
def State.deliverTides (s : State) (first last : Nat) : State :=
  let s1 := (List.range (last + 1 - first)).foldl (fun s k => s.deliverTide (first + k)) s
  (List.range 144).foldl (fun s t => s.censusSnap t (last - 1)) s1

/-- Tides taken reach the consumers (R21). -/
def execTideDelivery (time : Nat) (s : State) : Host.Outcome State Fault Refusal :=
  let s0 := s.tideNow time
  match s0.tide.deliv with
  | [] => .next s0
  | x :: xs => .next (({ s0 with tide := { s0.tide with deliv := xs } }).deliverTides x.first x.last)

end Sys2Proof.Machine
end

