-- ==== Sys2Proof/Machine/StreamEvt.lean ====
section
/-! DEFINITION. The end of a stream's drain (R61, R62) and of its wait for queue space (R82). -/
namespace Sys2Proof.Machine

/-- What a fencing instruction does once it issues, and where it issues (R61). -/
def fencedBody : Instr → Option (Iss × (State → State))
  | .tokWait i a => some (i, fun s => s.tokWaitBody i a)
  | .frameOpen i a => some (i, fun s => s.frameOpenBody i a false)
  | .frameOpenA i a => some (i, fun s => s.frameOpenBody i a true)
  | .mma i a => some (i, fun s => s.postBody i (.mma i a) a.sa .mxa 3 false)
  | .mmaLoads i a => some (i, fun s => s.postBody i (.mmaLoads i a) a.sa .mxa 2 false)
  | .mmaEw i a => some (i, fun s => s.postBody i (.mmaEw i a) a.sa .mxa 4 false)
  | .mmaMp i a => some (i, fun s => s.postBody i (.mmaMp i a) a.sa .mxa 3 false)
  | .spMm i a => some (i, fun s => s.postBody i (.spMm i a) a.sa .spe 3 true)
  | .spSpgemm i a => some (i, fun s => s.postBody i (.spSpgemm i a) a.sa .spe 4 false)
  | .spMerge i a => some (i, fun s => s.postBody i (.spMerge i a) a.sa .spe 2 false)
  | .spHarrow i a => some (i, fun s => s.postBody i (.spHarrow i a) a.sa .spe 4 true)
  | .spSort i a => some (i, fun s => s.postBody i (.spSort i a) a.sa .spe 1 false)
  | .lxCopy i a => some (i, fun s => s.postBody i (.lxCopy i a) a.sa .lxe 3 false)
  | .lxCvt i a => some (i, fun s => s.postBody i (.lxCvt i a) a.sa .lxe 3 false)
  | .lxWin i a => some (i, fun s => s.postBody i (.lxWin i a) a.sa .lxe 4 false)
  | .lxPrune i a => some (i, fun s => s.postBody i (.lxPrune i a) a.sa .lxe 2 false)
  | .lxGather i a => some (i, fun s => s.postBody i (.lxGather i a) a.sa .lxe 4 false)
  | .lxScat i a => some (i, fun s => s.postBody i (.lxScat i a) a.sa .lxe 4 false)
  | .lxFp64s i a => some (i, fun s => s.postBody i (.lxFp64s i a) a.sa .lxe 3 false)
  | .lxFill i a => some (i, fun s => s.postBody i (.lxFill i a) a.sa .lxe 2 false)
  | .qPost i a => some (i, fun s => s.postBody i (.qPost i a) a.sa .post 3 false)
  | .grPost i a => some (i, fun s => s.postBody i (.grPost i a) a.sa .post 2 false)
  | _ => none

/-- A draining stream whose vector results have all landed goes on: the fencing instruction issues, or the stream halts
(R61, R62, R65). -/
def execFenceDrainEnd (p : StreamAt) (s : State) : Host.Outcome State Fault Refusal :=
  if s.stState p.t p.st ≠ stFENCE then .next s
  else
    let s0 := s.advance p.t p.ac
    if !s0.drained p.t p.st then .next s0
    else match (s0.stream p.t p.st).drain with
      | some (.halt r) => .next (s0.haltNow p.t p.st r)
      | some (.insn c) => match fencedBody c with
        | some b => .next (b.2 ((s0.setStream p.t p.st { s0.stream p.t p.st with drain := none }).countIssue p.t p.st))
        | none => .next s0
      | _ => .next s0

/-- A stream waiting in WAIT_QUEUE finds space: its command is copied into the queue and the stream goes on (R82). -/
def execQueueSpaceFree (p : StreamAt) (s : State) : Host.Outcome State Fault Refusal :=
  if s.stState p.t p.st ≠ stWAITQUEUE then .next s
  else
    let s0 := s.advance p.t p.ac
    match (s0.stream p.t p.st).waitInsn.bind fencedBody with
    | some b =>
      let s1 := b.2 s0
      .next (if s1.stState p.t p.st = stWAITQUEUE then s0 else s1)
    | none => .next s0

end Sys2Proof.Machine
end

