-- ==== Sys2Proof/Machine/Boot.lean ====
section
/-! DEFINITION. The flash as the ROM and the firmware use it: programming and erasing, the boot control record (R431), images
and their checks (R427 to R429), the factory record's checks (R435, R436), the settings record (R440), the ROM's boot (R432,
R433), and event records written by firmware (R446, R452). -/
namespace Sys2Proof.Machine

/-! ## Flash -/

/-- A little-endian number in the flash. -/
def State.flashNum (s : State) (o n : Nat) : Nat := leNat (s.flashBytes o n)

/-- The bytes of a range erased. -/
def State.flashErase (s : State) (o n : Nat) : State :=
  { s with flash := s.flash.filter (fun p => !(decide (o ≤ p.1) && decide (p.1 < o + n))) }

/-- Bytes programmed: programming clears bits only. -/
def State.flashProgram (s : State) (o : Nat) (bs : List Byte) : State :=
  { s with flash := bs.zipIdx.foldl (fun m b =>
    Store.put (fun _ => 0xFF) m (o + b.2) (Store.get (fun _ => 0xFF) m (o + b.2) &&& b.1)) s.flash }

/-- A record written to the start of its 64 KiB sector: the sector is erased first. -/
def State.flashSector (s : State) (o : Nat) (bs : List Byte) : State := (s.flashErase o 0x10000).flashProgram o bs

/-- Sequence number `a` is newer than `b`, modulo 2^32 (R431). -/
def newerSeq (a b : Nat) : Bool := decide (0 < idxDiff a b) && decide (idxDiff a b < 2 ^ 31)

/-- Of two copies with their validity and sequence numbers, the one of greater sequence; of equals copy 0. -/
def pickCopy (ok0 ok1 : Bool) (seq0 seq1 : Nat) : Option Nat :=
  if ok0 && ok1 then some (if newerSeq seq1 seq0 then 1 else 0)
  else if ok0 then some 0 else if ok1 then some 1 else none

/-! ## The boot control record (R431) -/

/-- The fields of the boot control record, SEQ apart. -/
structure BootRec where
  active : Nat
  trial  : Nat
  slot   : Nat
  reason : Nat
  floor  : Nat
  starts : Nat
  deriving DecidableEq, Repr

/-- A copy of the boot control record is valid. -/
def State.bootValid (s : State) (i : Nat) : Bool :=
  let o := 0x10000 * i
  s.flashNum o 4 == 0x43425A43 && s.flashNum (o + 4) 2 == 1 && s.flashNum (o + 0x3C) 4 == crc32c (s.flashBytes o 0x3C)

/-- SEQ of a copy. -/
def State.bootSeq (s : State) (i : Nat) : Nat := s.flashNum (0x10000 * i + 8) 4

/-- The copy that is current. -/
def State.bootCopy (s : State) : Option Nat := pickCopy (s.bootValid 0) (s.bootValid 1) (s.bootSeq 0) (s.bootSeq 1)

/-- The current record; without one ACTIVE 0, TRIAL NONE, FLOOR 0. -/
def State.bootRec (s : State) : BootRec :=
  match s.bootCopy with
  | none => { active := 0, trial := 0, slot := 0, reason := 0, floor := 0, starts := 0 }
  | some i =>
    let o := 0x10000 * i
    { active := s.flashNum (o + 0x0C) 1, trial := s.flashNum (o + 0x0D) 1, slot := s.flashNum (o + 0x0E) 1
      reason := s.flashNum (o + 0x0F) 1, floor := s.flashNum (o + 0x10) 4, starts := s.flashNum (o + 0x14) 4 }

/-- The first 60 bytes of a record; unlisted ones are zero. -/
def BootRec.body (r : BootRec) (seq : Nat) : List Byte :=
  leBytes 4 0x43425A43 ++ leBytes 4 1 ++ leBytes 4 seq ++ leBytes 1 r.active ++ leBytes 1 r.trial ++ leBytes 1 r.slot
    ++ leBytes 1 r.reason ++ leBytes 4 r.floor ++ leBytes 4 r.starts ++ List.replicate 36 0

/-- The record written to the copy that is not current, SEQ raised by 1 (the first record of all has SEQ 1, log entry 71). -/
def State.bootWrite (s : State) (r : BootRec) : State :=
  let c := s.bootCopy
  let seq := match c with
    | some i => (s.bootSeq i + 1) % 2 ^ 32
    | none => 1
  let b := r.body seq
  s.flashSector (0x10000 * (match c with
    | some i => 1 - i
    | none => 0)) (b ++ leBytes 4 (crc32c b))

/-- TRIAL's values. -/
def trNONE : Nat := 0
def trPENDING : Nat := 1
def trRUNNING : Nat := 2

/-! ## Images (R427 to R429) -/

/-- Where a slot begins (R426). -/
def slotBase (k : Nat) : Nat := if k = 0 then 0x400000 else 0x2000000

/-- The bytes of a slot. -/
def slotBytes : Nat := 0x1C00000

/-- A header field of the image in a slot. -/
def State.img (s : State) (k o n : Nat) : Nat := s.flashNum (slotBase k + o) n

/-- The header's checks: the FAIL_STAGE of the first that fails (R447), 0 where none does. A BLOCKS outside its range counts
as a format error (log entry 72). -/
def State.imgHead (s : State) (k floor : Nat) : Nat :=
  let b := slotBase k
  if s.img k 0 4 ≠ 0x57465A43 ∨ s.img k 4 2 ≠ 1 ∨ s.img k 0x10 4 < 1 ∨ 447 < s.img k 0x10 4 then 1
  else if crc32c (s.flashBytes b 0x1C ++ List.replicate 4 0 ++ s.flashBytes (b + 0x20) 0xFE0) ≠ s.img k 0x1C 4 then 2
  else if 1 < s.img k 6 1 then 3
  else if s.img k 0x0C 4 < floor then 4
  else 0

/-- Payload block `i` of a slot has its CRC. -/
def State.imgBlockOk (s : State) (k i : Nat) : Bool :=
  crc32c (s.flashBytes (slotBase k + 0x10000 * i) 0x10000) == s.img k (0x400 + 4 * (i - 1)) 4

/-- The image digest (R429). -/
def State.imgDigest (s : State) (k : Nat) : List Byte :=
  sha3 (s.flashBytes (slotBase k) 0x1000 ++ s.flashBytes (slotBase k + 0x10000) (0x10000 * s.img k 0x10 4))

/-- The component table meets R428. -/
def State.imgTable (s : State) (k : Nat) : Bool :=
  let e (j o n : Nat) : Nat := s.img k (0x40 + 16 * j + o) n
  let limit (i : Nat) : Nat := match i with
    | 1 => 12582912
    | 2 => 2097152
    | 3 => 262144
    | _ => 78
  s.img k 0x18 2 == 4
    && [1, 2, 3, 4].all (fun i => ((List.range 4).filter (fun j => e j 0 2 == i)).length == 1)
    && (List.range 4).all (fun j => e j 2 2 == 0 && decide (e j 12 4 ≤ limit (e j 0 2)) && (e j 0 2 != 4 || e j 12 4 == 78))
    && (List.range 28).all (fun j => e (j + 4) 0 16 == 0)

/-- An image's checks (R429): the FAIL_STAGE and the block of the first that fails; stage 0 where the image is valid. -/
def State.imgCheck (s : State) (k floor : Nat) : Nat × Nat :=
  let h := s.imgHead k floor
  if h ≠ 0 then (h, 0)
  else match ((List.range (s.img k 0x10 4)).map (fun i => i + 1)).find? (fun i => !s.imgBlockOk k i) with
    | some i => (5, i)
    | none =>
      if !Config.sigValid (s.img k 6 1) (leNat (s.imgDigest k)) (s.flashBytes (slotBase k + 0x1000) 4627) then (6, 0)
      else if !s.imgTable k then (7, 0)
      else (0, 0)

/-! ## The factory record (R435, R436) -/

/-- A byte of the spare-tile map. -/
def State.spare (s : State) (d j : Nat) : Nat := s.flashNum (0x20040 + 4 * d + j) 1

/-- A voltage of the factory record. -/
def State.facVf (s : State) (d i : Nat) : Nat := s.flashNum (0x20050 + 172 * d + 2 * i) 2

/-- The first check of the factory record that fails: 1 signature, 2 VERSION, 3 SPARE_MAP, 4 VF; 0 where none does. -/
def State.facCheck (s : State) : Nat :=
  if !Config.sigValid 2 (leNat (sha3 (s.flashBytes 0x20000 0x2000))) (s.flashBytes 0x22000 4627) then 1
  else if s.flashNum 0x20004 2 < s.fw.facMin then 2
  else if (List.range 4).any (fun d =>
      (List.range 4).any (fun j => decide (40 ≤ s.spare d j) || (List.range j).any (fun i => s.spare d i == s.spare d j))) then 3
  else if (List.range 4).any (fun d => (List.range 86).any (fun i => s.facVf d i == 0)) then 4
  else 0

/-- The tile maps of the die controllers programmed from the spare-tile map (R4, R434). -/
def State.loadTileMap (s : State) : State :=
  (List.range 4).foldl (fun s d =>
    (((List.range 40).foldl (fun (x : State × Nat) p =>
      let q := 40 * d + p
      if (List.range 4).any (fun j => x.1.spare d j == p) then
        ((x.1.setFld (F.DIAG_PTILE_LOGICAL q) 0xFF).setFld (F.DIAG_PTILE_ENABLED q) 0, x.2)
      else ((x.1.setFld (F.DIAG_PTILE_LOGICAL q) (36 * d + x.2)).setFld (F.DIAG_PTILE_ENABLED q) 1, x.2 + 1)) (s, 0)).1)) s

/-- PWR_VF loaded from the factory record (R369). -/
def State.loadVf (s : State) : State :=
  (List.range 4).foldl (fun s d => (List.range 86).foldl (fun s i => s.setFld (F.PWR_VF_MV d i) (s.facVf d i)) s) s

/-! ## Settings records (R440, R441) -/

/-- Where a copy of the settings record begins. -/
def settBase (i : Nat) : Nat := 0x60000 + 0x10000 * i

/-- LENGTH of a copy, as far as its sector reaches. -/
def State.settLen (s : State) (i : Nat) : Nat := min (s.flashNum (settBase i + 0x0C) 4) 0xFFE0

/-- A copy is valid and its VERSION known to the image. -/
def State.settValid (s : State) (i : Nat) : Bool :=
  let o := settBase i
  s.flashNum o 4 == 0x54535A43 && decide (s.flashNum (o + 4) 2 ≤ s.fw.settVer)
    && s.flashNum (o + 0x10) 4
      == crc32c (s.flashBytes o 0x10 ++ List.replicate 4 0 ++ s.flashBytes (o + 0x14) (0x0C + s.settLen i))

/-- SEQ and VERSION of a copy. -/
def State.settSeq (s : State) (i : Nat) : Nat := s.flashNum (settBase i + 8) 4
def State.settVersion (s : State) (i : Nat) : Nat := s.flashNum (settBase i + 4) 2

/-- The copy firmware takes. -/
def State.settCopy (s : State) : Option Nat := pickCopy (s.settValid 0) (s.settValid 1) (s.settSeq 0) (s.settSeq 1)

/-- A copy written: its three register images under a VERSION and SEQ. -/
def State.settWrite (s : State) (i ver seq : Nat) (pwr mem scrub : Nat) : State :=
  let a := leBytes 4 0x54535A43 ++ leBytes 4 ver ++ leBytes 4 seq ++ leBytes 4 24
  let z := List.replicate 12 (0 : Byte) ++ leBytes 8 pwr ++ leBytes 8 mem ++ leBytes 8 scrub
  s.flashSector (settBase i) (a ++ leBytes 4 (crc32c (a ++ List.replicate 4 0 ++ z)) ++ z)

/-- A register image of a copy; a copy too short to hold it gives none. -/
def State.settImage (s : State) (i o : Nat) : Option Nat :=
  if o + 8 ≤ s.settLen i then some (s.flashNum (settBase i + 0x20 + o) 8) else none

/-! ## The ROM (R432, R433) -/

/-- The outcome of a boot: the slot booted (none: recovery), the first image that failed with its stage and block. -/
structure Booted where
  slot  : Option Nat
  stage : Nat
  block : Nat
  deriving DecidableEq, Repr

/-- load_and_verify of the chosen slot and, if it fails, of the other. -/
def State.bootSlots (s : State) (slot : Nat) : State × Booted :=
  let f := s.bootRec.floor
  let a := s.imgCheck slot f
  if a.1 = 0 then (s, ⟨some slot, 0, 0⟩)
  else
    let other := 1 - slot
    let r := s.bootRec
    let s1 := s.bootWrite { r with trial := if r.trial = trRUNNING then trNONE else r.trial, reason := 2, active := other }
    ((s1, ⟨if (s1.imgCheck other f).1 = 0 then some other else none, a.1, a.2⟩))

/-- The measurements cleared, then set by the ROM (R433, R436, R443). -/
def State.romMeasure (s : State) (slot : Option Nat) : State :=
  let s1 := (List.range 8).foldl (fun s i => s.setMeas i (List.replicate 64 0)) s
  let s2 := match slot with
    | some k => s1.setMeas 0 (s1.imgDigest k)
    | none => s1
  s2.setMeas 1 (sha3 (s2.flashBytes 0x20000 0x2000))

/-- The component table's entry with an ID: a field of it. -/
def State.imgPart (s : State) (k id o n : Nat) : Nat :=
  match (List.range 4).find? (fun j => s.img k (0x40 + 16 * j) 2 == id) with
  | some j => s.img k (0x40 + 16 * j + o) n
  | none => 0

/-- The level table of the image in a slot: 39 entries of MHz, at the component's OFFSET from payload block 1 (R428). -/
def State.imgLevel (s : State) (k : Nat) : List Nat :=
  (List.range 39).map (fun i => s.flashNum (slotBase k + 0x10000 + s.imgPart k 4 8 4 + 2 * i) 2)

/-- What the ROM leaves for the firmware: the trial timer, the watchdog, the components in their targets, the released management
processor with the image it runs (R433, R455). -/
def State.romRelease (s : State) (k : Nat) : State :=
  let r := s.bootRec
  let trial := decide (r.trial = trRUNNING) && r.slot == k
  let s1 := (s.setFld F.MGP_TRIAL_ARMED (b2n trial)).setFld F.MGP_TRIAL_REMAIN_MS (if trial then 120000 else 0)
  let s2 := ((s1.setFld F.MGP_WDT_TIMEOUT_MS 1000).setFld F.MGP_WDT_REMAIN_MS 1000).set1 F.MGP_WDT_EN
  { s2 with fw := { s2.fw with
      released := true, ver := s2.img k 8 4, svn := s2.img k 0x0C 4, settVer := s2.img k 0x14 2, facMin := s2.img k 0x16 2
      parts := [1, 2, 3, 4].map (fun id => s2.imgPart k id 4 4), level := s2.imgLevel k, trialAt := s2.tide.now } }

/-- The ROM's boot: the slot chosen, the record updated, the image verified, the management processor released; without a
valid slot recovery, which releases nothing and disarms the trial timer (R432, R433, R447). The die and port controllers stay held until
the firmware reloads them (R434). -/
def State.romBoot (s : State) : State :=
  let rebuilt := s.bootCopy.isNone
  let r := s.bootRec
  let was := decide (r.trial = trRUNNING)
  let slot := if r.trial = trPENDING then r.slot else r.active
  let s1 := s.bootWrite { r with
    starts := (r.starts + 1) % 2 ^ 32, trial := if r.trial = trPENDING then trRUNNING else trNONE
    reason := if was then 1 else r.reason }
  let b := s1.bootSlots slot
  let s2 := b.1
  let fell := was || b.2.stage != 0
  let status := match b.2.slot with
    | none => 2
    | some _ => if b.2.stage ≠ 0 then 1 else if rebuilt then 3 else 0
  let s3 := (((s2.setReg R.MGP_BOOT 0).setFld F.MGP_BOOT_SLOT (b.2.slot.getD 0)).setFld F.MGP_BOOT_TRIAL s2.bootRec.trial).setFld
    F.MGP_BOOT_FALLBACK (b2n fell)
  let s4 := ((s3.setFld F.MGP_BOOT_ROM_STATUS status).setFld F.MGP_BOOT_FAIL_STAGE b.2.stage).setFld F.MGP_BOOT_FAIL_BLOCK b.2.block
  let s5 := s4.romMeasure b.2.slot
  match b.2.slot with
  | some k => s5.romRelease k
  | none =>
    { ((s5.setFld F.MGP_WDT_EN 0).setFld F.MGP_TRIAL_ARMED 0).setFld F.MGP_TRIAL_REMAIN_MS 0 with
      fw := { s5.fw with released := false, kind := 0 } }

/-! ## Event records of the firmware (R446, R452) -/

/-- Firmware writes its records one by one: a source whose buffer is full gives its oldest record up to the event unit. -/
def State.roomFor (s : State) (src : Nat) : State :=
  let mine := s.evt.waiting.filter (fun p => p.1 == src)
  match mine with
  | p :: _ =>
    if 4 ≤ mine.length then { s with evt := { s.evt with waiting := s.evt.waiting.erase p } }.acceptRec p.2 else s
  | [] => s

/-- A record written by firmware through EVT_SW (R452): FW set, the present count. -/
def State.fwLog (s : State) (src code : Nat) (host : Bool) (detail : List (Nat × Nat)) : State :=
  let s0 := s.roomFor src
  let flags := b2n host + 2 * s0.fld F.EVT_STATUS_REPLAY_RUN + 4
  let s1 := (s0.arise src (mkRecord s0.count src code flags (packDetail detail 0))).noteTrigger code s0.count
  if host then s1.signal (32 + code / 256 % 16) else s1

/-- A reset completes (R422). -/
def State.resetDone (s : State) (kind where' : Nat) : State :=
  (((s.set1 F.MBX_HOST_RESET_DONE).setFld F.MBX_HOST_LAST_RESET kind).roomFor srcMBX).logDev srcMBX 0x0D06 true
    [(1, kind), (1, where')]

end Sys2Proof.Machine
end

