-- ==== Sys2Proof/Machine/Jobs.lean ====
section
/-! DEFINITION. The commands of the mailboxes as firmware carries them out (R415, R416, R240, R436, R437, R439, R445), with the
job, tile and port resets they ask for (R419, R420). -/
namespace Sys2Proof.Machine

/-! ## Requests and replies (R411, R415) -/

/-- Firmware's reply. -/
def State.fwReply (s : State) (c status detail : Nat) (payload : List Byte) : State := (s.mbReply c status detail payload).chDone c

/-- Reply OK without a payload. -/
def State.fwOk (s : State) (c : Nat) : State := s.fwReply c mbOK 0 []

/-- Reply INVALID; nothing is carried out. -/
def State.fwInvalid (s : State) (c detail : Nat) : State := s.fwReply c mbINVALID detail []

/-- Commands firmware carries out without a good factory record (R436). -/
def facFree (cmd : Nat) : Bool := [0x0001, 0x0002, 0x8001, 0x8002, 0x8003, 0x8004, 0x8010, 0x8030].contains cmd

/-- The commands firmware carries out (R415). -/
def fwKnows (cmd : Nat) : Bool :=
  [0x0001, 0x0002, 0x0003, 0x0010, 0x0011, 0x0012, 0x0020, 0x0021, 0x0022, 0x0030, 0x0031, 0x0032, 0x0033, 0x0034, 0x8001, 0x8002
  , 0x8003, 0x8004, 0x8010, 0x8020, 0x8021, 0x8022, 0x8030, 0x8040, 0x8041].contains cmd

/-- A request that firmware has taken is carried out: refused where it is not listed (R415), is poisoned or malformed (R453, R410), fails
its CRC (R411) or needs the factory record (R436). -/
def State.fwCmd (s : State) (c : Fin 24) (cmd : Nat) (body : State → State) : State :=
  if s.fld (F.MBX_CH_STATUS_RX_AGENT c) ≠ 1 ∨ s.fld (F.MBX_CH_STATUS_STATE c) ≠ chTAKEN ∨ !s.flag F.MBX_HOST_FW_READY then s
  else if !fwKnows (s.mbCmd c) then s.fwInvalid c 0
  else if s.mbCmd c ≠ cmd then s
  else if s.mbPoison c 0 (16 + min 1008 (s.mbLen c)) ∨ 1008 < s.mbLen c then s.fwInvalid c 0
  else if s.mbCrcEn c ∧ crc32c (s.mbPayload c) ≠ s.mbCrc c then s.fwReply c mbVERIFY 0 []
  else if s.fw.facBad ∧ !facFree cmd then s.fwInvalid c 0
  else body s

/-- A number in the request's payload. -/
def State.mbArg (s : State) (c o n : Nat) : Nat := leNat (s.mbBytes c (16 + o) n)

/-- The reply payload in which a firmware release returns values (log entry 51). -/
def fwLayout (cmd : Nat) (xs : List Nat) : List Byte := (Config.replyLayout cmd xs).take 1008

/-- The management processor as a requester. -/
def State.mgp (s : State) : Req := s.own srcMGP

/-! ## Register images -/

/-- The size of the register at an image's address: a route entry is 4 bytes. -/
def imageSize (a : Nat) : Nat := if 0x38002100000 ≤ a ∧ a < 0x38002200000 then 4 else 8

/-- Images written: none where an address is none of the command's registers, or the block refuses one of them (`err` is its
CFG_ERR). -/
def State.fwImages (s : State) (ok : Nat → Bool) (err : Field) (xs : List RegImage) : Option State :=
  if xs.any (fun x => !ok x.addr.toNat || x.addr.toNat % imageSize x.addr.toNat != 0) then none
  else
    let s1 := xs.foldl (fun s x => (s.busPut s.mgp x.addr.toNat (leBytes (imageSize x.addr.toNat) x.val.toNat)).1) (s.setFld err 0)
    if s1.flag err then none else some (if s.flag err then s1.set1 err else s1)

/-- A command that only writes images. -/
def State.fwConfig (s : State) (c : Nat) (ok : Nat → Bool) (err : Field) (xs : List RegImage) : State :=
  match s.fwImages ok err xs with
  | some s1 => s1.fwOk c
  | none => s.fwInvalid c 0

/-- Address ranges. -/
def inRanges (rs : List (Nat × Nat)) (a : Nat) : Bool := rs.any (fun r => decide (r.1 ≤ a) && decide (a < r.2))

def execChanConfig (c : Fin 24) (images : List RegImage) (s : State) : Host.Outcome State Fault Refusal :=
  .next (s.fwCmd c 0x0031 (fun s => s.fwConfig c (inRanges [(R.GRE_CHAN_CFG 0, R.GRE_CHAN_CFG 256)]) F.GRE_STATUS_CFG_ERR images))

def execTideConfig (c : Fin 24) (images : List RegImage) (time : Nat) (s : State) : Host.Outcome State Fault Refusal :=
  .next (s.fwCmd c 0x0032 (fun s =>
    (s.tideNow time).fwConfig c (inRanges [(R.TIDE_CTL, R.TIDE_CTL + 0x1000)]) F.TIDE_STATUS_CFG_ERR images))

def execFabricConfig (c : Fin 24) (images : List RegImage) (s : State) : Host.Outcome State Fault Refusal :=
  .next (s.fwCmd c 0x0033 (fun s => s.fwConfig c (fun a =>
    a == R.FAB_ID || inRanges [(R.FAB_ROUTE 0, R.FAB_ROUTE 65536)] a || (List.range 16).any (fun p => a == R.FAB_PORT_CFG p))
    F.FAB_STATUS_CFG_ERR images))

def execBudgetConfig (c : Fin 24) (images : List RegImage) (s : State) : Host.Outcome State Fault Refusal :=
  .next (s.fwCmd c 0x8021 (fun s => s.fwConfig c (inRanges
    [(R.PWR_GRP_CTL, R.PWR_GRP_CTL + 0x20), (R.PWR_GRP_MEMBER 0, R.PWR_GRP_MEMBER 256), (R.PWR_GRP_INBOX 0 0, R.PWR_GRP_MOVE 4)
    , (R.PWR_GRP_ACK 0, R.PWR_GRP_ACK 256)]) F.PWR_STATUS_CFG_ERR images))

/-! ## Queries -/

/-- Identity, versions, capacities, spare-tile count; without a good factory record no field of it. -/
def execQueryInfo (c : Fin 24) (s : State) : Host.Outcome State Fault Refusal :=
  .next (s.fwCmd c 0x0001 (fun s =>
    let fac := if s.fw.facBad then [] else [leNat (s.flashBytes 0x20010 16), leNat (s.flashBytes 0x20020 16), s.flashNum 0x20030 2, 16]
    s.fwReply c mbOK 0 (fwLayout 1
      ([s.fld F.FAB_ID_ID, s.fld F.MGP_BOOT_SLOT, s.fw.ver, s.fw.svn, 0x00861C468000, 0x009502F90000, 0x600000, 144] ++ fac))))

/-- Up to 31 records from a ring position: those the ring holds from it on, one after another (log entry 67). -/
def execQueryEvents (c : Fin 24) (pos : BitVec 32) (n : Nat) (s : State) : Host.Outcome State Fault Refusal :=
  .next (s.fwCmd c 0x0002 (fun s =>
    let rd := s.fld F.EVT_RD_RD
    let wr := s.fld F.EVT_WR_WR
    if 31 < n ∨ idxDiff wr rd < idxDiff pos.toNat rd then s.fwInvalid c 0
    else
      let m := min n (idxDiff wr pos.toNat)
      let size := 2 ^ s.fld F.EVT_CTL_LOG2
      let r := (List.range m).foldl (fun (r : State × List Byte) k =>
        let v := r.1.busRead r.1.mgp (r.1.fld F.EVT_RING_BASE_BASE + 32 * ((pos.toNat + k) % size)) 32
        (v.1, r.2 ++ v.2.1.map (fun b => b.1))) (s, [])
      r.1.fwReply c mbOK 0 r.2))

/-- Tide count, power state, stream states by tile. -/
def execQueryState (c : Fin 24) (s : State) : Host.Outcome State Fault Refusal :=
  .next (s.fwCmd c 0x0003 (fun s => s.fwReply c mbOK 0 (fwLayout 3 ([s.count, s.fld F.PWR_STATE_CUR] ++
    (List.range 144).flatMap (fun t => (List.range 8).map (fun st => s.stState t st))))))

/-! ## Allocations and tensor descriptors (R240) -/

/-- A placement lies in populated memory of its region (0 near, 1 deep, 2 a tile's memory) and meets no allocation. -/
def State.placeOk (s : State) (region p size : Nat) : Bool :=
  let e := p + size - 1
  (match region, regionOf p, regionOf e with
    | 0, .near, .near => true
    | 1, .deep, .deep => true
    | 2, .tile a, .tile b => a == b
    | _, _, _ => false)
  && populated p && populated e && s.fw.allocs.all (fun x => decide (x.2.1 + x.2.2 ≤ p) || decide (p + size ≤ x.2.1))

/-- ALLOC: `place` is where firmware finds room, none where its tables or the region are full. -/
def execAlloc (c : Fin 24) (region : Fin 3) (size : Nat) (place : Option Nat) (s : State) : Host.Outcome State Fault Refusal :=
  .next (s.fwCmd c 0x0010 (fun s =>
    if size = 0 then s.fwInvalid c 0
    else match place with
      | none => s.fwReply c mbNOSPACE 0 []
      | some p =>
        if !s.placeOk region p size then s.fwReply c mbNOSPACE 0 []
        else
          let h := s.fw.handle + 1
          ({ s with fw := { s.fw with allocs := s.fw.allocs ++ [(h, p, size)], handle := h } }).fwReply c mbOK 0 (fwLayout 0x10 [h, p])))

def execFree (c : Fin 24) (handle : BitVec 32) (s : State) : Host.Outcome State Fault Refusal :=
  .next (s.fwCmd c 0x0011 (fun s =>
    if s.fw.allocs.any (fun x => x.1 == handle.toNat) then
      ({ s with fw := { s.fw with allocs := s.fw.allocs.filter (fun x => x.1 != handle.toNat) } }).fwOk c
    else s.fwInvalid c 0))

/-- A descriptor image and a window block as a command whose source is the image. -/
def tensorCmd (image window : List (BitVec 64)) : QCmd :=
  { c := .jobResetComplete
    desc := List.replicate 64 0 ++ ((image ++ List.replicate 8 0).take 8).flatMap (fun (w : BitVec 64) => leBytes 8 w.toNat)
      ++ List.replicate 64 0 ++ (window ++ List.replicate 8 0).flatMap (fun (w : BitVec 64) => leBytes 8 w.toNat)
    bad := [], ac := 0 }

/-- A tensor's element type code is valid (R243). -/
def tensorTypeOk (e : Nat) : Bool := decide (e ≤ 0x10)

/-- The footprint lies within the allocation named (R240, check 1). -/
def State.tensorIn (s : State) (c : QCmd) (windowed : Bool) : Bool :=
  match s.fw.allocs.find? (fun x => x.1 == c.bits 15 32 32) with
  | none => false
  | some x =>
    let base := s.fld F.FAB_ID_ID * 2 ^ 48 + x.2.1
    let u := (lxUnit (c.ety 1)).1
    if windowed then
      (c.pat 1).addrs.zipIdx.all (fun a => !c.winIn a.2 || (decide (base ≤ a.1) && decide (a.1 + u ≤ base + x.2.2)))
    else match c.foot 1 0 with
      | none => true
      | some f => decide ((base : Int) ≤ f.1) && decide (f.2 < ((base + x.2.2 : Nat) : Int))

/-- The first check of R240 that fails, 0 where none does. Without a valid ETYPE there is no unit size to judge 1 and 2 by. -/
def State.tensorCheck (s : State) (c : QCmd) (windowed : Bool) : Nat :=
  if !tensorTypeOk (c.ety 1) then 3
  else if !s.tensorIn c windowed then 1
  else if !c.lxAligned 1 then 2
  else if 6 < c.rank 1 ∨ ((c.pat 1).lv.drop (c.rank 1)).any (fun l => l.1 != 1) then 4
  else 0

/-- TENSOR_CREATE: the descriptor's 64 bytes go to a hall address once its checks hold. An empty `window` is none. -/
def execTensorCreate (c : Fin 24) (image window : List (BitVec 64)) (dest : BitVec 64) (s : State) :
    Host.Outcome State Fault Refusal :=
  .next (s.fwCmd c 0x0012 (fun s =>
    let q := tensorCmd image window
    let r := if image.length ≠ 8 then 0 else s.tensorCheck q (!window.isEmpty)
    if image.length ≠ 8 ∨ r ≠ 0 then s.fwInvalid c r
    else
      let bs := image.flatMap (fun (w : BitVec 64) => leBytes 8 w.toNat)
      if s.hereAt dest.toNat then
        let v := s.busPut s.mgp (dest.toNat % 2 ^ 48) bs
        if v.2 = 0 then v.1.fwOk c else v.1.fwInvalid c 0
      else
        ((remotePieces 2 (dest.toNat % 2 ^ 48) bs).foldl (fun s p => s.fabSend ({ FabPkt.blank with
          opc := 0x02, dst := BitVec.ofNat 16 (dest.toNat / 2 ^ 48), addr := BitVec.ofNat 48 p.1
          unit := BitVec.ofNat 16 srcMGP }.carry (p.2.map (fun b => (b, false)))) .none) s).fwOk c))

/-! ## Jobs (R415) -/

/-- What JOB_START writes to one tile; none where its start is refused. -/
def State.jobTile (s : State) (j : JobTile) : Option State :=
  let s1 := j.pcs.foldl (fun (s : State) p => (s.busPut s.mgp (R.TSQ_STREAM_START j.t p.1) (leBytes 8 p.2.toNat)).1) s
  let s2 := j.cfgs.foldl (fun (s : State) p => (s.busPut s.mgp (R.TSQ_STREAM_CFG j.t p.1) (leBytes 8 p.2.toNat)).1) s1
  if s2.startRefused j.t j.mask.toNat then none else some (s2.start j.t j.mask.toNat)

def execJobStart (c : Fin 24) (tiles : List JobTile) (s : State) : Host.Outcome State Fault Refusal :=
  .next (s.fwCmd c 0x0020 (fun s =>
    match tiles.foldl (fun (r : Option State) j => r.bind (fun s => s.jobTile j)) (some s) with
    | some s1 => s1.fwOk c
    | none => s.fwInvalid c 0))

/-! ## Job, tile and port resets (R419, R420, R423) -/

/-- Steps 1 and 2 on a tile: its streams stop without a drain, its queues are emptied, commands in progress are abandoned. A value on its
way to the tile arrives while it is in reset, and is discarded (R420). -/
def State.stopTile (s : State) (t : Nat) : State :=
  let s1 := (List.range 8).foldl (fun s st => (s.setStream t st StreamHid.init).setStState t st stIDLE) s
  let s2 := s1.setTile t { s1.tile t with
    tokPend := [], tokNext := [], vev := [], mxaQ := [], lxeQ := [], postQ := [], speQ := [], postOut := [] }
  let s3 := (List.range 2).foldl (fun s e => s.setEng t e EngHid.init) s2
  let s4 := (s3.setMxau t { s3.mxau t with run := [] }).setSpeRun t none
  { s4 with
    lxe := s4.lxe.filter (fun p => p.1 != t)
    linkFly := s4.linkFly.filter (fun v => v.1 != t)
    fab := { s4.fab with reqs := s4.fab.reqs.map (fun r =>
      match r.cl with
      | .lxeRead u _ _ _ _ => if u = t then { r with cl := .none } else r
      | .lxeWrite u _ _ => if u = t then { r with cl := .none } else r
      | _ => r) } }

/-- Registers of a tile that its reset keeps: MXA_CTL.RAMP_LEN, SPE_CTL.THRESH, VXE_CENSUS_CTL.EN (R423). -/
def keptOfTile (o : Nat) : Bool := o == 0x100000 || o == 0x500000 || o == 0x200000

/-- Step 6 on a tile: the settings marked D return to their reset values. The tile goes on seeing the tide count. -/
def State.clearTile (s : State) (t : Nat) : State :=
  let not' (n : Nat) (k : Nat) : Bool := k / n != t
  let s1 : State := { s with
    regs := s.regs.filter (fun p => !(decide (0x30000000000 ≤ p.1) && decide (p.1 < 0x30048000000)
      && (p.1 - 0x30000000000) / 0x800000 == t && !keptOfTile ((p.1 - 0x30000000000) % 0x800000)))
    strm := s.strm.filter (fun p => not' 8 p.1)
    vregs := s.vregs.filter (fun p => not' 128 p.1), mregs := s.mregs.filter (fun p => not' 32 p.1)
    engs := s.engs.filter (fun p => not' 2 p.1), ftq := s.ftq.filter (fun p => not' 2 p.1)
    mxa := s.mxa.filter (fun p => not' 1 p.1), acc := s.acc.filter (fun p => not' 131072 p.1)
    sfu := s.sfu.filter (fun p => not' 1 p.1), sfuMem := s.sfuMem.filter (fun p => not' 0x11000 p.1)
    spe := s.spe.filter (fun p => not' 1 p.1), cam := s.cam.filter (fun p => not' 4096 p.1)
    lxe := s.lxe.filter (fun p => not' 1 p.1), census := s.census.filter (fun p => not' 64 p.1) }
  s1.setTile t { TileHid.init with seen := s.tide.delivered }

/-- Steps 3 and 4: the queues from 1024 up and every channel disabled; their requests' answers will be discarded. -/
def State.stopJob (s : State) : State :=
  let s1 := (List.range 144).foldl (fun s t => s.stopTile t) s
  let s2 : State := s1.que.q.foldl (fun s (x : Nat × Option Queue) =>
    match x.2 with
    | some y => if 1024 ≤ x.1 then s.queueClose x.1 y else s.setQueue x.1 (some { y with pays := [] })
    | none => s) s1
  let s3 := { s2 with fab := { s2.fab with reqs := s2.fab.reqs.map (fun (r : FabReq) =>
    match r.cl with
    | .queue q _ _ _ => if 1024 ≤ q then { r with cl := .none } else r
    | _ => r) } }
  let s4 := { s3 with gre := { s3.gre with buckets := [] } }.setFld F.GRE_STATUS_OUTSTANDING 0
  (List.range 256).foldl (fun s c => ((s.setFld (F.GRE_CHAN_CFG_EN c) 0).setFld (F.GRE_CHAN_STATE_STATE c) 0).setFld
    (F.GRE_CHAN_STATE_OUTSTANDING c) 0) s4

/-- The compute dies lose their rails (R379) or are held powered down (R436): every tile stops, and what its registers held is gone. -/
def State.diesDown (s : State) : State :=
  ((List.range 144).foldl (fun s t => (s.stopTile t).clearTile t) s).setRails (fun _ => 0)

/-- Step 6 of a job reset. Of the tide unit nothing is cleared: every TIDE_ register and the unit's record stay (R55). -/
def State.clearJob (s : State) : State :=
  let s1 := (List.range 144).foldl (fun s t => s.clearTile t) s
  { s1 with regs := s1.regs.filter (fun p => !(p.1 == R.GRE_CTL
    || (decide (R.GRE_CHAN_CFG 0 ≤ p.1) && decide (p.1 < R.GRE_CHAN_CFG 256)))) }

/-- JOB_RESET: steps 1 to 4 at once; the reply follows step 6. Step 5 waits for every request of the device that is outstanding then; the
answers of those that the reset's scope leaves alone still reach their requesters (log entry 128). Another job reset under way: BUSY. -/
def execJobReset (c : Fin 24) (s : State) : Host.Outcome State Fault Refusal :=
  .next (s.fwCmd c 0x0021 (fun s =>
    if s.fw.jobWait.isSome then s.fwReply c mbBUSY 0 []
    else { s.stopJob with fw := { s.fw with jobWait := some c.val, jobTags := s.stopJob.fab.reqs.map (fun r => r.tag) } }))

/-- Every request whose answer the reset waits for is answered or timed out: step 6 and the reply (R419). A reply goes only to
a channel that still holds the request. -/
def execJobResetComplete (s : State) : Host.Outcome State Fault Refusal :=
  match s.fw.jobWait with
  | none => .next s
  | some c =>
    if s.fab.reqs.any (fun r => s.fw.jobTags.contains r.tag) then .next s
    else
      let s1 := { s.clearJob with fw := { s.fw with jobWait := none, jobTags := [] } }.resetDone 5 0
      .next (if c < 24 then s1.fwOk c else s1)

/-- TILE_RESET (R420); during a job reset it is absorbed (R418). -/
def execTileReset (c : Fin 24) (t : BitVec 8) (s : State) : Host.Outcome State Fault Refusal :=
  .next (s.fwCmd c 0x0022 (fun s =>
    if 144 ≤ t.toNat then s.fwInvalid c 0
    else if s.gre.buckets.any (fun b => b.tile == t.toNat && !b.paid) then s.fwReply c mbBUSY 0 []
    else if s.fw.jobWait.isSome then s.fwOk c
    else (((s.stopTile t.toNat).clearTile t.toNat).resetDone 6 t.toNat).fwOk c))

/-- A port or a half reset (R420): DOWN with its replay buffer discarded, its counters cleared, then training again. -/
def State.portReset (s : State) (p h : Nat) : State :=
  let l := 2 * p + h
  let s1 := if s.linkUp l then s.linkLost l 0 else s
  (s1.linkReset l (if s.flag (F.FAB_PORT_CFG_EN p) then lkTRAINING else lkDISABLED)).portClear p

def execPortReset (c : Fin 24) (port : BitVec 8) (half : Bool) (s : State) : Host.Outcome State Fault Refusal :=
  .next (s.fwCmd c 0x0034 (fun s =>
    if 16 ≤ port.toNat ∨ (half = true ∧ s.flag (F.FAB_PORT_CFG_SPLIT port.toNat) = false) then s.fwInvalid c 0
    else if s.fw.jobWait.isSome then s.fwOk c
    else ((s.portReset port.toNat (b2n half)).resetDone 7 port.toNat).fwOk c))

/-! ## Queues -/

/-- QUEUE_CONFIG: a context image (none where empty), then a QUE_QCTL command (0 none). -/
def execQueueConfig (c : Fin 24) (q : BitVec 16) (image : List (BitVec 64)) (cmd : BitVec 2) (s : State) :
    Host.Outcome State Fault Refusal :=
  .next (s.fwCmd c 0x0030 (fun s =>
    if image.length ≠ 0 ∧ image.length ≠ 8 then s.fwInvalid c 0
    else
      let v := if image.isEmpty then (s, 0) else s.busPut s.mgp (s.ctxAddr q.toNat) (image.flatMap (fun (w : BitVec 64) => leBytes 8 w.toNat))
      let s1 := (v.1.setFld F.QUE_STATUS_CFG_ERR 0).qctlWrite (BitVec.ofNat 64 (q.toNat + cmd.toNat * 2 ^ 16))
      if v.2 ≠ 0 ∨ s1.flag F.QUE_STATUS_CFG_ERR then s.fwInvalid c 0
      else (if s.flag F.QUE_STATUS_CFG_ERR then s1.set1 F.QUE_STATUS_CFG_ERR else s1).fwOk c))

/-! ## Update (R437, R439) -/

def execFwUpdateBegin (c : Fin 24) (s : State) : Host.Outcome State Fault Refusal :=
  .next (s.fwCmd c 0x8001 (fun s =>
    let r := s.bootRec
    let n := s.mbArg c 0 4
    if r.trial = trRUNNING then s.fwReply c mbBUSY 0 []
    else if n < 1 ∨ 447 < n then s.fwInvalid c 0
    else
      let target := 1 - r.active
      let s1 := if r.trial = trPENDING then s.bootWrite { r with trial := trNONE } else s
      ({ s1.flashErase (slotBase target) slotBytes with fw := { s1.fw with upd := some ⟨target, n, []⟩ } }).fwOk c))

/-- One block of an update programmed and checked: the state, and whether the block passed. -/
def State.fwBlock (s : State) (u : FwUpd) (src i : Nat) : State × Bool :=
  let v := s.busRead s.mgp src 0x10000
  let s1 := v.1.flashProgram (slotBase u.target + 0x10000 * i) (v.2.1.map (fun b => b.1))
  let done := match s1.fw.upd with
    | some y => y.done
    | none => []
  let s2 := { s1 with fw := { s1.fw with upd := some { u with done := i :: done } } }
  (s2, if i = 0 then s2.imgHead u.target s2.bootRec.floor == 0 && s2.img u.target 0x10 4 == u.blocks else s2.imgBlockOk u.target i)

/-- FW_UPDATE_DATA: blocks are programmed in order until one fails its check. -/
def execFwUpdateData (c : Fin 24) (s : State) : Host.Outcome State Fault Refusal :=
  .next (s.fwCmd c 0x8002 (fun s =>
    let src := s.mbArg c 0 8
    let first := s.mbArg c 8 4
    let n := s.mbArg c 12 4
    let last := src + 0x10000 * n - 1
    let mem := match regionOf src, regionOf last with
      | .near, .near => true
      | .tile a, .tile b => a == b
      | _, _ => false
    match s.fw.upd with
    | none => s.fwInvalid c 0
    | some u =>
      if n < 1 ∨ 64 < n ∨ !mem ∨ !populated src ∨ !populated last ∨ u.blocks < first + n - 1
          ∨ (List.range n).any (fun k => u.done.contains (first + k)) ∨ (first ≠ 0 ∧ !u.done.contains 0) then s.fwInvalid c 0
      else
        let r := (List.range n).foldl (fun (r : State × Bool) k =>
          if r.2 then r.1.fwBlock u (src + 0x10000 * k) (first + k) else r) (s, true)
        if r.2 then r.1.fwOk c else r.1.fwReply c mbVERIFY 0 []))

/-- FW_UPDATE_COMMIT: DETAIL holds the stage that failed. -/
def execFwUpdateCommit (c : Fin 24) (s : State) : Host.Outcome State Fault Refusal :=
  .next (s.fwCmd c 0x8003 (fun s =>
    match s.fw.upd with
    | none => s.fwInvalid c 0
    | some u =>
      if (List.range (u.blocks + 1)).any (fun i => !u.done.contains i) then s.fwInvalid c 0
      else
        let r := s.bootRec
        let v := s.imgCheck u.target r.floor
        let stage := if v.1 ≠ 0 then v.1 else if s.flashNum 0x20004 2 < s.img u.target 0x16 2 then 8 else 0
        if stage ≠ 0 then s.fwReply c mbVERIFY stage []
        else (s.bootWrite { r with trial := trPENDING, slot := u.target }).fwOk c))

/-- HEALTH_CONFIRM (R439). Once the trial timer has expired the stop has no effect and the restart aborts the command. -/
def execHealthConfirm (c : Fin 24) (s : State) : Host.Outcome State Fault Refusal :=
  .next (s.fwCmd c 0x8004 (fun s =>
    let r := s.bootRec
    if s.fw.sched.contains 5 then s
    else if r.trial ≠ trRUNNING ∨ r.slot ≠ s.fld F.MGP_BOOT_SLOT then s.fwInvalid c 0
    else
      let s1 := s.trialStop.bootWrite { r with active := r.slot, trial := trNONE, reason := 0, floor := s.fw.svn }
      (s1.fwLog srcMGP 0x0E07 false [(1, r.slot), (4, s.fw.svn)]).fwOk c))

/-! ## Attestation (R445) -/

def execAttest (c : Fin 24) (s : State) : Host.Outcome State Fault Refusal :=
  .next (s.fwCmd c 0x8010 (fun s =>
    let dest := s.mbArg c 64 8
    if s.mbLen c ≠ 72 ∨ dest % 64 ≠ 0 then s.fwInvalid c 0
    else if s.fw.attWait.isSome then s.fwReply c mbBUSY 0 []
    else
      let s1 := (List.range 8).foldl (fun (s : State) w =>
        s.setReg (R.MGP_ATT_NONCE w) (BitVec.ofNat 64 (s.mbArg c (8 * w) 8))) s
      let s2 := (s1.setReg R.MGP_ATT_DEST (BitVec.ofNat 64 dest)).attGo
      { s2 with fw := { s2.fw with attWait := some c.val } }))

/-- The report is written to DEST, or a write of it was answered with an error; `late` when that takes more than 2 ms. -/
def execAttestReportDone (late : Bool) (s : State) : Host.Outcome State Fault Refusal :=
  let s0 := match s.fw.attWait with
    | some c => if late then { s with fw := { s.fw with attWait := none } }.fwReply c mbTIMEOUT 0 [] else s
    | none => s
  match s0.fw.att with
  | none => .next s0
  | some r =>
    if r.acks ≠ 0 then .next s0
    else
      let v := if s0.hereAt r.dest then s0.busPut s0.mgp (r.dest % 2 ^ 48) r.report else (s0, b2n r.err)
      let bad := decide (v.2 ≠ 0)
      let s1 := ((v.1.setFld F.MGP_ATT_CTL_BUSY 0).incFld F.MGP_ATT_CTL_SEQ 1).set1
        (if bad then F.MGP_ATT_CTL_WRITE_ERR else F.MGP_ATT_CTL_DONE)
      let s2 := { s1 with fw := { s1.fw with att := none, attWait := none } }
      match s1.fw.attWait with
      | some c => .next (if bad then s2.fwInvalid c 1 else s2.fwReply c mbOK 0 (leBytes 4 5331))
      | none => .next s2

/-! ## Power and settings (R415, R416, R440) -/

/-- POWER_LIMIT: 0 leaves a value unchanged; a value out of its register's range is refused. -/
def execPowerLimit (c : Fin 24) (cap fmax : BitVec 16) (s : State) : Host.Outcome State Fault Refusal :=
  .next (s.fwCmd c 0x8020 (fun s =>
    let p := cap.toNat
    let f := fmax.toNat
    if (p ≠ 0 ∧ (p < 900 ∨ 2800 < p)) ∨ (f ≠ 0 ∧ (f < 1200 ∨ 3300 < f ∨ f % 25 ≠ 0)) then s.fwInvalid c 0
    else
      let s1 := if p = 0 then s else s.pwrCtl (putBits (s.reg R.PWR_CTL) 16 12 p)
      (if f = 0 then s1 else s1.setFld F.PWR_HOST_FMAX f).fwOk c))

/-- The savable part of PWR_CTL (R416). -/
def pwrSavable : Word := 0xFFFFFF7F0FFF0001

/-- SETTINGS_SAVE: the other copy is written; on trial, while the other copy has an older format, the copy in use is rewritten
(R441). -/
def execSettingsSave (c : Fin 24) (s : State) : Host.Outcome State Fault Refusal :=
  .next (s.fwCmd c 0x8022 (fun s =>
    let old := s.fw.sett
    let i := match old with
      | none => 0
      | some x =>
        let o := 1 - x.1
        if s.bootRec.trial = trRUNNING ∧ s.settValid o = true ∧ s.settVersion o < x.2 then x.1 else o
    let seq := match old with
      | none => 1
      | some x => (s.settSeq x.1 + 1) % 2 ^ 32
    let s1 := s.settWrite i s.fw.settVer seq (s.reg R.PWR_CTL &&& pwrSavable).toNat (s.reg R.MEM_CTL).toNat (s.reg R.MEM_SCRUB).toNat
    ({ s1 with fw := { s1.fw with sett := some (i, s.fw.settVer) } }).fwOk c))

/-- FACTORY_READ (R436). -/
def execFactoryRead (c : Fin 24) (s : State) : Host.Outcome State Fault Refusal :=
  .next (s.fwCmd c 0x8030 (fun s =>
    let o := s.mbArg c 0 4
    let n := s.mbArg c 4 4
    if n < 1 ∨ 1008 < n ∨ 12819 < o + n then s.fwInvalid c 0 else s.fwReply c mbOK 0 (s.flashBytes (0x20000 + o) n)))

/-! ## Resets asked for by command (R417) -/

def execWarmReset (c : Fin 24) (s : State) : Host.Outcome State Fault Refusal :=
  .next (s.fwCmd c 0x8040 (fun s => (s.fwOk c).askReset 3))

def execMgpRestart (c : Fin 24) (s : State) : Host.Outcome State Fault Refusal :=
  .next (s.fwCmd c 0x8041 (fun s => (s.fwOk c).askReset 4))

end Sys2Proof.Machine
end

