-- ==== Sys2Proof/Machine/Resets.lean ====
section
/-! DEFINITION. Cold and warm resets, the management processor's restart (R417, R418, R421 to R423), and the start of the
management firmware (R434, R436, R441 to R443). -/
namespace Sys2Proof.Machine

/-- The public identity key as the key unit derives it at each cold and warm reset (R442). -/
def State.deriveKey (s : State) : State := (List.range 324).foldl (fun s w => s.setReg (R.MGP_IDKEY w) (Config.idKey w)) s

/-- A record of `n` tides or other entries that only observes, or lies outside the device, survives every reset: the queue of
commands, the flash, the module, the trip record, the numbering of free values, tier answers. -/
def State.outside (new old : State) : State :=
  { new with
    pending := old.pending, flash := old.flash, mod := old.mod
    pwr := { new.pwr with trip := old.pwr.trip }
    evt := { new.evt with fresh := old.evt.fresh } }

/-! ## Cold reset (R417) -/

/-- A reset of the whole device, then the ROM's boot. Memories are undefined until firmware has zeroed them (R423, log
entry 1). -/
def State.coldReset (s : State) : State :=
  let s1 := (State.reset.outside s).deriveKey
  ({ s1 with fw := { s1.fw with kind := 1 } }).romBoot

/-- Power-on or PERST#: nothing while the rails are off or a thermal trip holds them off (R477). -/
def execColdReset (s : State) : Host.Outcome State Fault Refusal :=
  if !s.mod.good || s.mod.tripped then .next s else .next s.coldReset

/-! ## Warm reset (R417, R423) -/

/-- The module's trip logic removes the core rails at 120 °C and keeps a trip record; THERMTRIP# asserts (R379, R477). -/
def execThermalTrip (die : Fin 4) (sensor : Fin 16) (temp : Nat) (s : State) : Host.Outcome State Fault Refusal :=
  if temp < 120 then .next s
  else
    let s1 := s.diesDown
    .next { s1 with
      pwr := { s1.pwr with trip := some (die.val, sensor.val, s.count) }, mod := { s1.mod with tripped := true } }

/-- Registers a warm reset keeps: the tide unit, the event unit, the diagnostic map, energy counters, throttle times, wake
record, budget-group settings; report sequence. -/
def keptWarm (a : Nat) : Bool :=
  (decide (0x38000000000 ≤ a) && decide (a < 0x38001000000)) || decide (0x38009000000 ≤ a)
    || (decide (R.PWR_WAKE ≤ a) && decide (a < R.PWR_CAL 0)) || (decide (R.PWR_THR_TIME 0 ≤ a) && decide (a < R.PWR_GRP_MOVE 4))
    || (decide (R.PWR_GRP_ACK 0 ≤ a) && decide (a < R.PWR_GRP_ACK 256))

/-- The power controller after a warm reset. -/
def PwrUnit.warm (u : PwrUnit) : PwrUnit :=
  { u with active := 0, pend := none, junc := 3300, crit := false, cool := 0, stretch := 0, calm := [0, 0, 0, 0], fmaxOn := false
           breach := false, entering := none, entryUs := 0, steps := 0, moved := [] }

/-- CAP set with the effective cap kept, for a member of a budget group (R423); without BUDGET_EN it follows CAP (R374). -/
def State.setCap (s : State) (cap : Nat) : State :=
  let b := s.capBudget
  let s1 := s.setFld F.PWR_CTL_CAP cap
  ({ s1 with pwr := { s1.pwr with
    delta := if s.flag F.PWR_CTL_BUDGET_EN then (b : Int) - (cap : Int) else 0 } }).capUpdate

/-- Channels whose receiver is reset are aborted (R414); channel 18, which the host receives, is only cleared. -/
def State.abortAll (s : State) : State :=
  let s1 := (List.range 24).foldl (fun s c => if s.fld (F.MBX_CH_STATUS_RX_AGENT c) = 0 then s else s.chAbort c) s
  (s1.mbPut 18 0 (List.replicate 0x800 0)).setFld (F.MBX_CH_STATUS_STATE 18) chIDLE

/-- What a warm reset leaves, before the ROM runs. `kind` 2 by FLR, 3 by mailbox. -/
def State.warmClear (s : State) (kind : Nat) : State :=
  let s0 := if s.fld F.TIDE_CTL_ROLE = 0 then s else s.tideRole 0
  let z := State.reset.outside s0
  let seq := s0.fld F.MGP_ATT_CTL_SEQ
  let budget := s0.fld F.PWR_CTL_BUDGET_EN
  let chans := s0.regs.filter (fun p => (List.range 24).any (fun c => p.1 == R.MBX_CH_STATUS c || p.1 == R.MBX_CH_CNT c))
  let s1 : State := { z with
    regs := (s0.regs.filter (fun p => keptWarm p.1 || chans.contains p))
    mem := s0.mem, tags := s0.tags, tide := s0.tide, mbox := s0.mbox, mboxBad := s0.mboxBad, proxy := s0.proxy
    pwr := s0.pwr.warm, rep := s0.rep
    evt := { s0.evt with warm := true }
    memu := { z.memu with answers := s0.memu.answers }
    host := { z.host with
      width := s0.host.width, rate := s0.host.rate, flit := s0.host.flit, sent := s0.host.sent, reads := s0.host.reads
      unsup := s0.host.unsup }
    fab := { z.fab with syms := s0.fab.syms }
    fw := { z.fw with kind := kind } }
  let s2 := (s1.setFld F.PWR_CTL_BUDGET_EN budget).setFld F.MGP_ATT_CTL_SEQ seq
  let s3 := { s2 with pwr := { s2.pwr with
    delta := if budget = 1 then (s0.capBudget : Int) - (s2.fld F.PWR_CTL_CAP : Int) else 0 } }.capUpdate
  s3.deriveKey.abortAll

/-- A warm reset begins: one asked for by FLR or by command; while a cold reset is in progress it is absorbed (R418). -/
def execWarmResetStart (s : State) : Host.Outcome State Fault Refusal :=
  match s.fw.sched.find? (fun k => k == 2 || k == 3) with
  | none => .next s
  | some k =>
    if s.fw.kind = 1 then .next { s with fw := { s.fw with sched := s.fw.sched.filter (fun k => k == 5) } }
    else .next (s.warmClear k).romBoot

/-- A function-level reset asks for a warm reset (R417). -/
def execFlr (s : State) : Host.Outcome State Fault Refusal := .next (s.askReset 2)

/-! ## Management processor restart (R417) -/

/-- What a restart leaves, before the ROM runs: the data path is untouched (R8). A job reset under way goes on (R418). -/
def State.mgpClear (s : State) : State :=
  let s1 := (List.range 5).foldl (fun s k =>
    (s.setReg (R.MBX_DB (k + 1)) 0).setReg (R.MBX_DB_MASK (k + 1)) 0xFFFFFFFF) (s.setFld F.MBX_HOST_FW_READY 0)
  let s2 := (List.range 24).foldl (fun s c => if s.fld (F.MBX_CH_STATUS_RX_AGENT c) = 0 then s else s.chAbort c) s1
  { s2 with fw := { State.reset.fw with
    kind := if s2.fw.kind = 0 then 4 else s2.fw.kind, att := s2.fw.att, jobWait := s2.fw.jobWait.map (fun _ => 24)
    jobTags := s2.fw.jobTags, facBad := s2.fw.facBad, wdtLog := s2.fw.wdtLog } }

/-- A restart begins; during a reset of its own or wider scope it is absorbed, but for the trial timer's (R418, R438, R455). A wider
reset that had not completed completes at the next start (R422). -/
def execMgpRestartStart (s : State) : Host.Outcome State Fault Refusal :=
  if !s.fw.sched.contains 4 && !s.fw.sched.contains 5 then .next s
  else
    let s1 := { s with fw := { s.fw with sched := s.fw.sched.filter (fun k => decide (k < 4)) } }
    if s.fw.kind ≠ 0 ∧ s.fw.sched.contains 5 = false then .next s1
    else .next { s1.mgpClear.romBoot with fw := { s1.mgpClear.romBoot.fw with sched := s1.fw.sched } }

/-! ## The start of the firmware (R434) -/

/-- A saved field outside its range takes its reset value and is logged (R441). Fields are numbered in R416's order: 0 CAP,
1 LEVEL_EN, 2 DROOP_MV, 3 JUNC_THROTTLE, 4 COOL_IN_MAX, 5 COOL_OUT_MAX, 6 MEM_CTL, 7 MEM_SCRUB (log entry 68). -/
def State.badField (s : State) (copy k : Nat) : State := s.fwLog srcMGP 0x0E06 true [(1, copy), (1, k)]

/-- A field of PWR_CTL taken from a settings copy. -/
def State.settField (s : State) (copy k : Nat) (f : Field) (img a b : Nat) : State :=
  let v := bitsOf img f.lo f.width
  if a ≤ v ∧ v ≤ b then (if k = 0 then s.setCap v else s.setFld f v) else s.badField copy k

/-- The saved settings applied after a cold or warm reset (R416, R423, R441). LEVEL_EN does not go with BUDGET_EN. -/
def State.settApply (s : State) (i : Nat) : State :=
  let s1 := match s.settImage i 0 with
    | some w =>
      let a := s.settField i 0 F.PWR_CTL_CAP w 900 2800
      let b := a.settField i 1 F.PWR_CTL_LEVEL_EN w 0 (if a.flag F.PWR_CTL_BUDGET_EN then 0 else 1)
      let c := b.settField i 2 F.PWR_CTL_DROOP_MV w 10 100
      let d := c.settField i 3 F.PWR_CTL_JUNC_THROTTLE w 70 105
      (d.settField i 4 F.PWR_CTL_COOL_IN_MAX w 15 50).settField i 5 F.PWR_CTL_COOL_OUT_MAX w 25 70
    | none => s
  let s2 := match s1.settImage i 8 with
    | some w => s1.plainWrite R.MEM_CTL (BitVec.ofNat 64 w) 0xFFFFFFFFFFFFFFFF
    | none => s1
  match s2.settImage i 16 with
  | some w =>
    let v : Word := BitVec.ofNat 64 w
    if inRange v 0 14 1 8760 && inRange v 16 14 1 8760 && inRange v 32 16 10 60000 then s2.memScrubWrite v else s2.badField i 7
  | none => s2

/-- The settings copy is taken, applied where the reset calls for it, measured, and migrated where its format is older. -/
def State.takeSettings (s : State) (apply : Bool) : State :=
  match s.settCopy with
  | none => s
  | some i =>
    let s1 := if apply then s.settApply i else s
    let copy := s1.flashBytes (settBase i) (0x20 + min 32 (s1.settLen i))
    let s2 := s1.extend 2 ((copy ++ List.replicate 64 0).take 64)
    let ver := s2.settVersion i
    if ver < s2.fw.settVer then
      let img (o : Nat) (r : Nat) : Nat := (s2.settImage i o).getD (regReset r).toNat
      let s3 := s2.settWrite (1 - i) s2.fw.settVer ((s2.settSeq i + 1) % 2 ^ 32) (img 0 R.PWR_CTL) (img 8 R.MEM_CTL) (img 16 R.MEM_SCRUB)
      ({ s3 with fw := { s3.fw with sett := some (1 - i, s2.fw.settVer) } }).fwLog srcMGP 0x0E05 false
        [(2, ver), (2, s2.fw.settVer)]
    else { s2 with fw := { s2.fw with sett := some (i, ver) } }

/-- The outcomes that the ROM, the watchdog and the module's trip logic left for firmware to log (R379, R446, R455, R475). -/
def State.logStart (s : State) : State :=
  let slot := s.fld F.MGP_BOOT_SLOT
  let s1 := s.fwLog srcMGP 0x0E01 false [(1, slot), (4, s.fw.ver), (4, s.fw.svn), (1, s.fld F.MGP_BOOT_TRIAL)]
  let s2 := if s1.flag F.MGP_BOOT_FALLBACK then s1.fwLog srcMGP 0x0E02 true [(1, 1 - slot), (1, s1.bootRec.reason)] else s1
  let s3 := if s2.fld F.MGP_BOOT_FAIL_STAGE = 0 then s2
    else s2.fwLog srcMGP 0x0E03 true [(1, 1 - slot), (1, s2.fld F.MGP_BOOT_FAIL_STAGE), (2, s2.fld F.MGP_BOOT_FAIL_BLOCK)]
  let s4 := if s3.fw.wdtLog then s3.fwLog srcMGP 0x0F01 true [(2, s3.fld F.MGP_WDT_TIMEOUT_MS), (4, s3.fld F.MGP_HB_COUNT)] else s3
  let s5 := match s4.pwr.trip with
    | some (d, k, t) => s4.fwLog srcPWR 0x0C03 true [(1, d), (1, k), (8, t)]
    | none => s4
  match s5.mod.rail with
  | some r => s5.fwLog srcPWR 0x0C03 true [(1, r), (1, 0xFF), (8, 0)]
  | none => s5

/-- Buffered records go to the ring once a warm reset is complete (R452). -/
def State.warmDone (s : State) : State :=
  if !s.evt.warm then s
  else
    let s1 := { s with evt := { s.evt with warm := false } }
    if s1.flag F.EVT_CTL_EN then
      s1.evt.pre.foldl (fun s r => s.ringWrite r) { s1 with evt := { s1.evt with pre := [] } }
    else s1

/-- Rails that no table governed yet take the table's voltages (R369, R370, log entry 125). -/
def State.firstRails (s : State) : State :=
  s.setRails (fun d => if s.pwr.rails.getD d 0 = 0 then s.vf d (s.fld F.PWR_STATUS_FREQ) else s.pwr.rails.getD d 0)

/-- A bad factory record is logged, none of it used, and every compute die held powered down; a good one gives the tile maps and the
voltage table (R434, R436). -/
def State.takeFactory (s : State) (bad : Nat) : State :=
  if bad ≠ 0 then (({ s with fw := { s.fw with facBad := true } }).diesDown).fwLog srcMGP 0x0E04 true [(1, bad)]
  else ({ s with fw := { s.fw with facBad := false } }).loadTileMap.loadVf.firstRails

/-- The released firmware starts: factory record, tile maps, PWR_VF, the controllers reloaded, settings, identity, then it
serves the mailboxes and the reset is complete (R422). -/
def execFirmwareStart (s : State) : Host.Outcome State Fault Refusal :=
  if !s.fw.released || s.flag F.MBX_HOST_FW_READY then .next s
  else
    let kind := s.fw.kind
    let bad := s.facCheck
    let s3 := (s.logStart.takeFactory bad).takeSettings (decide (kind ≠ 4))
    let s4 := if bad = 0 ∧ s3.idKeyBytes ≠ s3.flashBytes 0x21000 2592 then s3.fwLog srcMGP 0x0E08 true [] else s3
    let s5 := { s4 with
      fw := { s4.fw with kind := 0, wdtLog := false, held := false }, pwr := { s4.pwr with trip := none }, mod := { s4.mod with rail := none } }
    .next (((s5.resetDone kind 0).set1 F.MBX_HOST_FW_READY).warmDone)

end Sys2Proof.Machine
end

