-- ==== Sys2Proof/Machine/Module.lean ====
section
/-! DEFINITION. The module: power input and sequencing (R474 to R476), sideband signals (R477), the SMBus unit and its flash
commands (R478, R479). -/
namespace Sys2Proof.Machine

/-! ## Power (R474 to R476) -/

/-- Every rail but standby removed: what the device held is lost; standby keeps the module, the flash and the trip record. -/
def State.powerDown (s : State) : State :=
  let z := State.reset.outside s
  { z with mod := { s.mod with en := false, good := false, waiting := none, db := 0 } }

/-- Steps 2 to 6: PWR_GOOD, or the rail that failed in the trip record. -/
def State.powerUp (s : State) (failed : Option Nat) : State :=
  match failed with
  | none => { s with mod := { s.mod with good := true, waiting := none } }
  | some r => { s with mod := { s.mod with good := false, waiting := none, rail := some r } }

/-- The input reaches 44 V. -/
def execStandbyUp (s : State) : Host.Outcome State Fault Refusal := .next { s with mod := { s.mod with standby := true } }

/-- PWR_EN asserted after `lowMs` ms low; `failed` is the rail that does not reach regulation. A thermal trip holds the rails
off unless PWR_EN has been low for 100 ms (R477); a flash operation in progress is waited for (R479). -/
def execPwrEnAssert (lowMs : Nat) (failed : Option (BitVec 8)) (s : State) : Host.Outcome State Fault Refusal :=
  if !s.mod.standby || s.mod.en then .next s
  else
    let s1 := { s with mod := { s.mod with en := true, tripped := s.mod.tripped && decide (lowMs < 100) } }
    if s1.mod.tripped then .next s1
    else if s1.mod.flashOp.isSome then .next { s1 with mod := { s1.mod with waiting := some (failed.map (fun r => r.toNat)) } }
    else .next (s1.powerUp (failed.map (fun r => r.toNat)))

def execPwrEnDeassert (s : State) : Host.Outcome State Fault Refusal := .next (if s.mod.en then s.powerDown else s)

/-- The input below 42 V for 1 ms: as on deassertion of PWR_EN. -/
def execInputUndervoltage (s : State) : Host.Outcome State Fault Refusal := .next s.powerDown

/-! ## Sideband signals (R477) -/

/-- A falling edge of MOD_WAKE#: the wake signal of Watch and Retention. -/
def execModWake (s : State) : Host.Outcome State Fault Refusal :=
  .next (if 2 ≤ s.fld F.PWR_STATE_CUR ∨ s.pwr.entering.isSome then s.wake (1 <<< 7) 0 else s)

/-! ## SMBus (R478, R479) -/

/-- An answer of the SMBus unit: the bytes read, none where the transaction is NACKed. -/
def State.smbAnswer (s : State) (a : Option (List Byte)) : State :=
  { s with mod := { s.mod with answers := s.mod.answers ++ [a] } }

def State.smbNack (s : State) : State := s.smbAnswer none

/-- A read of the Alert Response Address: answered with the 7-bit address while a channel of the unit is DONE. -/
def execSmbAlertResponse (s : State) : Host.Outcome State Fault Refusal :=
  .next (if [21, 22, 23].any (fun c => s.fld (F.MBX_CH_STATUS_STATE c) == chDONE) then
    s.smbAnswer (some [BitVec.ofNat 8 (0x58 + Config.smbStraps.val)]) else s.smbNack)

/-- A mailbox command of the SMBus unit: NACKed in Retention, which it wakes, without rails, with a bad PEC or on another
channel. -/
def State.smbMail (s : State) (pec : Bool) (ch : BitVec 8) (body : Nat → State) : State :=
  if !s.mod.good || s.mod.tripped then s.smbNack
  else if s.fld F.PWR_STATE_CUR = 3 then s.smbNack.wake (1 <<< 8) 0
  else if !pec || decide (ch.toNat < 21) || decide (23 < ch.toNat) then s.smbNack
  else body ch.toNat

/-- MB_WRITE: bytes for the request buffer (R411); bytes beyond it are ignored. -/
def execMbWrite (pec : Bool) (ch : BitVec 8) (off : BitVec 16) (data : List Byte) (s : State) : Host.Outcome State Fault Refusal :=
  .next (s.smbMail pec ch (fun c =>
    if 240 < data.length then s.smbNack
    else (s.mbWrite c off.toNat (data.take (0x400 - off.toNat)) false).smbAnswer (some [])))

def execMbCtlSend (pec : Bool) (ch : BitVec 8) (s : State) : Host.Outcome State Fault Refusal :=
  .next (s.smbMail pec ch (fun c => (s.chSend c).smbAnswer (some [])))

def execMbCtlRelease (pec : Bool) (ch : BitVec 8) (s : State) : Host.Outcome State Fault Refusal :=
  .next (s.smbMail pec ch (fun c => (s.chRelease c).smbAnswer (some [])))

/-- MB_READ: bytes of the reply buffer; beyond it zeros. -/
def execMbRead (pec : Bool) (ch : BitVec 8) (off : BitVec 16) (n : Nat) (s : State) : Host.Outcome State Fault Refusal :=
  .next (s.smbMail pec ch (fun c =>
    if 240 < n then s.smbNack
    else s.smbAnswer (some ((List.range n).map (fun k => if off.toNat + k < 0x400 then s.mbByte c (0x400 + off.toNat + k) else 0)))))

/-- MB_STATUS: STATE in [1:0], the doorbell bit in [8]: set while the channel has a reply for the unit (log entry 49). -/
def execMbStatus (pec : Bool) (ch : BitVec 8) (s : State) : Host.Outcome State Fault Refusal :=
  .next (s.smbMail pec ch (fun c =>
    s.smbAnswer (some [BitVec.ofNat 8 (s.fld (F.MBX_CH_STATUS_STATE c)), BitVec.ofNat 8 (b2n (s.mod.db.testBit c))])))

/-- Flash commands are accepted only while PWR_EN is low or the ROM is in recovery. -/
def State.flashOpen (s : State) : Bool := !s.mod.en || s.fld F.MGP_BOOT_ROM_STATUS == 2

/-- A flash command: NACKed where it is not accepted, refused for the factory record, for an address beyond the flash, across a
page, or while an operation is in progress. -/
def State.smbFlash (s : State) (pec ok cross : Bool) (addr : Nat) (body : State → State) : State :=
  if !pec || !ok || !s.flashOpen then s.smbNack
  else if s.mod.flashOp.isSome || cross || (decide (0x20000 ≤ addr) && decide (addr < 0x60000)) || decide (0x4000000 ≤ addr) then
    { s with mod := { s.mod with refused := true } }.smbAnswer (some [])
  else body { s with mod := { s.mod with refused := false } }

/-- FL_ERASE: the sector that holds the address. -/
def execFlErase (pec : Bool) (addr : BitVec 32) (s : State) : Host.Outcome State Fault Refusal :=
  .next (s.smbFlash pec true false addr.toNat (fun s =>
    { s with mod := { s.mod with flashOp := some (.erase (addr.toNat / 0x10000 * 0x10000)), verify := false } }.smbAnswer (some [])))

/-- FL_WRITE: up to 236 bytes within a page. -/
def execFlWrite (pec : Bool) (addr : BitVec 32) (data : List Byte) (s : State) : Host.Outcome State Fault Refusal :=
  .next (s.smbFlash pec (decide (data.length ≤ 236)) (decide (256 < addr.toNat % 256 + data.length)) addr.toNat (fun s =>
    { s with mod := { s.mod with flashOp := some (.program addr.toNat data), verify := false } }.smbAnswer (some [])))

/-- FL_READ: up to 236 bytes. -/
def execFlRead (pec : Bool) (addr : BitVec 32) (n : Nat) (s : State) : Host.Outcome State Fault Refusal :=
  .next (s.smbFlash pec (decide (n ≤ 236)) false addr.toNat (fun s => s.smbAnswer (some (s.flashBytes addr.toNat n))))

/-- FL_STATUS: busy, last command refused, verify error. -/
def execFlStatus (pec : Bool) (s : State) : Host.Outcome State Fault Refusal :=
  .next (if !pec || !s.flashOpen then s.smbNack
    else s.smbAnswer (some [BitVec.ofNat 8 (b2n s.mod.flashOp.isSome + 2 * b2n s.mod.refused + 4 * b2n s.mod.verify), 0]))

/-- A flash operation finishes; a power-up that waited for it goes on (R479). -/
def execFlashOpComplete (verifyErr : Bool) (s : State) : Host.Outcome State Fault Refusal :=
  match s.mod.flashOp with
  | none => .next s
  | some op =>
    let f := s.takeFresh
    let spoil (s : State) (o n : Nat) : State :=
      if verifyErr then { s with flash := (List.range n).foldl (fun m k =>
        Store.put (fun _ => 0xFF) m (o + k) (Config.flashUnverified f.2 (o + k))) s.flash }
      else s
    let s1 := match op with
      | .erase a => spoil (f.1.flashErase a 0x10000) a 0x10000
      | .program a d => spoil (f.1.flashProgram a d) a d.length
    let s2 := { s1 with mod := { s1.mod with flashOp := none, verify := verifyErr } }
    match s2.mod.waiting with
    | some failed => .next (s2.powerUp failed)
    | none => .next s2

end Sys2Proof.Machine
end

