-- ==== Sys2Proof/Machine/Replay.lean ====
section
/-! DEFINITION. Replay (R463 to R465): recorded tides delivered, their records injected. -/
namespace Sys2Proof.Machine

/-- A capture record in the replay's ring (R461): tide, class, POISON, SEQ, body, and the position after it. -/
structure RepRec where
  tide : Nat
  cls  : Nat
  bad  : Bool
  seq  : Nat
  body : List Byte
  next : Nat
  deriving DecidableEq, Repr

/-- The record at a position. -/
def State.repRec (s : State) (pos : Nat) : RepRec :=
  let w0 := s.repNum pos 8
  let w1 := s.repNum (pos + 8) 8
  let n := bitsOf w1 0 32
  { tide := bitsOf w0 0 48, cls := bitsOf w0 48 3, bad := bitsOf w0 51 1 == 1, seq := bitsOf w1 32 32
    body := (List.range n).map (fun k => s.repByte (pos + 16 + k)), next := pos + 16 + (n + 15) / 16 * 16 }

/-- Count and kind of a TIDE record's body. -/
def RepRec.count (r : RepRec) : Nat := bitsOf (leNat (r.body.take 8)) 0 48
def RepRec.kind (r : RepRec) : Nat := bitsOf (leNat (r.body.take 8)) 48 3

/-- The packet of a record's body: header, payload, mask. -/
def RepRec.packet (r : RepRec) : FabPkt :=
  let p := FabPkt.ofWords (fun k => leNat ((r.body.drop (8 * k)).take 8))
  let n := if r.cls = 4 then p.len.toNat else 0
  let m := leNat ((r.body.drop (48 + n)).take ((n + 511) / 512 * 8))
  { p with
    payload := (r.body.drop 48).take n
    mask := if p.pm then (List.range ((n + 7) / 8)).map (fun k => m.testBit k) else [] }

/-- One record injected (R463). Recorded sends wait for the comparison (R464). -/
def State.repInject (s : State) (r : RepRec) : State :=
  let s0 := if r.cls = 5 then s else { s with rep := { s.rep with inj := s.rep.inj + 1 } }
  match r.cls with
  | 0 =>
    let c := (r.body.headD 0).toNat % 32
    if c < 24 then (s0.mbWrite c 0 (r.body.drop 8) r.bad).chSend c else s0
  | 1 => (s0.busWrite (s0.own srcHOST) (leNat (r.body.take 8) % 2 ^ 48) ((r.body.drop 8).map (fun b => (b, r.bad)))).1
  | 2 => { s0 with rep := { s0.rep with rng := s0.rep.rng ++ [BitVec.ofNat 64 (leNat (r.body.take 8))] } }
  | 5 =>
    let p := r.packet
    ({ s0 with rep := { s0.rep with want := s0.rep.want ++ [(r.seq, p, leNat ((r.body.drop 48).take 8))] } }).repCompare
  | _ =>
    let p := r.packet
    let s1 := s0.incFld F.FAB_CNT_RX_LOCAL_VALUE 1
    if opRDATA ≤ p.opc.toNat ∧ p.opc.toNat ≤ opNAK then ({ s1 with rep := { s1.rep with held := s1.rep.held ++ [p] } }).repMatch
    else s1.loopBack p

/-- The records up to the next TIDE record or the end; at most `k` of them. -/
def State.repInjects : Nat → Nat → State → State × Nat
  | 0, pos, s => (s, pos)
  | k + 1, pos, s =>
    if s.fld F.EVT_REPLAY_END_POS ≤ pos then (s, pos)
    else
      let r := s.repRec pos
      if r.cls = 6 then (s, pos) else State.repInjects k r.next (s.repInject r)

/-- The TIDE records that follow within a jump: the last count and the position after it; at most `k` of them. -/
def State.repJump : Nat → Nat → Nat → State → Nat × Nat
  | 0, pos, last, _ => (last, pos)
  | k + 1, pos, last, s =>
    if s.fld F.EVT_REPLAY_END_POS ≤ pos then (last, pos)
    else
      let r := s.repRec pos
      if r.cls = 6 ∧ r.kind = 2 then State.repJump k r.next r.count s else (last, pos)

/-- The replay engine delivers the next recorded tide, a jump as a whole, and injects its records. `stuck`: a held answer cannot
be matched, which ends the replay, as reaching EVT_REPLAY_END does. -/
def execReplayTide (time : Nat) (stuck : Bool) (s : State) : Host.Outcome State Fault Refusal :=
  let pos := s.fld F.EVT_REPLAY_POS_POS
  let e := s.fld F.EVT_REPLAY_END_POS
  if !s.flag F.EVT_STATUS_REPLAY_RUN then .next s
  else if stuck || decide (e ≤ pos) then .next (s.tideNow time).replayEnd
  else
    let s0 := s.tideNow time
    let r := s0.repRec pos
    let j := if r.kind = 2 then s0.repJump (e - pos) r.next r.count else (r.count, r.next)
    let s1 := (s0.setFld F.TIDE_COUNT_COUNT j.1).deliverTides r.count j.1
    let v := State.repInjects (e - pos) j.2 s1
    .next ({ v.1 with rep := { v.1.rep with last := j.1 } }.setFld F.EVT_REPLAY_POS_POS v.2)

end Sys2Proof.Machine
end

