-- ==== Sys2Proof/Machine/Dispatch.lean ====
section
/-! DEFINITION. The meaning of each command: one arm per constructor of `Instr`, each a direct call of its meaning. The
meaning acts on everything but the queue of waiting commands, which `step` has shortened already. -/
namespace Sys2Proof.Machine

/-- The effect of a command. -/
def exec (i : Instr) (s : State) : Host.Outcome State Fault Refusal :=
  match i with
  -- tide unit
  | .tideMarkRx sym => Sys2Proof.Machine.execTideMarkRx sym s
  | .tideJump time => Sys2Proof.Machine.execTideJump time s
  | .pendingTideTake time => Sys2Proof.Machine.execPendingTideTake time s
  | .tideDelivery time => Sys2Proof.Machine.execTideDelivery time s
  | .missWindowClose time => Sys2Proof.Machine.execMissWindowClose time s
  | .masterMarkEmit time => Sys2Proof.Machine.execMasterMarkEmit time s
  | .masterTideTake time => Sys2Proof.Machine.execMasterTideTake time s
  | .echoSend time => Sys2Proof.Machine.execEchoSend time s
  | .tideEchoRx sym => Sys2Proof.Machine.execTideEchoRx sym s
  | .linkDelayMeasure port m time => Sys2Proof.Machine.execLinkDelayMeasure port m time s
  | .tideCtlEnable m v time => Sys2Proof.Machine.execTideCtlEnable m v time s
  | .tideCtlRole m v time => Sys2Proof.Machine.execTideCtlRole m v time s
  | .tidePeriodWrite m v => Sys2Proof.Machine.execTidePeriodWrite m v s
  | .tideLeadWrite m v => Sys2Proof.Machine.execTideLeadWrite m v s
  | .tideLoad m v => Sys2Proof.Machine.execTideLoad m v s
  -- stream control and events
  | .tsqCtlStart m t mask => Sys2Proof.Machine.execTsqCtlStart m t mask s
  | .tsqCtlHalt m t mask => Sys2Proof.Machine.execTsqCtlHalt m t mask s
  | .tsqCtlResume m t mask => Sys2Proof.Machine.execTsqCtlResume m t mask s
  | .tsqCtlUnfreeze m t => Sys2Proof.Machine.execTsqCtlUnfreeze m t s
  | .tsqTokenWrite m t k v => Sys2Proof.Machine.execTsqTokenWrite m t k v s
  | .tsqSregWrite m t st n v => Sys2Proof.Machine.execTsqSregWrite m t st n v s
  | .fenceDrainEnd p => Sys2Proof.Machine.execFenceDrainEnd p s
  | .streamBreak p => Sys2Proof.Machine.execStreamBreak p s
  | .tokenWaitSatisfied p => Sys2Proof.Machine.execTokenWaitSatisfied p s
  | .frameWaitEnd p => Sys2Proof.Machine.execFrameWaitEnd p s
  | .queueSpaceFree p => Sys2Proof.Machine.execQueueSpaceFree p s
  | .comparatorFire t j ac => Sys2Proof.Machine.execComparatorFire t j ac s
  | .tokenTimeout p => Sys2Proof.Machine.execTokenTimeout p s
  | .vectorWriteback t ac => Sys2Proof.Machine.execVectorWriteback t ac s
  | .illegalInsn iss word => Sys2Proof.Machine.execIllegalInsn iss word s
  -- scalar
  | .sAdd iss a => Sys2Proof.Machine.execSAdd iss a s
  | .sSub iss a => Sys2Proof.Machine.execSSub iss a s
  | .sMul iss a => Sys2Proof.Machine.execSMul iss a s
  | .sMad iss a => Sys2Proof.Machine.execSMad iss a s
  | .sAnd iss a => Sys2Proof.Machine.execSAnd iss a s
  | .sOr iss a => Sys2Proof.Machine.execSOr iss a s
  | .sXor iss a => Sys2Proof.Machine.execSXor iss a s
  | .sShl iss a => Sys2Proof.Machine.execSShl iss a s
  | .sShr iss a => Sys2Proof.Machine.execSShr iss a s
  | .sSra iss a => Sys2Proof.Machine.execSSra iss a s
  | .sMin iss a => Sys2Proof.Machine.execSMin iss a s
  | .sMax iss a => Sys2Proof.Machine.execSMax iss a s
  | .sMinu iss a => Sys2Proof.Machine.execSMinu iss a s
  | .sMaxu iss a => Sys2Proof.Machine.execSMaxu iss a s
  | .sCeq iss a => Sys2Proof.Machine.execSCeq iss a s
  | .sClt iss a => Sys2Proof.Machine.execSClt iss a s
  | .sCltu iss a => Sys2Proof.Machine.execSCltu iss a s
  | .sIns iss a => Sys2Proof.Machine.execSIns iss a s
  -- control
  | .nop iss => Sys2Proof.Machine.execNop iss s
  | .halt iss => Sys2Proof.Machine.execHalt iss s
  | .loop iss sa imm body count => Sys2Proof.Machine.execLoop iss sa imm body count s
  | .skipZ iss sa n => Sys2Proof.Machine.execSkipZ iss sa n s
  | .skipNz iss sa n => Sys2Proof.Machine.execSkipNz iss sa n s
  | .lidx iss sd level => Sys2Proof.Machine.execLidx iss sd level s
  -- tokens
  | .tokWait iss a => Sys2Proof.Machine.execTokWait iss a s
  | .tokSet iss a => Sys2Proof.Machine.execTokSet iss a s
  | .tokClr iss a => Sys2Proof.Machine.execTokClr iss a s
  | .tokRead iss a => Sys2Proof.Machine.execTokRead iss a s
  -- frames
  | .frameOpen iss a => Sys2Proof.Machine.execFrameOpen iss a s
  | .frameOpenA iss a => Sys2Proof.Machine.execFrameOpenA iss a s
  | .frameClose iss a time => Sys2Proof.Machine.execFrameClose iss a time s
  | .frameStat iss a => Sys2Proof.Machine.execFrameStat iss a s
  -- counters
  | .ctrRead iss a => Sys2Proof.Machine.execCtrRead iss a s
  | .ctrClr iss a => Sys2Proof.Machine.execCtrClr iss a s
  | .ctrTide iss a => Sys2Proof.Machine.execCtrTide iss a s
  | .ctrCyc iss a => Sys2Proof.Machine.execCtrCyc iss a s
  | .cmpSet iss a => Sys2Proof.Machine.execCmpSet iss a s
  | .cmpArm iss a => Sys2Proof.Machine.execCmpArm iss a s
  -- matrix array
  | .mma iss a => Sys2Proof.Machine.execMma iss a s
  | .mmaLoads iss a => Sys2Proof.Machine.execMmaLoads iss a s
  | .mmaEw iss a => Sys2Proof.Machine.execMmaEw iss a s
  | .mmaMp iss a => Sys2Proof.Machine.execMmaMp iss a s
  | .mxaCommandStart t ac upset => Sys2Proof.Machine.execMxaCommandStart t ac upset s
  | .mxaPacketDelivery t ac => Sys2Proof.Machine.execMxaPacketDelivery t ac s
  | .mxaCommandComplete t ac stallTm stallFtq => Sys2Proof.Machine.execMxaCommandComplete t ac stallTm stallFtq s
  | .mxaEpisodeEnd t ac => Sys2Proof.Machine.execMxaEpisodeEnd t ac s
  | .mxaCtlWrite m t v => Sys2Proof.Machine.execMxaCtlWrite m t v s
  -- vector engines
  | .vmov iss a => Sys2Proof.Machine.execVmov iss a s
  | .vand iss a => Sys2Proof.Machine.execVand iss a s
  | .vor iss a => Sys2Proof.Machine.execVor iss a s
  | .vxor iss a => Sys2Proof.Machine.execVxor iss a s
  | .vnot iss a => Sys2Proof.Machine.execVnot iss a s
  | .vshl iss a => Sys2Proof.Machine.execVshl iss a s
  | .vshr iss a => Sys2Proof.Machine.execVshr iss a s
  | .vmset iss a => Sys2Proof.Machine.execVmset iss a s
  | .vmand iss a => Sys2Proof.Machine.execVmand iss a s
  | .vmor iss a => Sys2Proof.Machine.execVmor iss a s
  | .vmnot iss a => Sys2Proof.Machine.execVmnot iss a s
  | .vadd iss a => Sys2Proof.Machine.execVadd iss a s
  | .vsub iss a => Sys2Proof.Machine.execVsub iss a s
  | .vmul iss a => Sys2Proof.Machine.execVmul iss a s
  | .vmin iss a => Sys2Proof.Machine.execVmin iss a s
  | .vmax iss a => Sys2Proof.Machine.execVmax iss a s
  | .vfma iss a => Sys2Proof.Machine.execVfma iss a s
  | .vcmp iss a => Sys2Proof.Machine.execVcmp iss a s
  | .vcvt iss a => Sys2Proof.Machine.execVcvt iss a s
  | .vbcast iss a => Sys2Proof.Machine.execVbcast iss a s
  | .vmovS iss a => Sys2Proof.Machine.execVmovS iss a s
  | .vsetvl iss a => Sys2Proof.Machine.execVsetvl iss a s
  | .vstatS iss a => Sys2Proof.Machine.execVstatS iss a s
  | .vperm iss a => Sys2Proof.Machine.execVperm iss a s
  | .vshuf iss a => Sys2Proof.Machine.execVshuf iss a s
  | .vredSum iss a => Sys2Proof.Machine.execVredSum iss a s
  | .vredProd iss a => Sys2Proof.Machine.execVredProd iss a s
  | .vredMax iss a => Sys2Proof.Machine.execVredMax iss a s
  | .vredMin iss a => Sys2Proof.Machine.execVredMin iss a s
  | .vargMax iss a => Sys2Proof.Machine.execVargMax iss a s
  | .vargMin iss a => Sys2Proof.Machine.execVargMin iss a s
  | .vscanSum iss a => Sys2Proof.Machine.execVscanSum iss a s
  | .vscanProd iss a => Sys2Proof.Machine.execVscanProd iss a s
  | .vscanMax iss a => Sys2Proof.Machine.execVscanMax iss a s
  | .vscanMin iss a => Sys2Proof.Machine.execVscanMin iss a s
  | .vscanLr iss a => Sys2Proof.Machine.execVscanLr iss a s
  | .vld iss a upset => Sys2Proof.Machine.execVld iss a upset s
  | .vst iss a => Sys2Proof.Machine.execVst iss a s
  | .vgather iss a upset => Sys2Proof.Machine.execVgather iss a upset s
  | .vscatter iss a => Sys2Proof.Machine.execVscatter iss a s
  | .vgatherN iss a => Sys2Proof.Machine.execVgatherN iss a s
  | .vscatterN iss a => Sys2Proof.Machine.execVscatterN iss a s
  | .detachedComplete t e ac upset => Sys2Proof.Machine.execDetachedComplete t e ac upset s
  | .ftqPop iss a => Sys2Proof.Machine.execFtqPop iss a s
  | .ftqDrop iss a => Sys2Proof.Machine.execFtqDrop iss a s
  | .ftqCtlWrite m t v => Sys2Proof.Machine.execFtqCtlWrite m t v s
  | .tileLinkArrival t e ac => Sys2Proof.Machine.execTileLinkArrival t e ac s
  -- special functions: `ecc` holds the byte offsets of the active bank's words found uncorrectable (R181)
  | .vsf iss a => Sys2Proof.Machine.execVsf iss a s
  | .vsfU iss a ecc => Sys2Proof.Machine.execVsfU iss a ecc s
  | .vsfFuse iss a ecc => Sys2Proof.Machine.execVsfFuse iss a ecc s
  | .vnormRms iss a => Sys2Proof.Machine.execVnormRms iss a s
  | .vnormMv iss a => Sys2Proof.Machine.execVnormMv iss a s
  | .vsmaxP1 iss a => Sys2Proof.Machine.execVsmaxP1 iss a s
  | .vsmaxP2 iss a => Sys2Proof.Machine.execVsmaxP2 iss a s
  | .vsfArm iss a => Sys2Proof.Machine.execVsfArm iss a s
  | .sfuSwapArm m t v => Sys2Proof.Machine.execSfuSwapArm m t v s
  | .sfuSwapDisarm m t v => Sys2Proof.Machine.execSfuSwapDisarm m t v s
  | .sfuSwap t ac => Sys2Proof.Machine.execSfuSwap t ac s
  -- sparse engine
  | .spMm iss a => Sys2Proof.Machine.execSpMm iss a s
  | .spSpgemm iss a => Sys2Proof.Machine.execSpSpgemm iss a s
  | .spMerge iss a => Sys2Proof.Machine.execSpMerge iss a s
  | .spHarrow iss a => Sys2Proof.Machine.execSpHarrow iss a s
  | .spSort iss a => Sys2Proof.Machine.execSpSort iss a s
  | .speCommandStart t ac upset => Sys2Proof.Machine.execSpeCommandStart t ac upset s
  | .speCommandComplete t ac stallTm stallFtq => Sys2Proof.Machine.execSpeCommandComplete t ac stallTm stallFtq s
  -- layout engine
  | .lxCopy iss a => Sys2Proof.Machine.execLxCopy iss a s
  | .lxCvt iss a => Sys2Proof.Machine.execLxCvt iss a s
  | .lxWin iss a => Sys2Proof.Machine.execLxWin iss a s
  | .lxPrune iss a => Sys2Proof.Machine.execLxPrune iss a s
  | .lxGather iss a => Sys2Proof.Machine.execLxGather iss a s
  | .lxScat iss a => Sys2Proof.Machine.execLxScat iss a s
  | .lxFp64s iss a => Sys2Proof.Machine.execLxFp64s iss a s
  | .lxFill iss a => Sys2Proof.Machine.execLxFill iss a s
  | .lxeCommandStart t ac upset => Sys2Proof.Machine.execLxeCommandStart t ac upset s
  | .lxeCommandComplete t ac stallTm => Sys2Proof.Machine.execLxeCommandComplete t ac stallTm s
  | .lxeCtlWrite m t v => Sys2Proof.Machine.execLxeCtlWrite m t v s
  -- memory system
  | .tierRequest r => Sys2Proof.Machine.execTierRequest r s
  | .memScrubStep tier t upset cancelled => Sys2Proof.Machine.execMemScrubStep tier t upset cancelled s
  | .memScrubLag t elapsedMs => Sys2Proof.Machine.execMemScrubLag t elapsedMs s
  | .memScrubWrite v => Sys2Proof.Machine.execMemScrubWrite v s
  -- fabric: links
  | .fabPortCfgWrite p v => Sys2Proof.Machine.execFabPortCfgWrite p v s
  | .linkTrainingComplete l => Sys2Proof.Machine.execLinkTrainingComplete l s
  | .linkPacketRx l u corr uncorr => Sys2Proof.Machine.execLinkPacketRx l u corr uncorr s
  | .linkAcknowledge l seq => Sys2Proof.Machine.execLinkAcknowledge l seq s
  | .linkReplayRequest l seq => Sys2Proof.Machine.execLinkReplayRequest l seq s
  | .creditReturn l vc n => Sys2Proof.Machine.execCreditReturn l vc n s
  | .packetForward l vc => Sys2Proof.Machine.execPacketForward l vc s
  -- fabric: packets for this device, taken from the front of a virtual channel's buffer
  | .read l vc upset => Sys2Proof.Machine.execRead l vc upset s
  | .write l vc => Sys2Proof.Machine.execWrite l vc s
  | .atomic l vc upset => Sys2Proof.Machine.execAtomic l vc upset s
  | .sacc l vc upset => Sys2Proof.Machine.execSacc l vc upset s
  | .tokenInc l vc => Sys2Proof.Machine.execTokenInc l vc s
  | .msg l vc => Sys2Proof.Machine.execMsg l vc s
  | .credit l vc => Sys2Proof.Machine.execCredit l vc s
  | .rdata l vc => Sys2Proof.Machine.execRdata l vc s
  | .adata l vc => Sys2Proof.Machine.execAdata l vc s
  | .ack l vc => Sys2Proof.Machine.execAck l vc s
  | .nak l vc => Sys2Proof.Machine.execNak l vc s
  | .mgmt l vc => Sys2Proof.Machine.execMgmt l vc s
  | .fabReqTimeout tag => Sys2Proof.Machine.execFabReqTimeout tag s
  | .fabIdWrite v => Sys2Proof.Machine.execFabIdWrite v s
  | .fabMcrcData8 v => Sys2Proof.Machine.execFabMcrcData8 v s
  | .fabMcrcData16 v => Sys2Proof.Machine.execFabMcrcData16 v s
  | .fabMcrcData32 v => Sys2Proof.Machine.execFabMcrcData32 v s
  | .fabMcrcInit v => Sys2Proof.Machine.execFabMcrcInit v s
  | .fabMcrcValueWrite v => Sys2Proof.Machine.execFabMcrcValueWrite v s
  -- hardware queues
  | .qPost iss a => Sys2Proof.Machine.execQPost iss a s
  | .queDbTail m q v => Sys2Proof.Machine.execQueDbTail m q v s
  | .queDbHead m q v => Sys2Proof.Machine.execQueDbHead m q v s
  | .queueEnable m q => Sys2Proof.Machine.execQueueEnable m q s
  | .queueDisable m q => Sys2Proof.Machine.execQueueDisable m q s
  | .resetAlive m q => Sys2Proof.Machine.execResetAlive m q s
  | .queueDrainEnd q => Sys2Proof.Machine.execQueueDrainEnd q s
  | .queuePacketSend upset => Sys2Proof.Machine.execQueuePacketSend upset s
  | .queueDescComplete q => Sys2Proof.Machine.execQueueDescComplete q s
  -- gradient exchange
  | .grPost iss a => Sys2Proof.Machine.execGrPost iss a s
  | .greBucketStart c upset => Sys2Proof.Machine.execGreBucketStart c upset s
  | .greDeadline c => Sys2Proof.Machine.execGreDeadline c s
  | .greLateResolved c upset => Sys2Proof.Machine.execGreLateResolved c upset s
  | .greMessageRx c link => Sys2Proof.Machine.execGreMessageRx c link s
  | .greRerun c upset => Sys2Proof.Machine.execGreRerun c upset s
  | .greBucketComplete c => Sys2Proof.Machine.execGreBucketComplete c s
  | .greStall c => Sys2Proof.Machine.execGreStall c s
  | .greChanEnable m c v => Sys2Proof.Machine.execGreChanEnable m c v s
  | .greChanDisable m c v => Sys2Proof.Machine.execGreChanDisable m c v s
  -- power and thermal control
  | .pwrActivityEstimate p => Sys2Proof.Machine.execPwrActivityEstimate p s
  | .pwrControlInterval time => Sys2Proof.Machine.execPwrControlInterval time s
  | .frequencyIncreaseApply => Sys2Proof.Machine.execFrequencyIncreaseApply s
  | .pwrCalibration => Sys2Proof.Machine.execPwrCalibration s
  | .junctionStep temps => Sys2Proof.Machine.execJunctionStep temps s
  | .thermalTrip die sensor temp => Sys2Proof.Machine.execThermalTrip die sensor temp s
  | .coolantSample inlet outlet => Sys2Proof.Machine.execCoolantSample inlet outlet s
  | .droopTrip die supply time => Sys2Proof.Machine.execDroopTrip die supply time s
  | .droopStretchEnd die supplies time => Sys2Proof.Machine.execDroopStretchEnd die supplies time s
  | .pwrBrake time => Sys2Proof.Machine.execPwrBrake time s
  | .pwrCtlWrite v => Sys2Proof.Machine.execPwrCtlWrite v s
  | .budgetRound => Sys2Proof.Machine.execBudgetRound s
  | .budgetDecreaseRx => Sys2Proof.Machine.execBudgetDecreaseRx s
  | .budgetIncreaseRx => Sys2Proof.Machine.execBudgetIncreaseRx s
  | .budgetHoldRx => Sys2Proof.Machine.execBudgetHoldRx s
  | .budgetAckRx iss => Sys2Proof.Machine.execBudgetAckRx iss s
  | .budgetMasterLost => Sys2Proof.Machine.execBudgetMasterLost s
  | .pwrStateEnter wake => Sys2Proof.Machine.execPwrStateEnter wake s
  | .watchSample w => Sys2Proof.Machine.execWatchSample w s
  | .powerWake causes detail => Sys2Proof.Machine.execPowerWake causes detail s
  -- host attachment and mailboxes
  | .hostLinkTraining width rate flit => Sys2Proof.Machine.execHostLinkTraining width rate flit s
  | .hostBarRead bar2 off n upset => Sys2Proof.Machine.execHostBarRead bar2 off n upset s
  | .hostBarWrite bar2 off data poison => Sys2Proof.Machine.execHostBarWrite bar2 off data poison s
  | .msixPendingSend v => Sys2Proof.Machine.execMsixPendingSend v s
  | .send c => Sys2Proof.Machine.execSend c s
  | .take c => Sys2Proof.Machine.execTake c s
  | .reply c => Sys2Proof.Machine.execReply c s
  | .release c => Sys2Proof.Machine.execRelease c s
  -- mailbox commands as firmware carries them out; arguments whose layout each firmware release gives are operands
  | .queryInfo c => Sys2Proof.Machine.execQueryInfo c s
  | .queryEvents c pos n => Sys2Proof.Machine.execQueryEvents c pos n s
  | .queryState c => Sys2Proof.Machine.execQueryState c s
  | .alloc c region size place => Sys2Proof.Machine.execAlloc c region size place s
  | .free c handle => Sys2Proof.Machine.execFree c handle s
  | .tensorCreate c image window dest => Sys2Proof.Machine.execTensorCreate c image window dest s
  | .jobStart c tiles => Sys2Proof.Machine.execJobStart c tiles s
  | .jobReset c => Sys2Proof.Machine.execJobReset c s
  | .jobResetComplete => Sys2Proof.Machine.execJobResetComplete s
  | .tileReset c t => Sys2Proof.Machine.execTileReset c t s
  | .queueConfig c q image cmd => Sys2Proof.Machine.execQueueConfig c q image cmd s
  | .chanConfig c images => Sys2Proof.Machine.execChanConfig c images s
  | .tideConfig c images time => Sys2Proof.Machine.execTideConfig c images time s
  | .fabricConfig c images => Sys2Proof.Machine.execFabricConfig c images s
  | .portReset c port half => Sys2Proof.Machine.execPortReset c port half s
  | .fwUpdateBegin c => Sys2Proof.Machine.execFwUpdateBegin c s
  | .fwUpdateData c => Sys2Proof.Machine.execFwUpdateData c s
  | .fwUpdateCommit c => Sys2Proof.Machine.execFwUpdateCommit c s
  | .healthConfirm c => Sys2Proof.Machine.execHealthConfirm c s
  | .attest c => Sys2Proof.Machine.execAttest c s
  | .powerLimit c cap fmax => Sys2Proof.Machine.execPowerLimit c cap fmax s
  | .budgetConfig c images => Sys2Proof.Machine.execBudgetConfig c images s
  | .settingsSave c => Sys2Proof.Machine.execSettingsSave c s
  | .factoryRead c => Sys2Proof.Machine.execFactoryRead c s
  | .warmReset c => Sys2Proof.Machine.execWarmReset c s
  | .mgpRestart c => Sys2Proof.Machine.execMgpRestart c s
  -- resets and firmware
  | .coldReset => Sys2Proof.Machine.execColdReset s
  | .flr => Sys2Proof.Machine.execFlr s
  | .warmResetStart => Sys2Proof.Machine.execWarmResetStart s
  | .mgpRestartStart => Sys2Proof.Machine.execMgpRestartStart s
  | .firmwareStart => Sys2Proof.Machine.execFirmwareStart s
  | .mgpTrialExpire => Sys2Proof.Machine.execMgpTrialExpire s
  | .mgpTrialStop m => Sys2Proof.Machine.execMgpTrialStop m s
  | .mgpMeasExt m index => Sys2Proof.Machine.execMgpMeasExt m index s
  | .mgpAttGo m => Sys2Proof.Machine.execMgpAttGo m s
  | .attestReportDone late => Sys2Proof.Machine.execAttestReportDone late s
  -- event unit
  | .eventAccept sameNs => Sys2Proof.Machine.execEventAccept sameNs s
  | .evtSwCommit => Sys2Proof.Machine.execEvtSwCommit s
  | .evtCtlWrite v => Sys2Proof.Machine.execEvtCtlWrite v s
  | .evtRdWrite v => Sys2Proof.Machine.execEvtRdWrite v s
  | .auditAccept sameNs => Sys2Proof.Machine.execAuditAccept sameNs s
  | .evtAuditRdWrite v => Sys2Proof.Machine.execEvtAuditRdWrite v s
  | .evtCapEnable v => Sys2Proof.Machine.execEvtCapEnable v s
  | .captureFreeze => Sys2Proof.Machine.execCaptureFreeze s
  | .evtRngRead => Sys2Proof.Machine.execEvtRngRead s
  | .evtReplayGo => Sys2Proof.Machine.execEvtReplayGo s
  | .evtReplayStop => Sys2Proof.Machine.execEvtReplayStop s
  | .replayTide time stuck => Sys2Proof.Machine.execReplayTide time stuck s
  | .mgpWdtExpire => Sys2Proof.Machine.execMgpWdtExpire s
  | .mgpWdtKick m => Sys2Proof.Machine.execMgpWdtKick m s
  | .dcpHeartbeatCheck die => Sys2Proof.Machine.execDcpHeartbeatCheck die s
  | .dcpAliveCheck => Sys2Proof.Machine.execDcpAliveCheck s
  -- register writes
  | .mbxWinWrite bar2 v => Sys2Proof.Machine.execMbxWinWrite bar2 v s
  | .registerWrite m addr data time => Sys2Proof.Machine.execRegisterWrite m addr data time s
  -- module
  | .standbyUp => Sys2Proof.Machine.execStandbyUp s
  | .pwrEnAssert lowMs failed => Sys2Proof.Machine.execPwrEnAssert lowMs failed s
  | .pwrEnDeassert => Sys2Proof.Machine.execPwrEnDeassert s
  | .inputUndervoltage => Sys2Proof.Machine.execInputUndervoltage s
  | .modWake => Sys2Proof.Machine.execModWake s
  | .smbAlertResponse => Sys2Proof.Machine.execSmbAlertResponse s
  | .mbWrite pec ch off data => Sys2Proof.Machine.execMbWrite pec ch off data s
  | .mbCtlSend pec ch => Sys2Proof.Machine.execMbCtlSend pec ch s
  | .mbCtlRelease pec ch => Sys2Proof.Machine.execMbCtlRelease pec ch s
  | .mbRead pec ch off n => Sys2Proof.Machine.execMbRead pec ch off n s
  | .mbStatus pec ch => Sys2Proof.Machine.execMbStatus pec ch s
  | .flErase pec addr => Sys2Proof.Machine.execFlErase pec addr s
  | .flWrite pec addr data => Sys2Proof.Machine.execFlWrite pec addr data s
  | .flRead pec addr n => Sys2Proof.Machine.execFlRead pec addr n s
  | .flStatus pec => Sys2Proof.Machine.execFlStatus pec s
  | .flashOpComplete verifyErr => Sys2Proof.Machine.execFlashOpComplete verifyErr s
  | .linkFailure l => Sys2Proof.Machine.execLinkFailure l s
  | .pwrBrakeRelease time => Sys2Proof.Machine.execPwrBrakeRelease time s
  | .pcieConfigWrite w => Sys2Proof.Machine.execPcieConfigWrite w s
  | .lowPowerEntryComplete => Sys2Proof.Machine.execLowPowerEntryComplete s

end Sys2Proof.Machine
end

