-- ==== Sys2Proof/Safety.lean ====
section
/-! DEFINITION. What counts as a sound state and a safe step of the block, in the terms the statements use. -/
namespace Sys2Proof.Machine

/-- Every store of the state is in canonical form (keys strictly rising, no entry equal to what an unlisted key reads as): the
registers, memory with its check bits, the tiles' and engines' records, accumulators, tables, associative memory, mailbox
buffers, flash and census. Equal contents of such states are equal data. -/
def State.canonical (s : State) : Prop :=
  Store.wf regReset s.regs = true
    ∧ Memory.wf s.mem = true
    ∧ Store.wf (fun _ => WordTag.clean) s.tags = true
    ∧ Store.wf (fun _ => TileHid.init) s.tiles = true
    ∧ Store.wf (fun _ => StreamHid.init) s.strm = true
    ∧ Store.wf (fun _ => VReg.zero) s.vregs = true
    ∧ Store.wf (fun _ => MReg.zero) s.mregs = true
    ∧ Store.wf (fun _ => EngHid.init) s.engs = true
    ∧ Store.wf (fun _ => FtqBank.empty) s.ftq = true
    ∧ Store.wf (fun _ => MxaUnit.init) s.mxa = true
    ∧ Store.wf (fun _ => 0) s.acc = true
    ∧ Store.wf (fun _ => SfuUnit.init) s.sfu = true
    ∧ Store.wf (fun _ => 0) s.sfuMem = true
    ∧ Store.wf (fun _ => none) s.spe = true
    ∧ Store.wf (fun _ => 0) s.cam = true
    ∧ Store.wf (fun _ => []) s.lxe = true
    ∧ Store.wf (fun _ => 0) s.mbox = true
    ∧ Store.wf (fun _ => (0, 0)) s.proxy = true
    ∧ Store.wf (fun _ => false) s.mboxBad = true
    ∧ Store.wf (fun _ => 0xFF) s.flash = true
    ∧ Store.wf (fun _ => 0) s.census = true

/-- The outcome is a next state: the block neither stops with a fault nor refuses the command. -/
def Completes (o : Host.Outcome State Fault Refusal) : Prop := ∃ t, o = .next t

/-- The outcome is a next state of which `p` holds. -/
def Reaches (o : Host.Outcome State Fault Refusal) (p : State → Prop) : Prop := ∃ t, o = .next t ∧ p t

/-! ## Frames -/

/-- The parts of the state a frame speaks of; the registers are spoken of one by one. -/
inductive Part where
  | mem | tags | memu | tide | tiles | strm | vregs | mregs | engs | ftq | mxa
  | acc | sfu | sfuMem | spe | cam | lxe | lxeId | fab | que | gre | pwr
  | mbox | proxy | mboxBad | fw | rep | mod | flash | census | linkFly | evt | host
  deriving DecidableEq, Repr

/-- A part of one state is that part of the other. -/
def Part.same : Part → State → State → Prop
  | .mem, s, t => t.mem = s.mem
  | .tags, s, t => t.tags = s.tags
  | .memu, s, t => t.memu = s.memu
  | .tide, s, t => t.tide = s.tide
  | .tiles, s, t => t.tiles = s.tiles
  | .strm, s, t => t.strm = s.strm
  | .vregs, s, t => t.vregs = s.vregs
  | .mregs, s, t => t.mregs = s.mregs
  | .engs, s, t => t.engs = s.engs
  | .ftq, s, t => t.ftq = s.ftq
  | .mxa, s, t => t.mxa = s.mxa
  | .acc, s, t => t.acc = s.acc
  | .sfu, s, t => t.sfu = s.sfu
  | .sfuMem, s, t => t.sfuMem = s.sfuMem
  | .spe, s, t => t.spe = s.spe
  | .cam, s, t => t.cam = s.cam
  | .lxe, s, t => t.lxe = s.lxe
  | .lxeId, s, t => t.lxeId = s.lxeId
  | .fab, s, t => t.fab = s.fab
  | .que, s, t => t.que = s.que
  | .gre, s, t => t.gre = s.gre
  | .pwr, s, t => t.pwr = s.pwr
  | .mbox, s, t => t.mbox = s.mbox
  | .proxy, s, t => t.proxy = s.proxy
  | .mboxBad, s, t => t.mboxBad = s.mboxBad
  | .fw, s, t => t.fw = s.fw
  | .rep, s, t => t.rep = s.rep
  | .mod, s, t => t.mod = s.mod
  | .flash, s, t => t.flash = s.flash
  | .census, s, t => t.census = s.census
  | .linkFly, s, t => t.linkFly = s.linkFly
  | .evt, s, t => t.evt = s.evt
  | .host, s, t => t.host = s.host

/-- From `s` to `t` the queue of waiting commands stands, no part but those listed changes, and every register outside `touch`
reads as before. -/
def OnlyChanges (parts : List Part) (touch : Nat → Prop) (s t : State) : Prop :=
  t.pending = s.pending ∧ (∀ p, p ∉ parts → p.same s t) ∧ ∀ a, ¬ touch a → t.reg a = s.reg a

/-- The registers in which logging an event may leave a mark beside the records and messages themselves: the event unit's drop
counters and status (R450) and the MSI-X pending bits (R408). -/
def logReg (a : Nat) : Prop := a = R.EVT_CNT ∨ a = R.EVT_STATUS ∨ a = R.MBX_PBA

/-- A register of the device block that lies at an offset of 16 MiB steps from the first (R270): 0 TIDE, 1 MEM, 2 FAB, 3 QUE, 4
GRE, 5 PWR, 6 MBX, 7 MGP, 9 EVT. -/
def blockReg (b a : Nat) : Prop := 0x038000000000 + b * 0x1000000 ≤ a ∧ a < 0x038000000000 + (b + 1) * 0x1000000

/-- The registers that following one instruction may write in its stream: status and PC, the instruction count, the tile's event
counters (R95, R98), and what logging writes. -/
def streamReg (t st a : Nat) : Prop :=
  a = R.TSQ_STREAM_STATUS t st ∨ a = R.TSQ_STREAM_ICOUNT t st ∨ (∃ i, i < 8 ∧ a = R.TSQ_EVCNT_VALUE t i) ∨ logReg a

/-! ## Streams -/

/-- The stream runs, and no tag break (R94) stops it before the instruction: the instruction issues in ac `i.ac`. -/
def Issues (s : State) (i : Iss) : Prop := s.stState i.t i.st = stRUN ∧ (s.advance i.t i.ac).tagHit i = false

/-- An instruction of the stream that completes now is followed by no break (R94): no break count, no single step. -/
def NoBreak (s : State) (t st : Nat) : Prop :=
  s.fld (F.TSQ_STREAM_BRK_COUNT_COUNT t st) = 0 ∧ (s.stream t st).step = false

/-- The stream runs at PC `p` with the loop stack `ls`. -/
def RunsAt (s : State) (t st p : Nat) (ls : List LoopLevel) : Prop :=
  s.stState t st = stRUN ∧ s.pc t st = p ∧ (s.stream t st).loops = ls
    ∧ s.fld (F.TSQ_STREAM_STATUS_LOOP_DEPTH t st) = ls.length % 8

/-- The stream has gone on from `s` to `t`: an instruction or a wait of it completed and its successor is at `q`, under the loop
stack `ls`. At the end of the innermost body the loop goes back or is left (`loopBack`, R70); where no break follows the stream
runs at the successor, unless the successor passes the program memory's end, which stops it with PC_RANGE (R57). -/
def GoesOn (s t : State) (tile st q : Nat) (ls : List LoopLevel) : Prop :=
  let r := loopBack ls q
  (r.1 < 0x600000 → NoBreak s tile st → RunsAt t tile st r.1 r.2)
    ∧ (0x600000 ≤ r.1 → t.drained tile st = true → t.stState tile st = stHALTEDERR
        ∧ t.fld (F.TSQ_STREAM_STATUS_HALT_REASON tile st) = haltPCRANGE)

/-- One more instruction of the stream is counted as issued (R98). -/
def Issued (s t : State) (tile st : Nat) : Prop :=
  t.fld (F.TSQ_STREAM_ICOUNT_ICOUNT tile st) = satAdd 48 (s.fld (F.TSQ_STREAM_ICOUNT_ICOUNT tile st)) 1

/-- The stream stops with a halt reason (R62, R65): at once where nothing it issued is in flight, else it drains first. -/
def Stops (s t : State) (tile st reason : Nat) : Prop :=
  (s.drained tile st = true → t.stState tile st = (if reason ≤ haltCTL then stHALTED else stHALTEDERR)
      ∧ t.fld (F.TSQ_STREAM_STATUS_HALT_REASON tile st) = reason)
    ∧ (s.drained tile st = false → t.stState tile st = stFENCE ∧ (t.stream tile st).drain = some (.halt reason))

/-- No stream but one has changed what it holds beside its registers. -/
def OtherStreams (s t : State) (tile st : Nat) : Prop :=
  ∀ a b, b < 8 → (a, b) ≠ (tile, st) → t.stream a b = s.stream a b

/-- A record of an event has arisen at its source, from `s` to `t`: it waits for the event unit behind the records of `s`, or its
source's buffer of 4 was full and the drop is counted (R450). -/
def Logged (s t : State) (tide src code : Nat) (host : Bool) (detail : List (Nat × Nat)) : Prop :=
  let r := mkRecord tide src code (b2n host + 2 * s.fld F.EVT_STATUS_REPLAY_RUN) (packDetail detail 0)
  if (s.evt.waiting.filter (fun p => p.1 == src)).length < 4 then
    t.evt.waiting = s.evt.waiting ++ [(src, if s.evt.lostSrc.contains src then markLost r else r)]
  else t.evt.waiting = s.evt.waiting ∧ src ∈ t.evt.lostSrc
    ∧ t.fld F.EVT_CNT_SRC_DROP = satAdd 16 (s.fld F.EVT_CNT_SRC_DROP) 1 ∧ t.fld F.EVT_STATUS_LOST = 1

end Sys2Proof.Machine
end

