-- ==== Sys2Proof/Certificates/Slice0/Obligations.lean ====
section
/-! DEFINITION. The statements about the block, for the provers: what a step does, what every command keeps, and by family what
its commands do and leave alone. -/
open Sys2Proof Sys2Proof.Machine

/-! ## The block as a whole -/

/-- A step carries out the command at the front of the queue, with the queue's rest (the block's form; spec/00_scope.md); with
nothing waiting the block idles (the model's choice, log entry 10). -/
def Obligations.StepCarriesOutFrontCommand : Prop :=
  (∀ (c : Instr) (cs : List Instr) (s : State), s.pending = c :: cs →
      Sys2Proof.Machine.step s = Sys2Proof.Machine.exec c { s with pending := cs })
    ∧ ∀ s : State, s.pending = [] → Sys2Proof.Machine.step s = .next s

/-- No command stops the block: each one, in every state, answers a next state, leaves the waiting commands as they are, and keeps
every store in canonical form. -/
def Obligations.EveryCommandCompletes : Prop :=
  ∀ (c : Instr) (s : State),
    Reaches (Sys2Proof.Machine.exec c s) (fun t => t.pending = s.pending ∧ (s.canonical → t.canonical))

/-- The canonical form of all stores (registers, memory and its check bits, vector and mask registers, accumulators, tables,
associative memory, mailbox buffers, flash, census and the records of tiles, streams and engines) is kept by every step, from any
state that has it, and a step takes one command off the queue. -/
def Obligations.StoresStayCanonical : Prop :=
  ∀ s t : State, s.canonical → Sys2Proof.Machine.step s = .next t → t.canonical ∧ t.pending = s.pending.tail

/-- The state after reset has every store in canonical form and no command waiting. -/
def Obligations.ResetStoresCanonical : Prop := State.reset.canonical ∧ State.reset.pending = []

/-- Commands are carried out first in, first out: with `c` in front of `cs`, the steps of the whole queue are the effect of `c`
followed by those of `cs`; and as many steps as commands wait carry out the whole queue, whatever the commands do, and stop
nowhere. -/
def Obligations.QueueIsCarriedOutInOrder : Prop :=
  (∀ s : State, Reaches (Host.Core.run Sys2Proof.core s.pending.length s)
      (fun t => t.pending = [] ∧ (s.canonical → t.canonical)))
    ∧ ∀ (c : Instr) (cs : List Instr) (s t : State), s.pending = c :: cs →
      Sys2Proof.Machine.exec c { s with pending := cs } = .next t →
      t.pending = cs ∧ Host.Core.run Sys2Proof.core (cs.length + 1) s = Host.Core.run Sys2Proof.core cs.length t

/-! ## Streams: scalar instructions -/

/-- What the spec's table (R67) gives each scalar operation, with its issue and operands; `d`, `x` and `y` are SD, SA and operand
B. -/
def scalarRule : Instr → Option (Iss × ScalarArgs × (Word → Word → Word → Word))
  | .sAdd i a => some (i, a, fun _ x y => BitVec.ofNat 64 (x.toNat + y.toNat))
  | .sSub i a => some (i, a, fun _ x y => BitVec.ofInt 64 ((x.toNat : Int) - y.toNat))
  | .sMul i a => some (i, a, fun _ x y => BitVec.ofNat 64 (x.toNat * y.toNat))
  | .sMad i a => some (i, a, fun d x y => BitVec.ofNat 64 (d.toNat + x.toNat * y.toNat))
  | .sAnd i a => some (i, a, fun _ x y => x &&& y)
  | .sOr i a => some (i, a, fun _ x y => x ||| y)
  | .sXor i a => some (i, a, fun _ x y => x ^^^ y)
  | .sShl i a => some (i, a, fun _ x y => BitVec.ofNat 64 (x.toNat * 2 ^ y.toNat))
  | .sShr i a => some (i, a, fun _ x y => BitVec.ofNat 64 (x.toNat / 2 ^ y.toNat))
  | .sSra i a => some (i, a, fun _ x y => BitVec.ofInt 64 (x.toInt / ((2 ^ y.toNat : Nat) : Int)))
  | .sMin i a => some (i, a, fun _ x y => if x.toInt ≤ y.toInt then x else y)
  | .sMax i a => some (i, a, fun _ x y => if x.toInt ≤ y.toInt then y else x)
  | .sMinu i a => some (i, a, fun _ x y => if x.toNat ≤ y.toNat then x else y)
  | .sMaxu i a => some (i, a, fun _ x y => if x.toNat ≤ y.toNat then y else x)
  | .sCeq i a => some (i, a, fun _ x y => if x = y then 1 else 0)
  | .sClt i a => some (i, a, fun _ x y => if x.toInt < y.toInt then 1 else 0)
  | .sCltu i a => some (i, a, fun _ x y => if x.toNat < y.toNat then 1 else 0)
  | .sIns i a => some (i, a, fun d _ _ =>
      if a.sa.toNat = 0 then BitVec.ofNat 64 (d.toNat / 2 ^ 28 * 2 ^ 28 + a.imm.toNat)
      else if a.sa.toNat = 1 then
        BitVec.ofNat 64 (d.toNat / 2 ^ 56 * 2 ^ 56 + a.imm.toNat * 2 ^ 28 + d.toNat % 2 ^ 28)
      else BitVec.ofNat 64 (a.imm.toNat % 256 * 2 ^ 56 + d.toNat % 2 ^ 56))
  | _ => none

/-- A scalar instruction that issues writes to SD the value R67 gives it from SD, SA and operand B (R66) as its stream holds them
at issue; S0 reads as 0 and a write to it is discarded (R56). Nothing else changes but the stream's own progress: its status, PC,
loop stack, instruction count and the tile's event counters, and the log where the PC leaves the program memory. S.INS is legal
for positions 0 to 2. -/
def Obligations.ScalarResults : Prop :=
  ∀ (c : Instr) (i : Iss) (a : ScalarArgs) (f : Word → Word → Word → Word) (s : State), scalarRule c = some (i, a, f) →
    Issues s i → (c = .sIns i a → a.sa.toNat ≤ 2) →
    let s0 := s.advance i.t i.ac
    let y := if a.i then a.imm.signExtend 64 else s0.sreg i.t i.st a.sb.toNat
    Reaches (Sys2Proof.Machine.exec c s) (fun u =>
      u.sreg i.t i.st a.sd.toNat
          = (if a.sd = 0 then 0 else f (s0.sreg i.t i.st a.sd.toNat) (s0.sreg i.t i.st a.sa.toNat) y)
        ∧ u.sreg i.t i.st 0 = 0
        ∧ OnlyChanges [.strm, .evt, .host] (fun b => streamReg i.t i.st b
            ∨ (a.sd ≠ 0 ∧ b = R.TSQ_SREG i.t i.st a.sd.toNat)) s0 u)

/-! ## Streams: control, loops, stops -/

/-- A target lies within the innermost active loop body, if any (R71). -/
def withinBody (ls : List LoopLevel) (target : Nat) : Prop := ∀ l, ls.head? = some l → target ≤ l.last

/-- What a control instruction changes beside its destination. -/
def streamOnly (i : Iss) (sd : BitVec 5) (s0 u : State) : Prop :=
  OnlyChanges [.strm, .evt, .host] (fun b => streamReg i.t i.st b ∨ (sd ≠ 0 ∧ b = R.TSQ_SREG i.t i.st sd.toNat)) s0 u
    ∧ OtherStreams s0 u i.t i.st

/-- NOP, SKIP.Z, SKIP.NZ, LIDX and LOOP that issue (R69 to R71): NOP goes on to the next instruction; a skip goes N further when
its condition holds and its target lies within the innermost body; LIDX writes the iteration index of the loop LEVEL levels out, 0
where none is active; LOOP enters its body with COUNT (or SA, at most 16,777,215) iterations, index 0, or skips it for a count of
0. The loop back edge is `GoesOn`'s. -/
def Obligations.ControlFlow : Prop :=
  ∀ (i : Iss) (s : State), Issues s i →
    let s0 := s.advance i.t i.ac
    let p := s0.pc i.t i.st
    let ls := (s0.stream i.t i.st).loops
    let goes (q : Nat) (u : State) : Prop := Issued s0 u i.t i.st ∧ GoesOn s0 u i.t i.st q ls ∧ streamOnly i 0 s0 u
    Reaches (Sys2Proof.Machine.exec (.nop i) s) (goes (p + 8))
      ∧ (∀ (sa : BitVec 5) (n : BitVec 24),
          let z := s0.sreg i.t i.st sa.toNat = 0
          let target := p + 8 + 8 * n.toNat
          (z ∧ withinBody ls target → Reaches (Sys2Proof.Machine.exec (.skipZ i sa n) s) (goes target))
            ∧ (¬z → Reaches (Sys2Proof.Machine.exec (.skipZ i sa n) s) (goes (p + 8)))
            ∧ (¬z ∧ withinBody ls target → Reaches (Sys2Proof.Machine.exec (.skipNz i sa n) s) (goes target))
            ∧ (z → Reaches (Sys2Proof.Machine.exec (.skipNz i sa n) s) (goes (p + 8))))
      ∧ (∀ (sd : BitVec 5) (level : BitVec 2), Reaches (Sys2Proof.Machine.exec (.lidx i sd level) s) (fun u =>
          u.sreg i.t i.st sd.toNat = (if sd = 0 then 0 else BitVec.ofNat 64 (match ls[level.toNat]? with
            | some l => l.index
            | none => 0))
          ∧ Issued s0 u i.t i.st ∧ GoesOn s0 u i.t i.st (p + 8) ls ∧ streamOnly i sd s0 u))
      ∧ ∀ (sa : BitVec 5) (imm : Bool) (body : BitVec 14) (count : BitVec 24), body ≠ 0 →
          let n := if imm then count.toNat else min (s0.sreg i.t i.st sa.toNat).toNat 16777215
          let last := p + 8 + 8 * body.toNat
          withinBody ls last →
          (n = 0 → Reaches (Sys2Proof.Machine.exec (.loop i sa imm body count) s) (goes last))
            ∧ (n ≠ 0 → ls.length < 4 → Reaches (Sys2Proof.Machine.exec (.loop i sa imm body count) s) (fun u =>
                Issued s0 u i.t i.st
                  ∧ GoesOn s0 u i.t i.st (p + 8) ({ first := p + 8, last := last, left := n - 1, index := 0 } :: ls)
                  ∧ streamOnly i 0 s0 u))

/-- PC and loop stack after one straight instruction at `x.1`. -/
def afterOne (x : Nat × List LoopLevel) : Nat × List LoopLevel := loopBack x.2 (x.1 + 8)

/-- A loop of BODY instructions and a count of n runs them n times (R69, R70): entered at its first instruction with n − 1
iterations left, after k whole iterations and j more straight instructions the PC stands j instructions into the body, the
iteration index is k and n − 1 − k iterations are left; after n × BODY instructions the loop is left behind its body. -/
def Obligations.LoopRunsItsBodyCountTimes : Prop :=
  ∀ (first body n : Nat), 0 < body → 0 < n →
    let start := (first, [LoopLevel.mk first (first + 8 * body) (n - 1) 0])
    (∀ k j, k < n → j < body → Nat.iterate afterOne (k * body + j) start
        = (first + 8 * j, [LoopLevel.mk first (first + 8 * body) (n - 1 - k) k]))
      ∧ Nat.iterate afterOne (n * body) start = (first + 8 * body, [])

/-- HALT, and what stops a stream with an error (R65, R69 to R71, R84): an illegal word, S.INS with a position above 2, LOOP
with a BODY of 0, an event counter above 7 and a comparator above 3 are not executed and log ILLEGAL_INSN; a LOOP beyond the
enclosing body, a fifth active loop and a skip beyond the body stop with LOOP_NEST, LOOP_DEPTH and BAD_SKIP. The stream keeps its
PC and stops at once or after its drain; other streams are untouched. A word that holds a legal instruction stops nothing: that
instruction is a command of its own (the model's choice, log entry 118). -/
def Obligations.StreamStops : Prop :=
  ∀ (i : Iss) (s : State), Issues s i →
    let s0 := s.advance i.t i.ac
    let p := s0.pc i.t i.st
    let ls := (s0.stream i.t i.st).loops
    let seen := (s0.tile i.t).seen
    let kept (u : State) : Prop := u.pc i.t i.st = p ∧ streamOnly i 0 s0 u
    let illegal (c : Instr) : Prop := Reaches (Sys2Proof.Machine.exec c s) (fun u => Stops s0 u i.t i.st haltILLEGAL
      ∧ (∃ word, Logged s0 u seen i.t 0x0201 true [(1, i.st), (4, p), (8, word)])
      ∧ u.fld (F.TSQ_STREAM_ICOUNT_ICOUNT i.t i.st) = s0.fld (F.TSQ_STREAM_ICOUNT_ICOUNT i.t i.st) ∧ kept u)
    Reaches (Sys2Proof.Machine.exec (.halt i) s) (fun u => Stops s0 u i.t i.st haltHALT ∧ kept u)
      ∧ (∀ word : BitVec 64, i.tag = BitVec.ofNat 8 (word.toNat / 2 ^ 44) →
          (wordIllegal i (s.vxeOf i.t i.st).isSome word.toNat = true →
            Reaches (Sys2Proof.Machine.exec (.illegalInsn i word) s) (fun u => Stops s0 u i.t i.st haltILLEGAL
              ∧ Logged s0 u seen i.t 0x0201 true [(1, i.st), (4, p), (8, word.toNat)] ∧ kept u))
          ∧ (wordIllegal i (s.vxeOf i.t i.st).isSome word.toNat = false →
            Sys2Proof.Machine.exec (.illegalInsn i word) s = .next s))
      ∧ (∀ a : ScalarArgs, 2 < a.sa.toNat → illegal (.sIns i a))
      ∧ (∀ sa imm count, illegal (.loop i sa imm 0 count))
      ∧ (∀ a : CtrArgs, (7 < a.idx.toNat → illegal (.ctrRead i a) ∧ illegal (.ctrClr i a))
          ∧ (3 < a.idx.toNat → illegal (.cmpSet i a) ∧ illegal (.cmpArm i a)))
      ∧ (∀ (sa : BitVec 5) (body : BitVec 14) (count : BitVec 24), body ≠ 0 →
          (¬withinBody ls (p + 8 + 8 * body.toNat) → count = 0 ∨ ls.length < 4 → Reaches (Sys2Proof.Machine.exec (.loop i sa true body count) s) (fun u =>
            Stops s0 u i.t i.st haltLOOPNEST ∧ Logged s0 u seen i.t 0x0203 true [(1, i.st), (4, p)] ∧ kept u))
          ∧ (count ≠ 0 → ls.length = 4 →
            Reaches (Sys2Proof.Machine.exec (.loop i sa true body count) s) (fun u =>
              Stops s0 u i.t i.st haltLOOPDEPTH ∧ Logged s0 u seen i.t 0x0202 true [(1, i.st), (4, p)] ∧ kept u)))
      ∧ ∀ (sa : BitVec 5) (n : BitVec 24), n ≠ 0 → ¬withinBody ls (p + 8 + 8 * n.toNat) →
          let bad (c : Instr) : Prop := Reaches (Sys2Proof.Machine.exec c s) (fun u =>
            Stops s0 u i.t i.st haltBADSKIP ∧ Logged s0 u seen i.t 0x0204 true [(1, i.st), (4, p), (4, n.toNat)] ∧ kept u)
          (s0.sreg i.t i.st sa.toNat = 0 → bad (.skipZ i sa n)) ∧ (s0.sreg i.t i.st sa.toNat ≠ 0 → bad (.skipNz i sa n))

/-! ## Streams: tokens -/

/-- Count in [15:0] and flags in [23:16], as TOK.WAIT and TOK.READ write them to SD (R75). -/
def tokenValue (sd : BitVec 5) (count flags : Nat) : Word := if sd = 0 then 0 else BitVec.ofNat 64 (count + flags * 65536)

/-- What the waits satisfied in an ac have taken from token `k` so far (R76): what stands in the ac's updates. -/
def takenSoFar (s : State) (t : Fin 144) (k : Nat) : Nat :=
  ((s.tile t).tokPend.map (fun u => match u with
    | .sub j n => if j = k then n else 0
    | _ => 0)).sum

/-- The amounts for which streams below `st` wait on token `k`, in ascending order of the streams. -/
def lowerWaits (s : State) (t : Fin 144) (k st : Nat) : List Nat :=
  ((List.range st).filter (fun x =>
    decide (s.stState t x = stWAITTOKEN) && decide (s.fld (F.TSQ_STREAM_STATUS_WAIT_TOKEN t x) = k))).map
      (fun x => (s.stream t x).waitN)

/-- The count a wait of stream `st` on token `k` meets (R76): the count at the end of the ac before, less what waits of this ac have
taken, those of lower streams first. -/
def countMet (s : State) (t : Fin 144) (k st : Nat) : Nat :=
  (lowerWaits s t k st).foldl (fun left n => if n ≤ left then left - n else left)
    (s.fld (F.TSQ_TOKEN_COUNT t k) - takenSoFar s t k)

/-- The token-class instructions (R72, R75): the token is (TOKEN + SA[11:0]) mod 4096. TOK.WAIT fences: with nothing of its
stream in flight it takes N from a count that suffices, writes the count left and the flags to SD and leaves the subtraction and the
flags' clearing to the end of the ac (R76), or waits in WAIT_TOKEN and takes nothing; waits of lower streams on the token come
before it. With something in flight it drains in FENCE. TOK.SET and TOK.CLR leave their update to the end of the ac, a TOK.SET of 0
none. TOK.READ only reads. -/
def Obligations.TokenInstructions : Prop :=
  ∀ (i : Iss) (a : TokArgs) (s : State), Issues s i →
    let s0 := s.advance i.t i.ac
    let p := s0.pc i.t i.st
    let ls := (s0.stream i.t i.st).loops
    let k := (a.token.toNat + (s0.sreg i.t i.st a.sa.toNat).toNat % 4096) % 4096
    let count := s0.fld (F.TSQ_TOKEN_COUNT i.t k)
    let flags := s0.fld (F.TSQ_TOKEN_FLAGS i.t k)
    let after (u : State) : Prop := Issued s0 u i.t i.st ∧ GoesOn s0 u i.t i.st (p + 8) ls ∧ OtherStreams s0 u i.t i.st
    let sd (b : Nat) : Prop := a.sd ≠ 0 ∧ b = R.TSQ_SREG i.t i.st a.sd.toNat
    let met := countMet s0 i.t k i.st
    let alone := lowerWaits s0 i.t k i.st = []
    (s0.drained i.t i.st = true → a.n.toNat ≤ met → Reaches (Sys2Proof.Machine.exec (.tokWait i a) s) (fun u =>
        u.sreg i.t i.st a.sd.toNat = tokenValue a.sd (met - a.n.toNat) flags
          ∧ (∃ us, (u.tile i.t).tokPend = (s0.tile i.t).tokPend ++ us ++ [TokUpd.sub k a.n.toNat] ∧ (alone → us = []))
          ∧ u.reg (R.TSQ_TOKEN i.t k) = s0.reg (R.TSQ_TOKEN i.t k)
          ∧ Issued s0 u i.t i.st ∧ GoesOn s0 u i.t i.st (p + 8) ls
          ∧ (alone → OtherStreams s0 u i.t i.st
              ∧ OnlyChanges [.strm, .tiles, .evt, .host] (fun b => streamReg i.t i.st b ∨ sd b) s0 u)))
      ∧ (s0.drained i.t i.st = true → met < a.n.toNat → Reaches (Sys2Proof.Machine.exec (.tokWait i a) s) (fun u =>
          u.stState i.t i.st = stWAITTOKEN ∧ u.fld (F.TSQ_STREAM_STATUS_WAIT_TOKEN i.t i.st) = k
            ∧ (u.stream i.t i.st).waitN = a.n.toNat ∧ (u.stream i.t i.st).waitSd = a.sd
            ∧ u.pc i.t i.st = p ∧ Issued s0 u i.t i.st
            ∧ (alone → OtherStreams s0 u i.t i.st ∧ OnlyChanges [.strm] (streamReg i.t i.st) s0 u)))
      ∧ (s0.drained i.t i.st = false → Reaches (Sys2Proof.Machine.exec (.tokWait i a) s) (fun u =>
          u.stState i.t i.st = stFENCE ∧ (u.stream i.t i.st).drain = some (.insn (.tokWait i a)) ∧ u.pc i.t i.st = p
            ∧ OtherStreams s0 u i.t i.st ∧ OnlyChanges [.strm] (streamReg i.t i.st) s0 u))
      ∧ Reaches (Sys2Proof.Machine.exec (.tokSet i a) s) (fun u =>
          (u.tile i.t).tokPend
              = (s0.tile i.t).tokPend ++ (if a.n = 0 then [] else [TokUpd.inc k a.n.toNat 0 i.st]) ∧ after u
            ∧ OnlyChanges [.strm, .tiles, .evt, .host] (streamReg i.t i.st) s0 u)
      ∧ Reaches (Sys2Proof.Machine.exec (.tokClr i a) s) (fun u =>
          (u.tile i.t).tokPend = (s0.tile i.t).tokPend ++ [TokUpd.clr k] ∧ after u
            ∧ OnlyChanges [.strm, .tiles, .evt, .host] (streamReg i.t i.st) s0 u)
      ∧ Reaches (Sys2Proof.Machine.exec (.tokRead i a) s) (fun u =>
          u.sreg i.t i.st a.sd.toNat = tokenValue a.sd count flags ∧ after u
            ∧ OnlyChanges [.strm, .evt, .host] (fun b => streamReg i.t i.st b ∨ sd b) s0 u)

/-- The amounts of the increments of token `k` among some updates. -/
def incsOf (k : Nat) (us : List TokUpd) : List (Nat × Nat) :=
  us.filterMap (fun u => match u with
    | .inc j n f _ => if j = k then some (n, f) else none
    | _ => none)

/-- What waits take from token `k` among some updates. -/
def subsOf (k : Nat) (us : List TokUpd) : List Nat :=
  us.filterMap (fun u => match u with
    | .sub j n => if j = k then some n else none
    | _ => none)

/-- What a token's updates of one ac replace its count and flags by, before the increments (R76): the last write of TSQ_TOKEN,
else 0 where it was cleared, else what it held less what satisfied waits take, the flags cleared where one was. -/
def tokenBase (k count flags : Nat) (us : List TokUpd) : Nat × Nat :=
  let put := us.foldl (fun o u => match u with
    | .put j c f => if j = k then some (c, f) else o
    | _ => o) none
  match put with
  | some x => x
  | none =>
    if us.contains (.clr k) then (0, 0)
    else (count - (subsOf k us).sum, if (subsOf k us).isEmpty then flags else 0)

/-- The token updates of one ac apply in R76's order, whatever order they came in: satisfied waits, then clears, then writes of
TSQ_TOKEN, then every increment summed; the sum saturates at 65,535 against what the earlier steps left, all flags are ORed in, and OVERFLOW is set where
it would pass. No other token changes, and no part of the state but registers, the log and ready buckets of the reduction engine
(R347). -/
def Obligations.TokenUpdatesApplyInOrder : Prop :=
  ∀ (s : State) (t : Fin 144) (us : List TokUpd) (k : Nat), k < 4096 →
    (∀ u ∈ us, u.tok < 4096 ∧ match u with
      | .sub _ _ => True
      | .clr _ => True
      | .put _ c f => c < 65536 ∧ f < 256
      | .inc _ _ f _ => f < 256) →
    let b := tokenBase k (s.fld (F.TSQ_TOKEN_COUNT t k)) (s.fld (F.TSQ_TOKEN_FLAGS t k)) us
    let sum := ((incsOf k us).map (fun x => x.1)).sum
    let flags := (incsOf k us).foldl (fun f x => f ||| x.2) b.2
    let u := s.applyToks t us
    u.fld (F.TSQ_TOKEN_COUNT t k) = min (b.1 + sum) 65535
      ∧ u.fld (F.TSQ_TOKEN_FLAGS t k) = (if 65535 < b.1 + sum then flags ||| flagOVERFLOW else flags)
      ∧ OnlyChanges [.evt, .host, .gre] (fun r => logReg r ∨ ∃ j, j < 4096 ∧ (∃ x ∈ us, x.tok = j) ∧ r = R.TSQ_TOKEN t j) s u

/-- A waiting TOK.WAIT whose count has come takes N, writes SD with what is left and the flags of the ac before, and goes on, after
the waits of lower streams on the same token; while the count is short it goes on waiting (R75, R76). A wait that has seen WAIT_TMO tides logs TOKEN_TIMEOUT with stream, PC, token, count and N once, and goes on
waiting (R92). -/
def Obligations.TokenWaitEvents : Prop :=
  ∀ (p : StreamAt) (s : State), s.stState p.t p.st = stWAITTOKEN →
    let s0 := s.advance p.t p.ac
    let h := s0.stream p.t p.st
    let k := s0.fld (F.TSQ_STREAM_STATUS_WAIT_TOKEN p.t p.st)
    let count := s0.fld (F.TSQ_TOKEN_COUNT p.t k)
    let met := countMet s0 p.t k p.st
    let alone := lowerWaits s0 p.t k p.st = []
    (s0.stState p.t p.st = stWAITTOKEN → h.waitN ≤ met →
        Reaches (Sys2Proof.Machine.exec (.tokenWaitSatisfied p) s) (fun u =>
          u.sreg p.t p.st h.waitSd.toNat = tokenValue h.waitSd (met - h.waitN) (s0.fld (F.TSQ_TOKEN_FLAGS p.t k))
            ∧ (∃ us, (u.tile p.t).tokPend = (s0.tile p.t).tokPend ++ us ++ [TokUpd.sub k h.waitN] ∧ (alone → us = []))
            ∧ u.reg (R.TSQ_TOKEN p.t k) = s0.reg (R.TSQ_TOKEN p.t k)
            ∧ GoesOn s0 u p.t p.st (s0.pc p.t p.st + 8) h.loops
            ∧ (alone → OtherStreams s0 u p.t p.st ∧ OnlyChanges [.strm, .tiles, .evt, .host] (fun b => streamReg p.t p.st b
                ∨ (h.waitSd ≠ 0 ∧ b = R.TSQ_SREG p.t p.st h.waitSd.toNat)) s0 u)))
      ∧ (s0.stState p.t p.st = stWAITTOKEN → met < h.waitN →
          Reaches (Sys2Proof.Machine.exec (.tokenWaitSatisfied p) s) (fun u => u.stState p.t p.st = stWAITTOKEN
            ∧ u.stream p.t p.st = h ∧ (alone → u = s0)))
      ∧ (let tmo := s.fld (F.TSQ_STREAM_CFG_WAIT_TMO p.t p.st)
        let w := s.stream p.t p.st
        tmo ≠ 0 → tmo ≤ w.waitTides → w.waitFired = false →
          (s0.evt.waiting.filter (fun q => q.1 == p.t.val)).isEmpty → s0.evt.lostSrc.contains p.t.val = false →
          Reaches (Sys2Proof.Machine.exec (.tokenTimeout p) s) (fun u =>
            (u.stream p.t p.st).waitFired = true ∧ u.stState p.t p.st = stWAITTOKEN
              ∧ (∃ rest, u.evt.waiting = s0.evt.waiting ++ [(p.t.val, mkRecord (s0.tile p.t).seen p.t 0x0208
                    (1 + 2 * s0.fld F.EVT_STATUS_REPLAY_RUN)
                    (packDetail [(1, p.st), (4, s0.pc p.t p.st), (2, k), (2, count), (2, w.waitN)] 0))] ++ rest)
              ∧ OtherStreams s0 u p.t p.st ∧ OnlyChanges [.strm, .evt, .host] logReg s0 u))

/-! ## Streams: frames and counters -/

/-- The frame number FRAME.OPEN names: SA + IMM as a signed 64-bit sum, below 0 taken as 0 and above 2^48 − 1 as that (R83). -/
def frameNumber (sa : Word) (imm : BitVec 24) : Nat :=
  let v := (BitVec.ofInt 64 (sa.toInt + imm.toInt)).toInt
  (min (max v 0) (2 ^ 48 - 1)).toNat

/-- The frame instructions (R44 to R47, R83). With no frame open and nothing of the stream in flight, FRAME.OPEN forms the
effective target, the named number plus the slip, and waits for the count in WAIT_FRAME or, where the count has reached it, counts
a late open and goes on with the frame open; FRAME.OPEN.A clears the slip first. FRAME.CLOSE of an open frame raises slip and slip
total by the tides by which the count exceeds the target, and leaves the frame closed. FRAME.STAT reads. A waiting stream whose
target has come goes on with its frame open. -/
def Obligations.FrameInstructions : Prop :=
  ∀ (i : Iss) (a : FrameArgs) (time : Nat) (s : State), Issues s i →
    let s0 := s.advance i.t i.ac
    let p := s0.pc i.t i.st
    let ls := (s0.stream i.t i.st).loops
    let seen := (s0.tile i.t).seen
    let slip := s0.fld (F.TSQ_STREAM_SLIP_SLIP i.t i.st)
    let after (u : State) : Prop := Issued s0 u i.t i.st ∧ GoesOn s0 u i.t i.st (p + 8) ls ∧ OtherStreams s0 u i.t i.st
    let frameReg (b : Nat) : Prop := streamReg i.t i.st b ∨ b = R.TSQ_STREAM_FRAME i.t i.st ∨ b = R.TSQ_STREAM_SLIP i.t i.st
      ∨ b = R.TSQ_STREAM_LATE i.t i.st
    let opens (c : Instr) (base newSlip : Nat) : Prop :=
      let target := min (base + newSlip) (2 ^ 48 - 1)
      s0.fld (F.TSQ_STREAM_FRAME_OPEN i.t i.st) = 0 → s0.drained i.t i.st = true →
        (target ≤ seen → Reaches (Sys2Proof.Machine.exec c s) (fun u =>
            u.fld (F.TSQ_STREAM_FRAME_TARGET i.t i.st) = target ∧ u.fld (F.TSQ_STREAM_FRAME_OPEN i.t i.st) = 1
              ∧ u.fld (F.TSQ_STREAM_SLIP_SLIP i.t i.st) = newSlip
              ∧ u.fld (F.TSQ_STREAM_LATE_LATE_OPENS i.t i.st) = satAdd 16 (s0.fld (F.TSQ_STREAM_LATE_LATE_OPENS i.t i.st)) 1
              ∧ after u ∧ OnlyChanges [.strm, .evt, .host] frameReg s0 u))
          ∧ (seen < target → Reaches (Sys2Proof.Machine.exec c s) (fun u =>
            u.fld (F.TSQ_STREAM_FRAME_TARGET i.t i.st) = target ∧ u.fld (F.TSQ_STREAM_FRAME_OPEN i.t i.st) = 0
              ∧ u.fld (F.TSQ_STREAM_SLIP_SLIP i.t i.st) = newSlip
              ∧ u.stState i.t i.st = stWAITFRAME ∧ u.pc i.t i.st = p ∧ Issued s0 u i.t i.st ∧ OtherStreams s0 u i.t i.st
              ∧ OnlyChanges [.strm] frameReg s0 u))
    opens (.frameOpen i a) (frameNumber (s0.sreg i.t i.st a.sa.toNat) a.imm) slip
      ∧ opens (.frameOpenA i a) (frameNumber (s0.sreg i.t i.st a.sa.toNat) a.imm) 0
      ∧ (s0.fld (F.TSQ_STREAM_FRAME_OPEN i.t i.st) = 1 →
          let lost := seen - s0.fld (F.TSQ_STREAM_FRAME_TARGET i.t i.st)
          Reaches (Sys2Proof.Machine.exec (.frameClose i a time) s) (fun u =>
            u.fld (F.TSQ_STREAM_FRAME_OPEN i.t i.st) = 0
              ∧ u.fld (F.TSQ_STREAM_SLIP_SLIP i.t i.st) = satAdd 32 slip lost
              ∧ u.fld (F.TSQ_STREAM_SLIP_SLIP_TOTAL i.t i.st) = satAdd 32 (s0.fld (F.TSQ_STREAM_SLIP_SLIP_TOTAL i.t i.st)) lost
              ∧ u.fld (F.TSQ_STREAM_FRAME_TARGET i.t i.st) = s0.fld (F.TSQ_STREAM_FRAME_TARGET i.t i.st)
              ∧ after u ∧ OnlyChanges [.strm, .tide, .evt, .host] frameReg s0 u))
      ∧ Reaches (Sys2Proof.Machine.exec (.frameStat i a) s) (fun u =>
          u.sreg i.t i.st a.sd.toNat = (if a.sd = 0 then 0 else BitVec.ofNat 64 (match a.imm.toNat % 4 with
            | 0 => slip
            | 1 => s0.fld (F.TSQ_STREAM_SLIP_SLIP_TOTAL i.t i.st)
            | 2 => s0.fld (F.TSQ_STREAM_LATE_LATE_OPENS i.t i.st)
            | _ => s0.fld (F.TSQ_STREAM_FRAME_TARGET i.t i.st) + 2 ^ 63 * s0.fld (F.TSQ_STREAM_FRAME_OPEN i.t i.st)))
          ∧ after u
          ∧ OnlyChanges [.strm, .evt, .host] (fun b => streamReg i.t i.st b ∨ (a.sd ≠ 0 ∧ b = R.TSQ_SREG i.t i.st a.sd.toNat)) s0 u)

/-- A stream waiting in FRAME.OPEN goes on with its frame open once the tile's count has reached the effective target, and waits on
until then (R44). -/
def Obligations.FrameWaitEnds : Prop :=
  ∀ (p : StreamAt) (s : State), s.stState p.t p.st = stWAITFRAME →
    let s0 := s.advance p.t p.ac
    let target := s0.fld (F.TSQ_STREAM_FRAME_TARGET p.t p.st)
    (target ≤ (s0.tile p.t).seen → Reaches (Sys2Proof.Machine.exec (.frameWaitEnd p) s) (fun u =>
        u.fld (F.TSQ_STREAM_FRAME_OPEN p.t p.st) = 1 ∧ u.fld (F.TSQ_STREAM_FRAME_TARGET p.t p.st) = target
          ∧ GoesOn s0 u p.t p.st (s0.pc p.t p.st + 8) (s0.stream p.t p.st).loops ∧ OtherStreams s0 u p.t p.st
          ∧ OnlyChanges [.strm, .evt, .host] (fun b => streamReg p.t p.st b ∨ b = R.TSQ_STREAM_FRAME p.t p.st) s0 u))
      ∧ ((s0.tile p.t).seen < target → Sys2Proof.Machine.exec (.frameWaitEnd p) s = .next s0)

/-- The counter instructions (R84): CTR.READ, CTR.TIDE and CTR.CYC write an event counter, the tide count the tile sees and the
tile's ac counter to SD; CTR.CLR clears an event counter; CMP.SET gives a comparator SA[47:0] and arms it; CMP.ARM arms it with its
value unchanged. Counters 0 to 7 and comparators 0 to 3 exist. -/
def Obligations.CounterInstructions : Prop :=
  ∀ (i : Iss) (a : CtrArgs) (s : State), Issues s i →
    let s0 := s.advance i.t i.ac
    let x := a.idx.toNat
    let after (u : State) : Prop := Issued s0 u i.t i.st
      ∧ GoesOn s0 u i.t i.st (s0.pc i.t i.st + 8) (s0.stream i.t i.st).loops ∧ OtherStreams s0 u i.t i.st
    let sdOnly (u : State) : Prop := OnlyChanges [.strm, .evt, .host]
      (fun b => streamReg i.t i.st b ∨ (a.sd ≠ 0 ∧ b = R.TSQ_SREG i.t i.st a.sd.toNat)) s0 u
    let value (u : State) : Word := u.sreg i.t i.st a.sd.toNat
    (x ≤ 7 →
        Reaches (Sys2Proof.Machine.exec (.ctrRead i a) s) (fun u => (∃ n : Nat,
            s0.fld (F.TSQ_EVCNT_VALUE_VALUE i.t x) ≤ n ∧ n ≤ s0.fld (F.TSQ_EVCNT_VALUE_VALUE i.t x) + 1
              ∧ (n = s0.fld (F.TSQ_EVCNT_VALUE_VALUE i.t x) + 1 → s0.fld (F.TSQ_EVCNT_SEL_SEL i.t x) = 2)
              ∧ value u = (if a.sd = 0 then 0 else BitVec.ofNat 64 n)) ∧ after u ∧ sdOnly u)
          ∧ Reaches (Sys2Proof.Machine.exec (.ctrClr i a) s) (fun u =>
            u.fld (F.TSQ_EVCNT_VALUE_VALUE i.t x) = 0 ∧ after u ∧ OnlyChanges [.strm, .evt, .host] (streamReg i.t i.st) s0 u))
      ∧ Reaches (Sys2Proof.Machine.exec (.ctrTide i a) s) (fun u =>
          value u = (if a.sd = 0 then 0 else BitVec.ofNat 64 (s0.tile i.t).seen) ∧ after u ∧ sdOnly u)
      ∧ Reaches (Sys2Proof.Machine.exec (.ctrCyc i a) s) (fun u =>
          value u = (if a.sd = 0 then 0 else BitVec.ofNat 64 (s0.tile i.t).ac) ∧ after u ∧ sdOnly u)
      ∧ (x ≤ 3 →
        Reaches (Sys2Proof.Machine.exec (.cmpSet i a) s) (fun u =>
            u.fld (F.TSQ_CMP_VALUE_VALUE i.t x) = (s0.sreg i.t i.st a.sa.toNat).toNat % 2 ^ 48
              ∧ u.fld (F.TSQ_CMP_CTL_ARMED i.t x) = 1 ∧ after u
              ∧ OnlyChanges [.strm, .evt, .host] (fun b => streamReg i.t i.st b ∨ b = R.TSQ_CMP_VALUE i.t x
                  ∨ b = R.TSQ_CMP_CTL i.t x) s0 u)
          ∧ Reaches (Sys2Proof.Machine.exec (.cmpArm i a) s) (fun u =>
            u.fld (F.TSQ_CMP_CTL_ARMED i.t x) = 1 ∧ after u
              ∧ OnlyChanges [.strm, .evt, .host] (fun b => streamReg i.t i.st b ∨ b = R.TSQ_CMP_CTL i.t x) s0 u))

/-- What an armed comparator compares its value with (R96): an event counter for SRC 0 to 7, the instruction count of stream
SRC − 8 else. -/
def comparatorSource (s : State) (t : Fin 144) (j : Fin 4) : Nat :=
  let src := s.fld (F.TSQ_CMP_CTL_SRC t j)
  if src < 8 then s.fld (F.TSQ_EVCNT_VALUE_VALUE t src) else s.fld (F.TSQ_STREAM_ICOUNT_ICOUNT t (src - 8))

/-- A comparator whose comparison holds disarms itself and sets FIRED; with FREEZE all eight event counters stop until UNFREEZE;
every stream of BRK_STREAMS that runs, or drains for a fencing instruction, drains to break, one that waits enters BREAK at once, and
no other stream is touched (R94, R96). One that is not armed or whose comparison
does not hold does nothing. -/
def Obligations.ComparatorFires : Prop :=
  ∀ (t : Fin 144) (j : Fin 4) (ac : Nat) (s : State),
    let s0 := s.advance t ac
    let v := s0.fld (F.TSQ_CMP_VALUE_VALUE t j)
    let x := comparatorSource s0 t j
    let holds := s0.fld (F.TSQ_CMP_CTL_ARMED t j) = 1
      ∧ (if s0.fld (F.TSQ_CMP_CTL_COND t j) = 1 then v ≤ x else x = v)
    (holds → Reaches (Sys2Proof.Machine.exec (.comparatorFire t j ac) s) (fun u =>
        u.fld (F.TSQ_CMP_CTL_ARMED t j) = 0 ∧ u.fld (F.TSQ_CMP_CTL_FIRED t j) = 1
          ∧ (s0.fld (F.TSQ_CMP_CTL_FREEZE t j) = 1 → ∀ k, k < 8 → u.fld (F.TSQ_EVCNT_SEL_FROZEN t k) = 1)
          ∧ (∀ st, st < 8 → (s0.fld (F.TSQ_CMP_CTL_BRK_STREAMS t j)).testBit st = true → s0.stState t st = stRUN →
              u.stState t st = stFENCE ∧ (u.stream t st).drain = some (.brk brkCMP))
          ∧ (∀ st c, st < 8 → (s0.fld (F.TSQ_CMP_CTL_BRK_STREAMS t j)).testBit st = true → s0.stState t st = stFENCE →
              (s0.stream t st).drain = some (.insn c) → u.stState t st = stFENCE ∧ (u.stream t st).drain = some (.brk brkCMP))
          ∧ (∀ st, st < 8 → (s0.fld (F.TSQ_CMP_CTL_BRK_STREAMS t j)).testBit st = true →
              (s0.stState t st = stWAITTOKEN ∨ s0.stState t st = stWAITFRAME ∨ s0.stState t st = stWAITQUEUE) →
              u.stState t st = stBREAK ∧ (u.stream t st).broken = some (s0.stState t st))
          ∧ (∀ st, st < 8 → (s0.fld (F.TSQ_CMP_CTL_BRK_STREAMS t j)).testBit st = false →
              u.stream t st = s0.stream t st ∧ u.reg (R.TSQ_STREAM_STATUS t st) = s0.reg (R.TSQ_STREAM_STATUS t st))
          ∧ OnlyChanges [.strm, .evt, .host] (fun b => logReg b ∨ b = R.TSQ_CMP_CTL t j
              ∨ (∃ k, k < 8 ∧ b = R.TSQ_EVCNT_SEL t k) ∨ ∃ st, st < 8 ∧ b = R.TSQ_STREAM_STATUS t st) s0 u))
      ∧ (¬holds → Sys2Proof.Machine.exec (.comparatorFire t j ac) s = .next s)

/-! ## Streams: control from outside -/

/-- A stream that a start applies to: IDLE, HALTED or HALTED_ERR (R62). -/
def stoppedStream (s : State) (t : Fin 144) (st : Nat) : Prop :=
  s.stState t st = stIDLE ∨ s.stState t st = stHALTED ∨ s.stState t st = stHALTEDERR

/-- A write of the register at `a` from `s` to `u` changes nothing but what is named, and what a note of the write leaves (R284,
R407). -/
def WriteChanges (parts : List Part) (touch : Nat → Prop) (s u : State) : Prop :=
  OnlyChanges (.evt :: .host :: parts) (fun b => touch b ∨ logReg b ∨ b = R.MBX_STATUS) s u

/-- The compute dies have their core rails: no thermal trip stands and the factory record is good (R379, R436). -/
def diesPowered (s : State) : Prop := s.mod.tripped = false ∧ s.fw.facBad = false

/-- TSQ_CTL.START (R57, R58, R62), whoever writes it: where no start PC is misaligned or beyond the program memory, no binding is 3 and no engine
would have two owners, each stopped stream named starts at its start PC with scalar registers, loop stack and instruction count
cleared, its frame state left, and every other stream is left alone; a start that names VXE 3 starts none and sets CFG_ERR. On a die without its rail nothing starts (R379,
R436). -/
def Obligations.StreamStart : Prop :=
  ∀ (m : Master) (t : Fin 144) (mask : BitVec 8) (s : State),
    let starts (st : Nat) : Prop := st < 8 ∧ mask.toNat.testBit st = true ∧ stoppedStream s t st
    (diesPowered s → (∀ st, starts st → s.fld (F.TSQ_STREAM_START_PC t st) % 8 = 0 ∧ s.fld (F.TSQ_STREAM_START_PC t st) < 0x600000
          ∧ s.fld (F.TSQ_STREAM_CFG_VXE t st) ≠ 3
          ∧ ∀ o, o < 8 → o ≠ st → (starts o ∨ ¬stoppedStream s t o) → s.fld (F.TSQ_STREAM_CFG_VXE t o) ≠ 0 →
              s.fld (F.TSQ_STREAM_CFG_VXE t o) ≠ s.fld (F.TSQ_STREAM_CFG_VXE t st)) →
        Reaches (Sys2Proof.Machine.exec (.tsqCtlStart m t mask) s) (fun u =>
          (∀ st, starts st → RunsAt u t st (s.fld (F.TSQ_STREAM_START_PC t st)) []
              ∧ (∀ n, u.sreg t st n = 0 ∨ 32 ≤ n) ∧ u.fld (F.TSQ_STREAM_ICOUNT_ICOUNT t st) = 0
              ∧ u.reg (R.TSQ_STREAM_FRAME t st) = s.reg (R.TSQ_STREAM_FRAME t st)
              ∧ u.reg (R.TSQ_STREAM_SLIP t st) = s.reg (R.TSQ_STREAM_SLIP t st))
            ∧ (∀ st, st < 8 → ¬starts st → u.stream t st = s.stream t st
              ∧ u.reg (R.TSQ_STREAM_STATUS t st) = s.reg (R.TSQ_STREAM_STATUS t st)
              ∧ u.reg (R.TSQ_STREAM_ICOUNT t st) = s.reg (R.TSQ_STREAM_ICOUNT t st)
              ∧ ∀ n, n < 32 → u.reg (R.TSQ_SREG t st n) = s.reg (R.TSQ_SREG t st n))
            ∧ WriteChanges [.strm] (fun b => ∃ st, starts st ∧ (b = R.TSQ_STREAM_STATUS t st ∨ b = R.TSQ_STREAM_ICOUNT t st
                ∨ ∃ n, n < 32 ∧ b = R.TSQ_SREG t st n)) s u))
      ∧ (diesPowered s → (∃ st, starts st ∧ s.fld (F.TSQ_STREAM_CFG_VXE t st) = 3) →
          Reaches (Sys2Proof.Machine.exec (.tsqCtlStart m t mask) s) (fun u => u.fld (F.TSQ_CTL_CFG_ERR t) = 1
            ∧ WriteChanges [] (fun b => b = R.TSQ_CTL t) s u))
      ∧ (¬diesPowered s → Reaches (Sys2Proof.Machine.exec (.tsqCtlStart m t mask) s) (WriteChanges [] (fun _ => False) s))

/-- Halting, resuming and writing a tile's registers from outside (R62, R76, R94, R98). HALT stops a running stream with reason CTL
at once or after its drain and leaves a stopped one alone; RESUME sets a broken stream running, under STEP for one instruction, or back to the wait a comparator broke (the model's choice, log
entry 117);
UNFREEZE lets the event counters count; a token write waits for the next ac; a scalar register is written only while its stream is
stopped or broken, S0 never. Each leaves all else as it is, but for the note of a write during a job (R284). -/
def Obligations.StreamControl : Prop :=
  ∀ (m : Master) (t : Fin 144) (st : Fin 8) (s : State),
    let one : BitVec 8 := BitVec.ofNat 8 (2 ^ st.val)
    let own (b : Nat) : Prop := b = R.TSQ_STREAM_STATUS t st
    let nothing (c : Instr) : Prop := Reaches (Sys2Proof.Machine.exec c s) (WriteChanges [] (fun _ => False) s)
    (s.stState t st = stRUN → Reaches (Sys2Proof.Machine.exec (.tsqCtlHalt m t one) s) (fun u =>
        Stops s u t st haltCTL ∧ u.pc t st = s.pc t st ∧ OtherStreams s u t st ∧ WriteChanges [.strm] own s u))
      ∧ (stoppedStream s t st → nothing (.tsqCtlHalt m t one))
      ∧ (s.stState t st = stBREAK → Reaches (Sys2Proof.Machine.exec (.tsqCtlResume m t one) s) (fun u =>
          ((s.stream t st).broken = none → u.stState t st = stRUN)
            ∧ (∀ w, (s.stream t st).broken = some w → w < 16 → u.stState t st = w) ∧ u.pc t st = s.pc t st ∧ (u.stream t st).loops = (s.stream t st).loops
            ∧ (u.stream t st).step = s.flag (F.TSQ_CTL_STEP t) ∧ (u.stream t st).drain = none
            ∧ OtherStreams s u t st ∧ WriteChanges [.strm] own s u))
      ∧ (s.stState t st ≠ stBREAK → nothing (.tsqCtlResume m t one))
      ∧ Reaches (Sys2Proof.Machine.exec (.tsqCtlUnfreeze m t) s) (fun u =>
          (∀ k, k < 8 → u.fld (F.TSQ_EVCNT_SEL_FROZEN t k) = 0)
            ∧ WriteChanges [] (fun b => ∃ k, k < 8 ∧ b = R.TSQ_EVCNT_SEL t k) s u)
      ∧ (∀ (k : BitVec 12) (v : BitVec 64), Reaches (Sys2Proof.Machine.exec (.tsqTokenWrite m t k v) s) (fun u =>
          (u.tile t).tokNext = (s.tile t).tokNext ++ [TokUpd.put k.toNat (v.toNat % 65536) (v.toNat / 65536 % 256)]
            ∧ WriteChanges [.tiles] (fun _ => False) s u))
      ∧ ∀ (n : BitVec 5) (v : BitVec 64),
          (stoppedStream s t st ∨ s.stState t st = stBREAK → Reaches (Sys2Proof.Machine.exec (.tsqSregWrite m t st n v) s) (fun u =>
            u.sreg t st n.toNat = (if n = 0 then 0 else v)
              ∧ WriteChanges [] (fun b => n ≠ 0 ∧ b = R.TSQ_SREG t st n.toNat) s u))
          ∧ (¬(stoppedStream s t st ∨ s.stState t st = stBREAK) → nothing (.tsqSregWrite m t st n v))

/-- The ends of a stream's drains and queue waits (R61, R62, R82, R94), once nothing of the stream is in flight: a halting stream
halts with its reason; a TOK.WAIT that drained first issues then, and takes a count that suffices; a breaking stream enters BREAK
and logs the cause, a tag break remembering not to fire again on the instruction. A drain with something in flight goes on. -/
def Obligations.DrainsEnd : Prop :=
  ∀ (p : StreamAt) (s : State), s.stState p.t p.st = stFENCE →
    let s0 := s.advance p.t p.ac
    let t := p.t
    let st := p.st
    let h := s0.stream t st
    (s0.drained t st = true →
      (∀ r, r < 16 → h.drain = some (.halt r) → Reaches (Sys2Proof.Machine.exec (.fenceDrainEnd p) s) (fun u =>
          u.stState t st = (if r ≤ haltCTL then stHALTED else stHALTEDERR)
            ∧ u.fld (F.TSQ_STREAM_STATUS_HALT_REASON t st) = r ∧ u.pc t st = s0.pc t st ∧ OtherStreams s0 u t st
            ∧ OnlyChanges [.strm] (fun b => b = R.TSQ_STREAM_STATUS t st) s0 u))
      ∧ (∀ (i : Iss) (a : TokArgs), i.t = t → i.st = st → h.drain = some (.insn (.tokWait i a)) →
          let k := (a.token.toNat + (s0.sreg t st a.sa.toNat).toNat % 4096) % 4096
          let met := countMet s0 t k st
          let alone := lowerWaits s0 t k st = []
          a.n.toNat ≤ met → Reaches (Sys2Proof.Machine.exec (.fenceDrainEnd p) s) (fun u =>
            u.sreg t st a.sd.toNat = tokenValue a.sd (met - a.n.toNat) (s0.fld (F.TSQ_TOKEN_FLAGS t k))
              ∧ (∃ us, (u.tile t).tokPend = (s0.tile t).tokPend ++ us ++ [TokUpd.sub k a.n.toNat] ∧ (alone → us = []))
              ∧ Issued s0 u t st ∧ GoesOn s0 u t st (s0.pc t st + 8) h.loops
              ∧ (alone → OtherStreams s0 u t st ∧ OnlyChanges [.strm, .tiles, .evt, .host] (fun b => streamReg t st b
                  ∨ (a.sd ≠ 0 ∧ b = R.TSQ_SREG t st a.sd.toNat)) s0 u)))
      ∧ (∀ c, (s.stream t st).drain = some (.brk c) → Reaches (Sys2Proof.Machine.exec (.streamBreak p) s) (fun u =>
          u.stState t st = stBREAK ∧ u.pc t st = s0.pc t st ∧ (u.stream t st).drain = none
            ∧ (u.stream t st).tagSkip = decide (c = brkTAG)
            ∧ Logged s0 u (s0.tile t).seen t 0x020A false [(1, st), (4, s0.pc t st), (1, c)] ∧ OtherStreams s0 u t st
            ∧ OnlyChanges [.strm, .evt, .host] (fun b => b = R.TSQ_STREAM_STATUS t st ∨ logReg b) s0 u)))
    ∧ (s0.drained t st = false → Sys2Proof.Machine.exec (.fenceDrainEnd p) s = .next s0)

/-! ## Commands posted to the engines -/

/-- The matrix-, sparse- and layout-class instructions: issue, operands, the queue, the descriptors copied, and whether a claim
entry goes into the matrix queue too (R82, R101, R209, R210, R241). -/
def postRule : Instr → Option (Iss × PostArgs × EngQueue × Nat × Bool)
  | .mma i a => some (i, a, .mxa, 3, false)
  | .mmaLoads i a => some (i, a, .mxa, 2, false)
  | .mmaEw i a => some (i, a, .mxa, 4, false)
  | .mmaMp i a => some (i, a, .mxa, 3, false)
  | .spMm i a => some (i, a, .spe, 3, true)
  | .spSpgemm i a => some (i, a, .spe, 4, false)
  | .spMerge i a => some (i, a, .spe, 2, false)
  | .spHarrow i a => some (i, a, .spe, 4, true)
  | .spSort i a => some (i, a, .spe, 1, false)
  | .lxCopy i a => some (i, a, .lxe, 3, false)
  | .lxCvt i a => some (i, a, .lxe, 3, false)
  | .lxWin i a => some (i, a, .lxe, 4, false)
  | .lxPrune i a => some (i, a, .lxe, 2, false)
  | .lxGather i a => some (i, a, .lxe, 4, false)
  | .lxScat i a => some (i, a, .lxe, 4, false)
  | .lxFp64s i a => some (i, a, .lxe, 3, false)
  | .lxFill i a => some (i, a, .lxe, 2, false)
  | .qPost i a => some (i, a, .post, 3, false)
  | .grPost i a => some (i, a, .post, 2, false)
  | _ => none

/-- The entry a posted command leaves in its queue: the command, its descriptor block's bytes as tile memory holds them at the
copy, the poison of each of its words, and the ac of the copy (R82). -/
def postedEntry (s : State) (c : Instr) (t off descs : Nat) : QCmd :=
  { c := c, desc := s.bytes (tileAddr t off) (64 * descs)
    bad := (wordsOf (tileAddr t off) (64 * descs)).map (fun w => (s.tag w).bad), ac := (s.tile t).ac }

/-- A matrix-, sparse-, layout- or post-class instruction that issues with nothing of its stream in flight, space in its queue and its
descriptor block at a multiple of 64 in tile memory is copied behind the queue's commands, a claiming sparse command into the matrix
queue as well, and the stream goes on; where a queue is full it waits in WAIT_QUEUE and copies nothing; with something in flight it
drains first (R61, R81, R82, R210). No memory byte changes. -/
def Obligations.CommandsArePosted : Prop :=
  ∀ (c : Instr) (i : Iss) (a : PostArgs) (q : EngQueue) (descs : Nat) (claim : Bool) (s : State),
    postRule c = some (i, a, q, descs, claim) → Issues s i →
    let s0 := s.advance i.t i.ac
    let h := s0.tile i.t
    let off := (s0.sreg i.t i.st a.sa.toNat).toNat
    let e := postedEntry s0 c i.t off descs
    let full := q.cap ≤ (h.queue q).length ∨ (claim = true ∧ 16 ≤ h.mxaQ.length)
    (s0.drained i.t i.st = true → ¬full → off % 64 = 0 → off + 64 * descs ≤ 0x600000 →
        Reaches (Sys2Proof.Machine.exec c s) (fun u =>
          (u.tile i.t).queue q = h.queue q ++ [e]
            ∧ (claim = true → ∃ x, (u.tile i.t).mxaQ = h.mxaQ ++ [x] ∧ x.c = c)
            ∧ (claim = false → q ≠ .mxa → (u.tile i.t).mxaQ = h.mxaQ)
            ∧ Issued s0 u i.t i.st ∧ GoesOn s0 u i.t i.st (s0.pc i.t i.st + 8) (s0.stream i.t i.st).loops
            ∧ OtherStreams s0 u i.t i.st ∧ u.mem = s0.mem ∧ u.vregs = s0.vregs ∧ u.mxa = s0.mxa ∧ u.acc = s0.acc
            ∧ u.que = s0.que ∧ u.gre = s0.gre ∧ u.pending = s0.pending))
      ∧ (s0.drained i.t i.st = true → full → Reaches (Sys2Proof.Machine.exec c s) (fun u =>
          u.stState i.t i.st = stWAITQUEUE ∧ (u.stream i.t i.st).waitInsn = some c ∧ u.pc i.t i.st = s0.pc i.t i.st
            ∧ OtherStreams s0 u i.t i.st ∧ OnlyChanges [.strm] (streamReg i.t i.st) s0 u))
      ∧ (s0.drained i.t i.st = false → Reaches (Sys2Proof.Machine.exec c s) (fun u =>
          u.stState i.t i.st = stFENCE ∧ (u.stream i.t i.st).drain = some (.insn c)
            ∧ OtherStreams s0 u i.t i.st ∧ OnlyChanges [.strm] (streamReg i.t i.st) s0 u))

/-- A command that waits in WAIT_QUEUE is copied into its queue once the queue has space, and its stream goes on; while it has none
the stream waits on (R82). -/
def Obligations.QueueWaitEnds : Prop :=
  ∀ (p : StreamAt) (c : Instr) (i : Iss) (a : PostArgs) (q : EngQueue) (descs : Nat) (claim : Bool) (s : State),
    postRule c = some (i, a, q, descs, claim) → i.t = p.t → i.st = p.st → s.stState p.t p.st = stWAITQUEUE →
    (s.stream p.t p.st).waitInsn = some c →
    let s0 := s.advance p.t p.ac
    let h := s0.tile p.t
    let off := (s0.sreg p.t p.st a.sa.toNat).toNat
    let full := q.cap ≤ (h.queue q).length ∨ (claim = true ∧ 16 ≤ h.mxaQ.length)
    (¬full → NoBreak s0 p.t p.st → off % 64 = 0 → off + 64 * descs ≤ 0x600000 →
        Reaches (Sys2Proof.Machine.exec (.queueSpaceFree p) s) (fun u =>
          (u.tile p.t).queue q = h.queue q ++ [postedEntry s0 c p.t off descs]
            ∧ (u.stream p.t p.st).waitInsn = none
            ∧ GoesOn s0 u p.t p.st (s0.pc p.t p.st + 8) (s0.stream p.t p.st).loops
            ∧ OtherStreams s0 u p.t p.st ∧ u.mem = s0.mem ∧ u.pending = s0.pending))
      ∧ (full → Sys2Proof.Machine.exec (.queueSpaceFree p) s = .next s0)

/-! ## The tide unit -/

/-- Replay capture is off: no record of a capture is written (R461). -/
def captureOff (s : State) : Prop := s.fld F.EVT_CAP_CTL_EN = 0

/-- What a tide command may change beside the tide unit's own registers: the tide unit's record and the log. -/
def tideOnly (s u : State) : Prop := OnlyChanges [.tide, .evt, .host] (fun b => blockReg 0 b ∨ logReg b) s u

/-- Tides `first` to `last` have been taken at an instant in ps (R20, R21, R54): the count and the instant are recorded, and the
tides are on their way to the consumers. -/
def tidesTaken (s u : State) (time first last kind inst : Nat) : Prop :=
  u.fld F.TIDE_COUNT_COUNT = last % 2 ^ 48 ∧ u.fld F.TIDE_INSTANT_LAST = inst / 1000 % 2 ^ 64
    ∧ u.tide.deliv = s.tide.deliv ++ [{ first := first, last := last, kind := kind }]
    ∧ u.tide.now = max s.tide.now (250 * time) ∧ tideOnly s u

/-- A tide period, and the window after a predicted instant, in ps (R22, R26). -/
def tidePeriod (s : State) : Nat := 10000 * s.fld F.TIDE_PERIOD_PERIOD

def tideWindow (s : State) : Nat := 10000 * s.fld F.TIDE_LEAD_WINDOW

/-- The device is not in Retention, in which its tide unit is stopped (R394). -/
def tideRuns (s : State) : Prop := s.fld F.PWR_STATE_CUR ≠ 3

/-- The flywheel's period once 64 accepted marks are known (number and instant, newest first): within 0.5 ppm of their mean interval
(R36; that the mean stands for their frequency is the model's reading, log entry 26). -/
def NearMeanInterval (marks : List (Nat × Nat)) (period : Nat) : Prop :=
  ∀ a b, marks[0]? = some a → marks[63]? = some b →
    let time := a.2 - b.2
    let tides := max 1 (a.1 - b.1)
    2000000 * tides ≤ time →
      1999999 * time ≤ 2000000 * (tides * period) ∧ 2000000 * (tides * period) ≤ 2000001 * time

/-- How tides come to be taken (R30, R31, R36, R37, R38, R39, R42), with capture off. The earliest pending mark whose instant has
come raises the count to its number where that is the successor or the count is 0, locks the unit, records the mark's offset from the
prediction and predicts the next instant; a number already reached counts in REPEAT and raises nothing. A pending jump takes every
tide up to its number and sets JUMPED, or counts in REPEAT where the count is past it. A master takes its next tide at its own
instant, one PERIOD after the last. A unit locked to marks takes the tide it missed when the window closes, and counts the miss; for
a window that had a gapped mark it coasts without a miss, and a held count is neither raised nor missed; a backup that counts its
third miss in a row takes over with the next epoch. In Retention the unit is stopped (R394): local time alone goes on, and no mark,
instant, window or echo does anything. -/
def Obligations.TidesAreTaken : Prop :=
  (∀ (time : Nat) (s : State), captureOff s → tideRuns s →
    let now := max s.tide.now (250 * time)
    let c := s.fld F.TIDE_COUNT_COUNT
    (∀ (p : PendTide) (rest : List PendTide), s.tide.pend = p :: rest → p.jump = false → p.inst ≤ now →
        (∀ q ∈ rest, q.jump = false → p.inst ≤ q.inst) →
        (c < p.num → (c = 0 ∨ p.num = c + 1) → Reaches (Sys2Proof.Machine.exec (.pendingTideTake time) s) (fun u =>
            tidesTaken s u time p.num p.num 0 p.inst ∧ u.fld F.TIDE_STATUS_STATE = tdLOCKED
              ∧ u.fld F.TIDE_STATUS_MISS_RUN = 0 ∧ u.tide.pend = rest ∧ u.tide.locked = true
              ∧ (s.tide.locked = true → u.fld F.TIDE_OFFSET_LAST = ofSigned 32 ((p.mark : Int) - s.tide.flyNext))
              ∧ u.tide.marks = ((p.num, p.mark) :: s.tide.marks).take 64
              ∧ u.tide.flyNext = p.mark + u.tide.flyPer ∧ NearMeanInterval u.tide.marks u.tide.flyPer))
          ∧ (p.num ≤ c → Reaches (Sys2Proof.Machine.exec (.pendingTideTake time) s) (fun u =>
            u.fld F.TIDE_COUNT_COUNT = c ∧ u.tide.deliv = s.tide.deliv ∧ u.tide.pend = rest
              ∧ u.fld F.TIDE_ERRCNT0_REPEAT = satAdd 16 (s.fld F.TIDE_ERRCNT0_REPEAT) 1 ∧ tideOnly s u)))
      ∧ (∀ (p : PendTide) (rest : List PendTide), s.tide.pend = p :: rest → p.jump = true → p.inst ≤ now →
          (∀ q ∈ rest, q.jump = true → p.inst ≤ q.inst) →
          (c < p.num → Reaches (Sys2Proof.Machine.exec (.tideJump time) s) (fun u =>
            tidesTaken s u time (c + 1) p.num 2 p.inst ∧ u.fld F.TIDE_STATUS_JUMPED = 1
              ∧ u.fld F.TIDE_STATUS_STATE = tdLOCKED ∧ u.tide.pend = rest
              ∧ u.fld F.TIDE_ERRCNT1_JUMP = satAdd 16 (s.fld F.TIDE_ERRCNT1_JUMP) 1
              ∧ Logged s u c srcTIDE 0x0108 true [(8, c), (8, p.num)]))
          ∧ (p.num ≤ c → Reaches (Sys2Proof.Machine.exec (.tideJump time) s) (fun u =>
            u.fld F.TIDE_COUNT_COUNT = c ∧ u.tide.deliv = s.tide.deliv ∧ u.tide.pend = rest
              ∧ u.fld F.TIDE_ERRCNT0_REPEAT = satAdd 16 (s.fld F.TIDE_ERRCNT0_REPEAT) 1 ∧ tideOnly s u)))
      ∧ (∀ i, s.tide.masterNext = some i → s.fld F.TIDE_STATUS_STATE = tdMASTER → i ≤ now →
          Reaches (Sys2Proof.Machine.exec (.masterTideTake time) s) (fun u =>
            tidesTaken s u time (c + 1) (c + 1) 0 i ∧ u.tide.masterNext = some (i + tidePeriod s)))
      ∧ (let st := s.fld F.TIDE_STATUS_STATE
        let misses := satAdd 8 (s.fld F.TIDE_STATUS_MISS_RUN) 1
        s.fld F.TIDE_CTL_ENABLE = 1 → s.tide.locked = true → st ≠ tdUNSYNC → st ≠ tdDEPOSED → st ≠ tdMASTER →
          s.tide.flyNext + tideWindow s ≤ now →
          let next := s.tide.flyNext + s.tide.flyPer
          (s.tide.held = true → Reaches (Sys2Proof.Machine.exec (.missWindowClose time) s) (fun u =>
              u.fld F.TIDE_COUNT_COUNT = c ∧ u.tide.deliv = s.tide.deliv ∧ u.fld F.TIDE_STATUS_STATE = st
                ∧ u.fld F.TIDE_STATUS_MISS_RUN = s.fld F.TIDE_STATUS_MISS_RUN ∧ u.tide.flyNext = next ∧ u.tide.held = false))
          ∧ (s.tide.held = false → s.tide.pend = [] → s.fld F.TIDE_CTL_COAST_EN = 1 → s.tide.gapHere = true →
              Reaches (Sys2Proof.Machine.exec (.missWindowClose time) s) (fun u =>
                tidesTaken s u time (c + 1) (c + 1) 1 now ∧ u.fld F.TIDE_STATUS_STATE = tdCOAST ∧ u.tide.flyNext = next
                  ∧ u.fld F.TIDE_STATUS_MISS_RUN = s.fld F.TIDE_STATUS_MISS_RUN
                  ∧ u.fld F.TIDE_ERRCNT0_MISSED = s.fld F.TIDE_ERRCNT0_MISSED))
          ∧ (s.tide.held = false → s.tide.pend = [] → s.fld F.TIDE_CTL_COAST_EN = 1 → s.tide.gapHere = false →
          let coasted (u : State) : Prop := tidesTaken s u time (c + 1) (c + 1) 1 now
            ∧ u.fld F.TIDE_STATUS_MISS_RUN = misses
            ∧ u.fld F.TIDE_ERRCNT0_MISSED = satAdd 16 (s.fld F.TIDE_ERRCNT0_MISSED) 1
            ∧ u.tide.flyNext = next
            ∧ (s.fld F.TIDE_CTL_COAST_MAX ≠ 0 → s.fld F.TIDE_CTL_COAST_MAX ≤ misses → u.tide.limitRun = true
                ∧ (s.tide.limitRun = false → u.fld F.TIDE_STATUS_COAST_LIMIT = 1))
          (s.fld F.TIDE_CTL_ROLE ≠ 2 → Reaches (Sys2Proof.Machine.exec (.missWindowClose time) s) (fun u =>
              coasted u ∧ u.fld F.TIDE_STATUS_STATE = tdCOAST))
            ∧ (s.fld F.TIDE_CTL_ROLE = 2 → s.tide.masterSeen = false → s.tide.bMiss = 2 →
              Reaches (Sys2Proof.Machine.exec (.missWindowClose time) s) (fun u =>
                coasted u ∧ u.fld F.TIDE_STATUS_STATE = tdMASTER ∧ u.fld F.TIDE_STATUS_TAKEOVER = 1
                  ∧ u.fld F.TIDE_STATUS_EPOCH = (s.fld F.TIDE_STATUS_EPOCH + 1) % 256
                  ∧ u.fld F.TIDE_STATUS_SOURCE = s.fld F.FAB_ID_ID
                  ∧ u.tide.masterNext = some next)))))
    ∧ ∀ (time : Nat) (sym : TideSym) (s : State), s.fld F.PWR_STATE_CUR = 3 →
      let stands (time : Nat) (c : Instr) : Prop := Reaches (Sys2Proof.Machine.exec c s) (fun u =>
        u.tide = { s.tide with now := max s.tide.now (250 * time) } ∧ OnlyChanges [.tide] (fun b => b = R.TIDE_TIME) s u)
      stands sym.time (.tideMarkRx sym) ∧ stands sym.time (.tideEchoRx sym) ∧ stands time (.pendingTideTake time)
        ∧ stands time (.tideJump time) ∧ stands time (.missWindowClose time) ∧ stands time (.masterMarkEmit time)
        ∧ stands time (.masterTideTake time) ∧ stands time (.echoSend time)

/-- The count a mark is judged against (R37): the highest number among the tides accepted and not yet taken, at least the count. -/
def judged (s : State) : Nat := (s.tide.pend.map (fun p => p.num)).foldl max (s.fld F.TIDE_COUNT_COUNT)

/-- A mark of the master's tree that meets every condition of R28, from the source and epoch in force, at an enabled unit that is no
master and has a count: a successor is accepted for its instant, arrival less link delay plus TTT (R25), and raises the count only
then; a number already reached is counted in REPEAT and, but in UNSYNC and DEPOSED, holds the count; either is forwarded on DOWN_A
with HOP raised and TTT set to the instant less its transmission (R25, R28, R37). A mark whose check value fails is counted in REJECT
and does nothing else. -/
def Obligations.TideMarksAreJudged : Prop :=
  ∀ (sym : TideSym) (s : State), s.fld F.TIDE_CTL_ENABLE = 1 → tideRuns s →
    let m := symFields sym.bits
    let now := max s.tide.now (250 * sym.time)
    let delay := s.fld (F.TIDE_LINK_DELAY sym.port)
    let inst := now + 250 * m.ttt - delay
    let st := s.fld F.TIDE_STATUS_STATE
    (m.check = crc8 sym.bits.toNat → m.typ = 0 → m.hop ≤ 8 → m.tide ≠ 0 → s.fld (F.TIDE_LINK_VALID sym.port) = 1 →
      m.source = s.fld F.TIDE_IDS_MASTER_ID → sym.port.val = s.fld F.TIDE_TREE_UP_A → s.fld F.TIDE_TREE_UP_A_EN = 1 →
      st ≠ tdMASTER → judged s ≠ 0 → m.epoch = s.fld F.TIDE_STATUS_EPOCH → m.source = s.fld F.TIDE_STATUS_SOURCE →
      delay < 250 * m.ttt →
      let forwarded (u : State) : Prop := u.tide.out = s.tide.out
        ++ ((List.range 16).filter (fun p => (s.fld F.TIDE_TREE_DOWN_A).testBit p)).map (fun p =>
          (p, mkSymbol m.tide m.source m.epoch (m.hop + 1) 0 ((inst - now) / 250), now))
      (m.tide = judged s + 1 → Reaches (Sys2Proof.Machine.exec (.tideMarkRx sym) s) (fun u =>
          u.tide.pend = s.tide.pend ++ [{ num := m.tide, inst := inst, jump := false, mark := inst }]
            ∧ u.fld F.TIDE_COUNT_COUNT = s.fld F.TIDE_COUNT_COUNT ∧ u.fld F.TIDE_STATUS_STATE = st ∧ forwarded u ∧ tideOnly s u))
        ∧ (m.tide ≤ judged s → Reaches (Sys2Proof.Machine.exec (.tideMarkRx sym) s) (fun u =>
          u.tide.pend = s.tide.pend ∧ u.fld F.TIDE_COUNT_COUNT = s.fld F.TIDE_COUNT_COUNT
            ∧ u.fld F.TIDE_ERRCNT0_REPEAT = satAdd 16 (s.fld F.TIDE_ERRCNT0_REPEAT) 1
            ∧ u.fld F.TIDE_STATUS_STATE = (if st = tdUNSYNC ∨ st = tdDEPOSED then st else tdHOLD)
            ∧ forwarded u ∧ tideOnly s u)))
    ∧ (m.check ≠ crc8 sym.bits.toNat → Reaches (Sys2Proof.Machine.exec (.tideMarkRx sym) s) (fun u =>
        u.fld F.TIDE_ERRCNT1_REJECT = satAdd 16 (s.fld F.TIDE_ERRCNT1_REJECT) 1 ∧ u.tide.out = s.tide.out
          ∧ u.tide.pend = s.tide.pend ∧ u.fld F.TIDE_COUNT_COUNT = s.fld F.TIDE_COUNT_COUNT ∧ tideOnly s u))

/-- The tide symbols a device sends and the delays and skews it records. A master whose next instant is LEAD or less away sends that
tide's mark, once, on DOWN_A (or DOWN_B for the backup's ID), with its own ID, HOP 1 and TTT = LEAD (R26, R30). Every ECHO_EVERY
tides an echo with the count and the time since its instant goes out on the tree's ports (R41). A measured link delay is half the
round trip less the far end's turnaround and becomes valid (R24). A received echo of a tide this device has taken gives the
neighbour's instant less its own (R41). -/
def Obligations.TideSymbolsAndSkew : Prop :=
  ∀ (time : Nat) (s : State), tideRuns s →
    let now := max s.tide.now (250 * time)
    let c := s.fld F.TIDE_COUNT_COUNT
    let own := s.fld F.FAB_ID_ID
    let epoch := s.fld F.TIDE_STATUS_EPOCH
    let lead := s.fld F.TIDE_LEAD_LEAD
    let sent (mask : Nat) (b : BitVec 112) : List (Nat × BitVec 112 × Nat) :=
      ((List.range 16).filter (fun p => mask.testBit p)).map (fun p => (p, b, now))
    (∀ i, s.tide.masterNext = some i → s.fld F.TIDE_STATUS_STATE = tdMASTER → i ≤ now + 10000 * lead →
        s.tide.emitted ≠ c + 1 → Reaches (Sys2Proof.Machine.exec (.masterMarkEmit time) s) (fun u =>
          u.tide.out = s.tide.out ++ sent (if own = s.fld F.TIDE_IDS_BACKUP_ID ∧ own ≠ s.fld F.TIDE_IDS_MASTER_ID then
              s.fld F.TIDE_TREE_DOWN_B else s.fld F.TIDE_TREE_DOWN_A) (mkSymbol (c + 1) own epoch 1 0 (40 * lead))
            ∧ u.tide.emitted = c + 1 ∧ tideOnly s u))
      ∧ (∀ first last inst rest, s.tide.instants = (first, last, inst) :: rest → s.fld F.TIDE_CTL_ENABLE = 1 →
          s.fld F.TIDE_CTL_ECHO_EVERY ≠ 0 → s.fld F.TIDE_CTL_ECHO_EVERY ≤ s.tide.sinceEcho →
          Reaches (Sys2Proof.Machine.exec (.echoSend time) s) (fun u => ∃ mask,
            u.tide.out = s.tide.out ++ sent mask (mkSymbol c own epoch 0 1 ((now - inst) / 250))
              ∧ (∀ p, p < 16 → (mask.testBit p = true ↔ (s.fld F.TIDE_TREE_UP_A_EN = 1 ∧ s.fld F.TIDE_TREE_UP_A = p)
                  ∨ (s.fld F.TIDE_TREE_UP_B_EN = 1 ∧ s.fld F.TIDE_TREE_UP_B = p)
                  ∨ (s.fld F.TIDE_TREE_DOWN_A).testBit p = true ∨ (s.fld F.TIDE_TREE_DOWN_B).testBit p = true))
              ∧ u.tide.sinceEcho = 0 ∧ tideOnly s u))
      ∧ (∀ (port : Fin 16) (trip turn : Nat), (trip - turn) / 2 < 2 ^ 24 →
          Reaches (Sys2Proof.Machine.exec (.linkDelayMeasure port (some (trip, turn)) time) s) (fun u =>
            u.fld (F.TIDE_LINK_DELAY port) = (trip - turn) / 2 ∧ u.fld (F.TIDE_LINK_VALID port) = 1 ∧ tideOnly s u))
      ∧ (∀ (port : Fin 16), Reaches (Sys2Proof.Machine.exec (.linkDelayMeasure port none time) s) (fun u =>
          u.fld (F.TIDE_LINK_VALID port) = 0 ∧ tideOnly s u))
      ∧ ∀ (port : Fin 16) (bits : BitVec 112) (inst : Nat),
          let m := symFields bits
          s.fld F.TIDE_CTL_ENABLE = 1 → m.check = crc8 bits.toNat → m.typ = 1 → s.fld (F.TIDE_LINK_VALID port) = 1 →
          (∃ first last, s.tide.instants.find? (fun p => decide (p.1 ≤ m.tide) && decide (m.tide ≤ p.2.1))
            = some (first, last, inst)) →
          Reaches (Sys2Proof.Machine.exec (.tideEchoRx { port := port, bits := bits, time := time }) s) (fun u =>
            u.fld (F.TIDE_LINK_NBR_SKEW port) = ofSigned 32 ((now : Int) - s.fld (F.TIDE_LINK_DELAY port) - 250 * m.ttt - inst)
              ∧ u.fld (F.TIDE_LINK_DELAY port) = s.fld (F.TIDE_LINK_DELAY port) ∧ tideOnly s u)

/-- TIDE_PERIOD (R22): a write while ENABLE is 1 is refused and sets CFG_ERR; while it is 0, a period from 2,000 to 100,000,000 is
set, in units of 10 ns: a master takes its next tide one such period after each. -/
def Obligations.TidePeriodWrite : Prop :=
  ∀ (m : Master) (v : BitVec 64) (s : State),
    (s.fld F.TIDE_CTL_ENABLE = 1 → Reaches (Sys2Proof.Machine.exec (.tidePeriodWrite m v) s) (fun u =>
        u.reg R.TIDE_PERIOD = s.reg R.TIDE_PERIOD ∧ u.fld F.TIDE_STATUS_CFG_ERR = 1
          ∧ WriteChanges [] (fun b => b = R.TIDE_STATUS) s u))
      ∧ (s.fld F.TIDE_CTL_ENABLE = 0 → 2000 ≤ v.toNat % 2 ^ 27 → v.toNat % 2 ^ 27 ≤ 100000000 →
          Reaches (Sys2Proof.Machine.exec (.tidePeriodWrite m v) s) (fun u =>
            u.fld F.TIDE_PERIOD_PERIOD = v.toNat % 2 ^ 27 ∧ WriteChanges [] (fun b => b = R.TIDE_PERIOD) s u))
      ∧ ∀ (time i : Nat), captureOff s → tideRuns s → s.tide.masterNext = some i → s.fld F.TIDE_STATUS_STATE = tdMASTER → i ≤ 250 * time →
          Reaches (Sys2Proof.Machine.exec (.masterTideTake time) s) (fun u =>
            u.tide.masterNext = some (i + 10000 * s.fld F.TIDE_PERIOD_PERIOD))

/-- The other settings of the tide unit. TIDE_LEAD takes a lead of 200 to 1,600 and a window of 10 to 1,600 units whose sum is at
most half the period, and else sets CFG_ERR (R26). TIDE_LOAD sets the count of a disabled master, never backward (R20, R54). ENABLE
starts a master one PERIOD from now and any other unit in UNSYNC (R30, R40), and stops it in DISABLED. ROLE 3 is refused; ROLE of a
disabled unit is taken; ROLE 1 at an enabled unit makes it master with the next epoch (R34). A device deposed since its last write
of ROLE is enabled as a recipient (R33; the model's choice, log entry 116). -/
def Obligations.TideConfiguration : Prop :=
  ∀ (m : Master) (v : BitVec 64) (role : BitVec 2) (time : Nat) (s : State),
    let now := max s.tide.now (250 * time)
    let lead := v.toNat % 2 ^ 11
    let window := v.toNat / 2 ^ 16 % 2 ^ 11
    let fits := 200 ≤ lead ∧ lead ≤ 1600 ∧ 10 ≤ window ∧ window ≤ 1600 ∧ 2 * (lead + window) ≤ s.fld F.TIDE_PERIOD_PERIOD
    let only (r : Nat) (u : State) : Prop := WriteChanges [] (fun b => b = r) s u
    let tideOnly (s u : State) : Prop := WriteChanges [.tide] (blockReg 0) s u
    let enabled := s.fld F.TIDE_CTL_ENABLE
    (fits → Reaches (Sys2Proof.Machine.exec (.tideLeadWrite m v) s) (fun u =>
        u.fld F.TIDE_LEAD_LEAD = lead ∧ u.fld F.TIDE_LEAD_WINDOW = window ∧ only R.TIDE_LEAD u))
      ∧ (¬fits → Reaches (Sys2Proof.Machine.exec (.tideLeadWrite m v) s) (fun u =>
          u.fld F.TIDE_STATUS_CFG_ERR = 1 ∧ only R.TIDE_STATUS u))
      ∧ (let n := v.toNat % 2 ^ 48
        let may := s.fld F.TIDE_CTL_ROLE = 1 ∧ enabled = 0 ∧ s.fld F.TIDE_COUNT_COUNT ≤ n
        (may → Reaches (Sys2Proof.Machine.exec (.tideLoad m v) s) (fun u =>
            u.fld F.TIDE_COUNT_COUNT = n ∧ u.tide.deliv = s.tide.deliv ∧ only R.TIDE_COUNT u))
          ∧ (¬may → Reaches (Sys2Proof.Machine.exec (.tideLoad m v) s) (fun u =>
            u.fld F.TIDE_STATUS_CFG_ERR = 1 ∧ only R.TIDE_STATUS u)))
      ∧ (s.tideCfgOk = true → enabled = 0 → Reaches (Sys2Proof.Machine.exec (.tideCtlEnable m 1 time) s) (fun u =>
          u.fld F.TIDE_CTL_ENABLE = 1
            ∧ (s.fld F.TIDE_CTL_ROLE = 1 → s.tide.deposed = false → u.fld F.TIDE_STATUS_STATE = tdMASTER
                ∧ u.fld F.TIDE_STATUS_SOURCE = s.fld F.FAB_ID_ID ∧ u.tide.masterNext = some (now + tidePeriod s))
            ∧ (s.fld F.TIDE_CTL_ROLE ≠ 1 ∨ s.tide.deposed = true → u.fld F.TIDE_STATUS_STATE = tdUNSYNC)
            ∧ u.fld F.TIDE_COUNT_COUNT = s.fld F.TIDE_COUNT_COUNT ∧ tideOnly s u))
      ∧ (s.tideCfgOk = false → enabled = 0 → Reaches (Sys2Proof.Machine.exec (.tideCtlEnable m 1 time) s) (fun u =>
          u.fld F.TIDE_CTL_ENABLE = 0 ∧ u.fld F.TIDE_STATUS_CFG_ERR = 1 ∧ tideOnly s u))
      ∧ Reaches (Sys2Proof.Machine.exec (.tideCtlEnable m 0 time) s) (fun u =>
          u.fld F.TIDE_CTL_ENABLE = 0 ∧ u.fld F.TIDE_STATUS_STATE = tdDISABLED ∧ u.tide.pend = []
            ∧ u.fld F.TIDE_COUNT_COUNT = s.fld F.TIDE_COUNT_COUNT ∧ tideOnly s u)
      ∧ Reaches (Sys2Proof.Machine.exec (.tideCtlRole m role time) s) (fun u =>
          (role.toNat = 3 → u.fld F.TIDE_STATUS_CFG_ERR = 1 ∧ u.fld F.TIDE_CTL_ROLE = s.fld F.TIDE_CTL_ROLE)
            ∧ (role.toNat ≠ 3 → u.fld F.TIDE_CTL_ROLE = role.toNat)
            ∧ (role.toNat = 1 → enabled = 1 → s.fld F.TIDE_STATUS_STATE ≠ tdMASTER → u.fld F.TIDE_STATUS_STATE = tdMASTER
                ∧ u.fld F.TIDE_STATUS_EPOCH = (s.fld F.TIDE_STATUS_EPOCH + 1) % 256
                ∧ (s.tide.locked = false → u.tide.masterNext = some (now + tidePeriod s)))
            ∧ (role.toNat ≠ 3 → role.toNat ≠ 1 → enabled = 1 → s.fld F.TIDE_STATUS_STATE = tdMASTER →
                u.fld F.TIDE_STATUS_STATE = tdUNSYNC)
            ∧ u.fld F.TIDE_COUNT_COUNT = s.fld F.TIDE_COUNT_COUNT ∧ tideOnly s u)

/-- With no queue energy counted and no budget group, tides taken reach every consumer in order (R21, R39, R92, R152, R347): the
delivered tide is the last of them, each stream in TOK.WAIT has waited as many tides more, each tile's census counts are in its
snapshot registers and start again from 0, and a bucket whose deadline has come unready has missed it. -/
def Obligations.TidesAreDelivered : Prop :=
  ∀ (time : Nat) (x : TakenTide) (xs : List TakenTide) (s : State), s.tide.deliv = x :: xs → x.first ≤ x.last →
    s.fld F.PWR_QENERGY_EN = 0 → s.fld F.PWR_CTL_BUDGET_EN = 0 →
    Reaches (Sys2Proof.Machine.exec (.tideDelivery time) s) (fun u =>
      u.tide.deliv = xs ∧ u.tide.delivered = x.last ∧ u.fld F.TIDE_COUNT_COUNT = s.fld F.TIDE_COUNT_COUNT
        ∧ (∀ t st, t < 144 → st < 8 → (u.stream t st).waitTides = (s.stream t st).waitTides
            + (if s.stState t st = stWAITTOKEN then x.last + 1 - x.first else 0))
        ∧ (∀ t, t < 144 → u.fld (F.VXE_CENSUS_TIDE_TIDE t) = (x.last - 1) % 2 ^ 48
            ∧ ∀ f, f < 10 → u.fld (F.VXE_CENSUS_CONV_CONV t f) = s.censusCount t f 0 % 2 ^ 48 ∧ u.censusCount t f 0 = 0)
        ∧ u.gre.buckets.map (fun b => b.missed) = s.gre.buckets.map (fun b =>
            b.missed || (decide (b.deadline ≠ 0) && decide (b.deadline ≤ x.last) && !b.ready))
        ∧ OnlyChanges [.tide, .host, .strm, .gre, .pwr, .census] (fun b => b = R.TIDE_TIME ∨ b = R.MBX_PBA
            ∨ ∃ t, t < 144 ∧ ((∃ i, i < 8 ∧ b = R.TSQ_EVCNT_VALUE t i) ∨ b = R.VXE_CENSUS_TIDE t
              ∨ ∃ f, f < 10 ∧ (b = R.VXE_CENSUS_CONV t f ∨ b = R.VXE_CENSUS_SAT t f ∨ b = R.VXE_CENSUS_VANISH t f))) s u)

/-! ## Vector engines -/

/-- The stream issues a vector instruction to engine `e`, which it owns (R58). -/
def VectorIssues (s : State) (i : Iss) (e : Nat) : Prop := Issues s i ∧ (s.advance i.t i.ac).vxeOf i.t i.st = some e

/-- What an issued vector instruction leaves in flight: the event `op`, `off` ac after the issue, at its place within that ac (3 is
the write-back of R85), in issue order. -/
def Scheduled (s0 u : State) (i : Iss) (e off phase : Nat) (op : VOp) : Prop :=
  VEvent.mk ((s0.tile i.t).ac + off) phase (s0.tile i.t).vseq e i.st (s0.pc i.t i.st) op ∈ (u.tile i.t).vev

/-- What issuing a vector instruction does beside: the stream goes on, what was in flight stays, and nothing changes but the
stream's progress, the tile's in-flight work and scoreboard, the audit records and the log, and what `parts` and `extra` name;
registers, masks and memory hold what they held (R85). -/
def vectorRuns (s0 u : State) (i : Iss) (parts : List Part) (extra : Nat → Prop) : Prop :=
  Issued s0 u i.t i.st ∧ GoesOn s0 u i.t i.st (s0.pc i.t i.st + 8) (s0.stream i.t i.st).loops ∧ OtherStreams s0 u i.t i.st
    ∧ (∀ v ∈ (s0.tile i.t).vev, v ∈ (u.tile i.t).vev)
    ∧ OnlyChanges ([.strm, .tiles, .engs, .evt, .host] ++ parts)
        (fun b => streamReg i.t i.st b ∨ b = R.TSQ_AUDIT_CNT i.t ∨ extra b) s0 u

/-- `vectorRuns` of an instruction that touches no other part. -/
def vectorGoesOn (s0 u : State) (i : Iss) (extra : Nat → Prop) : Prop := vectorRuns s0 u i [] extra

/-- The element count n(w) of the vector length (R139). -/
def elementCount (s : State) (t e w : Nat) : Nat :=
  if w = 64 then s.fld (F.VXE_VL_VL t e) / 2 else s.fld (F.VXE_VL_VL t e) * 32 / w

/-- Element `k` is active (R144): below n(w), and under ME its mask bit is set or poisoned. -/
def activeElement (s : State) (t e : Nat) (mr : BitVec 4) (me : Bool) (w k : Nat) : Bool :=
  decide (k < elementCount s t e w) && (!me || (s.mreg t e mr.toNat).bits.getLsbD k || (s.mreg t e mr.toNat).poison.getLsbD k)

/-- The poison a poisoned mask bit gives an element it governs (R176). -/
def maskPoison (s : State) (t e : Nat) (mr : BitVec 4) (me : Bool) (k : Nat) : Bool :=
  me && (s.mreg t e mr.toNat).poison.getLsbD k

/-- The elements that land (R144): an active element with its value and poison, an inactive one as a clean zero under Z and not
at all without. -/
def landsWhere (act : Nat → Bool) (z : Bool) (w : Nat) (value : Nat → Nat) (bad : Nat → Bool) (els : List VEl) : Prop :=
  ∀ k, k < 8192 / w → els.filter (fun x => x.i == k) =
    (if act k then [{ i := k, v := value k, p := bad k }] else if z then [{ i := k, v := 0, p := false }] else [])

/-- `landsWhere` over the active elements of an instruction, with the poison of their mask bits. -/
def landsElements (s : State) (t e : Nat) (mr : BitVec 4) (me z : Bool) (w : Nat) (value : Nat → Nat) (bad : Nat → Bool)
    (els : List VEl) : Prop :=
  landsWhere (activeElement s t e mr me w) z w value (fun k => bad k || maskPoison s t e mr me k) els

/-- The conditions of an instruction's active elements together. -/
def conditions (s : State) (t e : Nat) (mr : BitVec 4) (me : Bool) (w : Nat) (fl : Nat → Nat) : Nat :=
  (List.range (8192 / w)).foldl (fun a k => if activeElement s t e mr me w k then a ||| fl k else a) 0

/-- Integer results of an operation on patterns of width `w` (R145): wrapping sum, difference and product, signed minimum and
maximum. -/
def intRule (op w x y : Nat) : Nat :=
  match op with
  | 0 => (x + y) % 2 ^ w
  | 1 => ofSigned w ((x : Int) - y)
  | 2 => x * y % 2 ^ w
  | 3 => if toSigned w x ≤ toSigned w y then x else y
  | _ => if toSigned w x ≤ toSigned w y then y else x

/-- VADD (0), VSUB (1), VMUL (2), VMIN (3), VMAX (4) on elements of a type: integers as `intRule`, floating point by the format's
operation, which also gives the conditions. -/
def arithRule (op ty x y : Nat) : Nat × Nat :=
  if ty ≤ 2 then (intRule op (tyWidth ty) x y, 0) else match fmtOf ty with
    | some f => fpOp f op x y
    | none => (0, 0)

/-- Latencies of R87 for the arithmetic of a type. -/
def arithLatency (mul : Bool) (ty : Nat) : Nat :=
  if ty = 6 then 8 else if 3 ≤ ty then 4 else if mul then (if ty = 2 then 5 else 4) else 2

/-- The element-wise vector instructions: issue and operands, latency (R87), legality of the type, the number of vector sources
read (VA, VB, VC), and from the sources' elements the result and its conditions (R142, R145). -/
def vecRule : Instr → Option (Iss × VArgs × Nat × Bool × Nat × (Nat → Nat → Nat → Nat × Nat))
  | .vmov i a => some (i, a, 2, decide (a.ty.toNat ≤ 6), 1, fun x _ _ => (x, 0))
  | .vand i a => some (i, a, 2, decide (a.ty.toNat ≤ 6), 2, fun x y _ => (x &&& y, 0))
  | .vor i a => some (i, a, 2, decide (a.ty.toNat ≤ 6), 2, fun x y _ => (x ||| y, 0))
  | .vxor i a => some (i, a, 2, decide (a.ty.toNat ≤ 6), 2, fun x y _ => (x ^^^ y, 0))
  | .vnot i a => some (i, a, 2, decide (a.ty.toNat ≤ 6), 1, fun x _ _ => (2 ^ tyWidth a.ty.toNat - 1 - x, 0))
  | .vshl i a => some (i, a, 2, decide (a.ty.toNat ≤ 2), if a.x.getLsbD 9 then 1 else 2, fun x y _ =>
      (x * 2 ^ (if a.x.getLsbD 9 then a.x.toNat % 64 else y) % 2 ^ tyWidth a.ty.toNat, 0))
  | .vshr i a => some (i, a, 2, decide (a.ty.toNat ≤ 2), if a.x.getLsbD 9 then 1 else 2, fun x y _ =>
      let c := if a.x.getLsbD 9 then a.x.toNat % 64 else y
      (if a.x.getLsbD 8 then ofSigned (tyWidth a.ty.toNat) (toSigned (tyWidth a.ty.toNat) x / ((2 ^ c : Nat) : Int))
        else x / 2 ^ c, 0))
  | .vadd i a => some (i, a, arithLatency false a.ty.toNat, decide (a.ty.toNat ≤ 6), 2, fun x y _ => arithRule 0 a.ty.toNat x y)
  | .vsub i a => some (i, a, arithLatency false a.ty.toNat, decide (a.ty.toNat ≤ 6), 2, fun x y _ => arithRule 1 a.ty.toNat x y)
  | .vmul i a => some (i, a, arithLatency true a.ty.toNat, decide (a.ty.toNat ≤ 6), 2, fun x y _ => arithRule 2 a.ty.toNat x y)
  | .vmin i a => some (i, a, arithLatency false a.ty.toNat, decide (a.ty.toNat ≤ 6), 2, fun x y _ => arithRule 3 a.ty.toNat x y)
  | .vmax i a => some (i, a, arithLatency false a.ty.toNat, decide (a.ty.toNat ≤ 6), 2, fun x y _ => arithRule 4 a.ty.toNat x y)
  | .vfma i a => some (i, a, if a.ty.toNat = 6 then 8 else 5, decide (3 ≤ a.ty.toNat) && decide (a.ty.toNat ≤ 6), 3,
      fun x y z => match fmtOf a.ty.toNat with
        | some f => f.fma x y z
        | none => (0, 0))
  | _ => none

/-- An element-wise vector instruction of a legal type issued to its stream's engine lands in VD after its latency: for each active
element the result on the sources' elements as read at issue, poisoned where a source element or its mask bit is; inactive elements are
kept or cleared as Z says; the conditions of the active elements become visible with it (R85, R87, R142, R144 to R146, R176). -/
def Obligations.VectorElementwise : Prop :=
  ∀ (c : Instr) (i : Iss) (a : VArgs) (e lat srcs : Nat) (legal : Bool) (f : Nat → Nat → Nat → Nat × Nat) (s : State),
    vecRule c = some (i, a, lat, legal, srcs, f) → legal = true → VectorIssues s i e →
    let s0 := s.advance i.t i.ac
    let w := tyWidth a.ty.toNat
    let va := s0.vreg i.t e a.va.toNat
    let vb := s0.vreg i.t e a.vb.toNat
    let vc := s0.vreg i.t e a.vc.toNat
    let r (k : Nat) : Nat × Nat := f (va.el w k) (vb.el w k) (vc.el w k)
    let bad (k : Nat) : Bool := va.elPoison w k || (decide (2 ≤ srcs) && vb.elPoison w k) || (decide (3 ≤ srcs) && vc.elPoison w k)
    let fl := conditions s0 i.t e a.mr a.me w (fun k => (r k).2)
    Reaches (Sys2Proof.Machine.exec c s) (fun u =>
      (∃ els, Scheduled s0 u i e lat 3 (.wbV a.vd.toNat w els)
          ∧ landsElements s0 i.t e a.mr a.me a.z w (fun k => (r k).1) bad els)
        ∧ (fl ≠ 0 → Scheduled s0 u i e lat 3 (.status fl)) ∧ vectorGoesOn s0 u i (fun _ => False))

/-- Less, equal and unordered of two elements of a type (R147): numeric order in floating point, −0 equal to +0, with a NaN
unordered; signed order of integers. -/
def compareRule (ty x y : Nat) : Bool × Bool × Bool :=
  match fmtOf ty with
  | some f =>
    let u := f.decode x
    let v := f.decode y
    let nan := u.isNan || v.isNan
    (!nan && u.numLt v, !nan && !u.numLt v && !v.numLt u, nan)
  | none => (decide (toSigned (tyWidth ty) x < toSigned (tyWidth ty) y), decide (toSigned (tyWidth ty) x = toSigned (tyWidth ty) y),
      false)

/-- The condition X[2:0] of VCMP (R147): EQ, NE, LT, LE, GT, GE, UNORD, ORD. -/
def conditionHolds (c : Nat) (r : Bool × Bool × Bool) : Bool :=
  match c with
  | 0 => r.2.1
  | 1 => r.2.2 || !r.2.1
  | 2 => r.1
  | 3 => r.1 || r.2.1
  | 4 => !r.1 && !r.2.1 && !r.2.2
  | 5 => !r.1 && !r.2.2
  | 6 => r.2.2
  | _ => !r.2.2

/-- VCMP (R147): 2 ac after issue (3 for FP64) each active element's mask bit takes whether the condition holds, and nothing else of
the instruction is in flight, so a compare raises no status. A NaN makes every condition false but NE and UNORD; zeros of either sign
are equal in every floating-point type. -/
def Obligations.VectorCompare : Prop :=
  (∀ (i : Iss) (a : VArgs) (e : Nat) (s : State), VectorIssues s i e → a.ty.toNat ≤ 6 →
    let s0 := s.advance i.t i.ac
    let w := tyWidth a.ty.toNat
    let va := s0.vreg i.t e a.va.toNat
    let vb := s0.vreg i.t e a.vb.toNat
    let lat := if a.ty.toNat = 6 then 3 else 2
    Reaches (Sys2Proof.Machine.exec (.vcmp i a) s) (fun u =>
      (∃ els, (u.tile i.t).vev = VEvent.mk ((s0.tile i.t).ac + lat) 3 (s0.tile i.t).vseq e i.st (s0.pc i.t i.st)
            (.wbM (a.vd.toNat % 16) els) :: (s0.tile i.t).vev
          ∧ ∀ k, k < 8192 / w → els.filter (fun x => x.1 == k) =
            (if activeElement s0 i.t e a.mr a.me w k then
                [(k, conditionHolds (a.x.toNat % 8) (compareRule a.ty.toNat (va.el w k) (vb.el w k)),
                  va.elPoison w k || vb.elPoison w k || maskPoison s0 i.t e a.mr a.me k)]
              else if a.z then [(k, false, false)] else []))
        ∧ vectorGoesOn s0 u i (fun _ => False)))
    ∧ (∀ ty c x y f, fmtOf ty = some f → (f.decode x).isNan = true ∨ (f.decode y).isNan = true →
        (conditionHolds c (compareRule ty x y) = true ↔ c = 1 ∨ c = 6))
    ∧ ∀ ty, 3 ≤ ty → ty ≤ 6 → conditionHolds 0 (compareRule ty 0 (2 ^ (tyWidth ty - 1))) = true

/-- The mask operations write all 1,024 bits of a mask register 2 ac after issue, whatever VL, ME and Z are (R142, R144): VMSET
clears them, sets them or sets those below a scalar; VMAND, VMOR and VMNOT combine masks, a result bit poisoned where a source bit
is. -/
def Obligations.VectorMasks : Prop :=
  ∀ (i : Iss) (a : VArgs) (e : Nat) (s : State), VectorIssues s i e →
    let s0 := s.advance i.t i.ac
    let ma := s0.mreg i.t e (a.va.toNat % 16)
    let mb := s0.mreg i.t e (a.vb.toNat % 16)
    let n := (s0.sreg i.t i.st (a.vc.toNat % 32)).toNat
    let writes (c : Instr) (bit bad : Nat → Bool) : Prop := Reaches (Sys2Proof.Machine.exec c s) (fun u =>
      Scheduled s0 u i e 2 3 (.wbM (a.vd.toNat % 16) ((List.range 1024).map (fun k => (k, bit k, bad k))))
        ∧ vectorGoesOn s0 u i (fun _ => False))
    let both (k : Nat) : Bool := ma.poison.getLsbD k || mb.poison.getLsbD k
    (a.x.toNat % 4 = 0 → writes (.vmset i a) (fun _ => false) (fun _ => false))
      ∧ (a.x.toNat % 4 = 1 → writes (.vmset i a) (fun _ => true) (fun _ => false))
      ∧ (a.x.toNat % 4 = 2 → writes (.vmset i a) (fun k => decide (k < n)) (fun _ => false))
      ∧ writes (.vmand i a) (fun k => ma.bits.getLsbD k && mb.bits.getLsbD k) both
      ∧ writes (.vmor i a) (fun k => ma.bits.getLsbD k || mb.bits.getLsbD k) both
      ∧ writes (.vmnot i a) (fun k => !ma.bits.getLsbD k) (fun k => ma.poison.getLsbD k)

/-- Where element `j` of a shuffle of `n` elements comes from (R154): none is a zero fill, else VA (false) or VB (true) and the
position. -/
def shuffleRule (pat n k j : Nat) : Option (Bool × Nat) :=
  match pat with
  | 0 => some (false, n - 1 - j)
  | 1 => some (false, (j + k) % n)
  | 2 => if k ≤ j then some (false, j - k) else none
  | 3 => if j + k < n then some (false, j + k) else none
  | 4 => some (decide (j % 2 = 1), j / 2)
  | 5 => some (decide (j % 2 = 1), j / 2 + n / 2)
  | 6 => if 2 * j < n then some (false, 2 * j) else some (true, 2 * j - n)
  | _ => if 2 * j + 1 < n then some (false, 2 * j + 1) else some (true, 2 * j + 1 - n)

/-- Scalar transfers and permutations. VBCAST lands a scalar's low bits in every active element after 3 ac. VMOV.S writes the element
of index X to SD, with a poisoned one counted as an escape, and 0 with OOR_LANE for an index at or above n(w) (R155). VSETVL sets VL,
at most 256. VSTAT.S writes the status bits to SD and clears them where X[0] asks. VPERM and VSHUF land after 6 ac: VPERM the element of
VA that VB's element names, a clean 0 and OOR_LANE where it is at or above n(w) (R153); VSHUF the pattern of R154, a rotation of no
elements writing nothing. -/
def Obligations.VectorTransfersAndPermutations : Prop :=
  ∀ (i : Iss) (a : VArgs) (e : Nat) (s : State), VectorIssues s i e → a.ty.toNat ≤ 6 →
    let s0 := s.advance i.t i.ac
    let w := tyWidth a.ty.toNat
    let n := elementCount s0 i.t e w
    let va := s0.vreg i.t e a.va.toNat
    let vb := s0.vreg i.t e a.vb.toNat
    let sc := (s0.sreg i.t i.st (a.vc.toNat % 32)).toNat
    let sd := a.vd.toNat % 32
    let toSd (b : Nat) : Prop := sd ≠ 0 ∧ b = R.TSQ_SREG i.t i.st sd
    let lands (c : Instr) (lat : Nat) (value : Nat → Nat) (bad : Nat → Bool) (fl : Nat → Nat) : Prop :=
      Reaches (Sys2Proof.Machine.exec c s) (fun u =>
        (∃ els, Scheduled s0 u i e lat 3 (.wbV a.vd.toNat w els) ∧ landsElements s0 i.t e a.mr a.me a.z w value bad els)
          ∧ (conditions s0 i.t e a.mr a.me w fl ≠ 0 →
              Scheduled s0 u i e lat 3 (.status (conditions s0 i.t e a.mr a.me w fl)))
          ∧ vectorGoesOn s0 u i (fun _ => False))
    let index (k : Nat) : Nat := vb.el w k % 2 ^ 32
    lands (.vbcast i a) 3 (fun _ => sc % 2 ^ w) (fun _ => false) (fun _ => 0)
      ∧ (a.x.toNat < n → Reaches (Sys2Proof.Machine.exec (.vmovS i a) s) (fun u =>
          u.sreg i.t i.st sd = (if sd = 0 then 0 else BitVec.ofNat 64 (va.el w a.x.toNat))
            ∧ u.fld (F.VXE_POISON_CNT_ESCAPES i.t e) = satAdd 32 (s0.fld (F.VXE_POISON_CNT_ESCAPES i.t e))
                (if va.elPoison w a.x.toNat then 1 else 0)
            ∧ vectorGoesOn s0 u i (fun b => toSd b ∨ b = R.VXE_POISON_CNT i.t e)))
      ∧ (n ≤ a.x.toNat → Reaches (Sys2Proof.Machine.exec (.vmovS i a) s) (fun u =>
          u.sreg i.t i.st sd = 0 ∧ Scheduled s0 u i e 3 3 (.status stOOR) ∧ vectorGoesOn s0 u i toSd))
      ∧ Reaches (Sys2Proof.Machine.exec (.vsetvl i a) s) (fun u =>
          u.fld (F.VXE_VL_VL i.t e) = min (if a.x.getLsbD 9 then a.x.toNat % 512 else sc) 256
            ∧ vectorGoesOn s0 u i (fun b => b = R.VXE_VL i.t e))
      ∧ Reaches (Sys2Proof.Machine.exec (.vstatS i a) s) (fun u =>
          u.sreg i.t i.st sd = (if sd = 0 then 0 else BitVec.ofNat 64 ((s0.reg (R.VXE_STATUS i.t e)).toNat % 65536))
            ∧ (a.x.getLsbD 0 = true → u.fld (fVxeStatus i.t e) = 0)
            ∧ (a.x.getLsbD 0 = false → u.reg (R.VXE_STATUS i.t e) = s0.reg (R.VXE_STATUS i.t e))
            ∧ vectorGoesOn s0 u i (fun b => toSd b ∨ b = R.VXE_STATUS i.t e))
      ∧ lands (.vperm i a) 6 (fun k => if index k < n then va.el w (index k) else 0)
          (fun k => vb.elPoison w k || (decide (index k < n) && va.elPoison w (index k)))
          (fun k => if index k < n then 0 else stOOR)
      ∧ (a.x.toNat % 16 = 1 → n = 0 → Reaches (Sys2Proof.Machine.exec (.vshuf i a) s) (fun u =>
          (u.tile i.t).vev = (s0.tile i.t).vev ∧ vectorGoesOn s0 u i (fun _ => False)))
      ∧ (a.x.toNat % 16 < 8 → ¬(a.x.toNat % 16 = 1 ∧ n = 0) →
          let from' (k : Nat) : Nat × Bool := match shuffleRule (a.x.toNat % 16) n sc k with
            | none => (0, false)
            | some (b, p) => if b then (vb.el w p, vb.elPoison w p) else (va.el w p, va.elPoison w p)
          lands (.vshuf i a) 6 (fun k => (from' k).1) (fun k => (from' k).2) (fun _ => 0))

/-- The event is logged among those of the step: its record is the first to arise since `s` (R450). -/
def LoggedFirst (s t : State) (tide src code : Nat) (host : Bool) (detail : List (Nat × Nat)) : Prop :=
  ∃ m, Logged s m tide src code host detail ∧ m.evt.waiting <+: t.evt.waiting
    ∧ (m.fld F.EVT_STATUS_LOST = 1 → t.fld F.EVT_STATUS_LOST = 1)

/-- VCVT (R148 to R151). Each active element that has its place in the narrower register, at the PART's place of it, is converted:
its exact value, for MX of its block's scale, is rounded to the destination's format; a narrowing MX also lands each block's scale
byte in VC. The census counts the clean conversions. -/
def Obligations.VectorConvert : Prop :=
  ∀ (i : Iss) (a : VArgs) (e : Nat) (s : State), VectorIssues s i e →
    let s0 := s.advance i.t i.ac
    let src := a.ty.toNat
    let dst := a.x.toNat % 16
    let ws := tyWidth src
    let wd := tyWidth dst
    let rz := decide (a.x.toNat / 16 % 4 = 1)
    let sat := a.x.getLsbD 6
    let mx := a.x.getLsbD 7
    let n := elementCount s0 i.t e (max ws wd)
    let off := if ws = wd then 0 else a.x.toNat / 256 % 4 * n
    let lat := if src = 6 ∨ dst = 6 then 6 else 4
    cvtPair src dst = true → a.x.toNat / 16 % 4 ≤ 1 → (mx = true → mxPair src dst = true) →
      let va := s0.vreg i.t e a.va.toNat
      let vc := s0.vreg i.t e a.vc.toNat
      let on (j : Nat) : Bool := activeElement s0 i.t e a.mr a.me (max ws wd) j
      let act (j : Nat) : Bool := on j && (ws == wd || decide (min ws wd * (off + j + 1) ≤ 8192))
      let from' (j : Nat) : Nat := if ws < wd then off + j else j
      let place (j : Nat) : Nat := if wd < ws then off + j else j
      let x (j : Nat) : Nat := va.el ws (from' j)
      let bad (j : Nat) : Bool := va.elPoison ws (from' j) || maskPoison s0 i.t e a.mr a.me j
      let block (j : Nat) : List Nat := (List.range n).filter (fun k => on k && k / 32 == j / 32)
      let scale (j : Nat) : Nat := mxScale dst ((block j).map (fun k => valueOf src (x k)))
      let result (j : Nat) : Cvt :=
        if mx = false then cvtTo dst rz sat false (valueOf src (x j))
        else if ws < wd then cvtTo dst rz sat false (mxUp src (vc.el 8 (j / 32)) (x j))
        else if scale j = 0xFF then ⟨0, 0, false, false⟩
        else cvtTo dst rz true true (mxDown dst (scale j) (valueOf src (x j)))
      let poison (j : Nat) : Bool := bad j || (mx && (if ws < wd then vc.elPoison 8 (j / 32) else (block j).any bad))
      let clean := (List.range n).filter (fun j => act j && !poison j)
      Reaches (Sys2Proof.Machine.exec (.vcvt i a) s) (fun u =>
        (∃ els, Scheduled s0 u i e lat 3 (.wbV a.vd.toNat wd els)
            ∧ ∀ j, j < n → act j = true → els.filter (fun y => y.i == place j) = [{ i := place j, v := (result j).bits, p := poison j }])
          ∧ (mx = true → wd < ws → ∃ els, Scheduled s0 u i e lat 3 (.wbV a.vc.toNat 8 els)
            ∧ ∀ j, j < n → on j = true → { i := j / 32, v := scale j, p := (block j).any bad : VEl } ∈ els)
          ∧ (∀ f, censusIndex src dst = some f → s0.fld (F.VXE_CENSUS_CTL_EN i.t) = 1 →
            u.censusCount i.t f 0 = (if clean = [] then s0.censusCount i.t f 0
              else satAdd 48 (s0.censusCount i.t f 0) clean.length))
          ∧ vectorRuns s0 u i [.census] (fun _ => False))

/-- A pairwise tree of `d` levels over the leaves from `2 ^ d * i` on, the lower half on the left (R162). -/
def pairTree (f : Nat → Nat → Nat) (leaf : Nat → Nat) : Nat → Nat → Nat
  | 0, i => leaf i
  | d + 1, i => f (pairTree f leaf d (2 * i)) (pairTree f leaf d (2 * i + 1))

/-- The element `k` and value `v` a maximum or minimum delivers over the active elements below `m` (R161, R164): the lowest-positioned
NaN as the canonical NaN, else the extreme of lowest index, −0.0 below +0.0. -/
def extremeAt (isMax : Bool) (ty m : Nat) (el : Nat → Nat) (act : Nat → Bool) (k v : Nat) : Prop :=
  let x (j : Nat) : FV := fmtFP32.decode (redElem ty (el j))
  let below (i j : Nat) : Prop := if ty ≤ 2 then toSigned (tyWidth ty) (el i) < toSigned (tyWidth ty) (el j)
    else (x i).totalLt (x j) = true
  let nan (j : Nat) : Prop := 2 < ty ∧ (x j).isNan = true
  k < m ∧ act k = true
    ∧ (if ∃ j, j < m ∧ act j = true ∧ nan j then v = fmtFP32.nanBits ∧ nan k ∧ ∀ j, j < k → act j = true → ¬nan j
      else v = redElem ty (el k) ∧ (∀ j, j < m → act j = true → ¬(if isMax then below k j else below j k))
        ∧ ∀ j, j < k → act j = true → if isMax then below j k else below k j)

/-- The reductions (R161 to R164). The result lands in element 0 (an argument form: index and value in elements 0 and 1) and clean
zeros in every other lane of VD: VRED.SUM and VRED.PROD the fixed tree over all positions with the identity at the inactive ones, the
integer sum that of the sign-extended elements modulo 2^32; maxima and minima the extreme of lowest index. The result is poisoned if
any active element is. With no active element the operation's identity lands and EMPTY is set. -/
def Obligations.VectorReductions : Prop :=
  ∀ (i : Iss) (a : VArgs) (e : Nat) (s : State), VectorIssues s i e →
    let s0 := s.advance i.t i.ac
    let ty := a.ty.toNat
    let w := tyWidth ty
    let m := 8192 / w
    let va := s0.vreg i.t e a.va.toNat
    let el (k : Nat) : Nat := va.el w k
    let act := activeElement s0 i.t e a.mr a.me w
    let some' := ∃ k, k < m ∧ act k = true
    let rw := if ty = 6 then 64 else 32
    let bad := (List.range m).any (fun k => act k && (va.elPoison w k || maskPoison s0 i.t e a.mr a.me k))
    let lands (c : Instr) (lat : Nat) (head : List (Nat × Bool)) (fl : Nat) : Prop :=
      Reaches (Sys2Proof.Machine.exec c s) (fun u =>
        Scheduled s0 u i e lat 3 (.wbV a.vd.toNat rw ((head.zipIdx.map (fun h => VEl.mk h.2 h.1.1 h.1.2))
            ++ (List.range (8192 / rw - head.length)).map (fun k => VEl.mk (head.length + k) 0 false)))
          ∧ (fl ≠ 0 → Scheduled s0 u i e lat 3 (.status fl)) ∧ vectorGoesOn s0 u i (fun _ => False))
    let tree (c : Instr) (op : Nat) : Prop :=
      let lat := if ty ≤ 2 then 8 else if ty = 6 then 20 else 12
      let leaf (k : Nat) : Nat := if act k then redElem ty (el k) else redIdentity op ty
      (some' → ∃ fl, lands c lat [(pairTree (fun x y => (redOp op ty x y).1) leaf (Nat.log2 m) 0, bad)] fl)
        ∧ (¬some' → lands c lat [(redEmpty op ty, false)] stEMPTY)
    let extreme (c arg : Instr) (isMax : Bool) : Prop :=
      let empty := redEmpty (if isMax then 4 else 3) ty
      (some' → ∃ k v, extremeAt isMax ty m el act k v ∧ lands c 8 [(v, bad)] 0 ∧ lands arg 10 [(k, bad), (v, bad)] 0)
        ∧ (¬some' → lands c 8 [(empty, false)] stEMPTY ∧ lands arg 10 [(0xFFFFFFFF, false), (empty, false)] stEMPTY)
    (ty ≤ 6 → tree (.vredSum i a) 0)
      ∧ (ty ≤ 2 → some' → lands (.vredSum i a) 8 [(ofSigned 32 (((List.range m).filter act).map
          (fun k => toSigned w (el k))).sum, bad)] 0)
      ∧ (3 ≤ ty → ty ≤ 6 → tree (.vredProd i a) 2)
      ∧ (ty ≤ 5 → extreme (.vredMax i a) (.vargMax i a) true ∧ extreme (.vredMin i a) (.vargMin i a) false)

/-- Position `k` of a scan after its levels below `j` (R166): from each level's state, a position combines with the one 2^level before
it while that one lies in its segment. -/
def scanPosition (kind ty : Nat) (seg : Nat → Nat) (start : Nat → ScanPos) : Nat → Nat → ScanPos
  | 0, k => start k
  | j + 1, k =>
    let p := scanPosition kind ty seg start j
    if 2 ^ j ≤ k ∧ seg k = seg (k - 2 ^ j) then scanCombine kind ty (p k) (p (k - 2 ^ j)) else p k

/-- The segment a position lies in (R165): as many as there are heads from position 1 up to it. -/
def segmentOf (seg : Bool) (heads : MReg) (k : Nat) : Nat :=
  ((List.range (k + 1)).filter (fun q => seg && decide (0 < q) && (heads.bits.getLsbD q || heads.poison.getLsbD q))).length

/-- The scans (R165 to R167). What is left in flight is the carry's read at L − 2 with every position combined in the fixed order; an
integer sum without segments holds in each position the sum of the active elements up to it modulo 2^32. -/
def Obligations.VectorScans : Prop :=
  ∀ (i : Iss) (a : VArgs) (e : Nat) (s : State), VectorIssues s i e →
    let s0 := s.advance i.t i.ac
    let ty := a.ty.toNat
    let w := tyWidth ty
    let n := elementCount s0 i.t e w
    let va := s0.vreg i.t e a.va.toNat
    let vb := s0.vreg i.t e a.vb.toNat
    let act := activeElement s0 i.t e a.mr a.me w
    let segOn := a.x.getLsbD 4
    let heads := s0.mreg i.t e (a.x.toNat % 16)
    let start (kind k : Nat) : ScanPos :=
      let sp := segOn && heads.poison.getLsbD k
      let mp := maskPoison s0 i.t e a.mr a.me k
      if act k then
        if kind = 4 then ScanPos.mk (redElem ty (va.el w k)) (redElem ty (vb.el w k)) (va.elPoison w k || vb.elPoison w k || mp || sp) 0
        else ScanPos.mk (redElem ty (va.el w k)) 0 (va.elPoison w k || mp || sp) 0
      else ScanPos.mk (if kind = 4 then 0x3F800000 else scanIdentity kind ty) 0 sp 0
    let pos (kind k : Nat) : ScanPos :=
      scanPosition kind ty (segmentOf segOn heads) (start kind) (Nat.log2 (8192 / w)) k
    let scans (c : Instr) (kind lat : Nat) : Prop := Reaches (Sys2Proof.Machine.exec c s) (fun u =>
      (∃ r, Scheduled s0 u i e (lat - 2) 2 (.scan r) ∧ r.kind = kind ∧ r.ty = ty ∧ r.n = n ∧ r.vd = a.vd.toNat ∧ r.z = a.z
          ∧ r.cin = a.x.getLsbD 5 ∧ r.cout = a.x.getLsbD 6 ∧ r.lin = a.x.getLsbD 7 ∧ r.lout = a.x.getLsbD 8
          ∧ r.c = (if a.x.getLsbD 9 then 1 else 0) ∧ r.lat = lat ∧ r.issue = (s0.tile i.t).ac
          ∧ r.act = (List.range n).map act
          ∧ r.ps = (List.range n).map (fun k => ((pos kind k).a, (pos kind k).b, (pos kind k).p)))
        ∧ vectorGoesOn s0 u i (fun _ => False))
    (2 ≤ ty → ty ≤ 5 → scans (.vscanSum i a) 0 14 ∧ scans (.vscanProd i a) 1 14 ∧ scans (.vscanMax i a) 2 14
        ∧ scans (.vscanMin i a) 3 14)
      ∧ (ty = 5 → scans (.vscanLr i a) 4 18)
      ∧ (ty = 2 → segOn = false → ∀ k, k < n → k < 8192 / w →
          (pos 0 k).a = (((List.range (k + 1)).filter act).map (fun q => va.el w q)).sum % 2 ^ 32)

/-- Norms and the soft maximum (R197 to R201). VNORM.RMS leaves its carry's read at 22 ac with the sum of squares over the fixed tree;
VNORM.MV without APPLY lands its state 28 ac after the issue, the count of lane 0 that of the active elements (with CIN, raised by
VB's), with APPLY (x − mean) × ρ from VB's lanes 1 and 4; VSMAX leaves its carries' read at L − 2 with z of the active elements and
counts them as results. -/
def Obligations.VectorNorms : Prop :=
  ∀ (i : Iss) (a : VArgs) (e : Nat) (s : State), VectorIssues s i e → 3 ≤ a.ty.toNat → a.ty.toNat ≤ 5 →
    let s0 := s.advance i.t i.ac
    let ty := a.ty.toNat
    let w := tyWidth ty
    let m := 8192 / w
    let va := s0.vreg i.t e a.va.toNat
    let vb := s0.vreg i.t e a.vb.toNat
    let x (k : Nat) : Nat := redElem ty (va.el w k)
    let act := activeElement s0 i.t e a.mr a.me w
    let live := (List.range m).filter act
    let bad (k : Nat) : Bool := va.elPoison w k || maskPoison s0 i.t e a.mr a.me k
    let sc := (s0.sreg i.t i.st (a.vc.toNat % 32)).toNat
    (ty ≠ 4 → Reaches (Sys2Proof.Machine.exec (.vnormRms i a) s) (fun u =>
        (∃ r, Scheduled s0 u i e 22 2 (.norm r) ∧ r.mode = a.x.toNat % 4 ∧ r.act = live.length ∧ r.n = sc / 2 ^ 32
            ∧ r.eps = sc % 2 ^ 32 ∧ r.c = (if a.x.getLsbD 2 then 1 else 0) ∧ r.cin = a.x.getLsbD 3 ∧ r.gain = a.x.getLsbD 4
            ∧ r.ty = ty ∧ r.vd = a.vd.toNat ∧ r.lat = 24 ∧ r.issue = (s0.tile i.t).ac ∧ r.qp = live.any bad
            ∧ r.q = (if live = [] then 0 else pairTree (fun p q => (fmtFP32.add p q).1)
                (fun k => if act k then (fmtFP32.mul (x k) (x k)).1 else 2 ^ 31) (Nat.log2 m) 0))
          ∧ vectorGoesOn s0 u i (fun _ => False)))
      ∧ (ty ≠ 4 → a.x.getLsbD 0 = false → a.x.getLsbD 1 = false → Reaches (Sys2Proof.Machine.exec (.vnormMv i a) s) (fun u =>
          (∃ els, Scheduled s0 u i e 28 3 (.wbV a.vd.toNat 32 els) ∧ els.length = 256
              ∧ els.filter (fun y => y.i == 0) = [{ i := 0, v := live.length, p := live.any bad }]
              ∧ ∀ k, 5 ≤ k → k < 256 → els.filter (fun y => y.i == k) = [{ i := k, v := 0, p := false }])
            ∧ vectorGoesOn s0 u i (fun _ => False)))
      ∧ (ty ≠ 4 → a.x.getLsbD 0 = true → Reaches (Sys2Proof.Machine.exec (.vnormMv i a) s) (fun u =>
          (∃ els, Scheduled s0 u i e 28 3 (.wbV a.vd.toNat w els) ∧ landsElements s0 i.t e a.mr a.me a.z w
              (fun k => (fromFP32 ty (fmtFP32.mul (fmtFP32.sub (x k) (vb.el 32 1)).1 (vb.el 32 4)).1).1)
              (fun k => va.elPoison w k || vb.elPoison 32 1 || vb.elPoison 32 4) els)
            ∧ vectorGoesOn s0 u i (fun _ => False)))
      ∧ let z (k : Nat) : Nat := if a.x.getLsbD 1 then (fmtFP32.mul (sc % 2 ^ 32) (x k)).1 else x k
        let smax (c : Instr) (pass lat : Nat) : Prop := Reaches (Sys2Proof.Machine.exec c s) (fun u =>
          (∃ r, Scheduled s0 u i e (lat - 2) 2 (.smax r) ∧ r.pass = pass ∧ r.zs = live.map (fun k => (k, z k, bad k))
              ∧ r.size = m ∧ r.cin = a.x.getLsbD 0 ∧ r.ty = ty ∧ r.vd = a.vd.toNat ∧ r.lat = lat ∧ r.issue = (s0.tile i.t).ac)
            ∧ u.fld (F.SFU_CNT_RESULTS_VALUE i.t) = satAdd 64 (s0.fld (F.SFU_CNT_RESULTS_VALUE i.t)) live.length
            ∧ vectorGoesOn s0 u i (fun b => b = R.SFU_CNT_RESULTS i.t))
        smax (.vsmaxP1 i a) 1 22 ∧ smax (.vsmaxP2 i a) 2 20

/-- The address of element `k` of a memory instruction (R156): the base register plus, for a gather or scatter, the element's signed
index times the element's bytes, else the signed displacement and the element's place. -/
def memoryElement (s : State) (i : Iss) (e : Nat) (a : VMemArgs) (indexed : Bool) (k : Nat) : Nat :=
  let bytes := tyWidth a.ty.toNat / 8
  ofSigned 64 (((s.sreg i.t i.st a.sa.toNat).toNat : Int) + (if indexed then
      toSigned 32 ((s.vreg i.t e a.vi.toNat).el 32 k) * (bytes : Int) else toSigned 17 a.var.toNat + ((k * bytes : Nat) : Int)))

/-- An element's address that does not fault (R157): within tile memory, or the near tier for a detached instruction, and aligned. -/
def goodElement (near : Bool) (bytes x : Nat) : Bool := decide (x < if near then 0x00861C468000 else 0x600000) && decide (x % bytes = 0)

/-- The memory-touching vector instructions (R85 to R89, R156 to R160). A load or gather reads tile memory 2 ac after its issue and lands
after 14 or 20 ac and 2 for each extra bank pass; a store or scatter writes 5 ac and 2 for each pass after its issue, with the data as
read at issue. A faulting element reads as 0 or stores nothing and is counted; MEM_FAULT comes with the result. A detached gather or
scatter is left to its engine, behind those issued before it. -/
def Obligations.VectorMemory : Prop :=
  ∀ (i : Iss) (a : VMemArgs) (up : Upset) (e : Nat) (s : State), VectorIssues s i e → a.ty.toNat ≤ 6 →
    let s0 := s.advance i.t i.ac
    let w := tyWidth a.ty.toNat
    let bytes := w / 8
    let rv := s0.vreg i.t e a.v.toNat
    let act (indexed : Bool) (k : Nat) : Bool :=
      activeElement s0 i.t e a.mr a.me w k && decide (k < 8192 / w) && (!indexed || decide (k < 256))
    let live (indexed : Bool) : List Nat := (List.range (8192 / w)).filter (act indexed)
    let addr := memoryElement s0 i e a
    let good (near indexed : Bool) (k : Nat) : Bool := goodElement near bytes (addr indexed k)
    let index (indexed : Bool) (k : Nat) : Bool := maskPoison s0 i.t e a.mr a.me k
      || (indexed && (s0.vreg i.t e a.vi.toNat).elPoison 32 k)
    let faults (near indexed : Bool) : Nat := ((live indexed).filter (fun k => !good near indexed k)).length
    let passes (indexed : Bool) : Nat := bankPasses (((live indexed).filter (good false indexed)).map (addr indexed))
    let zero (indexed : Bool) : List Nat := if a.z then (List.range (8192 / w)).filter (fun k => !act indexed k) else []
    let counted (near indexed : Bool) (u : State) : Prop :=
      u.fld (F.VXE_FAULT_CNT_ELEMENTS i.t e) = satAdd 32 (s0.fld (F.VXE_FAULT_CNT_ELEMENTS i.t e)) (faults near indexed)
        ∧ (faults near indexed ≠ 0 → u.fld (F.VXE_FAULT_INFO_VALID i.t e) = 1)
    let faultReg (b : Nat) : Prop := b = R.VXE_FAULT_CNT i.t e ∨ b = R.VXE_FAULT_INFO i.t e ∨ b = R.VXE_FAULT_ADDR i.t e
    let loads (c : Instr) (indexed : Bool) : Prop :=
      let lat := (if indexed then 20 else 14) + 2 * passes indexed
      Reaches (Sys2Proof.Machine.exec c s) (fun u =>
        Scheduled s0 u i e 2 0 (.load a.v.toNat w ((live indexed).map (fun k =>
            (k, if good false indexed k then some (addr indexed k) else none, good false indexed k && index indexed k)))
            (zero indexed) ((s0.tile i.t).ac + lat))
          ∧ (faults false indexed ≠ 0 → Scheduled s0 u i e lat 3 (.status stMEMFAULT))
          ∧ counted false indexed u ∧ vectorRuns s0 u i [.tags] faultReg)
    let stores (c : Instr) (indexed : Bool) : Prop :=
      let at' := 5 + 2 * passes indexed
      Reaches (Sys2Proof.Machine.exec c s) (fun u =>
        Scheduled s0 u i e at' 1 (.store w (((live indexed).filter (good false indexed)).map (fun k =>
            (addr indexed k, rv.el w k, index indexed k || rv.elPoison w k))))
          ∧ (faults false indexed ≠ 0 → Scheduled s0 u i e at' 3 (.status stMEMFAULT))
          ∧ counted false indexed u ∧ vectorRuns s0 u i [] faultReg)
    let detaches (c : Instr) (gather : Bool) : Prop := Reaches (Sys2Proof.Machine.exec c s) (fun u =>
      (u.eng i.t e).det = (s0.eng i.t e).det ++ [{
            gather := gather, reg := a.v.toNat, w := w
            els := ((live true).filter (good true true)).map (fun k => (k, addr true k, if gather then 0 else rv.el w k,
              index true k || (!gather && rv.elPoison w k)))
            zero := if gather then zero true else []
            faulted := (live true).filter (fun k => !good true true k), fault := decide (faults true true ≠ 0)
            badIdx := ((live true).filter (fun k => !good true true k)).any (fun k => (s0.vreg i.t e a.vi.toNat).lanePoison k)
            token := a.var.toNat / 32, seq := (s0.tile i.t).vseq, st := i.st }]
        ∧ counted true true u ∧ vectorRuns s0 u i [] (fun b => faultReg b ∨ b = R.VXE_STATUS i.t e))
    loads (.vld i a up) false ∧ loads (.vgather i a up) true ∧ stores (.vst i a) false ∧ stores (.vscatter i a) true
      ∧ detaches (.vgatherN i a) true ∧ detaches (.vscatterN i a) false

/-- The oldest detached instruction of an engine completes (R89, R159, R160): a gather's elements land as the near tier's bytes at their
addresses, faulting and cleared ones as zeros; a scatter's bytes are stored, at a shared address the later element's; its token is
produced with ERROR for a fault, POISON where an element or a faulting element's index was poisoned, and ZERO_WORK where nothing was
active. With none waiting nothing happens. -/
def Obligations.DetachedInstructionsComplete : Prop :=
  ∀ (t : Fin 144) (e : Fin 2) (ac : Nat) (up : Upset) (s : State),
    let s0 := s.advance t ac
    let s1 := s0.upset up
    ((s0.eng t e).det = [] → Sys2Proof.Machine.exec (.detachedComplete t e ac up) s = .next s0)
      ∧ ∀ d ds, (s0.eng t e).det = d :: ds →
        let bytes := d.w / 8
        let poisoned := d.els.any (fun x => x.2.2.2 || (d.gather && s1.poisoned x.2.1 bytes))
        let els := d.els.map (fun x => VEl.mk x.1 (s0.num x.2.1 bytes) (x.2.2.2 || s1.poisoned x.2.1 bytes))
          ++ (d.faulted ++ d.zero).map (fun k => VEl.mk k 0 false)
        let writer (b : Nat) : Option (Nat × Nat × Nat × Bool) :=
          d.els.reverse.find? (fun x => decide (x.2.1 ≤ b) && decide (b < x.2.1 + bytes))
        Reaches (Sys2Proof.Machine.exec (.detachedComplete t e ac up) s) (fun u =>
          (u.eng t e).det = ds
            ∧ (u.tile t).tokPend = (s0.tile t).tokPend ++ [.inc (d.token % 4096) 1 ((if d.fault then flagERROR else 0)
                + (if poisoned || d.badIdx then flagPOISON else 0) + (if d.els.isEmpty && !d.fault then flagZERO_WORK else 0)) prodVXE]
            ∧ (d.gather = true → u.vreg t e d.reg = (s0.vreg t e d.reg).land d.w els ∧ u.mem = s0.mem
                ∧ ∀ r, r < 64 → r ≠ d.reg → u.vreg t e r = s0.vreg t e r)
            ∧ (d.gather = false → u.vregs = s0.vregs ∧ ∀ b, u.byte b = (match writer b with
                | some x => BitVec.ofNat 8 (x.2.2.1 / 256 ^ (b - x.2.1))
                | none => s0.byte b))
            ∧ u.mregs = s0.mregs ∧ u.acc = s0.acc ∧ u.strm = s0.strm ∧ u.ftq = s0.ftq ∧ u.pending = s0.pending)

/-- Nothing but vector results waits for the tile's clock: no token update, no arm of the table swap, no posted command. -/
def clockIdle (s : State) (t : Fin 144) : Prop :=
  (s.tile t).tokPend = [] ∧ (s.tile t).tokNext = [] ∧ (s.tile t).postQ = [] ∧ (s.sfuu t).arms = []

/-- What moving a tile's clock on may change with one vector result due and no token update waiting: besides `parts` the tile's
in-flight work and scoreboard, ready buckets, its event counters and what `extra` names. -/
def clockMoves (parts : List Part) (t : Fin 144) (extra : Nat → Prop) (s u : State) : Prop :=
  OnlyChanges ([.tiles, .engs, .gre] ++ parts) (fun b => (∃ i, i < 8 ∧ b = R.TSQ_EVCNT_VALUE t i) ∨ extra b) s u

/-- What is in flight lands when its ac comes (R85 to R88, R138, R165 to R168), here for one event due. Elements overwrite their places
in the register and leave every other element; mask bits, status bits and carries take their values; a load reads tile memory as it
then is and its result follows; a store's bytes reach memory, of elements at one address the later; a scan applies the carry of its
register, or the identity, to its first segment. A link value joins the receiver's queue, or is dropped at a full one. -/
def Obligations.InFlightOpsLand : Prop :=
  (∀ (t : Fin 144) (n : Nat) (v : VEvent) (s : State), (s.tile t).vev = [v] → clockIdle s t →
    (s.tile t).ac < n → v.ac ≤ n → v.e < 2 →
    let lands (p : State → Prop) : Prop := Reaches (Sys2Proof.Machine.exec (.vectorWriteback t n) s) (fun u =>
      (u.tile t).ac = n ∧ (u.tile t).seen = s.tide.delivered ∧ p u)
    let old (r : Nat) : VReg := s.vreg t v.e r
    (∀ r w els, v.op = .wbV r w els → 0 < w → w ≤ 64 → (els.map (fun x => x.i)).Nodup →
        (∀ x ∈ els, w * (x.i + 1) ≤ 8192 ∧ x.v < 2 ^ w) → lands (fun u =>
          (∀ k, w * (k + 1) ≤ 8192 → (u.vreg t v.e r).el w k = (match els.find? (fun x => x.i == k) with
              | some x => x.v
              | none => (old r).el w k))
            ∧ (w = 32 → ∀ k, k < 256 → (u.vreg t v.e r).elPoison w k = (match els.find? (fun x => x.i == k) with
              | some x => x.p
              | none => (old r).elPoison w k))
            ∧ (∀ q, q < 64 → q ≠ r → u.vreg t v.e q = old q) ∧ (u.tile t).vev = []
            ∧ clockMoves [.vregs] t (fun _ => False) s u))
      ∧ (∀ m els, v.op = .wbM m els → (els.map (fun x => x.1)).Nodup → lands (fun u =>
          (∀ k, k < 1024 → (u.mreg t v.e m).bits.getLsbD k = (match els.find? (fun x => x.1 == k) with
              | some x => x.2.1
              | none => (s.mreg t v.e m).bits.getLsbD k))
            ∧ (u.tile t).vev = [] ∧ clockMoves [.mregs] t (fun _ => False) s u))
      ∧ (∀ bits, v.op = .status bits → bits < 2 ^ 14 → lands (fun u =>
          u.fld (fVxeStatus t v.e) = s.fld (fVxeStatus t v.e) ||| bits ∧ (u.tile t).vev = []
            ∧ clockMoves [] t (fun b => b = R.VXE_STATUS t v.e) s u))
      ∧ (∀ c x p, v.op = .carry c x p → c < 2 → lands (fun u =>
          u.fld (F.VXE_CARRY_VALUE t v.e c) = x.toNat ∧ u.fld (F.VXE_CARRY_POISON t v.e c) = (if p then 1 else 0)
            ∧ (u.tile t).vev = [] ∧ clockMoves [] t (fun b => b = R.VXE_CARRY t v.e c) s u))
      ∧ (∀ r w els zero due, v.op = .load r w els zero due → n < due →
          let read (x : Nat × Option Nat × Bool) : VEl := match x.2.1 with
            | some a => VEl.mk x.1 (s.num (tileAddr t a) (w / 8)) (x.2.2 || s.poisoned (tileAddr t a) (w / 8))
            | none => VEl.mk x.1 0 false
          lands (fun u =>
          { v with ac := due, phase := 3, op := .wbV r w (els.map read ++ zero.map (fun k => VEl.mk k 0 false)) } ∈ (u.tile t).vev
            ∧ u.mem = s.mem ∧ u.vregs = s.vregs ∧ u.mregs = s.mregs ∧ u.strm = s.strm ∧ u.pending = s.pending))
      ∧ (∀ w els, v.op = .store w els → lands (fun u =>
          (∀ b, u.byte b = (match els.reverse.find? (fun x => decide (tileAddr t x.1 ≤ b) && decide (b < tileAddr t x.1 + w / 8)) with
              | some x => BitVec.ofNat 8 (x.2.1 / 256 ^ (b - tileAddr t x.1))
              | none => s.byte b))
            ∧ (u.tile t).vev = [] ∧ u.vregs = s.vregs ∧ u.mregs = s.mregs ∧ u.strm = s.strm ∧ u.pending = s.pending))
      ∧ (∀ r : ScanRec, v.op = .scan r → r.lin = false → r.lout = false → n + 1 < r.issue + r.lat → 0 < r.n →
          r.ps.length = r.n → r.act.length = r.n →
          let c := if r.cin then s.carryOf t v.e r.c else (scanIdentity r.kind r.ty, false)
          let out (k : Nat) : Nat × Bool × Nat := scanCarry r k (r.ps.getD k (0, 0, false)) c.1 c.2
          let last : VOp := .carry r.c (BitVec.ofNat 32 (out (r.n - 1)).1) (out (r.n - 1)).2.1
          lands (fun u =>
            (∃ els, { v with ac := r.issue + r.lat, phase := 3, op := .wbV r.vd (tyWidth r.ty) els } ∈ (u.tile t).vev
                ∧ ∀ k, k < r.n → els.filter (fun x => x.i == k) = (if r.act.getD k false then
                    [{ i := k, v := (fromFP32 r.ty (out k).1).1, p := (out k).2.1 }]
                  else if r.z then [{ i := k, v := 0, p := false }] else []))
              ∧ (r.cout = true → { v with ac := r.issue + r.lat - 1, phase := 1, op := last } ∈ (u.tile t).vev)
              ∧ clockMoves [] t (fun _ => False) s u)))
    ∧ ∀ (t : Fin 144) (e : Fin 2) (ac : Nat) (x : Nat × Nat × BitVec 32 × Bool) (s : State),
      let s0 := s.advance t ac
      let q := (s0.eng t e).link
      s0.linkFly.find? (fun y => y.1 == t.val && y.2.1 == e.val) = some x →
        (q.length < 4 → Reaches (Sys2Proof.Machine.exec (.tileLinkArrival t e ac) s) (fun u =>
            (u.eng t e).link = q ++ [x.2.2] ∧ u.fld (F.VXE_LINK_DEPTH t e) = q.length + 1 ∧ u.linkFly = s0.linkFly.erase x
              ∧ (u.tile t).tokPend = (s0.tile t).tokPend ++ (if s0.fld (F.VXE_LINK_TOK_EN t e) = 1 then
                  [TokUpd.inc (s0.fld (F.VXE_LINK_TOKEN t e)) 1 0 prodVXE] else [])
              ∧ OnlyChanges [.engs, .tiles, .linkFly] (fun b => b = R.VXE_LINK t e
                  ∨ ∃ i, i < 8 ∧ b = R.TSQ_EVCNT_VALUE t i) s0 u))
          ∧ (4 ≤ q.length → Reaches (Sys2Proof.Machine.exec (.tileLinkArrival t e ac) s) (fun u =>
            (u.eng t e).link = q ∧ u.fld (F.VXE_STATUS_LINK_OVERRUN t e) = 1 ∧ u.linkFly = s0.linkFly.erase x
              ∧ Logged s0 u (s0.tile t).seen t 0x0403 false [(1, e), (1, t - 1)]
              ∧ OnlyChanges [.linkFly, .evt, .host] (fun b => b = R.VXE_STATUS t e ∨ logReg b) s0 u))

/-- Bank `b` holds a packet engine `e` may read now: FULL or READING, its last word entered in an earlier ac, and the consumer mode
gives it to the engine (R170, R171). -/
def bankReadable (s : State) (t e b : Nat) : Prop :=
  2 ≤ s.fld (if b = 0 then F.FTQ_STATUS_BANK0 t else F.FTQ_STATUS_BANK1 t) ∧ (s.ftqBank t b).entered < (s.tile t).ac
    ∧ (match s.fld (F.FTQ_CTL_CONSUMER t) with
      | 0 => e = 0
      | 1 => e = 1
      | _ => e = b)

/-- The finished-tile queue's reading side (R171 to R174, R179). A pop delivers the next 1 KiB of the packet of lowest number its
engine may read, lanes beyond the packet's end as zeros without a mask bit, and releases the bank with its last byte; a drop releases
the bank. A released bank is EMPTY, or FILLING with a packet already formed for it. With no
available packet a pop writes clean zeros to all lanes of VD and, under X[0], clears every bit of its mask register, and both set
UNDERRUN, count it and log it and move no read position. FTQ_CTL is written only while both banks are empty, and not with CONSUMER
3. -/
def Obligations.FinishedTileQueue : Prop :=
  (∀ (i : Iss) (a : VArgs) (e : Nat) (s : State), VectorIssues s i e →
    let s0 := s.advance i.t i.ac
    let t := i.t
    let older := (s0.tile t).nextPkt % 2
    let m := a.vc.toNat % 16
    let queueReg (b : Nat) : Prop := b = R.FTQ_STATUS t ∨ (∃ k, k < 2 ∧ b = R.FTQ_BANK t k) ∨ b = R.FTQ_CNT_PARITY t
      ∨ b = R.FTQ_CNT_DROPS t ∨ b = R.VXE_POISON_CNT t e ∨ logReg b
    let formed := (s0.mxau t).run.any (fun r => !r.pkts.isEmpty)
    let emptied (b : Nat) (u : State) : Prop := u.fld (fFtqBank t b) = (if b = older ∧ formed = true then 1 else 0)
      ∧ u.fld (F.FTQ_BANK_LEN t b) = 0
      ∧ u.fld (F.FTQ_BANK_POS t b) = 0 ∧ u.ftqBank t b = FtqBank.empty
    (∀ b, b < 2 → bankReadable s0 t e b → (b = older ∨ ¬bankReadable s0 t e older) →
      let pos := s0.fld (F.FTQ_BANK_POS t b)
      let size := s0.fld (F.FTQ_BANK_LEN t b)
      let n := min 1024 (size - pos)
      let ws := ((s0.ftqBank t b).words.drop (pos / 8)).take 128
      let lane (l : Nat) : VEl := match ws[l / 2]? with
        | some x => if 4 * l < n then VEl.mk l (x.1.toNat / 2 ^ (32 * (l % 2)) % 2 ^ 32) x.2 else VEl.mk l 0 false
        | none => VEl.mk l 0 false
      Reaches (Sys2Proof.Machine.exec (.ftqPop i a) s) (fun u =>
          Scheduled s0 u i e 4 3 (.wbV a.vd.toNat 32 ((List.range 256).map lane))
            ∧ (a.x.getLsbD 0 = true → Scheduled s0 u i e 4 3
                (.wbM m ((List.range 1024).map (fun k => (k, decide (4 * k < n), false)))))
            ∧ (size ≤ pos + n → emptied b u)
            ∧ (pos + n < size → u.fld (fFtqBank t b) = 3 ∧ u.fld (F.FTQ_BANK_POS t b) = pos + n
                ∧ (u.ftqBank t b).words = (s0.ftqBank t b).words)
            ∧ u.ftqBank t (1 - b) = s0.ftqBank t (1 - b) ∧ u.fld (F.FTQ_BANK_POS t (1 - b)) = s0.fld (F.FTQ_BANK_POS t (1 - b))
            ∧ vectorRuns s0 u i [.ftq] queueReg)
        ∧ Reaches (Sys2Proof.Machine.exec (.ftqDrop i a) s) (fun u =>
          emptied b u ∧ u.fld (F.FTQ_CNT_DROPS_VALUE t) = satAdd 64 (s0.fld (F.FTQ_CNT_DROPS_VALUE t)) 1
            ∧ u.ftqBank t (1 - b) = s0.ftqBank t (1 - b) ∧ vectorRuns s0 u i [.ftq] queueReg))
    ∧ (¬bankReadable s0 t e 0 → ¬bankReadable s0 t e 1 →
      let underrun (op : Nat) (u : State) : Prop := u.fld (F.FTQ_STATUS_UNDERRUN t) = 1
        ∧ u.fld (F.FTQ_CNT_UNDERRUN_VALUE t) = satAdd 64 (s0.fld (F.FTQ_CNT_UNDERRUN_VALUE t)) 1
        ∧ LoggedFirst s0 u (s0.tile t).seen t 0x0411 false [(1, e), (1, i.st), (4, s0.pc t i.st), (1, op)]
        ∧ vectorGoesOn s0 u i (fun b => b = R.FTQ_STATUS t ∨ b = R.FTQ_CNT_UNDERRUN t)
      Reaches (Sys2Proof.Machine.exec (.ftqPop i a) s) (fun u =>
          Scheduled s0 u i e 4 3 (.wbV a.vd.toNat 32 ((List.range 256).map (fun l => VEl.mk l 0 false)))
            ∧ (a.x.getLsbD 0 = true → Scheduled s0 u i e 4 3 (.wbM m ((List.range 1024).map (fun k => (k, false, false)))))
            ∧ underrun 0x48 u)
        ∧ Reaches (Sys2Proof.Machine.exec (.ftqDrop i a) s) (fun u => (u.tile t).vev = (s0.tile t).vev ∧ underrun 0x49 u)))
  ∧ ∀ (m : Master) (t : Fin 144) (v : BitVec 64) (s : State),
    let may := s.fld (F.FTQ_STATUS_BANK0 t) = 0 ∧ s.fld (F.FTQ_STATUS_BANK1 t) = 0 ∧ v.toNat % 4 ≠ 3
    (may → Reaches (Sys2Proof.Machine.exec (.ftqCtlWrite m t v) s) (fun u =>
        u.fld (F.FTQ_CTL_CONSUMER t) = v.toNat % 4 ∧ u.fld (F.FTQ_CTL_PKT_TOK_EN t) = v.toNat / 4 % 2
          ∧ u.fld (F.FTQ_CTL_PKT_TOKEN0 t) = v.toNat / 2 ^ 16 % 4096 ∧ u.fld (F.FTQ_CTL_PKT_TOKEN1 t) = v.toNat / 2 ^ 32 % 4096
          ∧ WriteChanges [] (fun b => b = R.FTQ_CTL t) s u))
      ∧ (¬may → Reaches (Sys2Proof.Machine.exec (.ftqCtlWrite m t v) s) (fun u =>
        u.fld (F.FTQ_STATUS_CFG_ERR t) = 1 ∧ WriteChanges [] (fun b => b = R.FTQ_STATUS t) s u))

/-- What a pop by engine `e` delivers: the words of the next 1 KiB of the packet of lowest number it may read and how many bytes of them
are the packet's, none on an underrun (R171, R172, R174). -/
def popsWords (s : State) (t e : Nat) (ws : List (Word × Bool)) (n : Nat) : Prop :=
  let older := (s.tile t).nextPkt % 2
  (∃ b, b < 2 ∧ bankReadable s t e b ∧ (b = older ∨ ¬bankReadable s t e older)
      ∧ ws = ((s.ftqBank t b).words.drop (s.fld (F.FTQ_BANK_POS t b) / 8)).take 128
      ∧ n = min 1024 (s.fld (F.FTQ_BANK_LEN t b) - s.fld (F.FTQ_BANK_POS t b)))
    ∨ (¬bankReadable s t e 0 ∧ ¬bankReadable s t e 1 ∧ ws = [] ∧ n = 0)

/-- The table bank that is active in the tile's present ac (R187, R188): a swap due in it has taken place for the instructions of
it. -/
def activeBank (s : State) (t : Nat) : Nat :=
  let due := s.fld (F.SFU_STATUS_ARMED t) = 1 ∧ (s.sfuu t).since ≤ (s.tile t).ac
    ∧ max 1 (s.sfuu t).n ≤ s.fld (F.TSQ_TOKEN_COUNT t (s.sfuu t).tok)
  if due then 1 - s.fld (F.SFU_STATUS_ACTIVE t) else s.fld (F.SFU_STATUS_ACTIVE t)

/-- VSF, VSF.U and VSF.FUSE (R180 to R196, R203, R206). A function of code 0 to 14, or of a valid program in the active bank's slot,
is applied to each active element as FP32 and rounded to the type; an element computed from an uncorrectable table word is poisoned; an
invalid program gives NaN in every active element and sets BAD_PROGRAM with its slot. A fused instruction adds VB's element first and
multiplies by a scalar last, as its bits ask; one that pops a packet with nothing to read writes clean zeros to all lanes. Each active
element counts as a result. Where a built-in function's table gives the results, they have no backward step in the stated direction
(R184): of two arguments of one sign on one side of the function's turning point the results rise with the argument, or fall. -/
def Obligations.SpecialFunctions : Prop :=
  (∀ (i : Iss) (a : VArgs) (ecc : List Nat) (e : Nat) (s : State), VectorIssues s i e → 3 ≤ a.ty.toNat → a.ty.toNat ≤ 5 →
    let s0 := s.advance i.t i.ac
    let ty := a.ty.toNat
    let w := tyWidth ty
    let va := s0.vreg i.t e a.va.toNat
    let vb := s0.vreg i.t e a.vb.toNat
    let x (k : Nat) : Nat := redElem ty (va.el w k)
    let act := activeElement s0 i.t e a.mr a.me w
    let live := (List.range (elementCount s0 i.t e w)).filter act
    let code := a.x.toNat % 64
    let slot := a.x.toNat % 32
    let bank := activeBank s0 i.t
    let prog := s0.sfuProg i.t bank slot
    let builtin (y : Nat) : Nat := (sfuBuiltin (s0.t2On i.t && ty != 4) code y).1
    let user (y : Nat) : Nat := if prog.valid then (s0.sfuRun i.t bank prog y).1 else fmtFP32.nanBits
    let userLat := if prog.valid then 16 + 6 * (prog.ntab - 1) else 16
    let bad (y : Nat) : Bool := ecc.any (fun q => (if prog.valid then prog.words slot y else [128 * slot]).contains q)
    let sfuReg (b : Nat) : Prop := b = R.SFU_STATUS i.t ∨ b = R.SFU_CNT_RESULTS i.t
    let lands (c : Instr) (lat : Nat) (value : Nat → Nat) (poison table : Nat → Bool) (isUser : Bool) : Prop :=
      Reaches (Sys2Proof.Machine.exec c s) (fun u =>
        (∃ els, Scheduled s0 u i e lat 3 (.wbV a.vd.toNat w els) ∧ landsElements s0 i.t e a.mr a.me a.z w
            (fun k => (fromFP32 ty (value k)).1) (fun k => poison k || table k) els)
          ∧ u.fld (F.SFU_CNT_RESULTS_VALUE i.t) = satAdd 64 (s0.fld (F.SFU_CNT_RESULTS_VALUE i.t)) live.length
          ∧ (isUser = true → prog.valid = false → u.fld (F.SFU_STATUS_BAD_PROGRAM i.t) = 1
              ∧ u.fld (F.SFU_STATUS_BAD_SLOT i.t) = slot)
          ∧ ((∃ k ∈ live, table k = true) → u.fld (F.SFU_STATUS_TABLE_ECC i.t) = 1)
          ∧ vectorGoesOn s0 u i sfuReg)
    let biased (x : Nat → Nat) (k : Nat) : Nat :=
      if a.x.getLsbD 8 then (fmtFP32.add (x k) (redElem ty (vb.el w k))).1 else x k
    let fused (f : Nat → Nat) (x : Nat → Nat) (k : Nat) : Nat :=
      let y := f (biased x k)
      if a.x.getLsbD 9 then (fmtFP32.mul ((s0.sreg i.t i.st (a.vc.toNat % 32)).toNat % 2 ^ 32) y).1 else y
    let fusedBad (k : Nat) : Bool := va.elPoison w k || (a.x.getLsbD 8 && vb.elPoison w k)
    let never (_ : Nat) : Bool := false
    (code ≤ 14 → lands (.vsf i a) 16 (fun k => builtin (x k)) (va.elPoison w) never false)
      ∧ lands (.vsfU i a ecc) userLat (fun k => user (x k)) (va.elPoison w) (fun k => bad (x k)) true
      ∧ (a.x.getLsbD 7 = false →
          (a.x.getLsbD 6 = false → code ≤ 14 → lands (.vsfFuse i a ecc) 20 (fused builtin x) fusedBad never false)
            ∧ (a.x.getLsbD 6 = true →
              lands (.vsfFuse i a ecc) (userLat + 4) (fused user x) fusedBad (fun k => bad (biased x k)) true))
      ∧ (a.x.getLsbD 7 = true → (a.x.getLsbD 6 = true ∨ code ≤ 14) → ∀ ws n, popsWords s0 i.t e ws n →
          let f := if a.x.getLsbD 6 then user else builtin
          let word (k : Nat) : Word × Bool := ws.getD (w * k / 64) (0, false)
          let popped (k : Nat) : Nat := redElem ty ((word k).1.toNat / 2 ^ (w * k % 64) % 2 ^ w)
          let lat := (if a.x.getLsbD 6 then userLat else 16) + 8
          Reaches (Sys2Proof.Machine.exec (.vsfFuse i a ecc) s) (fun u =>
            (n = 0 → Scheduled s0 u i e lat 3 (.wbV a.vd.toNat 32 ((List.range 256).map (fun l => VEl.mk l 0 false))))
              ∧ (n ≠ 0 → ∃ els, Scheduled s0 u i e lat 3 (.wbV a.vd.toNat w els)
                ∧ landsWhere (fun k => act k && decide (w * (k + 1) ≤ 8 * n)) a.z w
                  (fun k => (fromFP32 ty (fused f popped k)).1)
                  (fun k => (word k).2 || (a.x.getLsbD 8 && vb.elPoison w k) || (a.x.getLsbD 6 && bad (biased popped k))
                    || maskPoison s0 i.t e a.mr a.me k) els)
              ∧ vectorRuns s0 u i [.ftq] (fun b => sfuReg b ∨ b = R.FTQ_STATUS i.t ∨ (∃ k, k < 2 ∧ b = R.FTQ_BANK i.t k)
                  ∨ b = R.FTQ_CNT_PARITY i.t ∨ b = R.FTQ_CNT_UNDERRUN i.t ∨ b = R.VXE_POISON_CNT i.t e))))
    ∧ ∀ code x y : Nat, code ≤ 12 → x < 2 ^ 32 → y < 2 ^ 32 →
      (fmtFP32.decode x).isNan = false → (fmtFP32.decode y).isNan = false → sfuLive code x = true → sfuLive code y = true →
      x / 2 ^ 31 = y / 2 ^ 31 → sfuDirection code x = sfuDirection code y → fpOrd x ≤ fpOrd y →
      let below (p q : Nat) : Prop := fpOrd (sfuBuiltin false code p).1 ≤ fpOrd (sfuBuiltin false code q).1
      if sfuDirection code x = 2 then below y x else below x y

/-- The table-bank swap (R187, R188, R204, R206). VSF.ARM leaves an arm with a token and an amount to the end of its ac, where engine
0's apply before engine 1's; a write of SFU_SWAP's ARM arms at once; an arm in force is replaced with REARM set; DISARM disarms. From
the ac after the arm, the swap exchanges the banks' roles as soon as the token's count reaches the amount (at least 1), disarms and
counts, and before that it does nothing. -/
def Obligations.TableBankSwap : Prop :=
  (∀ (i : Iss) (a : VArgs) (e : Nat) (s : State), VectorIssues s i e →
    let s0 := s.advance i.t i.ac
    let v := (s0.sreg i.t i.st (a.vc.toNat % 32)).toNat
    Reaches (Sys2Proof.Machine.exec (.vsfArm i a) s) (fun u =>
      u.sfuu i.t = { s0.sfuu i.t with arms := (s0.sfuu i.t).arms ++ [(e, v % 4096, v / 4096 % 65536)] }
        ∧ vectorRuns s0 u i [.sfu] (fun _ => False)))
    ∧ (∀ (t : Fin 144) (n : Nat) (a0 a1 : Nat × Nat) (s : State), (s.tile t).ac < n → (s.tile t).vev = [] →
        (s.tile t).tokPend = [] → (s.tile t).tokNext = [] → (s.tile t).postQ = [] →
        let armed (arms : List (Nat × Nat × Nat)) (last : Nat × Nat) : Prop := (s.sfuu t).arms = arms →
          Reaches (Sys2Proof.Machine.exec (.vectorWriteback t n) s) (fun u =>
            u.fld (F.SFU_STATUS_ARMED t) = 1 ∧ (u.sfuu t).tok = last.1 ∧ (u.sfuu t).n = last.2 ∧ (u.sfuu t).arms = []
              ∧ (u.sfuu t).since = (s.tile t).ac + 1
              ∧ (s.fld (F.SFU_STATUS_ARMED t) = 1 ∨ 2 ≤ arms.length → u.fld (F.SFU_STATUS_REARM t) = 1)
              ∧ u.fld (F.SFU_STATUS_ACTIVE t) = s.fld (F.SFU_STATUS_ACTIVE t))
        armed [(0, a0)] a0 ∧ armed [(1, a1)] a1 ∧ armed [(0, a0), (1, a1)] a1 ∧ armed [(1, a1), (0, a0)] a1)
    ∧ ∀ (m : Master) (t : Fin 144) (v : BitVec 64) (ac : Nat) (s : State),
      let written (u : State) : Prop := u.fld (F.SFU_SWAP_TOKEN t) = v.toNat % 4096 ∧ u.fld (F.SFU_SWAP_N t) = v.toNat / 65536 % 65536
        ∧ WriteChanges [.sfu] (fun b => b = R.SFU_SWAP t ∨ b = R.SFU_STATUS t) s u
      (v.getLsbD 33 = false → Reaches (Sys2Proof.Machine.exec (.sfuSwapArm m t v) s) (fun u =>
          u.fld (F.SFU_STATUS_ARMED t) = 1 ∧ (u.sfuu t).tok = v.toNat % 4096 ∧ (u.sfuu t).n = v.toNat / 65536 % 65536
            ∧ (u.sfuu t).since = (s.tile t).ac + 1 ∧ written u))
        ∧ Reaches (Sys2Proof.Machine.exec (.sfuSwapDisarm m t v) s) (fun u => u.fld (F.SFU_STATUS_ARMED t) = 0 ∧ written u)
        ∧ (let s0 := s.advance t ac
          let count := s0.fld (F.TSQ_TOKEN_COUNT t (s0.sfuu t).tok)
          let ready := s0.fld (F.SFU_STATUS_ARMED t) = 1 ∧ (s0.sfuu t).since ≤ (s0.tile t).ac ∧ max 1 (s0.sfuu t).n ≤ count
          (ready → Reaches (Sys2Proof.Machine.exec (.sfuSwap t ac) s) (fun u =>
              u.fld (F.SFU_STATUS_ACTIVE t) = 1 - s0.fld (F.SFU_STATUS_ACTIVE t) ∧ u.fld (F.SFU_STATUS_ARMED t) = 0
                ∧ u.fld (F.SFU_CNT_SWAPS_VALUE t) = satAdd 64 (s0.fld (F.SFU_CNT_SWAPS_VALUE t)) 1
                ∧ Logged s0 u (s0.tile t).seen t 0x0502 false [(1, 1 - s0.fld (F.SFU_STATUS_ACTIVE t)), (2, (s0.sfuu t).tok), (2, count)]
                ∧ OnlyChanges [.evt, .host] (fun b => b = R.SFU_STATUS t ∨ b = R.SFU_CNT_SWAPS t ∨ logReg b) s0 u))
            ∧ (¬ready → Sys2Proof.Machine.exec (.sfuSwap t ac) s = .next s0))

/-- The issue of a vector-class instruction. -/
def vectorClass : Instr → Option Iss
  | .vmov i _ | .vand i _ | .vor i _ | .vxor i _ | .vnot i _ | .vshl i _ | .vshr i _ | .vmset i _ | .vmand i _ | .vmor i _
  | .vmnot i _ | .vadd i _ | .vsub i _ | .vmul i _ | .vmin i _ | .vmax i _ | .vfma i _ | .vcmp i _ | .vcvt i _ | .vbcast i _
  | .vmovS i _ | .vsetvl i _ | .vstatS i _ | .vperm i _ | .vshuf i _ | .vredSum i _ | .vredProd i _ | .vredMax i _ | .vredMin i _
  | .vargMax i _ | .vargMin i _ | .vscanSum i _ | .vscanProd i _ | .vscanMax i _ | .vscanMin i _ | .vscanLr i _ | .vld i _ _
  | .vst i _ | .vgather i _ _ | .vscatter i _ | .vgatherN i _ | .vscatterN i _ | .ftqPop i _ | .ftqDrop i _ | .vsf i _
  | .vsfU i _ _ | .vsfFuse i _ _ | .vnormRms i _ | .vnormMv i _ | .vsmaxP1 i _ | .vsmaxP2 i _ | .vsfArm i _ => some i
  | _ => none

/-- A vector-class instruction of a stream that owns no vector engine is illegal (R58, R65): it is not executed, the stream stops with
ILLEGAL_INSN, and no vector register, memory byte or other stream changes. -/
def Obligations.VectorNeedsEngine : Prop :=
  ∀ (c : Instr) (i : Iss) (s : State), vectorClass c = some i → Issues s i →
    let s0 := s.advance i.t i.ac
    s0.vxeOf i.t i.st = none → Reaches (Sys2Proof.Machine.exec c s) (fun u =>
      Stops s0 u i.t i.st haltILLEGAL ∧ u.pc i.t i.st = s0.pc i.t i.st
        ∧ (∃ word, Logged s0 u (s0.tile i.t).seen i.t 0x0201 true [(1, i.st), (4, s0.pc i.t i.st), (8, word)])
        ∧ streamOnly i 0 s0 u)

/-! ## The matrix array, the sparse engine, the layout engine -/

/-- Registers in which reading memory may leave a mark: the memory unit's counters and captures, and the log. -/
def memoryReg (b : Nat) : Prop := blockReg 1 b ∨ logReg b

/-- The command at the head of the matrix queue starts (R107, R108, R115, R120, R121, R125). A failing check rejects it with the lowest
reason, and its token will carry ERROR; a zero-work command has nothing to do; an integer product that fits one pass leaves in
accumulator bank 0 the exact sum of its products modulo 2^32 for every row and column. A command copied in the present ac waits. -/
def Obligations.MatrixCommandStarts : Prop :=
  ∀ (t : Fin 144) (ac : Nat) (up : Upset) (c : QCmd) (q : List QCmd) (op : Nat) (a : PostArgs) (s : State),
    let s0 := s.advance t ac
    let s1 := (s0.setTile t { s0.tile t with mxaQ := q }).upset up
    let d := mxDesc op a c
    let pf := if c.poisoned then flagPOISON else 0
    let queued := (s0.tile t).mxaQ = c :: q ∧ mxaArgs c.c = some (op, a)
    let runs (u : State) (r : MxaRun) : Prop := (u.mxau t).run = (s0.mxau t).run ++ [r] ∧ (u.tile t).mxaQ = q ∧ u.mem = s0.mem
      ∧ OnlyChanges [.tiles, .tags, .mxa, .acc, .memu, .evt, .host] (fun b => b = R.MXA_STATUS t ∨ b = R.MXA_REJECT t
          ∨ b = R.FTQ_STATUS t ∨ memoryReg b) s0 u
    (queued → (s0.tile t).ac ≤ c.ac → Sys2Proof.Machine.exec (.mxaCommandStart t ac up) s = .next s0)
      ∧ (queued → c.ac < (s0.tile t).ac → ∀ r rs, s1.mxReasons t d = r :: rs → r < 16 →
          Reaches (Sys2Proof.Machine.exec (.mxaCommandStart t ac up) s) (fun u =>
            runs u ⟨op, a.te, a.token.toNat, flagERROR ||| pf, [], (0, 0), false, 0, 0⟩
              ∧ u.fld (F.MXA_REJECT_REASON t) = r ∧ u.fld (F.MXA_REJECT_OP t) = op ∧ u.fld (F.MXA_REJECT_TOKEN t) = a.token.toNat
              ∧ u.fld (F.MXA_STATUS_REJECT t) = 1 ∧ u.acc = s0.acc))
      ∧ (queued → c.ac < (s0.tile t).ac → s1.mxReasons t d = [] → d.zeroWork = true →
          Reaches (Sys2Proof.Machine.exec (.mxaCommandStart t ac up) s) (fun u =>
            runs u ⟨op, a.te, a.token.toNat, flagZERO_WORK ||| pf, [], (0, 0), false, 0, 0⟩ ∧ u.acc = s0.acc))
      ∧ (queued → c.ac < (s0.tile t).ac → s1.mxReasons t d = [] → d.zeroWork = false →
          Reaches (Sys2Proof.Machine.exec (.mxaCommandStart t ac up) s) (fun u => ∃ r, runs u r ∧ r.op = op ∧ r.te = a.te
            ∧ r.token = a.token.toNat ∧ u.fld (F.MXA_STATUS_BUSY t) = 1
            ∧ (op = 1 → u.fld (F.MXA_STATUS_STAT_VALID t) = 1 ∧ r.pkts = [])
            ∧ (∀ dep, op = 0 → d.path = some (false, dep) → d.use = false → d.cont = false → d.mch = 0 → d.m ≤ 2048 → d.n ≤ 32 →
                let x := s1.operand d.p1 d.fa
                let y := s1.operand d.p2 d.fb
                ∀ m n, m < d.m → n < d.n → (u.accWord t 0 (m * 32 + n)).toNat = ofSigned 32 (((List.range d.k).map (fun k =>
                  toSigned (mxBits d.fa) (x.getD (m * d.k + k) (0, false)).1
                    * toSigned (mxBits d.fb) (y.getD (k * d.n + n) (0, false)).1)).sum))))

/-- Packets, completion and episodes of the matrix array (R73, R105, R117, R170, R171, R210). The next packet of the first command with one
left enters its bank, EMPTY or FILLING till then, READY, with its number and its length, and produces the packet's token where that is enabled; a command
with no packet left completes, is counted and produces its token with its flags; an episode ends when no command is queued. RAMP_LEN
takes 16 to 128 in steps of 4. -/
def Obligations.MatrixCommandsComplete : Prop :=
  ∀ (m : Master) (t : Fin 144) (ac stallTm stallFtq : Nat) (v : BitVec 64) (s : State),
    let s0 := s.advance t ac
    let runs := (s0.mxau t).run
    let next := (s0.tile t).nextPkt
    let b := next % 2
    let pend := (s0.tile t).tokPend
    (∀ pre r post p ps, runs = pre ++ r :: post → (∀ x ∈ pre, x.pkts = []) → r.pkts = p :: ps → s0.fld (fFtqBank t b) < 2 →
        let bad := p.words.any (fun w => w.2)
        Reaches (Sys2Proof.Machine.exec (.mxaPacketDelivery t ac) s) (fun u =>
          u.ftqBank t b = ⟨p.words, (s0.tile t).ac, 0⟩ ∧ u.fld (fFtqBank t b) = 2 ∧ u.fld (F.FTQ_BANK_SEQ t b) = next % 2 ^ 32
            ∧ u.fld (F.FTQ_BANK_LEN t b) = p.len % 2 ^ 16 ∧ u.fld (F.FTQ_BANK_POS t b) = 0
            ∧ u.ftqBank t (1 - b) = s0.ftqBank t (1 - b) ∧ (u.tile t).nextPkt = next + 1
            ∧ u.fld (F.FTQ_STATUS_NEXT_FILL t) = (next + 1) % 2
            ∧ u.fld (F.FTQ_CNT_PACKETS_VALUE t) = satAdd 64 (s0.fld (F.FTQ_CNT_PACKETS_VALUE t)) 1
            ∧ (∃ r', r'.pkts = ps ∧ r'.op = r.op ∧ r'.token = r.token ∧ (u.mxau t).run = pre ++ r' :: post)
            ∧ (s0.fld (F.FTQ_CTL_PKT_TOK_EN t) = 0 → (u.tile t).tokPend = pend)
            ∧ (s0.fld (F.FTQ_CTL_PKT_TOK_EN t) = 1 → s0.fld (F.FTQ_CTL_CONSUMER t) = 0 → (u.tile t).tokPend = pend
                ++ [.inc (s0.fld (F.FTQ_CTL_PKT_TOKEN0 t)) 1 (if bad then flagPOISON else 0) prodFTQ])
            ∧ u.mem = s0.mem ∧ u.acc = s0.acc ∧ u.vregs = s0.vregs ∧ u.strm = s0.strm ∧ u.pending = s0.pending))
      ∧ (2 ≤ s0.fld (fFtqBank t b) → Sys2Proof.Machine.exec (.mxaPacketDelivery t ac) s = .next s0)
      ∧ (∀ r rs, runs = r :: rs → r.pkts = [] → r.op < 0x40 →
          Reaches (Sys2Proof.Machine.exec (.mxaCommandComplete t ac stallTm stallFtq) s) (fun u =>
            (u.mxau t).run = rs ∧ u.fld (F.MXA_CNT_CMDS_VALUE t) = satAdd 64 (s0.fld (F.MXA_CNT_CMDS_VALUE t)) 1
              ∧ (u.tile t).tokPend = pend ++ (if r.te then [.inc (r.token % 4096) 1 r.flags prodMXA] else [])
              ∧ OnlyChanges [.mxa, .tiles] (fun x => x = R.MXA_CNT_CMDS t ∨ x = R.MXA_CNT_STREAM_AC t ∨ x = R.MXA_CNT_LOAD_AC t
                  ∨ x = R.MXA_CNT_STALL_TM t ∨ x = R.MXA_CNT_STALL_FTQ t ∨ ∃ i, i < 8 ∧ x = R.TSQ_EVCNT_VALUE t i) s0 u))
      ∧ ((s0.tile t).mxaQ = [] → Reaches (Sys2Proof.Machine.exec (.mxaEpisodeEnd t ac) s) (fun u =>
          u.fld (F.MXA_STATUS_BUSY t) = 0 ∧ OnlyChanges [] (fun x => x = R.MXA_STATUS t) s0 u))
      ∧ ((s0.tile t).mxaQ ≠ [] → Sys2Proof.Machine.exec (.mxaEpisodeEnd t ac) s = .next s0)
      ∧ let ramp := v.toNat % 256
        let ok := 16 ≤ ramp ∧ ramp ≤ 128 ∧ ramp % 4 = 0
        (ok → Reaches (Sys2Proof.Machine.exec (.mxaCtlWrite m t v) s) (fun u =>
            u.fld (F.MXA_CTL_RAMP_LEN t) = ramp ∧ WriteChanges [] (fun x => x = R.MXA_CTL t) s u))
          ∧ (¬ok → Reaches (Sys2Proof.Machine.exec (.mxaCtlWrite m t v) s) (fun u =>
            u.fld (F.MXA_STATUS_CFG_ERR t) = 1 ∧ WriteChanges [] (fun x => x = R.MXA_STATUS t) s u))

/-- The 16-byte entry `i` of a sparse sort's input and its key, row then column (R232). -/
def sortKey (s : State) (base i : Nat) : Nat × Nat := (s.num (base + 16 * i) 4, s.num (base + 16 * i + 4) 4)

/-- Sparse commands (R209 to R212, R232). The head of the queue starts while none is under way, a claiming one only with its claim at the
head of the matrix queue; a failing check rejects it, a zero-work one has nothing to do; a sort without a histogram leaves its entries
for the output in stable order of row and column. No memory byte changes before the completion, which makes the command's writes, frees
the engine and produces the token. A claim keeps its place till then, but where the command is rejected or has no work, and the array's
counts of it are added. -/
def Obligations.SparseCommands : Prop :=
  ∀ (t : Fin 144) (ac stallTm stallFtq : Nat) (up : Upset) (c : QCmd) (q : List QCmd) (op : Nat) (a : PostArgs) (s : State),
    let s0 := s.advance t ac
    let s1 := (s0.setTile t { s0.tile t with speQ := q }).upset up
    let queued := (s0.tile t).speQ = c :: q ∧ speArgs c.c = some (op, a) ∧ s0.speRun t = none ∧ c.ac < (s0.tile t).ac
    let claims := op = 0x40 ∨ op = 0x43
    let pf := if c.poisoned then flagPOISON else 0
    (queued → claims → (∀ m ms, (s0.tile t).mxaQ = m :: ms → m.c ≠ c.c) →
        Sys2Proof.Machine.exec (.speCommandStart t ac up) s = .next s0)
      ∧ (queued → (claims → ∃ m ms, (s0.tile t).mxaQ = m :: ms ∧ m.c = c.c) →
          Reaches (Sys2Proof.Machine.exec (.speCommandStart t ac up) s) (fun u =>
            (∃ r, u.speRun t = some r ∧ r.op = op ∧ r.te = a.te ∧ r.token = a.token.toNat ∧ (r.claim = true → claims)
                ∧ (claims → (u.tile t).mxaQ = if r.claim then (s0.tile t).mxaQ else (s0.tile t).mxaQ.tail))
              ∧ (u.tile t).speQ = q ∧ (¬claims → (u.tile t).mxaQ = (s0.tile t).mxaQ)
              ∧ u.mem = s0.mem ∧ u.vregs = s0.vregs ∧ u.strm = s0.strm ∧ u.pending = s0.pending))
      ∧ (queued → op = 0x44 → ∀ r rs, sortReasons t c = r :: rs → r < 16 →
          Reaches (Sys2Proof.Machine.exec (.speCommandStart t ac up) s) (fun u =>
            u.speRun t = some ⟨op, a.te, a.token.toNat, flagERROR ||| pf, false, []⟩ ∧ u.fld (F.SPE_REJECT_REASON t) = r
              ∧ u.fld (F.SPE_STATUS_REJECT t) = 1))
      ∧ (queued → op = 0x44 → sortReasons t c = [] → c.bits 2 0 32 = 0 →
          Reaches (Sys2Proof.Machine.exec (.speCommandStart t ac up) s) (fun u =>
            u.speRun t = some ⟨op, a.te, a.token.toNat, flagZERO_WORK ||| pf, false, []⟩))
      ∧ (queued → op = 0x44 → sortReasons t c = [] → c.bits 2 0 32 ≠ 0 → c.bits 2 32 32 = 0 →
          Reaches (Sys2Proof.Machine.exec (.speCommandStart t ac up) s) (fun u => ∃ (r : SpeRun) (order : List Nat), u.speRun t = some r
            ∧ order.Perm (List.range (c.bits 2 0 32))
            ∧ order.Pairwise (fun i j =>
                let x := sortKey s1 (c.word 0) i
                let y := sortKey s1 (c.word 0) j
                x.1 < y.1 ∨ (x.1 = y.1 ∧ (x.2 < y.2 ∨ (x.2 = y.2 ∧ i < j))))
            ∧ (∃ bs ∈ r.writes, bs.1 = c.word 1
                ∧ bs.2.map (fun b => b.1) = order.flatMap (fun i => s1.bytes (c.word 0 + 16 * i) 16))
            ∧ u.fld (F.SPE_STATUS_BUSY t) = 1))
      ∧ (∀ r m ms, s0.speRun t = some r → r.claim = true → (s0.mxau t).run = m :: ms →
          (m.op = r.op → m.pkts = [] → Reaches (Sys2Proof.Machine.exec (.speCommandComplete t ac stallTm stallFtq) s) (fun u =>
              u.speRun t = none ∧ (u.mxau t).run = ms ∧ (u.tile t).mxaQ = (s0.tile t).mxaQ.tail
                ∧ u.fld (F.MXA_CNT_STREAM_AC_VALUE t) = satAdd 64 (s0.fld (F.MXA_CNT_STREAM_AC_VALUE t)) m.rows
                ∧ u.fld (F.MXA_CNT_LOAD_AC_VALUE t) = satAdd 64 (s0.fld (F.MXA_CNT_LOAD_AC_VALUE t)) m.loads
                ∧ u.fld (F.MXA_CNT_STALL_TM_VALUE t) = satAdd 64 (s0.fld (F.MXA_CNT_STALL_TM_VALUE t)) stallTm
                ∧ u.fld (F.MXA_CNT_STALL_FTQ_VALUE t) = satAdd 64 (s0.fld (F.MXA_CNT_STALL_FTQ_VALUE t)) stallFtq
                ∧ (u.tile t).tokPend = (s0.tile t).tokPend ++ (if r.te then [.inc (r.token % 4096) 1 r.flags prodSPE] else [])
                ∧ u.strm = s0.strm ∧ u.pending = s0.pending))
            ∧ (m.op ≠ r.op ∨ m.pkts ≠ [] → Sys2Proof.Machine.exec (.speCommandComplete t ac stallTm stallFtq) s = .next s0))
      ∧ ∀ r, s0.speRun t = some r → r.claim = false → ∀ w, r.writes = [w] →
          (∀ b, w.1 ≤ b → b < w.1 + w.2.length → populated b = true) →
          Reaches (Sys2Proof.Machine.exec (.speCommandComplete t ac stallTm stallFtq) s) (fun u =>
            u.speRun t = none ∧ u.fld (F.SPE_STATUS_BUSY t) = 0
              ∧ (∀ b, u.byte b = if w.1 ≤ b ∧ b < w.1 + w.2.length then (w.2.getD (b - w.1) (0, false)).1 else s0.byte b)
              ∧ (u.tile t).tokPend = (s0.tile t).tokPend ++ (if r.te then [.inc (r.token % 4096) 1 r.flags prodSPE] else [])
              ∧ u.vregs = s0.vregs ∧ u.strm = s0.strm ∧ u.mxa = s0.mxa ∧ u.pending = s0.pending)

/-- A pattern's accesses of `n` bytes all lie in this device, in populated memory, within one store. -/
def localUnits (s : State) (p : Pat) (n : Nat) : Prop :=
  ∀ x ∈ p.addrs, x / 2 ^ 48 = s.fld F.FAB_ID_ID ∧ populated (x % 2 ^ 48) = true ∧ populated (x % 2 ^ 48 + n - 1) = true
    ∧ tierOf (x % 2 ^ 48) = tierOf (x % 2 ^ 48 + n - 1)

/-- Layout commands (R241 to R249, R256). The head of the queue starts once every earlier command's writes are issued; a failing check
rejects it, a zero-work one has nothing to do. LX.FILL over memory of this device leaves its pattern's units filled with the fill value;
LX.COPY leaves each unit of its destination with the source unit of the same place as it was before the command. A command whose writes
are answered completes in order and produces its token; LXE_CTL takes a staging area that lies in tile memory. -/
def Obligations.LayoutCommands : Prop :=
  (∀ (t : Fin 144) (ac : Nat) (up : Upset) (c : QCmd) (q : List QCmd) (op : Nat) (a : PostArgs) (s : State),
    let s0 := s.advance t ac
    let s1 := (s0.setTile t { s0.tile t with lxeQ := q }).upset up
    let queued := (s0.tile t).lxeQ = c :: q ∧ lxArgs c.c = some (op, a) ∧ c.ac < (s0.tile t).ac ∧ ∀ r ∈ s0.lxRuns t, r.stage = 2
    let idle (u : State) (fl : Nat) : Prop := (∃ r, u.lxRuns t = s0.lxRuns t ++ [r] ∧ r.c = c ∧ r.stage = 2 ∧ r.acks = 0 ∧ r.flags = fl)
      ∧ (u.tile t).lxeQ = q ∧ u.mem = s0.mem ∧ u.vregs = s0.vregs ∧ u.pending = s0.pending
    let at' (x : Nat) : Nat := x % 2 ^ 48
    (queued → ∀ r rs, s1.lxReasons t c op = r :: rs → r < 16 → Reaches (Sys2Proof.Machine.exec (.lxeCommandStart t ac up) s) (fun u =>
        idle u flagERROR ∧ u.fld (F.LXE_REJECT_REASON t) = r ∧ u.fld (F.LXE_STATUS_REJECT t) = 1))
      ∧ (queued → s1.lxReasons t c op = [] → c.lxZero op = true →
          Reaches (Sys2Proof.Machine.exec (.lxeCommandStart t ac up) s) (fun u => idle u flagZERO_WORK))
      ∧ (queued → op = 7 → s1.lxReasons t c op = [] → c.lxZero op = false →
          let n := (lxUnit (c.ety 1)).1
          localUnits s1 (c.pat 1) n → Reaches (Sys2Proof.Machine.exec (.lxeCommandStart t ac up) s) (fun u =>
            ∀ b, u.byte b = (match (c.pat 1).addrs.reverse.find? (fun x => decide (at' x ≤ b) && decide (b < at' x + n)) with
              | some x => BitVec.ofNat 8 (c.word 4 / 256 ^ (b - at' x))
              | none => s0.byte b)))
      ∧ (queued → op = 0 → s1.lxReasons t c op = [] → c.lxZero op = false → c.lxStaged op = false →
          let n := (lxUnit (c.ety 1)).1
          localUnits s1 (c.pat 1) n → localUnits s1 (c.pat 2) n →
          Reaches (Sys2Proof.Machine.exec (.lxeCommandStart t ac up) s) (fun u =>
            ∀ b, u.byte b = (match ((c.pat 1).addrs.zip (c.pat 2).addrs).reverse.find?
                (fun x => decide (at' x.2 ≤ b) && decide (b < at' x.2 + n)) with
              | some x => s0.byte (at' x.1 + (b - at' x.2))
              | none => s0.byte b))))
    ∧ ∀ (m : Master) (t : Fin 144) (ac stall : Nat) (v : BitVec 64) (s : State),
      let s0 := s.advance t ac
      (∀ r rs op a, s0.lxRuns t = r :: rs → r.stage = 2 → r.acks = 0 → r.errs = 0 → lxArgs r.c.c = some (op, a) → r.c.bits 1 12 1 = 0 →
          Reaches (Sys2Proof.Machine.exec (.lxeCommandComplete t ac stall) s) (fun u =>
            u.lxRuns t = rs.filter (fun x => x.id != r.id)
              ∧ u.fld (F.LXE_CNT_CMDS_VALUE t) = satAdd 64 (s0.fld (F.LXE_CNT_CMDS_VALUE t)) 1
              ∧ (u.tile t).tokPend = (s0.tile t).tokPend ++ (if a.te then [.inc (a.token.toNat % 4096) 1 r.flags prodLXE] else [])
              ∧ OnlyChanges [.lxe, .tiles] (fun x => x = R.LXE_CNT_CMDS t ∨ x = R.LXE_CNT_STALL_TM t ∨ x = R.LXE_STATUS t
                  ∨ ∃ i, i < 8 ∧ x = R.TSQ_EVCNT_VALUE t i) s0 u))
        ∧ (let base := v.toNat % 2 ^ 11
          let size := v.toNat / 2 ^ 16 % 2 ^ 11
          let fits := base + size ≤ 1536 ∧ size ≤ 1024
          (fits → Reaches (Sys2Proof.Machine.exec (.lxeCtlWrite m t v) s) (fun u => u.fld (F.LXE_CTL_STAGE_BASE t) = base
              ∧ u.fld (F.LXE_CTL_STAGE_SIZE t) = size ∧ WriteChanges [] (fun x => x = R.LXE_CTL t) s u))
            ∧ (¬fits → Reaches (Sys2Proof.Machine.exec (.lxeCtlWrite m t v) s) (fun u => u.fld (F.LXE_STATUS_CFG_ERR t) = 1
              ∧ WriteChanges [] (fun x => x = R.LXE_STATUS t) s u)))

/-! ## The memory system -/

/-- `n` bytes from `a` lie in populated memory of one store (R268, R271). -/
def inMemory (a n : Nat) : Prop :=
  0 < n ∧ populated a = true ∧ populated (a + n - 1) = true ∧ regionOf a = regionOf (a + n - 1)

/-- A request at a tier controller (R271, R279 to R281). A write leaves its bytes at their addresses and every other byte alone, each
word it covers whole marked exactly if its data is poisoned; a read answers the bytes as they stand, poisoned where a word is, and
changes none; a request that reaches no storage is counted as unmapped, stores nothing, and a read of it is answered zeros with an
error; one that straddles the end of the populated part does each for its part. -/
def Obligations.TierRequests : Prop :=
  ∀ (r : TierReq) (s : State),
    let a := r.addr.toNat
    let s0 := s.upset r.upset
    let n := if r.write then r.data.length else r.n
    let served := inMemory a n ∧ 2 ≤ tierOf a
    let only (u : State) : Prop := OnlyChanges [.mem, .tags, .memu, .evt, .host] memoryReg s u
    (served → r.write = true → Reaches (Sys2Proof.Machine.exec (.tierRequest r) s) (fun u =>
        (∀ b, u.byte b = if a ≤ b ∧ b < a + n then r.data.getD (b - a) 0 else s.byte b)
          ∧ (∀ w ∈ wordsOf a n, a ≤ w → w + granule w ≤ a + n → u.tag w = if r.poison then .marked else .clean)
          ∧ u.memu.answers = s.memu.answers ∧ only u))
      ∧ (served → r.write = false → Reaches (Sys2Proof.Machine.exec (.tierRequest r) s) (fun u =>
          u.memu.answers = s.memu.answers ++ [(s.bytes a n, s0.poisoned a n, false)] ∧ u.mem = s.mem ∧ only u))
      ∧ (∀ k, 0 < k → k < n → edgeOf a = a + k → inTier a = true → inTier (a + k) = false → a + n ≤ edgeOf (a + k) →
          Reaches (Sys2Proof.Machine.exec (.tierRequest r) s) (fun u =>
            u.fld F.MEM_STATUS_UNMAPPED = 1 ∧ u.fld F.MEM_CNT_UNMAPPED_VALUE = satAdd 64 (s.fld F.MEM_CNT_UNMAPPED_VALUE) 1
              ∧ (r.write = true → u.memu.answers = s.memu.answers
                ∧ ∀ b, u.byte b = if a ≤ b ∧ b < a + k then r.data.getD (b - a) 0 else s.byte b)
              ∧ (r.write = false → u.mem = s.mem ∧ u.memu.answers = s.memu.answers
                ++ [(s.bytes a k ++ List.replicate (n - k) 0, s0.poisoned a k, true)])
              ∧ only u))
      ∧ (0 < n → inTier a = false → a + n ≤ edgeOf a → Reaches (Sys2Proof.Machine.exec (.tierRequest r) s) (fun u =>
          u.fld F.MEM_STATUS_UNMAPPED = 1 ∧ u.fld F.MEM_CNT_UNMAPPED_VALUE = satAdd 64 (s.fld F.MEM_CNT_UNMAPPED_VALUE) 1
            ∧ u.memu.answers = s.memu.answers ++ (if r.write then [] else [(List.replicate n 0, false, true)])
            ∧ u.mem = s.mem ∧ only u))

/-- The patrol scrubbers (R283, R290). An enabled one takes its next word: a clean word stands, a correctable error is counted and, under CE_WB_EN and
unless a client's write came between, corrected, an uncorrectable one is marked poisoned and logged; no byte changes, and the position moves to
the next word of the populated part. A disabled one does nothing. A tile whose pass takes longer than twice its period sets SCRUB_LAG.
MEM_SCRUB takes periods in its ranges only. -/
def Obligations.Scrubbing : Prop :=
  ∀ (tier : Fin 3) (t : Fin 144) (up : Option Bool) (cancelled : Bool) (ms : Nat) (v : BitVec 64) (s : State),
    let a := s.scrubAt tier t
    let on := (match tier with
      | 0 => s.fld F.MEM_CTL_SCRUB_NEAR_EN
      | 1 => s.fld F.MEM_CTL_SCRUB_DEEP_EN
      | _ => s.fld F.MEM_CTL_SCRUB_TILE_EN) = 1
    let step := Sys2Proof.Machine.exec (.memScrubStep tier t up cancelled) s
    let only (u : State) : Prop := u.mem = s.mem ∧ OnlyChanges [.tags, .memu, .evt, .host] memoryReg s u
    (on → Reaches step (fun u => only u
        ∧ (tier = 0 → u.fld F.MEM_SCRUB_POS_NEAR_OFFSET = (s.fld F.MEM_SCRUB_POS_NEAR_OFFSET + 8) % 0x00861C468000)
        ∧ (tier = 1 → u.fld F.MEM_SCRUB_POS_DEEP_OFFSET = (s.fld F.MEM_SCRUB_POS_DEEP_OFFSET + 8) % 0x009502F90000)
        ∧ (tier = 2 → u.scrubAt 2 t = tileAddr t ((a - tileAddr t 0 + 4) % 0x600000))
        ∧ (∀ w, w ≠ wordBase a → w ≠ a → u.tag w = s.tag w)
        ∧ (up = none → s.tag a = .clean → u.tag a = .clean)
        ∧ (wordBase a = a → populated a = true → s.tag a ≠ .marked →
            (up = some false → cancelled = false → s.fld F.MEM_CTL_CE_WB_EN = 1 → u.tag a = .clean)
              ∧ (up = some false → cancelled = true ∨ s.fld F.MEM_CTL_CE_WB_EN = 0 → u.tag a = .ce)
              ∧ (up = some true → cancelled = false → u.tag a = .marked ∧ u.fld F.MEM_STATUS_SCRUB_UE = 1
                ∧ u.fld F.MEM_CNT_SCRUB_UE_VALUE = satAdd F.MEM_CNT_SCRUB_UE_VALUE.width (s.fld F.MEM_CNT_SCRUB_UE_VALUE) 1))))
      ∧ (¬on → step = .next s)
      ∧ (let lag := s.fld F.MEM_CTL_SCRUB_TILE_EN = 1 ∧ 2 * s.fld F.MEM_SCRUB_TILE_MS < ms
        (lag → Reaches (Sys2Proof.Machine.exec (.memScrubLag t ms) s) (fun u => u.fld F.MEM_STATUS_SCRUB_LAG = 1
            ∧ Logged s u (s.tile t).seen t 0x0805 false [(1, t)]
            ∧ OnlyChanges [.evt, .host] (fun b => b = R.MEM_STATUS ∨ logReg b) s u))
          ∧ (¬lag → Sys2Proof.Machine.exec (.memScrubLag t ms) s = .next s))
      ∧ let near := v.toNat % 2 ^ 14
        let deep := v.toNat / 2 ^ 16 % 2 ^ 14
        let tile := v.toNat / 2 ^ 32 % 2 ^ 16
        let fits := 1 ≤ near ∧ near ≤ 8760 ∧ 1 ≤ deep ∧ deep ≤ 8760 ∧ 10 ≤ tile ∧ tile ≤ 60000
        (fits → Reaches (Sys2Proof.Machine.exec (.memScrubWrite v) s) (fun u => u.fld F.MEM_SCRUB_NEAR_HOURS = near
            ∧ u.fld F.MEM_SCRUB_DEEP_HOURS = deep ∧ u.fld F.MEM_SCRUB_TILE_MS = tile ∧ OnlyChanges [] (fun b => b = R.MEM_SCRUB) s u))
          ∧ (¬fits → Reaches (Sys2Proof.Machine.exec (.memScrubWrite v) s) (fun u => u.fld F.MEM_STATUS_CFG_ERR = 1
            ∧ OnlyChanges [] (fun b => b = R.MEM_STATUS) s u))

/-! ## The fabric -/

/-- What a fabric command may change: links, requests, the fabric's registers, the log, and the capture and replay records. -/
def fabricOnly (parts : List Part) (s u : State) : Prop :=
  OnlyChanges ([.fab, .evt, .host, .rep] ++ parts) (fun b => blockReg 2 b ∨ logReg b) s u

/-- Packet `p` is on link `l`: waiting for credits or sent and kept for replay. -/
def onLink (u : State) (l : Nat) (p : FabPkt) : Prop := p ∈ (u.link l).wait ∨ ∃ n, (n, p) ∈ (u.link l).replay

/-- The link layer (R294, R296 to R299). A unit in sequence is acknowledged and received; one already received is acknowledged again;
one with a bad CRC or beyond the next sequence number has its replay requested once and is discarded with what follows; a replayed
unit that fails again has its replay requested again; a packet wakes a device in Watch. An acknowledge
frees the replay buffer up to its packet. A replay request sends again, and the one after REPLAY_MAX for one packet takes the link DOWN
with its packets discarded; under AUTO_RETRAIN it trains again, its port reset and that recorded (R417, R420, R422; no reset inside a job
reset: the model's reading, log entry 124). Returned credits count. Training ends with the link UP once the port controllers run. CFG is refused with FEC 3 or a change of SPLIT,
MEDIUM or FEC under EN; EN sets the port's links training. -/
def Obligations.LinkLayer : Prop :=
  ∀ (l : LinkId) (s : State), captureOff s →
    let p := l.val / 2
    let k := s.link l
    let up := s.fld (fLinkState l) = lkUP
    let others (u : State) : Prop := ∀ m, m ≠ l.val → u.link m = s.link m
    let awake := s.fld F.PWR_STATE_CUR ≠ 2 ∧ s.pwr.entering ≠ some 2
    (∀ (pk : FabPkt) (seq crc : BitVec 32) (corr uncorr : Nat), up → s.fld F.PWR_STATE_CUR = 2 →
        Reaches (Sys2Proof.Machine.exec (.linkPacketRx l (.packet pk seq crc) corr uncorr) s) (fun u =>
          u.fld F.PWR_STATE_CUR = 1 ∧ u.fld F.PWR_WAKE_CAUSE = 5 ∧ u.fld F.PWR_WAKE_DETAIL = p ∧ u.pwr.entering = none))
      ∧ (∀ (pk : FabPkt) (seq crc : BitVec 32) (corr uncorr : Nat), up → awake →
        let good := crc.toNat = pk.linkCrc ∧ (fecMark (s.fld (F.FAB_PORT_CFG_FEC p)) corr uncorr).1 = false
        let rx := Sys2Proof.Machine.exec (.linkPacketRx l (.packet pk seq crc) corr uncorr) s
        (good → seq.toNat = k.rxNext → Reaches rx (fun u =>
            u.link l = { k with rxNext := (k.rxNext + 1) % 2 ^ 32, rxSkip := false, rx := k.rx ++ [pk] }
              ∧ u.fab.syms = s.fab.syms ++ [(l.val, 4, seq.toNat, 0)] ∧ others u ∧ fabricOnly [] s u))
          ∧ (good → seq.toNat ≠ k.rxNext → seqAhead seq.toNat k.rxNext = false → Reaches rx (fun u =>
            u.link l = k ∧ u.fab.syms = s.fab.syms ++ [(l.val, 4, seq.toNat, 0)] ∧ others u ∧ fabricOnly [] s u))
          ∧ (¬good ∨ (seq.toNat ≠ k.rxNext ∧ seqAhead seq.toNat k.rxNext = true) → Reaches rx (fun u =>
            u.link l = { k with rxSkip := true }
              ∧ u.fab.syms = s.fab.syms ++ (if k.rxSkip ∧ seq.toNat ≠ k.rxNext then [] else [(l.val, 5, k.rxNext, 0)]) ∧ others u ∧ fabricOnly [] s u)))
      ∧ (∀ seq : BitVec 32, Reaches (Sys2Proof.Machine.exec (.linkAcknowledge l seq) s) (fun u =>
          k.replay.filter (fun x => !seqAhead seq.toNat x.1) <+: (u.link l).replay ∧ (u.link l).rx = k.rx ∧ others u
            ∧ fabricOnly [] s u))
      ∧ (∀ seq : BitVec 32, up →
          let n := if k.again.1 = seq.toNat then k.again.2 + 1 else 1
          let most := max 1 (s.fld (F.FAB_PORT_CFG_REPLAY_MAX p))
          (n ≤ most → Reaches (Sys2Proof.Machine.exec (.linkReplayRequest l seq) s) (fun u =>
              u.link l = { k with again := (seq.toNat, n) } ∧ u.fld (fLinkState l) = lkUP ∧ others u ∧ fabricOnly [] s u))
            ∧ (most < n → Reaches (Sys2Proof.Machine.exec (.linkReplayRequest l seq) s) (fun u =>
              let auto := s.fld (F.FAB_PORT_CFG_AUTO_RETRAIN p) = 1
              u.fld (fLinkState l) = (if auto then lkTRAINING else lkDOWN)
                ∧ (u.link l).replay = [] ∧ (u.link l).wait = [] ∧ (u.link l).rx = k.rx
                ∧ (¬auto ∨ s.fw.jobWait ≠ none → u.fld (F.FAB_PORT_CNT_DOWN_DOWNS p)
                    = satAdd (F.FAB_PORT_CNT_DOWN_DOWNS p).width (s.fld (F.FAB_PORT_CNT_DOWN_DOWNS p)) 1 ∧ fabricOnly [] s u)
                ∧ (auto → s.fw.jobWait = none → u.fld (F.FAB_PORT_CNT_DOWN_DOWNS p) = 0
                    ∧ u.reg (R.FAB_PORT_CNT_LINK p) = 0 ∧ u.reg (R.FAB_PORT_CNT_FEC p) = 0 ∧ u.reg (R.FAB_PORT_CNT_BYTES p) = 0
                    ∧ u.fld F.MBX_HOST_RESET_DONE = 1 ∧ u.fld F.MBX_HOST_LAST_RESET = 7)
                ∧ others u ∧ OnlyChanges [.fab, .evt, .host, .rep] (fun b => blockReg 2 b ∨ logReg b ∨ b = R.MBX_HOST) s u)))
      ∧ (∀ (vc : BitVec 3) (n : Nat), k.wait = [] → Reaches (Sys2Proof.Machine.exec (.creditReturn l vc n) s) (fun u =>
          (u.link l).used = k.used.set vc.toNat (k.used.getD vc.toNat 0 - n) ∧ (u.link l).replay = k.replay ∧ others u
            ∧ fabricOnly [] s u))
      ∧ (s.fw.held = true → Sys2Proof.Machine.exec (.linkTrainingComplete l) s = .next s)
      ∧ (s.fld (fLinkState l) = lkTRAINING → s.fld (F.TIDE_LINK_VALID p) = 1 → s.fw.held = false →
          Reaches (Sys2Proof.Machine.exec (.linkTrainingComplete l) s) (fun u => u.fld (fLinkState l) = lkUP
            ∧ Logged s u s.count srcFAB 0x0902 false [(1, p), (1, l.val % 2)] ∧ u.fab = s.fab ∧ fabricOnly [] s u))
      ∧ ∀ (port : Fin 16) (v : BitVec 64),
          let en := s.fld (F.FAB_PORT_CFG_EN port)
          let set (u : State) : Prop := u.fld (F.FAB_PORT_CFG_EN port) = v.toNat % 2 ∧ u.fld (F.FAB_PORT_CFG_SPLIT port) = v.toNat / 2 % 2
            ∧ u.fld (F.FAB_PORT_CFG_FEC port) = v.toNat / 8 % 4 ∧ fabricOnly [] s u
          let cfg := Sys2Proof.Machine.exec (.fabPortCfgWrite port v) s
          let refused := v.toNat / 8 % 4 = 3 ∨ (en = 1 ∧ v.toNat / 2 % 16 ≠ (s.reg (R.FAB_PORT_CFG port)).toNat / 2 % 16)
          (refused → Reaches cfg (fun u => u.fld F.FAB_STATUS_CFG_ERR = 1 ∧ OnlyChanges [] (fun b => b = R.FAB_STATUS) s u))
            ∧ (¬refused → en = 0 → v.toNat % 2 = 1 → Reaches cfg (fun u => set u ∧ u.fld (fLinkState (2 * port.val)) = lkTRAINING
              ∧ (v.toNat / 2 % 2 = 1 → u.fld (fLinkState (2 * port.val + 1)) = lkTRAINING)))
            ∧ (¬refused → en = 1 → v.toNat % 2 = 0 → Reaches cfg (fun u => set u ∧ u.fld (fLinkState (2 * port.val)) = lkDISABLED
              ∧ u.fld (fLinkState (2 * port.val + 1)) = lkDISABLED ∧ u.fld (F.FAB_PORT_STATUS_LANES_UP port) = 0))
            ∧ (¬refused → en = v.toNat % 2 → Reaches cfg (fun u => set u ∧ u.fab = s.fab))

/-- A packet of this device has gone out from `s` to `u` (R312): to this device's own waiting packets, whatever VALID is, or onto the
link of its route. -/
def sentFrom (s u : State) (a : FabPkt) : Prop :=
  (s.isOwn a = true → a ∈ (u.link 32).rx)
    ∧ (s.isOwn a = false → ∀ l, s.routeOf a.dst.toNat = some l → onLink u l a)

/-- An answer of the given operation to a request has gone out (R303, R309). -/
def answered (s u : State) (p : FabPkt) (opc nak : Nat) (payload : List Byte) : Prop :=
  ∃ a : FabPkt, a.opc.toNat = opc ∧ a.dst = p.src ∧ a.tag = p.tag ∧ a.unit = p.unit ∧ a.nak.toNat = nak ∧ a.payload = payload
    ∧ sentFrom s u a

/-- Packets for this device and packets passing through (R300, R303 to R310, R312, R313, R413). READ answers the bytes of memory; WRITE
stores its payload; ATOMIC stores the new value of its word and answers the old; SACC changes no byte outside its elements; TOKEN_INC
leaves its increment with the tile; MSG for a queue that is not ACTIVE is refused; CREDIT raises a send queue's credits; an answer ends
the request of its tag, and one with no request is late; a request in time unanswered ends with REQ_TIMEOUT; a request for a free
manager channel is put into it and any other management packet waits for firmware. A packet for another device goes onto the link of its
route with HOPS raised. -/
def Obligations.FabricPackets : Prop :=
  ∀ (l : RxId) (vc : BitVec 3) (p : FabPkt) (s : State), captureOff s → s.fld F.EVT_STATUS_REPLAY_RUN = 0 →
    s.rxFront l vc.toNat = some p →
    let here := s.isLocal p = true ∨ l.val = 32
    let a := p.addr.toNat
    let taken (u : State) : Prop := u.fld F.FAB_CNT_RX_LOCAL_VALUE = satAdd 64 (s.fld F.FAB_CNT_RX_LOCAL_VALUE) 1
      ∧ (l.val ≠ 32 → (u.link l).rx = (s.link l).rx.erase p) ∧ u.pending = s.pending
    (here → p.opc.toNat = opREAD → inMemory a p.len.toNat → ∀ up, Reaches (Sys2Proof.Machine.exec (.read l vc up) s) (fun u =>
        taken u ∧ answered s u p opRDATA 0 (s.bytes a p.len.toNat) ∧ u.mem = s.mem ∧ u.tiles = s.tiles))
      ∧ (here → p.opc.toNat = opWRITE → p.e2e = false → inMemory a p.payload.length →
          Reaches (Sys2Proof.Machine.exec (.write l vc) s) (fun u => taken u ∧ answered s u p opACK 0 []
            ∧ (∀ b, u.byte b = if a ≤ b ∧ b < a + p.payload.length then p.payload.getD (b - a) 0 else s.byte b) ∧ u.tiles = s.tiles))
      ∧ (here → p.opc.toNat = opATOMIC →
          let n := if p.sub.toNat / 16 % 2 = 1 then 8 else 4
          let op := p.sub.toNat % 16
          op ≤ 10 → a % n = 0 → inMemory a n → ∀ up, Reaches (Sys2Proof.Machine.exec (.atomic l vc up) s) (fun u =>
            taken u ∧ answered s u p opADATA 0 (leBytes 8 (s.num a n))
              ∧ u.num a n = atomicNew op (8 * n) (s.num a n) (p.opnd.toNat % 2 ^ (8 * n)) (p.opnd2.toNat % 2 ^ (8 * n)) % 2 ^ (8 * n)
              ∧ ∀ b, b < a ∨ a + n ≤ b → u.byte b = s.byte b))
      ∧ (here → p.opc.toNat = opSACC → p.e2e = false → ∀ up, Reaches (Sys2Proof.Machine.exec (.sacc l vc up) s) (fun u =>
          taken u ∧ (∀ b, b < a ∨ a + p.payload.length ≤ b → u.byte b = s.byte b) ∧ ∃ opc nak, answered s u p opc nak []))
      ∧ (here → p.opc.toNat = opTOKENINC → Reaches (Sys2Proof.Machine.exec (.tokenInc l vc) s) (fun u =>
          let t := p.opnd.toNat / 2 ^ 12 % 256
          taken u ∧ answered s u p opACK 0 [] ∧ u.mem = s.mem
            ∧ (t < 144 → (u.tile t).tokPend = (s.tile t).tokPend
                ++ [.inc (p.opnd.toNat % 4096) (p.opnd.toNat / 2 ^ 20 % 65536) (p.flags.toNat ||| flagREMOTE) prodFAB])
            ∧ ∀ x, x ≠ t → u.tile x = s.tile x))
      ∧ (here → p.opc.toNat = opMSG → (∀ x, s.queue p.qid.toNat = some x → x.recv = false ∨ x.state ≠ quACTIVE) →
          Reaches (Sys2Proof.Machine.exec (.msg l vc) s) (fun u => taken u ∧ answered s u p opNAK nakQSTATE []
            ∧ u.mem = s.mem ∧ u.que = s.que))
      ∧ (here → p.opc.toNat = opCREDIT → ∀ x, s.queue p.qid.toNat = some x → x.recv = false →
          Reaches (Sys2Proof.Machine.exec (.credit l vc) s) (fun u => taken u ∧ u.mem = s.mem
            ∧ u.queue p.qid.toNat = some { x with cred := min 65535 (x.cred + p.opnd.toNat % 2 ^ 32) }
            ∧ ∀ q, q ≠ p.qid.toNat → u.queue q = s.queue q))
      ∧ (let answers (c : Instr) (opc : Nat) : Prop := here → p.opc.toNat = opc →
            (∀ r, s.reqOf p.tag.toNat = some r → r.cl = .none → Reaches (Sys2Proof.Machine.exec c s) (fun u =>
              taken u ∧ u.fab.reqs = s.fab.reqs.erase r ∧ u.fld F.FAB_STATUS_OUTSTANDING = (s.fab.reqs.erase r).length % 2 ^ 32
                ∧ u.mem = s.mem))
              ∧ (s.reqOf p.tag.toNat = none → Reaches (Sys2Proof.Machine.exec c s) (fun u =>
                taken u ∧ u.fld F.FAB_STATUS_LATE_RSP = 1 ∧ u.fab.reqs = s.fab.reqs ∧ u.mem = s.mem))
        answers (.rdata l vc) opRDATA ∧ answers (.adata l vc) opADATA ∧ answers (.ack l vc) opACK ∧ answers (.nak l vc) opNAK)
      ∧ (here → p.opc.toNat = opMGMT →
          let c := p.opnd.toNat % 32
          let proxied := (c = 19 ∨ c = 20) ∧ p.opnd.toNat / 32 % 2 = 0
          (¬proxied → Reaches (Sys2Proof.Machine.exec (.mgmt l vc) s) (fun u =>
              taken u ∧ u.fab.mgmt = s.fab.mgmt ++ [p] ∧ u.mem = s.mem ∧ u.mbox = s.mbox))
            ∧ (proxied → s.fld (F.MBX_CH_STATUS_STATE c) = chIDLE → 16 ≤ p.payload.length → (p.payload.getD 1 0).toNat < 128 →
              Reaches (Sys2Proof.Machine.exec (.mgmt l vc) s) (fun u =>
              taken u ∧ u.fld (F.MBX_CH_STATUS_STATE c) = chPENDING ∧ u.fab.mgmt = s.fab.mgmt ∧ u.mem = s.mem)))
      ∧ (¬here →
          let hop := p.hops.toNat + 1
          let c := p.vc.toNat / 2
          let layered := if (s.fld (F.FAB_ROUTE_LAYER_UP p.dst.toNat)).testBit c then BitVec.ofNat 3 (2 * c + 1) else p.vc
          let on := { p with hops := p.hops + 1, vc := layered }
          (∀ o, hop ≤ max 1 (s.fld F.FAB_CTL_HOP_MAX) → s.routeOf p.dst.toNat = some o →
            Reaches (Sys2Proof.Machine.exec (.packetForward l vc) s) (fun u => onLink u o on
              ∧ u.fld F.FAB_CNT_FWD_VALUE = satAdd 64 (s.fld F.FAB_CNT_FWD_VALUE) 1 ∧ fabricOnly [] s u))
            ∧ (max 1 (s.fld F.FAB_CTL_HOP_MAX) < hop → Reaches (Sys2Proof.Machine.exec (.packetForward l vc) s) (fun u =>
              u.fld F.FAB_STATUS_HOP_LIMIT = 1 ∧ u.fld F.FAB_CNT_DROP_HOP_VALUE = satAdd 64 (s.fld F.FAB_CNT_DROP_HOP_VALUE) 1
                ∧ fabricOnly [] s u)))

/-- One bit taken into the CRC-32C running value, by the reflected polynomial (R325): independent of the unit's bytes. -/
def crcOneBit (c b : Nat) : Nat := if (c + b) % 2 = 1 then c / 2 ^^^ 0x82F63B78 else c / 2

/-- The bits of `n` bytes of a number, least significant first. -/
def lowBits (n v : Nat) : List Nat := (List.range (8 * n)).map (fun k => v / 2 ^ k % 2)

/-- The device ID, requests without an answer, and the check unit (R310, R313, R325, R326). FAB_ID is written unless a queue is ACTIVE
or a request outstanding. A request whose time is up is no longer outstanding and counts; its requester proceeds as on an error answer.
A data write feeds 1, 2 or 4 bytes, least significant first, into the running value; a write of VALUE sets it after all earlier data and
INIT sets it to 0xFFFF_FFFF, so that a saved value written back continues its message; RESULT is the complement of VALUE. -/
def Obligations.FabricIdentityAndCheck : Prop :=
  (∀ (v : BitVec 64) (s : State),
    let busy := s.anyActive = true ∨ s.fab.reqs ≠ []
    (busy → Reaches (Sys2Proof.Machine.exec (.fabIdWrite v) s) (fun u =>
        u.fld F.FAB_STATUS_CFG_ERR = 1 ∧ OnlyChanges [] (fun b => b = R.FAB_STATUS) s u))
      ∧ (¬busy → Reaches (Sys2Proof.Machine.exec (.fabIdWrite v) s) (fun u => u.fld F.FAB_ID_ID = v.toNat % 2 ^ 16
        ∧ u.fld F.FAB_ID_VALID = v.toNat / 2 ^ 16 % 2 ∧ OnlyChanges [] (fun b => b = R.FAB_ID) s u)))
    ∧ (∀ (tag : BitVec 32) (s : State),
      (∀ r, s.reqOf tag.toNat = some r → r.cl = .none → Reaches (Sys2Proof.Machine.exec (.fabReqTimeout tag) s) (fun u =>
          u.fab.reqs = s.fab.reqs.erase r ∧ u.fld F.FAB_STATUS_OUTSTANDING = (s.fab.reqs.erase r).length % 2 ^ 32
            ∧ u.fld F.FAB_CNT_REQ_TIMEOUT_VALUE = satAdd 64 (s.fld F.FAB_CNT_REQ_TIMEOUT_VALUE) 1
            ∧ u.fld F.FAB_STATUS_REQ_TIMEOUT = 1 ∧ fabricOnly [] s u))
        ∧ (∀ r q idx tries k x d, s.reqOf tag.toNat = some r → r.cl = .queue q idx tries k → s.queue q = some x →
          x.infl.find? (fun y => y.idx == idx && y.tries == tries && !y.done) = some d → d.e2e x = false → s.greOfQueue q = none →
          Reaches (Sys2Proof.Machine.exec (.fabReqTimeout tag) s) (fun u => ∃ y, u.queue q = some y ∧ y.state = quERROR
            ∧ u.fld F.QUE_STATUS_QUEUE_ERROR = 1 ∧ u.mem = s.mem))
        ∧ (s.reqOf tag.toNat = none → Sys2Proof.Machine.exec (.fabReqTimeout tag) s = .next s))
    ∧ ∀ (v : BitVec 32) (s : State),
      let value := s.fld F.FAB_MCRC_VALUE_VALUE
      let becomes (c : Instr) (x : Nat) : Prop := Reaches (Sys2Proof.Machine.exec c s) (fun u =>
        u.fld F.FAB_MCRC_VALUE_VALUE = x ∧ u.fld F.FAB_MCRC_RESULT_RESULT = x ^^^ 0xFFFFFFFF
          ∧ OnlyChanges [] (fun b => b = R.FAB_MCRC_VALUE ∨ b = R.FAB_MCRC_RESULT) s u)
      becomes (.fabMcrcData8 v) ((lowBits 1 v.toNat).foldl crcOneBit value)
        ∧ becomes (.fabMcrcData16 v) ((lowBits 2 v.toNat).foldl crcOneBit value)
        ∧ becomes (.fabMcrcData32 v) ((lowBits 4 v.toNat).foldl crcOneBit value)
        ∧ becomes (.fabMcrcInit v) 0xFFFFFFFF
        ∧ becomes (.fabMcrcValueWrite v) v.toNat

/-! ## Hardware queues -/

/-- What a queue command may change: the queues, memory with its marks, the queue unit's registers and the log. -/
def queueOnly (s u : State) : Prop :=
  OnlyChanges [.que, .mem, .tags, .memu, .evt, .host] (fun b => blockReg 3 b ∨ memoryReg b) s u

/-- What a write to the queue unit may change: the same, and what a note of the write leaves. -/
def queueWrite (s u : State) : Prop := WriteChanges [.que, .mem, .tags, .memu] (fun b => blockReg 3 b ∨ memoryReg b) s u

/-- The increments of the tokens at the head of a post queue's order that wait for nothing more (R74). -/
def dueTokens : List PostEnt → List TokUpd
  | .owed k f p :: es => .inc (k % 4096) 1 f p :: dueTokens es
  | _ => []

/-- A queue's fields lie in the widths of its context. -/
def inWidths (x : Queue) : Prop :=
  x.ring < 2 ^ 48 ∧ x.log2 < 32 ∧ x.cls < 4 ∧ x.retry < 8 ∧ x.head < 2 ^ 32 ∧ x.tail < 2 ^ 32 ∧ x.pdev < 2 ^ 16 ∧ x.pqid < 2 ^ 16
    ∧ x.cred < 2 ^ 16 ∧ x.alive < 256 ∧ x.buf < 2 ^ 64 ∧ x.bsize < 2 ^ 32 ∧ x.token < 4096 ∧ x.tile < 256

/-- A queue's record as the words of its context give it (R316). -/
def loaded (w : Nat → Nat) (x : Queue) : Prop :=
  x.ring = w 0 % 2 ^ 48 ∧ x.log2 = w 0 / 2 ^ 48 % 32 ∧ x.recv = (w 0).testBit 53 ∧ x.cls = w 0 / 2 ^ 54 % 4 ∧ x.retry = w 0 / 2 ^ 59 % 8
    ∧ x.head = w 1 % 2 ^ 32 ∧ x.tail = w 1 / 2 ^ 32 % 2 ^ 32 ∧ x.pdev = w 2 % 2 ^ 16 ∧ x.pqid = w 2 / 2 ^ 16 % 2 ^ 16
    ∧ x.cred = w 2 / 2 ^ 32 % 2 ^ 16 ∧ x.alive = w 2 / 2 ^ 48 % 256 ∧ x.opn = (w 2).testBit 56 ∧ x.buf = w 3
    ∧ x.bsize = w 4 % 2 ^ 32 ∧ x.token = w 4 / 2 ^ 32 % 4096 ∧ x.tile = w 4 / 2 ^ 44 % 256 ∧ x.tokEn = (w 4).testBit 52

/-- Hardware queues (R315 to R324, R329). ENABLE loads a DISABLED queue's context and makes it ACTIVE; DISABLE lets it drain; a drained
one is DISABLED with its whole context written back; RESET_ALIVE clears ALIVE; a command not allowed sets CFG_ERR. A SEND doorbell
sets TAIL within the ring; a RECV doorbell frees slots and returns as many credits. Every later ac of its tile the post engine takes a Q.POST from the post queue and writes the descriptor into its queue's next slot, or rejects it, its token after those of the commands before it (R74, R82). The queue engine sends the next packet of the queue in turn; a finished descriptor completes in order with HEAD,
its token and its count; a message of one packet in sequence lands in the receive buffer and completes with its entry. -/
def Obligations.HardwareQueues : Prop :=
  (∀ (m : Master) (q : BitVec 16) (v : BitVec 32) (s : State),
    let k := q.toNat
    let a := s.ctxAddr k
    let w (j : Nat) : Nat := s.num (a + 8 * j) 8
    let others (u : State) : Prop := ∀ j, j ≠ k → u.queue j = s.queue j
    let outside (u : State) : Prop := ∀ b, b < a ∨ a + 40 ≤ b → u.byte b = s.byte b
    let nothing (c : Instr) : Prop := Reaches (Sys2Proof.Machine.exec c s) (WriteChanges [] (fun _ => False) s)
    let refused (c : Instr) : Prop := Reaches (Sys2Proof.Machine.exec c s) (fun u =>
      u.fld F.QUE_STATUS_CFG_ERR = 1 ∧ WriteChanges [] (fun b => b = R.QUE_STATUS) s u)
    let becomes (c : Instr) (y : Queue) : Prop := Reaches (Sys2Proof.Machine.exec c s) (fun u =>
      u.queue k = some y ∧ others u ∧ WriteChanges [.que] (fun b => b = R.QUE_STATUS) s u)
    (s.queue k = none →
      (1 ≤ w 0 / 2 ^ 48 % 32 ∧ w 0 / 2 ^ 48 % 32 ≤ 16 → Reaches (Sys2Proof.Machine.exec (.queueEnable m q) s) (fun u =>
          (∃ x, u.queue k = some x ∧ x.state = quACTIVE ∧ loaded w x ∧ x.infl = [] ∧ x.pays = [])
            ∧ others u ∧ u.mem = s.mem ∧ queueWrite s u))
        ∧ (¬(1 ≤ w 0 / 2 ^ 48 % 32 ∧ w 0 / 2 ^ 48 % 32 ≤ 16) → Reaches (Sys2Proof.Machine.exec (.queueEnable m q) s) (fun u =>
          u.fld F.QUE_STATUS_CFG_ERR = 1 ∧ u.que = s.que ∧ u.mem = s.mem ∧ queueWrite s u))
        ∧ refused (.queueDisable m q) ∧ refused (.queDbTail m q v) ∧ refused (.queDbHead m q v)
        ∧ Reaches (Sys2Proof.Machine.exec (.resetAlive m q) s) (fun u => u.num (a + 16) 8 / 2 ^ 48 % 2 ^ 9 = 0
          ∧ u.num (a + 16) 8 % 2 ^ 48 = w 2 % 2 ^ 48 ∧ (∀ b, b < a + 16 ∨ a + 24 ≤ b → u.byte b = s.byte b) ∧ u.que = s.que
          ∧ queueWrite s u))
      ∧ ∀ x, s.queue k = some x →
        refused (.queueEnable m q)
          ∧ (x.state = quACTIVE ∨ x.state = quERROR → becomes (.queueDisable m q) { x with state := quDRAINING })
          ∧ (x.state = quERROR → becomes (.resetAlive m q) { x with alive := 0, opn := false, rx := QueRx.none })
          ∧ (x.state ≠ quACTIVE → x.state ≠ quERROR → refused (.queueDisable m q))
          ∧ (x.state ≠ quERROR → refused (.resetAlive m q))
          ∧ (x.recv = true → nothing (.queDbTail m q v))
          ∧ (x.recv = false → nothing (.queDbHead m q v))
          ∧ (x.state = quDRAINING → x.infl = [] → Reaches (Sys2Proof.Machine.exec (.queueDrainEnd q) s) (fun u =>
              u.queue k = none ∧ u.num a 8 / 2 ^ 56 % 8 = quDISABLED ∧ u.num (a + 8) 4 = x.head % 2 ^ 32
                ∧ u.num (a + 12) 4 = x.tail % 2 ^ 32 ∧ u.num (a + 16) 8 / 2 ^ 32 % 2 ^ 16 = x.cred % 2 ^ 16
                ∧ u.num (a + 16) 8 / 2 ^ 48 % 256 = x.alive % 256 ∧ (inWidths x → loaded (fun j => u.num (a + 8 * j) 8) x)
                ∧ others u ∧ outside u ∧ queueOnly s u))
          ∧ (x.state ≠ quDRAINING ∨ x.infl ≠ [] → Sys2Proof.Machine.exec (.queueDrainEnd q) s = .next s)
          ∧ (x.recv = false →
            let fits := idxDiff v.toNat x.head ≤ 2 ^ x.log2 ∧ idxDiff x.tail x.head ≤ idxDiff v.toNat x.head
            (fits → becomes (.queDbTail m q v) { x with tail := v.toNat }) ∧ (¬fits → refused (.queDbTail m q v)))
          ∧ (x.recv = true → captureOff s → s.fld F.EVT_STATUS_REPLAY_RUN = 0 →
            let n := idxDiff v.toNat x.head
            (idxDiff x.tail x.head < n → refused (.queDbHead m q v))
              ∧ (n = 0 → nothing (.queDbHead m q v))
              ∧ (0 < n → n ≤ idxDiff x.tail x.head → s.fld F.FAB_ID_VALID = 1 →
                Reaches (Sys2Proof.Machine.exec (.queDbHead m q v) s) (fun u =>
                  u.queue k = some { x with head := v.toNat } ∧ others u ∧ u.mem = s.mem
                    ∧ ∃ p : FabPkt, p.opc = 0x07 ∧ p.dst.toNat = x.pdev % 2 ^ 16 ∧ p.qid.toNat = x.pqid % 2 ^ 16 ∧ p.opnd.toNat = n
                      ∧ sentFrom s u p)))
          ∧ (∀ d ds, x.infl = d :: ds →
            let r := x.slot d.idx + 192
            let apart := d.bits 0 14 1 = 1 → d.bits 1 48 16 ≠ s.fld F.FAB_ID_ID
            (d.done = false → Sys2Proof.Machine.exec (.queueDescComplete q) s = .next s)
              ∧ (d.done = true → captureOff s → inMemory r 64 →
                Reaches (Sys2Proof.Machine.exec (.queueDescComplete q) s) (fun u =>
                  u.queue k = some { x with infl := ds, head := (x.head + 1) % 2 ^ 32 } ∧ others u
                    ∧ u.num r 1 = d.fail % 256 ∧ u.num (r + 8) 8 = d.bytes % 2 ^ 64
                    ∧ (∀ b, b < r ∨ r + 64 ≤ b → u.byte b = s.byte b)
                    ∧ u.fld F.QUE_CNT_DESC_DONE_VALUE = satAdd 64 (s.fld F.QUE_CNT_DESC_DONE_VALUE) 1
                    ∧ (d.gre = none → apart → d.bits 0 15 1 = 1 → d.bits 1 12 8 < 144 →
                      let tile := d.bits 1 12 8
                      let out := (s.tile tile).postOut
                      let e := PostEnt.que k d.idx
                      (d.flags % 2 = 0 ∨ e ∉ out → (u.tile tile).tokPend
                          = (s.tile tile).tokPend ++ .inc (d.bits 1 0 12) 1 d.flags prodQUE :: dueTokens (out.erase e))
                        ∧ (d.flags % 2 = 1 → e ∈ out → (u.tile tile).tokPend = (s.tile tile).tokPend
                          ++ dueTokens (out.map (fun x => if x = e then .owed (d.bits 1 0 12) d.flags prodQUE else x))))
                    ∧ (d.gre ≠ none ∨ (apart ∧ d.bits 0 15 1 = 0) → u.tiles = s.tiles) ∧ u.strm = s.strm ∧ u.pending = s.pending))))
    ∧ (∀ (t : Fin 144) (n : Nat) (s : State),
      ((s.tile t).ac < n → ∃ e : State, s.advance t n = e.postRun t n ∧ (e.tile t).ac = n)
        ∧ ∀ (c : QCmd) (i : Iss) (a : PostArgs), (s.tile t).postQ = [c] → c.c = .qPost i a → c.desc.length = 192 →
          let q := a.x.toNat / 2 ^ 10 % 2 ^ 16
          let words := (List.range 24).map (fun k => c.word k)
          let u := s.postRun t n
          let goes : Prop := (u.tile t).postQ = [] ∧ u.strm = s.strm ∧ u.vregs = s.vregs ∧ u.pending = s.pending
          let rejected (r : Nat) : Prop := u.fld F.QUE_REJECT_REASON = r % 16 ∧ u.fld F.QUE_REJECT_QID = q
            ∧ u.fld F.QUE_REJECT_COUNT = satAdd 32 (s.fld F.QUE_REJECT_COUNT) 1 ∧ u.fld F.QUE_STATUS_REJECT = 1 ∧ u.que = s.que
            ∧ u.mem = s.mem ∧ goes
            ∧ (u.tile t).tokPend = (s.tile t).tokPend ++ dueTokens ((s.tile t).postOut ++ (if a.te then
                [.owed a.token.toNat (flagERROR ||| (if c.poisoned then flagPOISON else 0)) prodQUE] else []))
          (n ≤ c.ac → u.tile t = s.tile t ∧ u.que = s.que ∧ u.mem = s.mem)
            ∧ (c.ac < n → (∀ x, s.queue q = some x → q < 1024 ∨ x.state ≠ quACTIVE ∨ x.recv = true) → rejected 1)
            ∧ ∀ x, c.ac < n → s.queue q = some x → 1024 ≤ q → x.state = quACTIVE → x.recv = false →
              (2 ^ x.log2 ≤ idxDiff x.tail x.head → rejected 2)
                ∧ (idxDiff x.tail x.head < 2 ^ x.log2 →
                  (∀ r, (QueDesc.new x.tail words c.poisoned).reject x = some r → rejected r)
                    ∧ ((QueDesc.new x.tail words c.poisoned).reject x = none →
                      u.queue q = some { x with tail := (x.tail + 1) % 2 ^ 32 } ∧ (∀ j, j ≠ q → u.queue j = s.queue j)
                        ∧ (∀ k, 2 ≤ k → k < 24 → u.num (x.slot x.tail + 8 * k) 8 = words.getD k 0)
                        ∧ u.num (x.slot x.tail) 8 / 2 ^ 15 % 2 = (if a.te then 1 else 0)
                        ∧ u.num (x.slot x.tail + 8) 8 % 2 ^ 20 = a.token.toNat + t * 2 ^ 12
                        ∧ (∀ b, b < x.slot x.tail ∨ x.slot x.tail + 192 ≤ b → u.byte b = s.byte b)
                        ∧ (u.tile t).postOut = (s.tile t).postOut ++ (if a.te then [.que q x.tail] else [])
                        ∧ (u.tile t).tokPend = (s.tile t).tokPend ∧ goes)))
    ∧ (∀ s : State, captureOff s → s.fld F.EVT_STATUS_REPLAY_RUN = 0 →
      let turn := Sys2Proof.Machine.exec (.queuePacketSend []) s
      (s.fld F.QUE_CTL_EN = 0 ∨ s.queOrder = [] → turn = .next s)
        ∧ ∀ q rest x d, s.fld F.QUE_CTL_EN = 1 → s.queOrder = q :: rest → s.queue q = some x → x.sender = some d →
          let new := d.e2e x && !d.held
          let d1 := if new then { d with held := true, alive := x.alive } else d
          let p := quePacket x d1 d.sent
          let out := { p with tag := BitVec.ofNat 32 s.fab.tag, src := BitVec.ofNat 16 (s.fld F.FAB_ID_ID) }
          (new = true → 0 < x.cred) → s.canSend p = true → s.fld F.FAB_ID_VALID = 1 →
          Reaches turn (fun u => sentFrom s u out ∧ (∀ j, j ≠ q → u.queue j = s.queue j) ∧ u.mem = s.mem
            ∧ ∃ y, u.queue q = some y ∧ y.cred = x.cred - (if new then 1 else 0)
              ∧ y.alive = (if new then (x.alive + 1) % 256 else x.alive) ∧ y.head = x.head ∧ y.tail = x.tail
              ∧ y.infl = x.infl.map (fun z => if z.idx = d.idx then { d1 with sent := d.sent + 1, all := d.all + 1 } else z)))
    ∧ ∀ (l : RxId) (vc : BitVec 3) (p : FabPkt) (x : Queue) (s : State), captureOff s → s.fld F.EVT_STATUS_REPLAY_RUN = 0 →
      s.rxFront l vc.toNat = some p → s.isLocal p = true ∨ l.val = 32 → p.opc.toNat = opMSG → p.pm = false →
      s.queue p.qid.toNat = some x → x.recv = true → x.state = quACTIVE → x.opn = false →
      p.first = true → p.last = true → p.alive.toNat = x.alive → p.opnd2.toNat = p.payload.length → p.payload.length < 2 ^ 32 → p.payload.length ≤ x.bsize →
      crc64 0 p.payload = p.crc.toNat → idxDiff x.tail x.head < 2 ^ x.log2 →
      let buf := x.buffer x.tail
      let e := x.entry x.tail
      let n := p.payload.length
      buf / 2 ^ 48 = s.fld F.FAB_ID_ID → inMemory (buf % 2 ^ 48) n → inMemory e 64 →
      e + 64 ≤ buf % 2 ^ 48 ∨ buf % 2 ^ 48 + n ≤ e →
      Reaches (Sys2Proof.Machine.exec (.msg l vc) s) (fun u =>
        u.bytes (buf % 2 ^ 48) n = p.payload ∧ u.num e 2 = p.src.toNat ∧ u.num (e + 8) 8 = n ∧ u.num (e + 32) 8 = buf
          ∧ (∀ b, (b < e ∨ e + 64 ≤ b) → (b < buf % 2 ^ 48 ∨ buf % 2 ^ 48 + n ≤ b) → u.byte b = s.byte b)
          ∧ u.queue p.qid.toNat = some { x with tail := (x.tail + 1) % 2 ^ 32, alive := (x.alive + 1) % 256, rx := QueRx.none }
          ∧ (∀ j, j ≠ p.qid.toNat → u.queue j = s.queue j)
          ∧ u.fld F.QUE_CNT_MSG_RX_VALUE = satAdd 64 (s.fld F.QUE_CNT_MSG_RX_VALUE) 1 ∧ answered s u p opACK 0 []
          ∧ (x.tokEn = true → x.tile < 144 →
            (u.tile x.tile).tokPend = (s.tile x.tile).tokPend ++ [.inc (x.token % 4096) 1 0 prodQUE]))

/-! ## The gradient exchange -/

/-- What a reduction command may change: the buckets, tokens of tiles, event counters, the engine's registers and the log. -/
def greOnly (parts : List Part) (s u : State) : Prop :=
  OnlyChanges ([.gre, .tiles, .evt, .host] ++ parts)
    (fun b => blockReg 4 b ∨ logReg b ∨ ∃ t i, b = R.TSQ_EVCNT_VALUE t i) s u

/-- The bucket that a GR.POST names, not yet accepted (R340). -/
def namedBucket (s0 : State) (t : Nat) (a : PostArgs) (words : List Nat) : GreBucket :=
  let c := a.x.toNat / 2 ^ 18 % 256
  { chan := c, seq := s0.fld (F.GRE_CHAN_SEQ_NEXT_SEQ c), ord := s0.gre.ord, tile := t, token := a.token.toNat, te := a.te, d := words
    ready := false, missed := false, late := false, outc := 0, started := false, carryIn := false, pass := 0, reran := []
    blks := [], fins := [], unacked := 0, quiet := 0, pois := false, carryBad := false, done := none, paid := false }

/-- The increments that a complete bucket's token and those behind it give (R74, R344). -/
def paidTokens (s : State) (b : GreBucket) : List TokUpd :=
  if b.te then .inc (b.token % 4096) 1 (if b.known.any (fun f => f.poison) then flagPOISON else 0) prodGRE
    :: dueTokens ((s.tile b.tile).postOut.erase (.gre b.ord))
  else []

/-- The gradient exchange (R331, R332, R337 to R357). A channel is enabled with its numbers from 0 if its configuration is legal, and
disabled with its buckets ended; one enabled over a link queue in ERROR is in ERROR. The post engine's GR.POST appends an accepted bucket, or is rejected, or has nothing to do, its token then after those of the commands before it (R74). A bucket starts when it may,
with a contribution to every block and its carry where that matches; a deadline that finds it not ready makes it late; a late
contribution is dropped, carried, or finds the carry buffer full. A received message combines its records, frees its slot, waits for its
bucket or puts the channel in ERROR. Overflowed blocks are re-run; the oldest bucket completes with its output, its predictions, its
headers, its status record and its token; a bucket without progress stalls its channel. -/
def Obligations.GradientExchange : Prop :=
  (∀ (m : Master) (c : Fin 256) (v : BitVec 64) (s : State),
    let n := v.toNat
    let topo := n / 2 % 4
    let p := n / 2 ^ 16 % 2 ^ 15
    let pos := n / 2 ^ 32 % 2 ^ 15
    let kids := n / 2 ^ 5 % 8
    let links := if topo = 0 then 1 else if topo = 1 then 2 else 1 + kids
    let inner := s.fld (F.GRE_CHAN_LINK_P_IN c)
    let base := s.fld (F.GRE_CHAN_LINK_QBASE c)
    let legal := topo ≠ 3 ∧ 1 ≤ p ∧ p ≤ 16384 ∧ pos < p ∧ kids ≤ 4 ∧ (topo = 1 → 2 ≤ inner ∧ p % inner = 0) ∧ base % 2 = 0
      ∧ base + 2 * links ≤ 1024 ∧ (n / 2 ^ 4 % 2 = 1 → c.val < 16) ∧ (pos = 0 → n / 2 ^ 48 % 2 ^ 16 = s.fld F.FAB_ID_ID)
    let on := s.fld (F.GRE_CHAN_CFG_EN c) = 1
    let calm := ∀ k x, k < 2 * links → s.queue (base + k) = some x → x.state ≠ quERROR
    (n % 2 = 1 → on ∨ ¬legal → Reaches (Sys2Proof.Machine.exec (.greChanEnable m c v) s) (fun u =>
        u.fld F.GRE_STATUS_CFG_ERR = 1 ∧ WriteChanges [] (fun b => b = R.GRE_STATUS) s u))
      ∧ (n % 2 = 1 → ¬on → legal → ¬calm → Reaches (Sys2Proof.Machine.exec (.greChanEnable m c v) s) (fun u =>
        u.fld (F.GRE_CHAN_CFG_EN c) = 1 ∧ u.fld (F.GRE_CHAN_STATE_STATE c) = 2 ∧ u.fld (F.GRE_CHAN_STATE_ERR_KIND c) = 2
          ∧ u.fld F.GRE_STATUS_CHAN_ERROR = 1 ∧ u.que = s.que ∧ u.mem = s.mem))
      ∧ (n % 2 = 1 → ¬on → legal → calm → Reaches (Sys2Proof.Machine.exec (.greChanEnable m c v) s) (fun u =>
        u.reg (R.GRE_CHAN_CFG c) = v &&& 0xFFFF7FFF7FFF0FFF ∧ u.reg (R.GRE_CHAN_SEQ c) = 0 ∧ u.fld (F.GRE_CHAN_STATE_STATE c) = 1
          ∧ WriteChanges [] (fun b => b = R.GRE_CHAN_CFG c ∨ b = R.GRE_CHAN_SEQ c ∨ b = R.GRE_CHAN_STATE c) s u))
      ∧ (n % 2 = 0 → on → Reaches (Sys2Proof.Machine.exec (.greChanDisable m c v) s) (fun u =>
        u.fld (F.GRE_CHAN_CFG_EN c) = 0 ∧ u.fld (F.GRE_CHAN_STATE_STATE c) = 0 ∧ u.bucketsOf c = []
          ∧ WriteChanges [.gre, .tiles] (fun b => blockReg 4 b ∨ ∃ t i, b = R.TSQ_EVCNT_VALUE t i) s u)))
    ∧ (∀ (t : Fin 144) (n : Nat) (q : QCmd) (i : Iss) (a : PostArgs) (s : State), (s.tile t).postQ = [q] → q.c = .grPost i a →
      q.ac < n →
      let b := namedBucket s t a ((List.range 16).map (fun k => q.word k))
      let u := s.postRun t n
      let goes : Prop := (u.tile t).postQ = [] ∧ u.strm = s.strm ∧ u.mem = s.mem ∧ u.que = s.que ∧ u.pending = s.pending
      let tokens (f : Nat) : Prop := (u.tile t).tokPend = (s.tile t).tokPend ++ dueTokens ((s.tile t).postOut ++ (if a.te then
        [.owed a.token.toNat f prodGRE] else []))
      let why := s.greReason b q.poisoned
      (∀ r, why = some r → u.gre = s.gre ∧ tokens flagERROR ∧ goes
          ∧ u.fld F.GRE_REJECT_REASON = r % 16 ∧ u.fld F.GRE_REJECT_CHAN = b.chan ∧ u.fld F.GRE_REJECT_TOKEN = a.token.toNat
          ∧ u.fld F.GRE_REJECT_COUNT = satAdd 32 (s.fld F.GRE_REJECT_COUNT) 1 ∧ u.fld F.GRE_STATUS_REJECT = 1
          ∧ u.fld F.GRE_CNT_POISON_VALUE = satAdd 64 (s.fld F.GRE_CNT_POISON_VALUE) (if r = 8 then 1 else 0))
        ∧ (why = none → b.count = 0 → u.gre = s.gre ∧ tokens flagZERO_WORK ∧ goes)
        ∧ (why = none → b.count ≠ 0 →
          let ready := decide (b.readyN ≤ s.fld (F.TSQ_TOKEN_COUNT t b.readyTok))
          let late := b.deadline ≠ 0 ∧ b.deadline ≤ s.tide.delivered ∧ ready = false
          let owes : Prop := (u.tile t).tokPend = (s.tile t).tokPend
            ∧ (u.tile t).postOut = (s.tile t).postOut ++ (if a.te then [.gre b.ord] else [])
          (¬late → u.gre.buckets = s.gre.buckets ++ [{ b with ready := ready }]
              ∧ u.fld (F.GRE_CHAN_SEQ_NEXT_SEQ b.chan) = (b.seq + 1) % 2 ^ 32 ∧ owes ∧ goes)
            ∧ (late → (∃ y, y ∈ u.gre.buckets ∧ y.ord = b.ord ∧ y.late = true ∧ y.missed = true)
              ∧ u.fld (F.GRE_CHAN_SEQ_NEXT_SEQ b.chan) = (b.seq + 1) % 2 ^ 32
              ∧ u.fld F.GRE_CNT_SELF_LATE_VALUE = satAdd 64 (s.fld F.GRE_CNT_SELF_LATE_VALUE) 1
              ∧ u.fld F.GRE_STATUS_SELF_LATE = 1 ∧ owes ∧ goes)))
    ∧ (∀ (c : Fin 256) (s : State),
      let start := Sys2Proof.Machine.exec (.greBucketStart c []) s
      let late := (s.bucketsOf c).filter (fun b => b.missed && !b.late)
      ((∀ b, (s.bucketsOf c).find? (fun b => !b.started) = some b → s.greMayStart b = false) → start = .next s)
        ∧ (∀ b, (s.bucketsOf c).find? (fun b => !b.started) = some b → s.greMayStart b = true →
          let h := s.carryHead b
          let held := s.fld (F.GRE_CHAN_CFG_POLICY c) = 1 ∧ b.late = false ∧ h.1 / 2 ^ 63 % 2 = 1
          let same := h.1 % 2 ^ 26 = b.count ∧ h.1 / 2 ^ 26 % 4 = b.sfmt
          let begun (u : State) (b1 : GreBucket) : Prop := u.mem = s.mem ∧ ∃ y, y ∈ u.gre.buckets ∧ y.ord = b.ord ∧ y.started = true
            ∧ y.carryIn = b1.carryIn ∧ y.blks.length = b.all
            ∧ ∀ j z, y.blks[j]? = some z → z.sum = (s.greContrib b1 j none).1
          h.2 = false → b.carryBad = false →
            (¬held → Reaches start (fun u => begun u { b with started := true }))
              ∧ (held → same → Reaches start (fun u => begun u { b with started := true, carryIn := true }))
              ∧ (held → ¬same → inMemory b.carryA 64 → Reaches start (fun u =>
                u.num b.carryA 8 = h.1 % 2 ^ 63 ∧ (∀ x, x < b.carryA ∨ b.carryA + 8 ≤ x → u.byte x = s.byte x)
                  ∧ u.fld F.GRE_CNT_CARRY_MISMATCH_VALUE = satAdd 64 (s.fld F.GRE_CNT_CARRY_MISMATCH_VALUE) 1
                  ∧ ∃ y, y ∈ u.gre.buckets ∧ y.ord = b.ord ∧ y.started = true ∧ y.carryIn = b.carryIn)))
        ∧ Reaches (Sys2Proof.Machine.exec (.greDeadline c) s) (fun u =>
            u.fld F.GRE_CNT_SELF_LATE_VALUE = satAdd 64 (s.fld F.GRE_CNT_SELF_LATE_VALUE) late.length
              ∧ (∀ b, b ∈ late → ∃ y, y ∈ u.gre.buckets ∧ y.ord = b.ord ∧ y.late = true)
              ∧ OnlyChanges [.gre, .evt, .host] (fun b => b = R.GRE_CNT_SELF_LATE ∨ b = R.GRE_STATUS ∨ logReg b) s u)
        ∧ (let done := Sys2Proof.Machine.exec (.greLateResolved c []) s
          let found := s.greUnresolved c
          (found = none → done = .next s)
            ∧ ∀ b, found = some b →
              let n := b.count * greBytes b.sfmt
              let full := (s.carryHead b).1 / 2 ^ 63 % 2 = 1
              let carry := s.fld (F.GRE_CHAN_CFG_POLICY c) = 1
              let m := if b.done.isSome then 8 else 0
              let ends (u : State) (o : Nat) : Prop :=
                (b.done = none → (∃ y, y ∈ u.gre.buckets ∧ y.ord = b.ord ∧ y.outc = o) ∧ (o = 2 → greOnly [] s u))
                  ∧ ∀ t, b.done = some t → u.gre.buckets = (if b.blks.all (fun y => y.fin)
                      then s.gre.buckets.filter (fun x => x.ord != b.ord)
                      else s.gre.buckets.map (fun x => if x.ord = b.ord then { b with outc := o, paid := true } else x))
                    ∧ u.bytes b.statA 8 = ({ b with outc := o }.status b.finals t).take 8
                    ∧ (u.tile b.tile).tokPend = (s.tile b.tile).tokPend ++ paidTokens s b
              let same (u : State) : Prop := ∀ x, x < b.statA ∨ b.statA + m ≤ x → u.byte x = s.byte x
              b.tile < 144 → m = 0 ∨ inMemory b.statA m →
              (¬carry → Reaches done (fun u => ends u 2 ∧ same u
                  ∧ u.fld F.GRE_CNT_DROPPED_VALUE = satAdd 64 (s.fld F.GRE_CNT_DROPPED_VALUE) 1))
                ∧ (carry → full → Reaches done (fun u => ends u 3 ∧ same u ∧ u.fld F.GRE_STATUS_CARRY_FULL = 1
                  ∧ u.fld F.GRE_CNT_CARRY_FULL_VALUE = satAdd 64 (s.fld F.GRE_CNT_CARRY_FULL_VALUE) 1))
                ∧ (carry → ¬full → inMemory b.src n → inMemory b.carryA (64 + n) →
                  greOverlap [(b.src, n), (b.carryA, 64 + n), (b.statA, m)] = false → Reaches done (fun u => ends u 1
                  ∧ u.bytes (b.carryA + 64) n = s.bytes b.src n
                  ∧ u.num b.carryA 8 = b.count + b.sfmt * 2 ^ 26 + 2 ^ 63 ∧ u.num (b.carryA + 8) 4 = b.seq % 2 ^ 32
                  ∧ (∀ x, x < b.carryA ∨ b.carryA + 64 + n ≤ x → x < b.statA ∨ b.statA + m ≤ x → u.byte x = s.byte x)
                  ∧ u.fld F.GRE_CNT_CARRIED_VALUE = satAdd 64 (s.fld F.GRE_CNT_CARRIED_VALUE) 1)))
        ∧ (let again := Sys2Proof.Machine.exec (.greRerun c []) s
          let found := (s.bucketsOf c).find? (fun b => b.passDone && !b.toRerun.isEmpty)
          (found = none → again = .next s)
            ∧ ∀ b, found = some b →
              let fins := b.blks.map (fun y => y.sum)
              let b1 := { b with pass := 1, reran := b.toRerun, fins := fins, blks := [] }
              Reaches again (fun u => u.mem = s.mem
                ∧ u.fld F.GRE_CNT_RERUN_BLOCKS_VALUE = satAdd 64 (s.fld F.GRE_CNT_RERUN_BLOCKS_VALUE) b.toRerun.length
                ∧ u.fld F.GRE_STATUS_RERUN = 1
                ∧ ∃ y, y ∈ u.gre.buckets ∧ y.ord = b.ord ∧ y.pass = 1 ∧ y.reran = b.toRerun ∧ y.fins = fins
                  ∧ ∀ (k i : Nat) (f : GreRec), b.toRerun[k]? = some i → fins[i]? = some f → ∃ z, y.blks[k]? = some z
                    ∧ z.sum = (s.greContrib b1 i (some (greClamp (toSigned 16 f.scale + f.delta)))).1)))
    ∧ ∀ (c : Fin 256) (s : State), (∀ b ∈ s.gre.buckets, b.tile < 144) →
      (let stall := Sys2Proof.Machine.exec (.greStall c) s
        let lim := s.fld F.GRE_CTL_STALL_TIDES
        let found := (s.bucketsOf c).find? (fun b => b.started && lim != 0 && decide (lim ≤ b.quiet))
        (found = none → stall = .next s)
          ∧ (found ≠ none → Reaches stall (fun u => u.fld (F.GRE_CHAN_STATE_STATE c) = 2 ∧ u.fld F.GRE_STATUS_STALL = 1
            ∧ u.bucketsOf c = [] ∧ greOnly [] s u)))
        ∧ (let done := Sys2Proof.Machine.exec (.greBucketComplete c) s
          ((∀ b bs, s.bucketsOf c = b :: bs → b.mayComplete (s.grePlace c) = false) → done = .next s)
            ∧ ∀ b rest, s.bucketsOf c = b :: rest → b.mayComplete (s.grePlace c) = true →
              let fs := b.finals
              let waits := b.late && b.outc == 0
              let outs := fs.flatMap (fun f => (f.els.take (b.count - 1024 * f.block)).map (fun x => greOut b.ofmt b.oexp f.scale x))
              let data := outs.flatMap (fun x => leBytes (greBytes b.ofmt) x.1)
              let maxes := fs.flatMap (fun f => leBytes 2 f.maxe)
              let heads := if b.hdrEn then fs.flatMap (fun f => f.header) else []
              let areas := [(b.dst, data.length), (b.maxeA, maxes.length), (b.hdrA, heads.length), (b.statA, 32),
                (b.carryA, if b.carryIn then 8 else 0)]
              (∀ x ∈ areas, x.2 = 0 ∨ inMemory x.1 x.2) → greOverlap areas = false →
              Reaches done (fun u => u.bytes b.dst data.length = data ∧ u.bytes b.maxeA maxes.length = maxes
                ∧ u.bytes b.hdrA heads.length = heads ∧ u.bytes b.statA 32 = b.status fs s.tide.delivered
                ∧ (∀ x, (∀ y ∈ areas, x < y.1 ∨ y.1 + y.2 ≤ x) → u.byte x = s.byte x)
                ∧ u.gre.buckets = (if waits then
                    s.gre.buckets.map (fun x => if x.ord = b.ord then { b with done := some s.tide.delivered } else x)
                  else if b.blks.all (fun y => y.fin) then s.gre.buckets.filter (fun x => x.ord != b.ord)
                  else s.gre.buckets.map (fun x => if x.ord = b.ord
                    then { b with done := some s.tide.delivered, paid := true } else x))
                ∧ u.fld F.GRE_CNT_BUCKETS_VALUE = satAdd 64 (s.fld F.GRE_CNT_BUCKETS_VALUE) 1
                ∧ u.fld F.GRE_CNT_BLOCKS_VALUE = satAdd 64 (s.fld F.GRE_CNT_BLOCKS_VALUE) fs.length
                ∧ (u.tile b.tile).tokPend = (s.tile b.tile).tokPend ++ (if waits then [] else paidTokens s b)))
        ∧ ∀ (link : Fin 5) (x : Queue),
          let q := s.fld (F.GRE_CHAN_LINK_QBASE c) + 2 * link.val + 1
          let a := x.entry x.head
          let imm := s.num (a + 16) 8
          let phase := imm / 2 ^ 58 % 8
          let len := s.num (a + 8) 8 % 2 ^ 32
          let s1 := s.noteReads (s.own srcGRE) a 64
          let recs := greRecords 5 (s1.busRead (s1.own srcGRE) (s.num (a + 32) 8 % 2 ^ 48) len).2.1
          let g := s.grePlace c
          let known := s.gre.buckets.filter (fun b => b.chan == c.val)
          let rx := Sys2Proof.Machine.exec (.greMessageRx c link) s
          let freed (u : State) : Prop := ∃ y, u.queue q = some y ∧ y.head = (x.head + 1) % 2 ^ 32 ∧ y.tail = x.tail
          s.queue q = some x → s.fld (F.GRE_CHAN_STATE_STATE c) = 1 → x.recv = true → x.head ≠ x.tail → x.head < 2 ^ 32 →
          x.tail < 2 ^ 32 → captureOff s → s.fld F.EVT_STATUS_REPLAY_RUN = 0 →
            (s.num a 8 / 2 ^ 48 % 2 = 1 → Reaches rx (fun u => freed u ∧ u.gre = s.gre ∧ u.mem = s.mem))
              ∧ (s.num a 8 / 2 ^ 48 % 2 = 0 →
                (greExpected g link.val phase known = none → rx = .next s)
                  ∧ ∀ b, greExpected g link.val phase known = some b →
                    (∀ f, greDiffers g b link.val phase imm len recs = some f → Reaches rx (fun u => freed u
                        ∧ u.fld (F.GRE_CHAN_STATE_STATE c) = 2 ∧ u.fld F.GRE_STATUS_MISMATCH = 1 ∧ u.bucketsOf c = []))
                      ∧ ∀ r j y, greDiffers g b link.val phase imm len recs = none → recs = [(r, false, [])] → b.paid = false →
                        b.place r.block = some j → b.blks[j]? = some y →
                        Reaches rx (fun u => freed u ∧ ∃ b1 z, b1 ∈ u.gre.buckets ∧ b1.ord = b.ord ∧ b1.quiet = 0
                          ∧ b1.blks[j]? = some z ∧ b1.blks.length = b.blks.length
                          ∧ (∀ k, k ≠ j → b1.blks[k]? = b.blks[k]?)
                          ∧ (phase % 2 = 1 → z.sum = r ∧ z.fin = true)
                          ∧ (phase % 2 = 0 → z.sum.els = (y.sum.els.zip r.els).map (fun e =>
                              if e.1 = eriNF ∨ e.2 = eriNF then eriNF else (e.1 + e.2) % 2 ^ 64)
                            ∧ z.sum.contrib = (y.sum.contrib + r.contrib) % 2 ^ 16 ∧ z.sum.nf = (y.sum.nf || r.nf)
                            ∧ z.sum.ovf = (y.sum.ovf || r.ovf)
                            ∧ z.sum.scale = (if y.sum.scale = greMark then r.scale else y.sum.scale))))

/-! ## Power -/

/-- What a power command may change: the controller's record and registers and the log. -/
def powerOnly (parts : List Part) (s u : State) : Prop :=
  OnlyChanges ([.pwr, .evt, .host] ++ parts) (fun b => blockReg 5 b ∨ logReg b) s u

/-- Throttle times are accounted up to `time` (R381): each active reason's counter, and the eighth while any is active. -/
def accounted (s u : State) (time : Nat) : Prop :=
  (∀ r, r < 8 → u.fld (F.PWR_THR_TIME_NS r) = satAdd 64 (s.fld (F.PWR_THR_TIME_NS r))
      (if (r < 7 ∧ s.pwr.active.testBit r = true) ∨ (r = 7 ∧ s.pwr.active ≠ 0) then time - s.pwr.last else 0))
    ∧ u.pwr.last = max time s.pwr.last

/-- `f` MHz is the highest of the 85 steps that passes a test, 1.2 GHz where none does (R371). -/
def highestStep (ok : Nat → Bool) (f : Nat) : Prop :=
  (∃ k, k < 85 ∧ ok k = true ∧ f = 1200 + 25 * k ∧ ∀ j, k < j → j < 85 → ok j = false)
    ∨ ((∀ k, k < 85 → ok k = false) ∧ f = 1200)

/-- Frequency, estimates, limits and throttling (R369 to R386, R402). Every microsecond the rails slew by at most 10 mV toward their
voltages, the measured energies are counted, each die's estimate is formed from its counts, and a die over its current limit costs four
steps. The control interval chooses the lowest ceiling; a decrease is at once, an increase waits for the rails, at most four steps.
Calibration moves K by a quarter of the ratio within its range. Junction sensors move the junction ceiling a step, 110 °C forces 1.2 GHz.
The coolant excess lowers the effective cap. A droop stretches a die until 256 ac in a row were above its threshold; the host's brake
forces 1.2 GHz until released. A thermal trip removes the rails at 120 °C, and every tile stops. PWR_CTL is refused out of range. -/
def Obligations.PowerThrottling : Prop :=
  (∀ (p : PwrSample) (s : State), s.pwr.entering = none → Reaches (Sys2Proof.Machine.exec (.pwrActivityEstimate p) s) (fun u =>
      let f := s.pwr.pend.getD (s.fld F.PWR_STATUS_FREQ)
      let goal (d : Nat) : Nat := if s.mod.tripped = true ∨ s.fw.facBad = true then 0
        else s.fld (F.PWR_VF_MV d (if s.pwr.steps = 5 then 85 else (f - 1200) / 25))
      let rail (d : Nat) : Nat := s.pwr.rails.getD d 0
      accounted s u p.time ∧ powerOnly [] s u
        ∧ (∀ d, d < 4 → u.pwr.rails.getD d 0 = (if rail d ≤ goal d then min (goal d) (rail d + 10) else max (goal d) (rail d - 10)))
        ∧ (∀ d, d < 4 → u.pwr.est.getD d 0
          = ((p.tiles.filter (fun x => x.1.val / 36 == d)).map (fun x => weigh Config.eventPj x.2)).sum
            + weigh Config.uncorePj (p.bytes.getD d []) + Config.leakPj d (p.temps.getD d 0) (u.pwr.rails.getD d 0))
        ∧ u.fld F.PWR_ENERGY_DEV_UJ = satAdd 64 (s.fld F.PWR_ENERGY_DEV_UJ) ((s.pwr.devRem + p.input) / 1000)
        ∧ u.pwr.devRem = (s.pwr.devRem + p.input) % 1000
        ∧ (∀ d, d < 4 → u.fld (F.PWR_ENERGY_DIE_UJ d) = satAdd 64 (s.fld (F.PWR_ENERGY_DIE_UJ d))
            ((s.pwr.dieRem.getD d 0 + p.dies.getD d 0) / 1000))
        ∧ (∀ t, t < 144 → (∀ x ∈ p.tiles, x.1.val ≠ t) → u.fld (F.PWR_TILE_ENERGY_UJ t) = s.fld (F.PWR_TILE_ENERGY_UJ t))
        ∧ (∀ (t : Fin 144) (n : List Nat), p.tiles = [(t, n)] → u.fld (F.PWR_TILE_ENERGY_UJ t)
          = satAdd 64 (s.fld (F.PWR_TILE_ENERGY_UJ t)) ((Store.get (fun _ => 0) s.pwr.tileRem t
            + weigh Config.eventPj n * s.fld (F.PWR_CAL_K (t.val / 36))) / 16384000000))
        ∧ (let excess := ∃ d, d < 4 ∧ u.pwr.rails.getD d 0 ≠ 0
            ∧ s.ilimit d * 1000 * u.pwr.rails.getD d 0 * 16384 < u.pwr.est.getD d 0 * s.fld (F.PWR_CAL_K d)
          (excess → u.fld F.PWR_STATUS_FREQ = max 1200 (s.fld F.PWR_STATUS_FREQ - 100) ∧ u.pwr.pend = none
              ∧ u.pwr.active = s.pwr.active ||| rsCURRENT)
            ∧ (¬excess → u.fld F.PWR_STATUS_FREQ = s.fld F.PWR_STATUS_FREQ ∧ u.pwr.active = s.pwr.active))))
    ∧ (∀ (time power current : Nat) (s : State),
      highestStep (fun k => decide (s.predTotal (1200 + 25 * k) ≤ s.fld F.PWR_STATUS_CAP_EFF * 1000000)) power →
      highestStep (fun k => s.currentOk (1200 + 25 * k)) current →
      let host := if s.fld F.PWR_HOST_BRAKE = 1 then 1200 else s.fld F.PWR_HOST_FMAX
      let junc := if s.pwr.crit then 1200 else s.pwr.junc
      let top := if s.fld F.PWR_CTL_LEVEL_EN = 1 then s.levelFreq (s.fld F.PWR_CTL_CAP) else 3300
      let f := min (min (min power current) (min host junc)) (min top 3300)
      let cur := s.fld F.PWR_STATUS_FREQ
      Reaches (Sys2Proof.Machine.exec (.pwrControlInterval time) s) (fun u =>
        accounted s u time ∧ powerOnly [] s u
          ∧ (f ≤ cur → u.fld F.PWR_STATUS_FREQ = f ∧ u.pwr.pend = none)
          ∧ (cur < f → u.fld F.PWR_STATUS_FREQ = cur ∧ u.pwr.pend = some (min f (cur + 100)))
          ∧ u.fld F.PWR_STATUS_REASONS = u.pwr.active
          ∧ u.pwr.active.testBit 1 = decide (current = f ∧ f < top)
          ∧ u.pwr.active.testBit 2 = decide (s.pwr.stretch ≠ 0)
          ∧ u.pwr.active.testBit 3 = decide (junc = f ∧ f < top)
          ∧ u.pwr.active.testBit 5 = decide ((host = f ∧ f < top) ∨ s.fld F.PWR_HOST_BRAKE = 1)
          ∧ u.pwr.fmaxOn = decide (s.fld F.PWR_HOST_FMAX = f ∧ f < top)
          ∧ (s.fld F.PWR_CTL_LEVEL_EN = 1 → f < top → s.pwr.breach = false → u.fld F.PWR_STATUS_LEVEL_BREACH = 1)))
    ∧ (∀ s : State, (∀ f, s.pwr.pend = some f →
          let reached := ∀ d, d < 4 → s.fld (F.PWR_VF_MV d ((f - 1200) / 25)) ≤ s.pwr.rails.getD d 0
          (reached → Reaches (Sys2Proof.Machine.exec .frequencyIncreaseApply s) (fun u =>
            u.fld F.PWR_STATUS_FREQ = f % 4096 ∧ u.pwr.pend = none ∧ OnlyChanges [.pwr] (fun b => b = R.PWR_STATUS) s u))
          ∧ (¬reached → Sys2Proof.Machine.exec .frequencyIncreaseApply s = .next s))
        ∧ (s.pwr.pend = none → Sys2Proof.Machine.exec .frequencyIncreaseApply s = .next s))
    ∧ (∀ s : State,
      Reaches (Sys2Proof.Machine.exec .pwrCalibration s) (fun u => powerOnly [] s u
        ∧ u.fld F.PWR_POWER_P_EST = min 65535 (s.pwr.msTot / 16384000000000)
        ∧ u.fld F.PWR_POWER_P_MEAS = min 65535 (s.pwr.msIn / 1000000)
        ∧ u.pwr.msEst = [0, 0, 0, 0] ∧ u.pwr.msMeas = [0, 0, 0, 0] ∧ u.pwr.msTot = 0 ∧ u.pwr.msIn = 0
        ∧ ∀ d, d < 4 →
          let k := s.fld (F.PWR_CAL_K d)
          let est := s.pwr.msEst.getD d 0
          let x := (3 * k * est + 1000 * s.pwr.msMeas.getD d 0 * 16384) / (4 * est)
          12288 ≤ u.fld (F.PWR_CAL_K d) ∧ u.fld (F.PWR_CAL_K d) ≤ 21790
            ∧ (est ≠ 0 → u.fld (F.PWR_CAL_K d) = max 12288 (min 21790 x)
              ∧ (x < 12288 ∨ 21790 < x → u.fld F.PWR_STATUS_CAL_RANGE = 1))))
    ∧ (∀ (temps : List Nat) (s : State),
      let hot := temps.foldl max 0
      let lim := s.fld F.PWR_CTL_JUNC_THROTTLE
      Reaches (Sys2Proof.Machine.exec (.junctionStep temps) s) (fun u => powerOnly [] s u
        ∧ u.pwr.junc = (if lim ≤ hot then max 1200 (s.pwr.junc - 25) else if hot + 2 ≤ lim then min 3300 (s.pwr.junc + 25)
            else s.pwr.junc)
        ∧ (u.pwr.crit = true ↔ 110 ≤ hot) ∧ u.fld F.PWR_POWER_TJ_MAX = min hot 255
        ∧ (110 ≤ hot → s.pwr.crit = false → u.fld F.PWR_STATUS_FREQ = 1200 ∧ u.fld F.PWR_STATUS_JUNC_CRIT = 1)
        ∧ (hot < 110 ∨ s.pwr.crit = true → u.fld F.PWR_STATUS_FREQ = s.fld F.PWR_STATUS_FREQ)))
    ∧ (∀ (die : Fin 4) (sensor : Fin 16) (temp : Nat) (s : State),
      (120 ≤ temp → Reaches (Sys2Proof.Machine.exec (.thermalTrip die sensor temp) s) (fun u =>
          u.pwr = { s.pwr with trip := some (die.val, sensor.val, s.count), rails := [0, 0, 0, 0] }
            ∧ u.mod = { s.mod with tripped := true } ∧ (∀ t st, t < 144 → st < 8 → u.stState t st = 0)
            ∧ (∀ b, b < 0x30000000000 ∨ 0x30048000000 ≤ b → u.reg b = s.reg b) ∧ u.mem = s.mem ∧ u.tide = s.tide ∧ u.que = s.que
            ∧ u.gre = s.gre ∧ u.fw = s.fw ∧ u.mbox = s.mbox ∧ u.host = s.host ∧ u.pending = s.pending))
        ∧ (temp < 120 → Sys2Proof.Machine.exec (.thermalTrip die sensor temp) s = .next s))
    ∧ (∀ (inlet outlet : Nat) (s : State),
      let cut := 100 * max (inlet - s.fld F.PWR_CTL_COOL_IN_MAX) (outlet - s.fld F.PWR_CTL_COOL_OUT_MAX)
      Reaches (Sys2Proof.Machine.exec (.coolantSample inlet outlet) s) (fun u => powerOnly [] s u ∧ u.pwr.cool = cut
        ∧ u.fld F.PWR_STATUS_CAP_EFF = max 900 (s.capBudget - cut)
        ∧ u.fld F.PWR_POWER_COOL_IN = min inlet 255 ∧ u.fld F.PWR_POWER_COOL_OUT = min outlet 255
        ∧ (s.pwr.cool = 0 → cut ≠ 0 → Logged s u s.tide.delivered srcPWR 0x0C04 true [(1, inlet), (1, outlet), (2, cut)])))
    ∧ (∀ (die : Fin 4) (supply time : Nat) (supplies : List Nat) (s : State),
      let at' := s.fld (F.PWR_VF_MV die.val ((s.fld F.PWR_STATUS_FREQ - 1200) / 25)) - s.fld F.PWR_CTL_DROOP_MV
      let trip := Sys2Proof.Machine.exec (.droopTrip die supply time) s
      let stretched := Sys2Proof.Machine.exec (.droopStretchEnd die supplies time) s
      let on := s.pwr.stretch.testBit die.val = true
      let n := s.pwr.calm.getD die.val 0 + supplies.length
      (at' ≤ supply → trip = .next s)
        ∧ (supply < at' → Reaches trip (fun u => accounted s u time ∧ u.pwr.stretch.testBit die.val = true
          ∧ (∀ d, d ≠ die.val → u.pwr.stretch.testBit d = s.pwr.stretch.testBit d) ∧ u.pwr.active = s.pwr.active ||| rsDROOP
          ∧ (s.pwr.calm.length = 4 → u.pwr.calm.getD die.val 0 = 0) ∧ powerOnly [] s u))
        ∧ (¬on → stretched = .next s)
        ∧ (on → (∀ x ∈ supplies, at' < x) → n < 256 → s.pwr.calm.length = 4 → Reaches stretched (fun u => accounted s u time
          ∧ u.pwr.stretch = s.pwr.stretch ∧ u.pwr.active = s.pwr.active ∧ u.pwr.calm.getD die.val 0 = n ∧ powerOnly [] s u))
        ∧ (∀ pre x, on → supplies = pre ++ [x] → x ≤ at' → s.pwr.calm.getD die.val 0 + pre.length < 256 → s.pwr.calm.length = 4 →
          Reaches stretched (fun u => accounted s u time ∧ u.pwr.stretch = s.pwr.stretch ∧ u.pwr.active = s.pwr.active
            ∧ u.pwr.calm.getD die.val 0 = 0 ∧ powerOnly [] s u))
        ∧ (on → (∀ x ∈ supplies, at' < x) → 256 ≤ n → Reaches stretched (fun u => accounted s u time
          ∧ u.pwr.stretch.testBit die.val = false
          ∧ (∀ d, d < 4 → d ≠ die.val → u.pwr.stretch.testBit d = s.pwr.stretch.testBit d)
          ∧ (u.pwr.stretch = 0 → u.pwr.active.testBit 2 = false) ∧ (u.pwr.stretch ≠ 0 → u.pwr.active = s.pwr.active)
          ∧ powerOnly [] s u)))
    ∧ (∀ (time : Nat) (s : State),
      let braked := s.fld F.PWR_HOST_BRAKE = 1
      (¬braked → Reaches (Sys2Proof.Machine.exec (.pwrBrake time) s) (fun u => accounted s u time ∧ u.fld F.PWR_HOST_BRAKE = 1
          ∧ u.fld F.PWR_STATUS_FREQ = 1200 ∧ u.pwr.pend = none ∧ u.pwr.active = s.pwr.active ||| rsHOST ∧ powerOnly [] s u))
        ∧ (braked → Sys2Proof.Machine.exec (.pwrBrake time) s = .next s)
        ∧ (braked → Reaches (Sys2Proof.Machine.exec (.pwrBrakeRelease time) s) (fun u => accounted s u time
          ∧ u.fld F.PWR_HOST_BRAKE = 0 ∧ (s.pwr.fmaxOn = false → u.pwr.active.testBit 5 = false)
          ∧ (s.pwr.fmaxOn = true → u.pwr.active = s.pwr.active) ∧ u.fld F.PWR_STATUS_FREQ = s.fld F.PWR_STATUS_FREQ
          ∧ powerOnly [] s u))
        ∧ (¬braked → Sys2Proof.Machine.exec (.pwrBrakeRelease time) s = .next s))
    ∧ ∀ (v : BitVec 64) (s : State),
      let f (lo w : Nat) : Nat := v.toNat / 2 ^ lo % 2 ^ w
      let legal := ¬(f 0 1 = 1 ∧ f 1 1 = 1) ∧ 900 ≤ f 16 12 ∧ f 16 12 ≤ 2800 ∧ 10 ≤ f 32 7 ∧ f 32 7 ≤ 100 ∧ 70 ≤ f 40 8 ∧ f 40 8 ≤ 105
        ∧ 15 ≤ f 48 8 ∧ f 48 8 ≤ 50 ∧ 25 ≤ f 56 8 ∧ f 56 8 ≤ 70
      let changed := f 1 1 ≠ s.fld F.PWR_CTL_BUDGET_EN
      (legal → Reaches (Sys2Proof.Machine.exec (.pwrCtlWrite v) s) (fun u =>
          u.fld F.PWR_CTL_LEVEL_EN = f 0 1 ∧ u.fld F.PWR_CTL_BUDGET_EN = f 1 1 ∧ u.fld F.PWR_CTL_CAP = f 16 12
            ∧ u.fld F.PWR_CTL_DROOP_MV = f 32 7 ∧ u.fld F.PWR_CTL_JUNC_THROTTLE = f 40 8 ∧ u.fld F.PWR_CTL_COOL_IN_MAX = f 48 8
            ∧ u.fld F.PWR_CTL_COOL_OUT_MAX = f 56 8
            ∧ (changed → u.pwr.delta = 0 ∧ u.fld F.PWR_STATUS_CAP_EFF = max 900 (f 16 12 - s.pwr.cool))
            ∧ (¬changed → u.pwr.delta = s.pwr.delta) ∧ OnlyChanges [.pwr] (fun b => b = R.PWR_CTL ∨ b = R.PWR_STATUS) s u))
        ∧ (¬legal → Reaches (Sys2Proof.Machine.exec (.pwrCtlWrite v) s) (fun u => u.fld F.PWR_STATUS_CFG_ERR = 1
          ∧ OnlyChanges [] (fun b => b = R.PWR_STATUS) s u))

/-- A message of `ws` to register `addr` of device `dev` has gone out (R388 to R391): a WRITE packet, or, where the device is this one,
the words in the registers from `addr` on. -/
def budgetSent (s u : State) (dev addr : Nat) (ws : List Nat) : Prop :=
  if dev = s.fld F.FAB_ID_ID then ∀ k, k < ws.length → u.reg (addr + 8 * k) = BitVec.ofNat 64 (ws.getD k 0)
  else ∃ p : FabPkt, p.opc.toNat = opWRITE ∧ p.dst.toNat = dev ∧ p.addr.toNat = addr ∧ p.payload = ws.flatMap (leBytes 8)
    ∧ sentFrom s u p

/-- Budget shifting and low-power states (R387 to R400). The master's round takes the members' reports of the tide before last, writes
the donors' decreases at once, a hold to every other member, and the increases once every decrease is acknowledged. A member applies a
decrease when due, an increase at its tide, discards a late one, and acknowledges; without a master it keeps no increase. An entry is
refused with its reason or begins; the last entry step makes the state current, the links and the rails following, in Retention the tide unit too; a wake reverses the steps and ends it with its record. -/
def Obligations.PowerBudgetsAndStates : Prop :=
  (∀ s : State, captureOff s → s.fld F.EVT_STATUS_REPLAY_RUN = 0 → s.fld F.FAB_ID_VALID = 1 →
    let w (k : Nat) : Nat := (s.reg (R.PWR_GRP_MOVE k)).toNat
    let teff := w 0 % 2 ^ 48
    let cap := w 1 % 2 ^ 12
    let up := w 1 / 2 ^ 16 % 2 = 1
    let hold := w 1 / 2 ^ 17 % 2 = 1
    let seq := w 2 % 2 ^ 32
    let new := s.pwr.moveNew = true
    let now := s.tide.delivered
    let eff := min 2800 (max 900 cap)
    let only (u : State) : Prop := u.pwr.moveNew = false ∧ u.pwr.quiet = 0
      ∧ OnlyChanges [.pwr, .fab, .rep, .evt, .host] (fun b => blockReg 5 b ∨ blockReg 2 b ∨ logReg b) s u
    let acked (u : State) (mine : Nat) : Prop := budgetSent s u (s.fld F.PWR_GRP_CTL_MASTER_ID)
      (R.PWR_GRP_ACK (s.fld F.PWR_GRP_CTL_INDEX)) [seq + mine * 2 ^ 32]
    let waits (u : State) (at' : Nat) : Prop := u.pwr.moves = s.pwr.moves ++ [⟨at', cap, seq⟩] ∧ u.pwr.delta = s.pwr.delta
      ∧ u.pwr.moveNew = false ∧ u.pwr.quiet = 0 ∧ OnlyChanges [.pwr] (fun _ => False) s u
    let dec := Sys2Proof.Machine.exec .budgetDecreaseRx s
    let inc := Sys2Proof.Machine.exec .budgetIncreaseRx s
    let held := Sys2Proof.Machine.exec .budgetHoldRx s
    (¬new ∨ up ∨ hold → dec = .next s)
      ∧ (new → ¬up → ¬hold → now < teff → Reaches dec (fun u => waits u teff))
      ∧ (new → ¬up → ¬hold → teff ≤ now → Reaches dec (fun u =>
          u.capBudget = eff ∧ u.fld F.PWR_STATUS_CAP_EFF = max 900 (eff - s.pwr.cool) ∧ u.fld F.PWR_GRP_STATUS_ROUND = seq
            ∧ acked u eff ∧ u.pwr.moves = s.pwr.moves ∧ only u))
      ∧ (¬new ∨ ¬up ∨ hold → inc = .next s)
      ∧ (new → up → ¬hold → now < teff → Reaches inc (fun u => waits u teff))
      ∧ (new → up → ¬hold → now = teff → Reaches inc (fun u => waits u (teff + 1)))
      ∧ (new → up → ¬hold → teff < now → Reaches inc (fun u =>
          u.fld F.PWR_STATUS_LATE_MOVE = 1 ∧ u.fld F.PWR_GRP_STATUS_DISCARDED = satAdd 16 (s.fld F.PWR_GRP_STATUS_DISCARDED) 1
            ∧ acked u s.capBudget ∧ u.pwr.delta = s.pwr.delta ∧ u.pwr.moves = s.pwr.moves ∧ only u))
      ∧ (¬new ∨ ¬hold → held = .next s)
      ∧ (new → hold → Reaches held (fun u => acked u s.capBudget ∧ u.pwr.delta = s.pwr.delta ∧ u.pwr.moves = s.pwr.moves ∧ only u))
      ∧ (let lost := Sys2Proof.Machine.exec .budgetMasterLost s
        let gone := s.fld F.PWR_CTL_BUDGET_EN = 1 ∧ s.pwr.lost = false ∧ max 1 (s.fld F.PWR_GRP_CTL_MASTER_TMO) ≤ s.pwr.quiet
        (gone → Reaches lost (fun u => u.fld F.PWR_STATUS_MASTER_LOST = 1 ∧ u.pwr.delta = min 0 s.pwr.delta ∧ u.pwr.lost = true
            ∧ u.fld F.PWR_STATUS_CAP_EFF = max 900 (u.capBudget - s.pwr.cool) ∧ powerOnly [] s u))
          ∧ (¬gone → lost = .next s))
      ∧ (let round := Sys2Proof.Machine.exec .budgetRound s
        let may := s.fld F.PWR_GRP_CTL_IS_MASTER = 1 ∧ s.pwr.round = none ∧ 2 ≤ now ∧ s.pwr.roundAt ≠ now
        let t := now - 2
        let all := s.members
        let mv := roundMoves (s.fld F.PWR_GRP_BUDGET_BUDGET) (s.fld F.TIDE_PERIOD_PERIOD) (s.fld F.PWR_GRP_CFG_SLACK_LO)
          (s.fld F.PWR_GRP_CFG_SLACK_HI) (s.fld F.PWR_GRP_CTL_MOVE_MAX) all
          (all.filter (fun m => m.tide == some t && decide (s.pwr.lastTeff < t)))
        let at' := t + s.fld F.PWR_GRP_CTL_MOVE_LEAD
        let number := (s.pwr.seq + 1) % 2 ^ 32
        let told (u : State) (i cap kind : Nat) : Prop := s.fld (F.PWR_GRP_MEMBER_DEVICE_ID i) ≠ s.fld F.FAB_ID_ID →
          budgetSent s u (s.fld (F.PWR_GRP_MEMBER_DEVICE_ID i)) (R.PWR_GRP_MOVE 0)
            [at' + s.fld F.FAB_ID_ID * 2 ^ 48, cap % 4096 + kind * 2 ^ 16, number, 0]
        (¬may → round = .next s)
          ∧ (may → Reaches round (fun u => u.pwr.seq = number ∧ u.pwr.lastTeff = at' ∧ u.pwr.roundAt = now ∧ u.mem = s.mem
            ∧ (∀ x ∈ mv.1, told u x.1 x.2 0)
            ∧ (∀ m ∈ all, m.i ∉ mv.1.map (fun x => x.1) → m.i ∉ mv.2.map (fun x => x.1) → told u m.i m.eff 2)
            ∧ (mv.1 = [] → ∀ x ∈ mv.2, told u x.1 x.2 1)
            ∧ (mv.1 = [] → mv.2 = [] → u.pwr.round = none)
            ∧ (mv.1 ≠ [] ∨ mv.2 ≠ [] → ∃ r, u.pwr.round = some r ∧ r.seq = number ∧ r.teff = at'
              ∧ r.dec = mv.1.map (fun x => x.1) ∧ r.incs = mv.2 ∧ r.sent = decide (mv.1 = [])))))
      ∧ ∀ i : Fin 256,
        let ack := Sys2Proof.Machine.exec (.budgetAckRx i) s
        (i.val ∉ s.pwr.ackNew → ack = .next s)
          ∧ (i.val ∈ s.pwr.ackNew → (∀ r, s.pwr.round = some r → s.fld (F.PWR_GRP_ACK_ROUND i) ≠ r.seq) → Reaches ack (fun u =>
            u.pwr = { s.pwr with ackNew := s.pwr.ackNew.erase i.val } ∧ OnlyChanges [.pwr] (fun _ => False) s u))
          ∧ ∀ r, i.val ∈ s.pwr.ackNew → s.pwr.round = some r → s.fld (F.PWR_GRP_ACK_ROUND i) = r.seq →
            (r.sent = false → r.dec.erase i.val ≠ [] → Reaches ack (fun u =>
                u.pwr.round = some { r with dec := r.dec.erase i.val } ∧ OnlyChanges [.pwr] (fun _ => False) s u))
              ∧ (r.sent = false → r.dec.erase i.val = [] → Reaches ack (fun u => u.mem = s.mem
                ∧ u.pwr.round = (if r.incs = [] then none else some { r with dec := [], sent := true })
                ∧ ∀ x ∈ r.incs, s.fld (F.PWR_GRP_MEMBER_DEVICE_ID x.1) ≠ s.fld F.FAB_ID_ID →
                  budgetSent s u (s.fld (F.PWR_GRP_MEMBER_DEVICE_ID x.1)) (R.PWR_GRP_MOVE 0)
                    [r.teff + s.fld F.FAB_ID_ID * 2 ^ 48, x.2 % 4096 + 1 * 2 ^ 16, r.seq, 0]))
              ∧ (r.sent = true → Reaches ack (fun u => OnlyChanges [.pwr] (fun _ => False) s u
                ∧ u.pwr.round = (if r.wait.erase i.val = [] then none
                  else some { r with dec := r.dec.erase i.val, wait := r.wait.erase i.val }))))
    ∧ ∀ (s : State),
      let cur := s.fld F.PWR_STATE_CUR
      let next := s.fld F.PWR_STATE_NEXT
      let woken (u : State) (causes detail : Nat) : Prop := u.fld F.PWR_STATE_CUR = (if cur ≤ 1 then 0 else 1) ∧ u.pwr.entering = none
        ∧ u.pwr.steps = 0
        ∧ u.fld F.PWR_WAKE_TIDE = s.count ∧ u.fld F.PWR_WAKE_FROM = cur ∧ u.fld F.PWR_WAKE_DETAIL = detail
        ∧ u.fld F.PWR_WAKE_MASK_SEEN = causes ∧ u.fld F.PWR_WAKE_MASK_ABORTED = (if s.pwr.entering = none then 0 else 1)
        ∧ (causes.testBit (u.fld F.PWR_WAKE_CAUSE) = true ∧ ∀ k, k < u.fld F.PWR_WAKE_CAUSE → causes.testBit k = false)
        ∧ u.mem = s.mem ∧ u.que = s.que ∧ u.strm = s.strm ∧ u.pending = s.pending
      (∀ wake : Bool,
        let enter := Sys2Proof.Machine.exec (.pwrStateEnter wake) s
        let r := s.entryRefusal next wake
        (next = 0 → enter = .next s)
          ∧ (next ≠ 0 → r ≠ 0 → Reaches enter (fun u => u.fld F.PWR_STATE_REFUSE = r ∧ u.fld F.PWR_STATE_REFUSED = 1
            ∧ u.fld F.PWR_STATE_CUR = cur ∧ u.pwr = s.pwr ∧ powerOnly [] s u))
          ∧ (next = 1 → r = 0 → Reaches enter (fun u => u.fld F.PWR_STATE_CUR = 1 ∧ u.fld F.PWR_STATE_REFUSE = 0
            ∧ OnlyChanges [] (fun b => b = R.PWR_STATE) s u))
          ∧ (2 ≤ next → r = 0 → Reaches enter (fun u => u.pwr.entering = some next ∧ u.fld F.PWR_STATE_CUR = cur
            ∧ u.fld F.PWR_STATE_REFUSE = 0 ∧ OnlyChanges [.pwr] (fun b => b = R.PWR_STATE) s u))
          ∧ (∀ t st, t < 144 → st < 8 → 1 ≤ s.stState t st → s.stState t st ≤ 5 → r = 1))
        ∧ (let done := Sys2Proof.Machine.exec .lowPowerEntryComplete s
          (s.pwr.entering = none → done = .next s)
            ∧ (s.pwr.entering = some 3 → s.pwr.steps < 2 → Reaches done (fun u => u.fld F.PWR_STATE_CUR = 3 ∧ u.pwr.entering = none
              ∧ u.pwr.steps = 5 ∧ u.host.l1 = s.host.aspmL1
              ∧ u.tide.locked = false ∧ u.tide.masterNext = none ∧ u.tide.pend = []
              ∧ (∀ d, d < 4 → u.pwr.rails.getD d 0 = s.fld (F.PWR_VF_MV d 85))
              ∧ (∀ p, p < 16 → u.fld (F.FAB_PORT_STATUS_LANES_UP p) = 0)
              ∧ (∀ l, l < 32 → u.fld (fLinkState l) = (if s.fld (fLinkState l) = lkDISABLED then lkDISABLED else lkDOWN))
              ∧ OnlyChanges [.pwr, .fab, .tide, .host] (fun b => b = R.PWR_STATE ∨ ∃ p, p < 16 ∧ b = R.FAB_PORT_STATUS p) s u))
            ∧ (s.pwr.entering = some 2 → s.pwr.steps < 2 → Reaches done (fun u => u.fld F.PWR_STATE_CUR = 2 ∧ u.pwr.entering = none
              ∧ u.pwr.steps = 5 ∧ u.host.l1 = s.host.aspmL1
              ∧ (∀ d, d < 4 → u.pwr.rails.getD d 0 = s.fld (F.PWR_VF_MV d 85))
              ∧ (∀ p, p < 16 → u.fld (F.FAB_PORT_STATUS_LANES_UP p) = s.fld (F.FAB_PORT_STATUS_LANES_UP p)
                &&& (if s.fld (F.FAB_PORT_CFG_SPLIT p) = 1 then 0x11 else 0x01))
              ∧ OnlyChanges [.pwr, .host] (fun b => b = R.PWR_STATE ∨ ∃ p, p < 16 ∧ b = R.FAB_PORT_STATUS p) s u)))
        ∧ (∀ (causes : BitVec 9) (detail : BitVec 8),
          let c := if cur = 3 then causes.toNat &&& 0x1C0 else causes.toNat
          let wake := Sys2Proof.Machine.exec (.powerWake causes detail) s
          let asleep := cur ≠ 0 ∨ s.pwr.entering ≠ none
          (c = 0 ∨ ¬asleep → wake = .next s)
            ∧ (c ≠ 0 → asleep → Reaches wake (fun u => woken u c detail.toNat
              ∧ (cur = 3 → s.pwr.entering = none → 2 ≤ s.pwr.steps → ∀ l, l < 32 → u.fld (fLinkState l)
                = (if s.fld (fLinkState l) = lkDOWN then lkTRAINING else s.fld (fLinkState l)))
              ∧ (s.pwr.entering = none → s.pwr.steps = 5 → ∀ d, d < 4 →
                u.pwr.rails.getD d 0 = s.fld (F.PWR_VF_MV d ((s.fld F.PWR_STATUS_FREQ - 1200) / 25))))))
        ∧ ∀ w : WatchData,
          let sample := Sys2Proof.Machine.exec (.watchSample w) s
          let hot := s.fld F.PWR_WATCH_THR_JUNC_HI ≤ w.junc
          let warm := s.fld F.PWR_WATCH_THR_COOL_HI ≤ w.cool
          let rung := s.fld F.PWR_WATCH_THR_DB_EN = 1 ∧ ∃ a, a < 6 ∧ s.reg (R.MBX_DB a) &&& ~~~ s.reg (R.MBX_DB_MASK a) ≠ 0
          let mute := ∃ p, p < 16 ∧ (s.fld F.PWR_WATCH_THR_HB_PORTS).testBit p = true ∧ w.ports.getLsbD p = false
          (cur ≠ 2 ∨ (¬hot ∧ ¬warm ∧ ¬rung ∧ ¬mute) → sample = .next s)
            ∧ (cur = 2 → (hot ∨ warm ∨ rung ∨ mute) → Reaches sample (fun u => ∃ causes detail, woken u causes detail
              ∧ (causes.testBit 1 = true ↔ rung) ∧ (causes.testBit 2 = true ↔ hot) ∧ (causes.testBit 3 = true ↔ warm)
              ∧ (causes.testBit 4 = true ↔ mute) ∧ (¬rung → hot → detail = w.sensor.toNat)
              ∧ (¬rung → ¬hot → warm → detail = 0)))

/-! ## The host and the mailboxes -/

/-- What a mailbox command may change: channels, doorbells and their buffers, the module's doorbell bits, what a reply of the proxy
sends, and the log. -/
def mailboxOnly (parts : List Part) (s u : State) : Prop :=
  OnlyChanges ([.mbox, .mboxBad, .mod, .fab, .rep, .evt, .host] ++ parts) (fun b => blockReg 6 b ∨ blockReg 2 b ∨ logReg b) s u

/-- The host's function and the mailbox channels (R403 to R414). A host access within a BAR reads or writes the bytes it reaches, of this
device or by a request of another; one without storage reads zeros with HOST_ERR, one during a warm reset is completed as unsupported, and one in Watch or Retention wakes the device. A pending vector goes once it may. SEND makes an IDLE
channel PENDING and rings the receiver, refuses a privileged command on another channel, and marks an overrun; TAKE, REPLY and RELEASE
move the channel on and ring the sender. A link that loses its partner goes DOWN. -/
def Obligations.HostAndMailboxes : Prop :=
  (∀ (bar2 : Bool) (off : Nat) (s : State), captureOff s → s.fld F.EVT_STATUS_REPLAY_RUN = 0 →
    let rd (n : Nat) := Sys2Proof.Machine.exec (.hostBarRead bar2 off n []) s
    let wr (bs : List Byte) := Sys2Proof.Machine.exec (.hostBarWrite bar2 off bs false) s
    let asked (u : State) (opc a : Nat) (n : Nat) (bs : List Byte) : Prop := u.mem = s.mem ∧ ∃ p : FabPkt, p.opc.toNat = opc
      ∧ p.dst.toNat = a / 2 ^ 48 % 2 ^ 16 ∧ p.addr.toNat = a % 2 ^ 48 ∧ p.len.toNat = n % 2 ^ 13 ∧ p.payload = bs ∧ sentFrom s u p
    let warm := 2 ∈ s.fw.sched
    let refused (u : State) (write : Bool) : Prop := u.host = { s.host with
        unsup := s.host.unsup ++ [(write, if bar2 then 2 else 0, off)] } ∧ OnlyChanges [.host] (fun _ => False) s u
    let served := s.barOpen = true ∧ ¬warm ∧ s.fld F.PWR_STATE_CUR < 2 ∧ s.pwr.entering = none
    let woken (u : State) : Prop := u.fld F.PWR_STATE_CUR = 1 ∧ u.fld F.PWR_WAKE_CAUSE = 6 ∧ u.fld F.PWR_WAKE_FROM = s.fld F.PWR_STATE_CUR
    (s.barOpen = false → ∀ n bs, rd n = .next s ∧ wr bs = .next s)
      ∧ (s.barOpen = true → warm → ∀ n bs, Reaches (rd n) (fun u => refused u false) ∧ Reaches (wr bs) (fun u => refused u true))
      ∧ (∀ n, ¬warm → s.barAddr bar2 off n = none → rd n = .next s)
      ∧ (∀ bs, ¬warm → s.barAddr bar2 off bs.length = none → wr bs = .next s)
      ∧ (s.barOpen = true → ¬warm → 2 ≤ s.fld F.PWR_STATE_CUR → s.pwr.entering = none →
        (∀ n a, s.barAddr bar2 off n = some a → s.hereAt a = true → inMemory (a % 2 ^ 48) n → Reaches (rd n) (fun u => woken u ∧
            u.host.reads = s.host.reads ++ [(s.bytes (a % 2 ^ 48) n, s.poisoned (a % 2 ^ 48) n)]))
          ∧ (∀ bs a, s.barAddr bar2 off bs.length = some a → s.hereAt a = true → inMemory (a % 2 ^ 48) bs.length →
            Reaches (wr bs) (fun u => woken u ∧ ∀ b, u.byte b = if a % 2 ^ 48 ≤ b ∧ b < a % 2 ^ 48 + bs.length
              then bs.getD (b - a % 2 ^ 48) 0 else s.byte b)))
      ∧ (served → ∀ n a, s.barAddr bar2 off n = some a →
        (s.hereAt a = true → inMemory (a % 2 ^ 48) n → Reaches (rd n) (fun u => u.mem = s.mem
            ∧ u.host.reads = s.host.reads ++ [(s.bytes (a % 2 ^ 48) n, s.poisoned (a % 2 ^ 48) n)]))
          ∧ (s.hereAt a = true → n = 1 → populated (a % 2 ^ 48) = false → isRegs (a % 2 ^ 48) = false → Reaches (rd n) (fun u =>
            u.host.reads = s.host.reads ++ [([0], false)] ∧ u.fld F.MBX_STATUS_HOST_ERR = 1
              ∧ u.fld F.MBX_CNT_HOST_ERR_VALUE = satAdd 64 (s.fld F.MBX_CNT_HOST_ERR_VALUE) 1 ∧ u.mem = s.mem))
          ∧ (s.hereAt a = false → s.fld F.FAB_ID_VALID = 1 → Reaches (rd n) (fun u => asked u opREAD a n [])))
      ∧ (served → ∀ bs a, s.barAddr bar2 off bs.length = some a →
        (s.hereAt a = true → inMemory (a % 2 ^ 48) bs.length → Reaches (wr bs) (fun u =>
            (∀ b, u.byte b = if a % 2 ^ 48 ≤ b ∧ b < a % 2 ^ 48 + bs.length then bs.getD (b - a % 2 ^ 48) 0 else s.byte b)
              ∧ OnlyChanges [.mem, .tags, .memu, .evt, .host] memoryReg s u))
          ∧ (s.hereAt a = false → s.fld F.FAB_ID_VALID = 1 → Reaches (wr bs) (fun u => asked u opWRITE a bs.length bs))))
    ∧ (∀ (width rate : Nat) (flit : Bool) (s : State), Reaches (Sys2Proof.Machine.exec (.hostLinkTraining width rate flit) s) (fun u =>
        u.host.width = width ∧ u.host.rate = rate ∧ u.host.flit = flit ∧ OnlyChanges [.host, .evt] logReg s u
          ∧ (width < 16 ∨ rate < 7 → Logged s u s.count srcMBX 0x0D07 true [(1, width), (1, rate)])
          ∧ (16 ≤ width → 7 ≤ rate → u.evt = s.evt)))
    ∧ (∀ (v : Fin 64) (s : State),
      let free (on : Bool) (k : Nat) : Prop := on = true ∧ (s.reg (R.MBX_MSIX k 1)).toNat / 2 ^ 32 % 2 = 0
        ∧ (k < 32 ∨ k ∉ s.host.sentTide)
      let goes := (s.reg R.MBX_PBA).getLsbD v.val = true ∧ free s.host.busMaster v
      let cfg (w : CfgWrite) := Sys2Proof.Machine.exec (.pcieConfigWrite w) s
      (goes → Reaches (Sys2Proof.Machine.exec (.msixPendingSend v) s) (fun u =>
          (u.reg R.MBX_PBA).getLsbD v.val = false
            ∧ u.host.sent = s.host.sent ++ [(v.val, s.reg (R.MBX_MSIX v 0), (s.reg (R.MBX_MSIX v 1)).setWidth 32)]
            ∧ (∀ k, k ≠ v.val → (u.reg R.MBX_PBA).getLsbD k = (s.reg R.MBX_PBA).getLsbD k)
            ∧ OnlyChanges [.host] (fun b => b = R.MBX_PBA) s u))
        ∧ (¬goes → Sys2Proof.Machine.exec (.msixPendingSend v) s = .next s)
        ∧ (∀ on, Reaches (cfg (.busMaster on)) (fun u => u.host.busMaster = on ∧ OnlyChanges [.host] (fun b => b = R.MBX_PBA) s u
          ∧ ∀ k, k < 64 → ((u.reg R.MBX_PBA).getLsbD k = true ↔ (s.reg R.MBX_PBA).getLsbD k = true ∧ ¬free on k)))
        ∧ (∀ on, Reaches (cfg (.d3hot on)) (fun u => u.host = { s.host with d3hot := on } ∧ OnlyChanges [.host] (fun _ => False) s u))
        ∧ (∀ on, Reaches (cfg (.aspmL1 on)) (fun u => u.host
            = { s.host with aspmL1 := on, l1 := on && decide (2 ≤ s.fld F.PWR_STATE_CUR) } ∧ OnlyChanges [.host] (fun _ => False) s u))
        ∧ (∀ n, Reaches (cfg (.payload n)) (fun u => u.host = { s.host with mps := if n = 128 ∨ n = 256 ∨ n = 512 then n else s.host.mps }
          ∧ OnlyChanges [.host] (fun _ => False) s u))
        ∧ (∀ n, Reaches (cfg (.readRequest n)) (fun u => u.host
            = { s.host with mrrs := if ∃ k, k < 6 ∧ n = 128 * 2 ^ k then n else s.host.mrrs } ∧ OnlyChanges [.host] (fun _ => False) s u))
        ∧ (∀ on, Reaches (cfg (.tag10 on)) (fun u => u.host = { s.host with tag10 := on } ∧ OnlyChanges [.host] (fun _ => False) s u))
        ∧ (∀ n, Reaches (cfg (.bar2Size n)) (fun u => u.host.bar2Log2 = (if 30 ≤ n ∧ n ≤ 48 then n else s.host.bar2Log2)
          ∧ OnlyChanges [.host] (fun _ => False) s u)))
    ∧ (∀ (l : LinkId) (s : State),
      let p := l.val / 2
      (s.fld (fLinkState l) = lkUP → Reaches (Sys2Proof.Machine.exec (.linkFailure l) s) (fun u =>
          u.fld (fLinkState l) = (if s.fld (F.FAB_PORT_CFG_AUTO_RETRAIN p) = 1 then lkTRAINING else lkDOWN)
            ∧ (u.link l).replay = [] ∧ (u.link l).wait = [] ∧ (u.link l).rx = (s.link l).rx
            ∧ u.fld F.FAB_STATUS_LINK_DOWN = 1 ∧ (∀ m, m ≠ l.val → u.link m = s.link m)
            ∧ (s.fld (F.FAB_PORT_CFG_AUTO_RETRAIN p) = 0 → fabricOnly [] s u)
            ∧ (s.fld (F.FAB_PORT_CFG_AUTO_RETRAIN p) = 1 → s.fw.jobWait = none → u.fld F.MBX_HOST_RESET_DONE = 1
              ∧ u.fld F.MBX_HOST_LAST_RESET = 7 ∧ u.reg (R.FAB_PORT_CNT_LINK p) = 0)
            ∧ OnlyChanges [.fab, .evt, .host, .rep] (fun b => blockReg 2 b ∨ logReg b ∨ b = R.MBX_HOST) s u))
        ∧ (s.fld (fLinkState l) ≠ lkUP → Sys2Proof.Machine.exec (.linkFailure l) s = .next s))
    ∧ ∀ (c : Fin 24) (s : State), captureOff s →
      let st (u : State) : Nat := u.fld (F.MBX_CH_STATUS_STATE c)
      let tx := s.fld (F.MBX_CH_STATUS_TX_AGENT c)
      let rx := s.fld (F.MBX_CH_STATUS_RX_AGENT c)
      let secret := s.mbCmd c / 2 ^ 15 % 2 = 1 ∧ s.fld (F.MBX_CH_STATUS_SECURE c) = 0
      let ended (u : State) : Prop := st u = (if tx = 6 then chIDLE else chDONE)
        ∧ (tx ≤ 5 → (u.reg (R.MBX_DB tx)).getLsbD c.val = true) ∧ (tx = 7 → u.mod.db.testBit c.val = true)
      let answer (u : State) (status : Nat) : Prop :=
        u.mbBytes c 0x400 16 = leBytes 8 (status + s.mbTag c * 2 ^ 32) ++ leBytes 8 0
      (st s ≠ chIDLE → Reaches (Sys2Proof.Machine.exec (.send c) s) (fun u => st u = st s ∧ u.mbox = s.mbox
          ∧ u.fld (F.MBX_CH_STATUS_OVERSEND c) = 1 ∧ mailboxOnly [] s u))
        ∧ (st s = chIDLE → secret → Reaches (Sys2Proof.Machine.exec (.send c) s) (fun u =>
          ended u ∧ answer u mbDENIED ∧ mailboxOnly [] s u))
        ∧ (st s = chIDLE → ¬secret → Reaches (Sys2Proof.Machine.exec (.send c) s) (fun u => st u = chPENDING ∧ u.mbox = s.mbox
          ∧ u.fld (F.MBX_CH_CNT_SENT c) = satAdd 32 (s.fld (F.MBX_CH_CNT_SENT c)) 1
          ∧ (rx ≤ 5 → (u.reg (R.MBX_DB rx)).getLsbD c.val = true) ∧ mailboxOnly [] s u))
        ∧ (st s = chPENDING → Reaches (Sys2Proof.Machine.exec (.take c) s) (fun u => st u = chTAKEN
          ∧ OnlyChanges [] (fun b => b = R.MBX_CH_STATUS c) s u))
        ∧ (st s ≠ chPENDING → Sys2Proof.Machine.exec (.take c) s = .next s)
        ∧ (st s = chTAKEN → Reaches (Sys2Proof.Machine.exec (.reply c) s) (fun u => ended u ∧ u.mbox = s.mbox ∧ mailboxOnly [] s u))
        ∧ (st s = chPENDING → Reaches (Sys2Proof.Machine.exec (.reply c) s) (fun u => ended u ∧ answer u mbBUSY ∧ mailboxOnly [] s u))
        ∧ (st s = chIDLE ∨ st s = chDONE → Sys2Proof.Machine.exec (.reply c) s = .next s)
        ∧ (st s = chDONE → Reaches (Sys2Proof.Machine.exec (.release c) s) (fun u => st u = chIDLE
          ∧ OnlyChanges [.mod] (fun b => b = R.MBX_CH_STATUS c) s u))
        ∧ (st s ≠ chDONE → Sys2Proof.Machine.exec (.release c) s = .next s)

/-- The channel and the command code of a command that firmware carries out (R415). -/
def mailboxRow : Instr → Option (Fin 24 × Nat)
  | .queryInfo c => some (c, 0x0001)
  | .queryEvents c _ _ => some (c, 0x0002)
  | .queryState c => some (c, 0x0003)
  | .alloc c _ _ _ => some (c, 0x0010)
  | .free c _ => some (c, 0x0011)
  | .tensorCreate c _ _ _ => some (c, 0x0012)
  | .jobStart c _ => some (c, 0x0020)
  | .jobReset c => some (c, 0x0021)
  | .tileReset c _ => some (c, 0x0022)
  | .queueConfig c _ _ _ => some (c, 0x0030)
  | .chanConfig c _ => some (c, 0x0031)
  | .tideConfig c _ _ => some (c, 0x0032)
  | .fabricConfig c _ => some (c, 0x0033)
  | .portReset c _ _ => some (c, 0x0034)
  | .fwUpdateBegin c => some (c, 0x8001)
  | .fwUpdateData c => some (c, 0x8002)
  | .fwUpdateCommit c => some (c, 0x8003)
  | .healthConfirm c => some (c, 0x8004)
  | .attest c => some (c, 0x8010)
  | .powerLimit c _ _ => some (c, 0x8020)
  | .budgetConfig c _ => some (c, 0x8021)
  | .settingsSave c => some (c, 0x8022)
  | .factoryRead c => some (c, 0x8030)
  | .warmReset c => some (c, 0x8040)
  | .mgpRestart c => some (c, 0x8041)
  | _ => none

/-- Firmware has taken this command from the channel (R411). -/
def takenBy (s : State) (c : Fin 24) (cmd : Nat) : Prop :=
  s.fld (F.MBX_CH_STATUS_RX_AGENT c) = 1 ∧ s.fld (F.MBX_CH_STATUS_STATE c) = chTAKEN ∧ s.fld F.MBX_HOST_FW_READY = 1 ∧ s.mbCmd c = cmd

/-- The request's bytes stand clean and their length is one the buffer holds (R410, R453). -/
def cleanRequest (s : State) (c : Fin 24) : Prop :=
  s.mbPoison c 0 (16 + min 1008 (s.mbLen c)) = false ∧ s.mbLen c ≤ 1008

/-- The request passes its checks: clean, its CRC right where it has one, and the factory record good where the command needs it. -/
def sound (s : State) (c : Fin 24) (cmd : Nat) : Prop :=
  cleanRequest s c ∧ (s.mbCrcEn c = true → crc32c (s.mbPayload c) = s.mbCrc c) ∧ (s.fw.facBad = true → facFree cmd = true)

/-- The reply: STATUS, LEN, TAG, DETAIL and the payload; the channel is DONE, or returned by the proxy and IDLE (R410, R411, R413). -/
def replied (s u : State) (c : Fin 24) (status detail : Nat) (payload : List Byte) : Prop :=
  u.mbBytes c 0x400 16 = leBytes 8 (status + payload.length * 2 ^ 16 + s.mbTag c * 2 ^ 32) ++ leBytes 8 detail
    ∧ u.mbBytes c 0x410 payload.length = payload
    ∧ u.fld (F.MBX_CH_STATUS_STATE c) = (if s.fld (F.MBX_CH_STATUS_TX_AGENT c) = 6 then chIDLE else chDONE)

/-- The mailbox block's buffer of records has room, so that none is written to the ring for firmware's next (R450, R452). -/
def roomy (s : State) : Prop := (s.evt.waiting.filter (fun p => p.1 == srcMBX)).length < 4

/-- The other fields of PWR_CTL stand in their ranges (R402). -/
def powerSettings (s : State) : Prop :=
  ¬(s.fld F.PWR_CTL_LEVEL_EN = 1 ∧ s.fld F.PWR_CTL_BUDGET_EN = 1)
    ∧ 10 ≤ s.fld F.PWR_CTL_DROOP_MV ∧ s.fld F.PWR_CTL_DROOP_MV ≤ 100
    ∧ 70 ≤ s.fld F.PWR_CTL_JUNC_THROTTLE ∧ s.fld F.PWR_CTL_JUNC_THROTTLE ≤ 105
    ∧ 15 ≤ s.fld F.PWR_CTL_COOL_IN_MAX ∧ s.fld F.PWR_CTL_COOL_IN_MAX ≤ 50
    ∧ 25 ≤ s.fld F.PWR_CTL_COOL_OUT_MAX ∧ s.fld F.PWR_CTL_COOL_OUT_MAX ≤ 70

/-- Mailbox commands as firmware carries them out (R240, R410, R411, R415, R416, R419, R420, R436 to R445, R453). A request that firmware has not taken is not carried out; one whose command is not listed and a poisoned, overlong, corrupt or, without a factory record, unavailable one is answered with its status
and nothing is done. Each command has its effect and answers OK with its values, or answers with the status that says why not; a
configuration command whose images a block would refuse changes nothing. A job reset stops the job and answers once every request outstanding then is answered; it leaves every TIDE_ register and the tide unit's record as they are (R55). -/
def Obligations.MailboxCommands : Prop :=
  (∀ (i : Instr) (c : Fin 24) (cmd : Nat) (s : State), mailboxRow i = some (c, cmd) →
    let done := Sys2Proof.Machine.exec i s
    let taken := s.fld (F.MBX_CH_STATUS_RX_AGENT c) = 1 ∧ s.fld (F.MBX_CH_STATUS_STATE c) = chTAKEN ∧ s.fld F.MBX_HOST_FW_READY = 1
    (¬taken ∨ (s.mbCmd c ≠ cmd ∧ fwKnows (s.mbCmd c) = true) → done = .next s)
      ∧ (captureOff s → taken → fwKnows (s.mbCmd c) = false →
        Reaches done (fun u => replied s u c mbINVALID 0 [] ∧ mailboxOnly [] s u))
      ∧ (captureOff s → takenBy s c cmd →
        (¬cleanRequest s c → Reaches done (fun u => replied s u c mbINVALID 0 [] ∧ mailboxOnly [] s u))
          ∧ (cleanRequest s c → s.mbCrcEn c = true → crc32c (s.mbPayload c) ≠ s.mbCrc c →
            Reaches done (fun u => replied s u c mbVERIFY 0 [] ∧ mailboxOnly [] s u))
          ∧ (cleanRequest s c → (s.mbCrcEn c = true → crc32c (s.mbPayload c) = s.mbCrc c) → s.fw.facBad = true → facFree cmd = false →
            Reaches done (fun u => replied s u c mbINVALID 0 [] ∧ mailboxOnly [] s u))))
    ∧ (∀ (c : Fin 24) (s : State), captureOff s →
      let on (cmd : Nat) : Prop := takenBy s c cmd ∧ sound s c cmd
      let refused (i : Instr) : Prop := Reaches (Sys2Proof.Machine.exec i s) (fun u => replied s u c mbINVALID 0 [] ∧ mailboxOnly [] s u)
      let busy (i : Instr) : Prop := Reaches (Sys2Proof.Machine.exec i s) (fun u => replied s u c mbBUSY 0 [] ∧ mailboxOnly [] s u)
      let arg (o n : Nat) : Nat := s.mbArg c o n
      (on 0x0001 → Reaches (Sys2Proof.Machine.exec (.queryInfo c) s) (fun u => ∃ p, replied s u c mbOK 0 p ∧ mailboxOnly [] s u))
        ∧ (on 0x0003 → Reaches (Sys2Proof.Machine.exec (.queryState c) s) (fun u => ∃ p, replied s u c mbOK 0 p ∧ mailboxOnly [] s u))
        ∧ (on 0x0002 → ∀ (pos : BitVec 32) (n : Nat),
          let rd := s.fld F.EVT_RD_RD
          let wr := s.fld F.EVT_WR_WR
          let m := min n (idxDiff wr pos.toNat)
          let slot (k : Nat) : Nat := s.fld F.EVT_RING_BASE_BASE + 32 * ((pos.toNat + k) % 2 ^ s.fld F.EVT_CTL_LOG2)
          (31 < n ∨ idxDiff wr rd < idxDiff pos.toNat rd → refused (.queryEvents c pos n))
            ∧ (n ≤ 31 → idxDiff pos.toNat rd ≤ idxDiff wr rd → (∀ k, k < m → inMemory (slot k) 32) →
              Reaches (Sys2Proof.Machine.exec (.queryEvents c pos n) s) (fun u =>
                replied s u c mbOK 0 ((List.range m).flatMap (fun k => s.bytes (slot k) 32)) ∧ u.mem = s.mem)))
        ∧ (on 0x0010 → ∀ (region : Fin 3) (size : Nat) (place : Option Nat),
          let done := Sys2Proof.Machine.exec (.alloc c region size place) s
          (size = 0 → refused (.alloc c region size place))
            ∧ (size ≠ 0 → (∀ p, place = some p → s.placeOk region p size = false) → Reaches done (fun u =>
              replied s u c mbNOSPACE 0 [] ∧ mailboxOnly [] s u))
            ∧ (size ≠ 0 → ∀ p, place = some p → s.placeOk region p size = true → Reaches done (fun u =>
              (∃ x, replied s u c mbOK 0 x) ∧ u.fw.allocs = s.fw.allocs ++ [(s.fw.handle + 1, p, size)]
                ∧ u.fw.handle = s.fw.handle + 1 ∧ mailboxOnly [.fw] s u)))
        ∧ (on 0x0011 → ∀ handle : BitVec 32,
          let known := ∃ x ∈ s.fw.allocs, x.1 = handle.toNat
          (¬known → refused (.free c handle))
            ∧ (known → Reaches (Sys2Proof.Machine.exec (.free c handle) s) (fun u => replied s u c mbOK 0 []
              ∧ u.fw.allocs = s.fw.allocs.filter (fun x => x.1 != handle.toNat) ∧ mailboxOnly [.fw] s u)))
        ∧ (on 0x0012 → ∀ (image window : List (BitVec 64)) (dest : BitVec 64),
          let done := Sys2Proof.Machine.exec (.tensorCreate c image window dest) s
          let why := s.tensorCheck (tensorCmd image window) (!window.isEmpty)
          let bs := image.flatMap (fun (w : BitVec 64) => leBytes 8 w.toNat)
          let a := dest.toNat % 2 ^ 48
          (image.length ≠ 8 → refused (.tensorCreate c image window dest))
            ∧ (image.length = 8 → why ≠ 0 → Reaches done (fun u => replied s u c mbINVALID why [] ∧ mailboxOnly [] s u))
            ∧ (image.length = 8 → why = 0 → dest.toNat / 2 ^ 48 = s.fld F.FAB_ID_ID → inMemory a 64 → Reaches done (fun u =>
              replied s u c mbOK 0 [] ∧ u.bytes a 64 = bs ∧ ∀ b, b < a ∨ a + 64 ≤ b → u.byte b = s.byte b))
            ∧ (image.length = 8 → why = 0 → dest.toNat / 2 ^ 48 ≠ s.fld F.FAB_ID_ID → Reaches done (fun u =>
              replied s u c mbOK 0 [] ∧ u.mem = s.mem
                ∧ (s.fld F.FAB_ID_VALID = 1 → s.fld F.EVT_STATUS_REPLAY_RUN = 0 → a % 4096 + 64 ≤ 4096 → ∃ p : FabPkt,
                  p.opc.toNat = opWRITE ∧ p.dst.toNat = dest.toNat / 2 ^ 48 ∧ p.addr.toNat = a ∧ p.payload = bs ∧ sentFrom s u p))))
        ∧ (on 0x0020 → ∀ tiles : List JobTile,
          let all := tiles.foldl (fun (r : Option State) j => r.bind (fun s => s.jobTile j)) (some s)
          (all = none → refused (.jobStart c tiles))
            ∧ (all ≠ none → (tiles.map (fun j => j.t)).Nodup → Reaches (Sys2Proof.Machine.exec (.jobStart c tiles) s) (fun u =>
              replied s u c mbOK 0 [] ∧ u.mem = s.mem ∧ u.vregs = s.vregs
                ∧ ∀ j ∈ tiles, ∀ st, st < 8 → j.mask.toNat.testBit st = true → s.startable j.t st = true →
                  u.stState j.t st = stRUN ∧ u.pc j.t st = u.fld (F.TSQ_STREAM_START_PC j.t st) ∧ (u.stream j.t st).loops = [])))
        ∧ (on 0x0021 → (s.fw.jobWait ≠ none → busy (.jobReset c))
          ∧ (s.fw.jobWait = none → Reaches (Sys2Proof.Machine.exec (.jobReset c) s) (fun u => u.fw.jobWait = some c.val
            ∧ u.fld (F.MBX_CH_STATUS_STATE c) = chTAKEN ∧ u.gre.buckets = [] ∧ u.vregs = s.vregs ∧ u.cam = s.cam
            ∧ (∀ t st, t < 144 → st < 8 → u.stState t st = stIDLE) ∧ (∀ t, t < 144 → (u.tile t).mxaQ = [] ∧ (u.tile t).lxeQ = []
              ∧ (u.tile t).postQ = [] ∧ (u.tile t).speQ = [] ∧ (u.tile t).tokPend = [])
            ∧ u.fw.jobTags = s.fab.reqs.map (fun r => r.tag) ∧ u.tide = s.tide ∧ (∀ a, blockReg 0 a → u.reg a = s.reg a)
            ∧ (∀ k, k < 256 → u.fld (F.GRE_CHAN_CFG_EN k) = 0) ∧ (∀ q, 1024 ≤ q → u.queue q = none))))
        ∧ (on 0x0022 → ∀ t : BitVec 8,
          let done := Sys2Proof.Machine.exec (.tileReset c t) s
          let held := ∃ b ∈ s.gre.buckets, b.tile = t.toNat ∧ b.paid = false
          let at' (t o : Nat) : Nat := 0x030000000000 + t * 0x800000 + o
          (144 ≤ t.toNat → refused (.tileReset c t)) ∧ (t.toNat < 144 → held → busy (.tileReset c t))
            ∧ (t.toNat < 144 → ¬held → s.fw.jobWait ≠ none → Reaches done (fun u => replied s u c mbOK 0 [] ∧ mailboxOnly [] s u))
            ∧ (t.toNat < 144 → ¬held → s.fw.jobWait = none → Reaches done (fun u => replied s u c mbOK 0 [] ∧ (roomy s → u.mem = s.mem)
              ∧ u.fld F.MBX_HOST_LAST_RESET = 6 ∧ u.fld F.MBX_HOST_RESET_DONE = 1 ∧ (∀ v ∈ u.linkFly, v.1 ≠ t.toNat)
              ∧ (∀ o, o < 0x800000 → keptOfTile o = false → u.reg (at' t.toNat o) = regReset (at' t.toNat o))
              ∧ (∀ o, o < 0x800000 → keptOfTile o = true → u.reg (at' t.toNat o) = s.reg (at' t.toNat o))
              ∧ (∀ t' o, t' < 144 → t' ≠ t.toNat → o < 0x800000 → u.reg (at' t' o) = s.reg (at' t' o)))))
        ∧ (on 0x0030 → ∀ (q : BitVec 16) (image : List (BitVec 64)) (cmd : BitVec 2),
          let done := Sys2Proof.Machine.exec (.queueConfig c q image cmd) s
          let a := s.ctxAddr q.toNat
          let bs := image.flatMap (fun (w : BitVec 64) => leBytes 8 w.toNat)
          let w (k : Nat) : Nat := (image.getD k 0).toNat
          (image.length ≠ 0 → image.length ≠ 8 → refused (.queueConfig c q image cmd))
            ∧ (image.length = 8 → cmd = 0 → inMemory a 64 → Reaches done (fun u =>
              replied s u c mbOK 0 [] ∧ u.bytes a 64 = bs ∧ u.que = s.que))
            ∧ (image.length = 8 → cmd = 1 → inMemory a 64 → s.queue q.toNat = none → 1 ≤ w 0 / 2 ^ 48 % 32 → w 0 / 2 ^ 48 % 32 ≤ 16 →
              Reaches done (fun u => replied s u c mbOK 0 [] ∧ ∃ x, u.queue q.toNat = some x ∧ x.state = quACTIVE ∧ loaded w x))
            ∧ (image = [] → cmd = 1 → s.queue q.toNat ≠ none → refused (.queueConfig c q image cmd))
            ∧ (image = [] → cmd = 2 → ∀ x, s.queue q.toNat = some x → x.state = quACTIVE ∨ x.state = quERROR → Reaches done (fun u =>
              replied s u c mbOK 0 [] ∧ u.queue q.toNat = some { x with state := quDRAINING } ∧ u.mem = s.mem)))
        ∧ (on 0x0034 → ∀ (port : BitVec 8) (half : Bool),
          let done := Sys2Proof.Machine.exec (.portReset c port half) s
          let p := port.toNat
          let l := 2 * p + (if half then 1 else 0)
          let bad := 16 ≤ p ∨ (half = true ∧ s.fld (F.FAB_PORT_CFG_SPLIT p) = 0)
          (bad → refused (.portReset c port half))
            ∧ (¬bad → s.fw.jobWait ≠ none → Reaches done (fun u => replied s u c mbOK 0 [] ∧ mailboxOnly [] s u))
            ∧ (¬bad → s.fw.jobWait = none → Reaches done (fun u => replied s u c mbOK 0 []
              ∧ u.fld (fLinkState l) = (if s.fld (F.FAB_PORT_CFG_EN p) = 1 then lkTRAINING else lkDISABLED)
              ∧ u.reg (R.FAB_PORT_CNT_FEC p) = 0 ∧ u.reg (R.FAB_PORT_CNT_LINK p) = 0 ∧ u.reg (R.FAB_PORT_CNT_DOWN p) = 0
              ∧ u.fld F.MBX_HOST_LAST_RESET = 7 ∧ (∀ m, m ≠ l → (u.link m).rx = (s.link m).rx ∨ m = 32)
              ∧ (roomy s → mailboxOnly [] s u))))
        ∧ (on 0x8001 →
          let r := s.bootRec
          let n := arg 0 4
          let base := slotBase (1 - r.active)
          (r.trial = trRUNNING → busy (.fwUpdateBegin c)) ∧ (r.trial ≠ trRUNNING → n < 1 ∨ 447 < n → refused (.fwUpdateBegin c))
            ∧ (r.trial ≠ trRUNNING → 1 ≤ n → n ≤ 447 → Reaches (Sys2Proof.Machine.exec (.fwUpdateBegin c) s) (fun u =>
              replied s u c mbOK 0 [] ∧ u.fw.upd = some ⟨1 - r.active, n, []⟩ ∧ mailboxOnly [.fw, .flash] s u
                ∧ (∀ o, base ≤ o → o < base + slotBytes → u.flashByte o = 0xFF)
                ∧ (r.trial = trPENDING → u.bootRec = { r with trial := trNONE })
                ∧ (r.trial ≠ trPENDING → ∀ o, o < base ∨ base + slotBytes ≤ o → u.flashByte o = s.flashByte o))))
        ∧ (on 0x8002 →
          let src := arg 0 8
          let first := arg 8 4
          let n := arg 12 4
          let fits (u : FwUpd) : Prop := 1 ≤ n ∧ n ≤ 64 ∧ first + n - 1 ≤ u.blocks ∧ (∀ k, k < n → first + k ∉ u.done)
            ∧ (first ≠ 0 → 0 ∈ u.done) ∧ populated src = true ∧ populated (src + 0x10000 * n - 1) = true
          let place (u : FwUpd) : Nat := slotBase u.target + 0x10000 * first
          let done := Sys2Proof.Machine.exec (.fwUpdateData c) s
          ((∀ y, s.fw.upd = some y → ¬fits y) → refused (.fwUpdateData c))
            ∧ (∀ y, s.fw.upd = some y → fits y → inMemory src (0x10000 * n) → tierOf src ≠ 3 → Reaches done (fun u =>
              (replied s u c mbOK 0 [] ∨ replied s u c mbVERIFY 0 []) ∧ u.mem = s.mem
                ∧ (∀ o, o < place y ∨ place y + 0x10000 * n ≤ o → u.flashByte o = s.flashByte o)))
            ∧ (∀ y, s.fw.upd = some y → fits y → n = 1 → inMemory src 0x10000 → tierOf src ≠ 3 → Reaches done (fun u =>
              (replied s u c mbOK 0 [] ∨ replied s u c mbVERIFY 0 []) ∧ u.fw.upd = some { y with done := first :: y.done }
                ∧ (∀ k, k < 0x10000 → u.flashByte (place y + k) = s.flashByte (place y + k) &&& s.byte (src + k))
                ∧ (∀ o, o < place y ∨ place y + 0x10000 ≤ o → u.flashByte o = s.flashByte o) ∧ u.mem = s.mem)))
        ∧ (on 0x8003 →
          let done := Sys2Proof.Machine.exec (.fwUpdateCommit c) s
          (s.fw.upd = none → refused (.fwUpdateCommit c))
            ∧ ∀ y, s.fw.upd = some y →
              let v := (s.imgCheck y.target s.bootRec.floor).1
              let stage := if v ≠ 0 then v else if s.flashNum 0x20004 2 < s.img y.target 0x16 2 then 8 else 0
              let whole := ∀ i, i ≤ y.blocks → i ∈ y.done
              (¬whole → refused (.fwUpdateCommit c))
                ∧ (whole → stage ≠ 0 → Reaches done (fun u => replied s u c mbVERIFY stage [] ∧ mailboxOnly [] s u))
                ∧ (whole → stage = 0 → Reaches done (fun u => replied s u c mbOK 0 [] ∧ mailboxOnly [.flash] s u
                  ∧ u.bootRec = { s.bootRec with trial := trPENDING, slot := y.target % 256 })))
        ∧ (on 0x8004 →
          let r := s.bootRec
          let running := r.trial = trRUNNING ∧ r.slot = s.fld F.MGP_BOOT_SLOT
          let late := 5 ∈ s.fw.sched
          (late → Sys2Proof.Machine.exec (.healthConfirm c) s = .next s)
            ∧ (¬late → ¬running → refused (.healthConfirm c))
            ∧ (¬late → running → Reaches (Sys2Proof.Machine.exec (.healthConfirm c) s) (fun u => replied s u c mbOK 0 []
              ∧ u.fld F.MGP_TRIAL_ARMED = 0
              ∧ u.bootRec = { r with active := r.slot, trial := trNONE, reason := 0, floor := s.fw.svn % 2 ^ 32 })))
        ∧ (on 0x8010 →
          let dest := arg 64 8
          (s.mbLen c ≠ 72 ∨ dest % 64 ≠ 0 → refused (.attest c))
            ∧ (s.mbLen c = 72 → dest % 64 = 0 → s.fw.attWait ≠ none → busy (.attest c))
            ∧ (s.mbLen c = 72 → dest % 64 = 0 → s.fw.attWait = none → Reaches (Sys2Proof.Machine.exec (.attest c) s) (fun u =>
              u.fw.attWait = some c.val ∧ u.fld F.MGP_ATT_CTL_BUSY = 1 ∧ u.fld (F.MBX_CH_STATUS_STATE c) = chTAKEN ∧ u.mem = s.mem
                ∧ (u.reg R.MGP_ATT_DEST).toNat = dest ∧ ∀ w, w < 8 → (u.reg (R.MGP_ATT_NONCE w)).toNat = arg (8 * w) 8)))
        ∧ (on 0x8020 → ∀ cap fmax : BitVec 16,
          let p := cap.toNat
          let f := fmax.toNat
          let bad := (p ≠ 0 ∧ (p < 900 ∨ 2800 < p)) ∨ (f ≠ 0 ∧ (f < 1200 ∨ 3300 < f ∨ f % 25 ≠ 0))
          (bad → refused (.powerLimit c cap fmax))
            ∧ (¬bad → powerSettings s → Reaches (Sys2Proof.Machine.exec (.powerLimit c cap fmax) s) (fun u => replied s u c mbOK 0 []
              ∧ u.fld F.PWR_CTL_CAP = (if p = 0 then s.fld F.PWR_CTL_CAP else p)
              ∧ u.fld F.PWR_HOST_FMAX = (if f = 0 then s.fld F.PWR_HOST_FMAX else f) ∧ u.mem = s.mem ∧ u.que = s.que)))
        ∧ (on 0x8022 → Reaches (Sys2Proof.Machine.exec (.settingsSave c) s) (fun u => replied s u c mbOK 0 []
          ∧ mailboxOnly [.fw, .flash] s u
          ∧ ∃ i, u.fw.sett = some (i, s.fw.settVer)
            ∧ (∀ x, s.fw.sett = some x → s.bootRec.trial ≠ trRUNNING → i = 1 - x.1) ∧ (s.fw.sett = none → i = 0)
            ∧ u.flashNum (settBase i) 4 = 0x54535A43 ∧ u.flashNum (settBase i + 4) 4 = s.fw.settVer % 2 ^ 32
            ∧ u.flashNum (settBase i + 0x20) 8 = (s.reg R.PWR_CTL &&& pwrSavable).toNat
            ∧ u.flashNum (settBase i + 0x28) 8 = (s.reg R.MEM_CTL).toNat
            ∧ u.flashNum (settBase i + 0x30) 8 = (s.reg R.MEM_SCRUB).toNat))
        ∧ (on 0x8030 →
          let o := arg 0 4
          let n := arg 4 4
          (n < 1 ∨ 1008 < n ∨ 12819 < o + n → refused (.factoryRead c))
            ∧ (1 ≤ n → n ≤ 1008 → o + n ≤ 12819 → Reaches (Sys2Proof.Machine.exec (.factoryRead c) s) (fun u =>
              replied s u c mbOK 0 (s.flashBytes (0x20000 + o) n) ∧ mailboxOnly [] s u)))
        ∧ (on 0x8040 → Reaches (Sys2Proof.Machine.exec (.warmReset c) s) (fun u => replied s u c mbOK 0 []
          ∧ (s.fw.kind ≠ 1 → 3 ∈ u.fw.sched) ∧ (s.fw.kind = 1 → u.fw.sched = s.fw.sched) ∧ mailboxOnly [.fw] s u))
        ∧ (on 0x8041 → Reaches (Sys2Proof.Machine.exec (.mgpRestart c) s) (fun u => replied s u c mbOK 0 []
          ∧ (s.fw.kind = 0 ∨ s.fw.kind = 4 → 4 ∈ u.fw.sched) ∧ (1 ≤ s.fw.kind → s.fw.kind ≤ 3 → u.fw.sched = s.fw.sched)
          ∧ mailboxOnly [.fw] s u)))
    ∧ (∀ (c : Fin 24) (images : List RegImage) (time : Nat) (s : State), captureOff s → s.fld (F.MBX_CH_STATUS_TX_AGENT c) ≠ 6 →
      (∀ b ∈ s.gre.buckets, b.tile < 144) →
      let config (i : Instr) (cmd : Nat) (block : Nat) (written : Option State) : Prop := takenBy s c cmd → sound s c cmd →
        (written = none → Reaches (Sys2Proof.Machine.exec i s) (fun u => replied s u c mbINVALID 0 [] ∧ mailboxOnly [] s u))
          ∧ ∀ s1, written = some s1 → Reaches (Sys2Proof.Machine.exec i s) (fun u => replied s u c mbOK 0 []
            ∧ (∀ a, blockReg block a → u.reg a = s1.reg a) ∧ u.fld (F.MBX_CH_STATUS_STATE c) = chDONE)
      config (.chanConfig c images) 0x0031 4
          (s.fwImages (inRanges [(R.GRE_CHAN_CFG 0, R.GRE_CHAN_CFG 256)]) F.GRE_STATUS_CFG_ERR images)
        ∧ config (.budgetConfig c images) 0x8021 5 (s.fwImages (inRanges
          [(R.PWR_GRP_CTL, R.PWR_GRP_CTL + 0x20), (R.PWR_GRP_MEMBER 0, R.PWR_GRP_MEMBER 256), (R.PWR_GRP_INBOX 0 0, R.PWR_GRP_MOVE 4)
          , (R.PWR_GRP_ACK 0, R.PWR_GRP_ACK 256)]) F.PWR_STATUS_CFG_ERR images)
        ∧ config (.fabricConfig c images) 0x0033 2 (s.fwImages (fun a =>
          a == R.FAB_ID || inRanges [(R.FAB_ROUTE 0, R.FAB_ROUTE 65536)] a || (List.range 16).any (fun p => a == R.FAB_PORT_CFG p))
          F.FAB_STATUS_CFG_ERR images)
        ∧ (takenBy s c 0x0032 → sound s c 0x0032 →
          let written := (s.tideNow time).fwImages (inRanges [(R.TIDE_CTL, R.TIDE_CTL + 0x1000)]) F.TIDE_STATUS_CFG_ERR images
          (written = none → Reaches (Sys2Proof.Machine.exec (.tideConfig c images time) s) (fun u => replied s u c mbINVALID 0 []
              ∧ u.mem = s.mem ∧ u.que = s.que))
            ∧ ∀ s1, written = some s1 → Reaches (Sys2Proof.Machine.exec (.tideConfig c images time) s) (fun u =>
              replied s u c mbOK 0 [] ∧ ∀ a, blockReg 0 a → u.reg a = s1.reg a)))
    ∧ ∀ s : State, captureOff s →
      let done := Sys2Proof.Machine.exec .jobResetComplete s
      let at' (t o : Nat) : Nat := 0x030000000000 + t * 0x800000 + o
      let open' := ∃ r ∈ s.fab.reqs, r.tag ∈ s.fw.jobTags
      (s.fw.jobWait = none ∨ open' → done = .next s)
        ∧ (∀ c, s.fw.jobWait = some c → ¬open' → Reaches done (fun u => u.fw.jobWait = none ∧ u.fld F.MBX_HOST_LAST_RESET = 5
          ∧ u.fld F.MBX_HOST_RESET_DONE = 1 ∧ u.tide = s.tide ∧ (∀ a, blockReg 0 a → u.reg a = s.reg a) ∧ (roomy s → u.mem = s.mem)
          ∧ (∀ t o, t < 144 → o < 0x800000 → keptOfTile o = false → u.reg (at' t o) = regReset (at' t o))
          ∧ (∀ t o, t < 144 → o < 0x800000 → keptOfTile o = true → u.reg (at' t o) = s.reg (at' t o))
          ∧ (∀ h : c < 24, replied s u ⟨c, h⟩ mbOK 0 [])))

/-! ## Resets and the management firmware -/

/-- What a command of the management processor's registers may change. -/
def mgpOnly (s u : State) : Prop := OnlyChanges [.fw, .evt, .host] (fun b => blockReg 7 b ∨ blockReg 8 b ∨ logReg b) s u

/-- The slot that a boot tries first (R432). -/
def firstSlot (r : BootRec) : Nat := if r.trial = trPENDING then r.slot else r.active

/-- The ROM has booted from the flash of `s` (R429, R432, R433, R443): the slot tried first, where its image is valid, and its image
measured, its level table taken (R428) and the die and port controllers held; the other one, where only that is; else recovery, which releases nothing and leaves no trial timer armed. -/
def booted (s u : State) (kind : Nat) : Prop :=
  let r := s.bootRec
  let slot := firstSlot r
  let good (k : Nat) : Prop := (s.imgCheck k r.floor).1 = 0
  let up (k : Nat) : Prop := u.fw.released = true ∧ u.fw.kind = kind ∧ u.fld F.MGP_BOOT_SLOT = k ∧ u.fw.ver = s.img k 8 4
    ∧ u.fw.svn = s.img k 0x0C 4 ∧ u.meas 0 = s.imgDigest k ∧ u.meas 1 = sha3 (s.flashBytes 0x20000 0x2000) ∧ u.fld F.MGP_WDT_EN = 1
    ∧ u.fw.level = s.imgLevel k ∧ u.fw.held = true
  (slot < 2 → good slot → up slot ∧ u.fld F.MGP_BOOT_FAIL_STAGE = 0
      ∧ u.fld F.MGP_BOOT_ROM_STATUS = (if s.bootCopy = none then 3 else 0)
      ∧ u.bootRec = { r with
          starts := (r.starts + 1) % 2 ^ 32, trial := if r.trial = trPENDING then trRUNNING else trNONE
          reason := if r.trial = trRUNNING then 1 else r.reason })
    ∧ (slot < 2 → ¬good slot → good (1 - slot) → up (1 - slot) ∧ u.fld F.MGP_BOOT_FALLBACK = 1 ∧ u.fld F.MGP_BOOT_ROM_STATUS = 1
      ∧ u.fld F.MGP_BOOT_FAIL_STAGE = (s.imgCheck slot r.floor).1 ∧ u.bootRec.active = 1 - slot)
    ∧ (slot < 2 → ¬good slot → ¬good (1 - slot) → u.fw.released = false ∧ u.fld F.MGP_BOOT_ROM_STATUS = 2
      ∧ u.fld F.MGP_WDT_EN = 0 ∧ u.fld F.MGP_TRIAL_ARMED = 0 ∧ u.fw.held = true)

/-- Resets, the ROM and the firmware's start, measurements, attestation and the supervision of the processors (R414, R417 to R423,
R432 to R438, R441 to R445, R455, R456). A cold reset gives every register outside the management block its reset value and boots; a warm
one keeps memory, the tide count and what R423 names, ends the requests of reset receivers with ABORTED, and boots; a restart keeps the
data path. The released firmware loads the factory record and the settings and makes the block ready. A measurement is extended by its
hash; a report goes to its destination and counts; the trial timer and the watchdog ask for a restart when they expire; a stalled
heartbeat is logged, and the first die restarts the processor. -/
def Obligations.ResetsAndFirmware : Prop :=
  (∀ s : State,
    let rails := s.mod.good = true ∧ s.mod.tripped = false
    let tileReg (a : Nat) : Prop := 0x030000000000 ≤ a ∧ a < 0x030048000000
    (¬rails → Sys2Proof.Machine.exec .coldReset s = .next s)
      ∧ (rails → Reaches (Sys2Proof.Machine.exec .coldReset s) (fun u => u.pending = s.pending ∧ u.mod = s.mod
        ∧ (∀ a, ¬blockReg 7 a → u.reg a = regReset a) ∧ (∀ w, w < 324 → u.reg (R.MGP_IDKEY w) = Config.idKey w)
        ∧ u.mem = State.reset.mem ∧ u.tags = State.reset.tags ∧ u.vregs = State.reset.vregs ∧ u.strm = State.reset.strm
        ∧ u.tiles = State.reset.tiles ∧ u.que = State.reset.que ∧ u.gre = State.reset.gre ∧ u.tide = State.reset.tide
        ∧ u.fab = State.reset.fab ∧ u.mbox = State.reset.mbox ∧ booted s u 1))
      ∧ Reaches (Sys2Proof.Machine.exec .flr s) (fun u => (s.fw.kind ≠ 1 → 2 ∈ u.fw.sched) ∧ (s.fw.kind = 1 → u.fw = s.fw)
          ∧ OnlyChanges [.fw] (fun _ => False) s u)
      ∧ (let found := s.fw.sched.find? (fun k => k == 2 || k == 3)
        let start := Sys2Proof.Machine.exec .warmResetStart s
        (found = none → start = .next s)
          ∧ (found ≠ none → s.fw.kind = 1 → Reaches start (fun u => u.fw = { s.fw with sched := s.fw.sched.filter (fun k => k == 5) }
            ∧ OnlyChanges [.fw] (fun _ => False) s u))
          ∧ (∀ k, found = some k → s.fw.kind ≠ 1 → captureOff s → s.fld F.EVT_STATUS_REPLAY_RUN = 0 → Reaches start (fun u =>
            u.pending = s.pending ∧ u.mem = s.mem ∧ u.tags = s.tags ∧ u.strm = State.reset.strm ∧ u.que = State.reset.que
              ∧ u.gre = State.reset.gre ∧ u.fw.sched = [] ∧ u.evt.warm = true ∧ u.fld F.TIDE_COUNT_COUNT = s.fld F.TIDE_COUNT_COUNT
              ∧ (∀ a, tileReg a → u.reg a = regReset a)
              ∧ (∀ a, keptWarm a = true → ¬blockReg 0 a → ¬logReg a → u.reg a = s.reg a)
              ∧ (∀ c : Fin 24, c.val ≠ 18 → s.fld (F.MBX_CH_STATUS_RX_AGENT c) ≠ 0 → s.fld (F.MBX_CH_STATUS_TX_AGENT c) ≠ 6 →
                s.fld (F.MBX_CH_STATUS_STATE c) = chPENDING ∨ s.fld (F.MBX_CH_STATUS_STATE c) = chTAKEN →
                u.fld (F.MBX_CH_STATUS_STATE c) = chDONE ∧ u.mbBytes c 0x400 8 = leBytes 8 (mbABORTED + s.mbTag c * 2 ^ 32))
              ∧ booted s u k)))
      ∧ (let start := Sys2Proof.Machine.exec .mgpRestartStart s
        let asked := 4 ∈ s.fw.sched ∨ 5 ∈ s.fw.sched
        let rest := s.fw.sched.filter (fun k => decide (k < 4))
        (¬asked → start = .next s)
          ∧ (asked → s.fw.kind ≠ 0 → 5 ∉ s.fw.sched → Reaches start (fun u => u.fw = { s.fw with sched := rest }
            ∧ OnlyChanges [.fw] (fun _ => False) s u))
          ∧ (asked → s.fw.kind = 0 ∨ 5 ∈ s.fw.sched → captureOff s → s.fld F.EVT_STATUS_REPLAY_RUN = 0 → Reaches start (fun u =>
            u.fld F.MBX_HOST_FW_READY = 0 ∧ u.fw.sched = rest ∧ booted s u (if s.fw.kind = 0 then 4 else s.fw.kind)
              ∧ u.fw.facBad = s.fw.facBad
              ∧ OnlyChanges [.fw, .mbox, .mboxBad, .mod, .flash, .fab, .rep, .evt, .host]
                (fun b => blockReg 6 b ∨ blockReg 7 b ∨ blockReg 2 b ∨ logReg b) s u)))
      ∧ (let start := Sys2Proof.Machine.exec .firmwareStart s
        let waits := s.fw.released = true ∧ s.fld F.MBX_HOST_FW_READY = 0
        let spare (d p : Nat) : Prop := ∃ j, j < 4 ∧ s.spare d j = p
        (¬waits → start = .next s)
          ∧ (waits → Reaches start (fun u => u.fld F.MBX_HOST_FW_READY = 1 ∧ u.fld F.MBX_HOST_RESET_DONE = 1
            ∧ u.fld F.MBX_HOST_LAST_RESET = s.fw.kind % 16 ∧ u.fw.kind = 0 ∧ u.pwr.trip = none ∧ u.mod.rail = none
            ∧ u.evt.warm = false ∧ u.pending = s.pending ∧ u.que = s.que ∧ u.fw.held = false
            ∧ (u.fw.facBad = true ↔ s.facCheck ≠ 0) ∧ (s.facCheck = 0 → u.strm = s.strm)
            ∧ (s.facCheck ≠ 0 → u.pwr.rails = [0, 0, 0, 0] ∧ ∀ t st, t < 144 → st < 8 → u.stState t st = stIDLE)
            ∧ (s.facCheck = 0 → ∀ d, d < 4 → s.pwr.rails.getD d 0 = 0 →
              u.pwr.rails.getD d 0 = s.facVf d ((s.fld F.PWR_STATUS_FREQ - 1200) / 25))
            ∧ (s.facCheck = 0 → (∀ d i, d < 4 → i < 86 → u.fld (F.PWR_VF_MV d i) = s.facVf d i)
              ∧ ∀ d p, d < 4 → p < 40 →
                (spare d p → u.fld (F.DIAG_PTILE_ENABLED (40 * d + p)) = 0 ∧ u.fld (F.DIAG_PTILE_LOGICAL (40 * d + p)) = 0xFF)
                  ∧ (¬spare d p → u.fld (F.DIAG_PTILE_ENABLED (40 * d + p)) = 1 ∧ u.fld (F.DIAG_PTILE_LOGICAL (40 * d + p))
                    = 36 * d + ((List.range p).filter (fun q => !(List.range 4).any (fun j => s.spare d j == q))).length))
            ∧ (∀ i w, s.settCopy = some i → s.fw.kind ≠ 4 → s.settImage i 0 = some w → 900 ≤ w / 2 ^ 16 % 2 ^ 12 →
              w / 2 ^ 16 % 2 ^ 12 ≤ 2800 → u.fld F.PWR_CTL_CAP = w / 2 ^ 16 % 2 ^ 12)))))
    ∧ (∀ (m : Master) (index : BitVec 3) (s : State),
      let i := index.toNat
      let data := (List.range 8).flatMap (fun w => leBytes 8 (s.reg (R.MGP_MEAS_EXT_DATA w)).toNat)
      (i < 2 → Reaches (Sys2Proof.Machine.exec (.mgpMeasExt m index) s) (fun u => u.fld F.MGP_ATT_CTL_EXT_REFUSED = 1
          ∧ WriteChanges [] (fun b => b = R.MGP_ATT_CTL) s u))
        ∧ (2 ≤ i → Reaches (Sys2Proof.Machine.exec (.mgpMeasExt m index) s) (fun u => u.meas i = sha3 (s.meas i ++ data)
          ∧ WriteChanges [] (fun b => ∃ w, w < 8 ∧ b = R.MGP_MEAS i w) s u)))
    ∧ (∀ (m : Master) (s : State), captureOff s →
      let go := Sys2Proof.Machine.exec (.mgpAttGo m) s
      let dest := (s.reg R.MGP_ATT_DEST).toNat
      (s.fld F.MGP_ATT_CTL_BUSY = 1 → Reaches go (WriteChanges [] (fun _ => False) s))
        ∧ (s.fld F.MGP_ATT_CTL_BUSY = 0 → dest / 2 ^ 48 = s.fld F.FAB_ID_ID → Reaches go (fun u =>
          u.fld F.MGP_ATT_CTL_BUSY = 1 ∧ u.fw = { s.fw with att := some ⟨s.report, dest, 0, false⟩ }
            ∧ WriteChanges [.fw] (fun b => b = R.MGP_ATT_CTL) s u))
        ∧ (s.fld F.MGP_ATT_CTL_BUSY = 0 → dest / 2 ^ 48 ≠ s.fld F.FAB_ID_ID → Reaches go (fun u =>
          u.fld F.MGP_ATT_CTL_BUSY = 1 ∧ (∃ n, u.fw = { s.fw with att := some ⟨s.report, dest, n, false⟩ }) ∧ u.mem = s.mem))
        ∧ (let done (late : Bool) := Sys2Proof.Machine.exec (.attestReportDone late) s
          (s.fw.att = none → s.fw.attWait = none → ∀ late, done late = .next s)
            ∧ (∀ c : Fin 24, s.fw.att = none → s.fw.attWait = some c.val → Reaches (done true) (fun u =>
              replied s u c mbTIMEOUT 0 [] ∧ u.fw.attWait = none))
            ∧ ∀ r, s.fw.att = some r → (r.acks ≠ 0 → done false = .next s)
              ∧ (r.acks = 0 → r.dest / 2 ^ 48 = s.fld F.FAB_ID_ID → inMemory (r.dest % 2 ^ 48) r.report.length →
                (∀ c, s.fw.attWait = some c → c < 24) → Reaches (done false) (fun u =>
                  u.bytes (r.dest % 2 ^ 48) r.report.length = r.report ∧ u.fld F.MGP_ATT_CTL_DONE = 1 ∧ u.fld F.MGP_ATT_CTL_BUSY = 0
                    ∧ u.fld F.MGP_ATT_CTL_SEQ = satAdd 32 (s.fld F.MGP_ATT_CTL_SEQ) 1 ∧ u.fw.att = none ∧ u.fw.attWait = none
                    ∧ (∀ b, b < r.dest % 2 ^ 48 ∨ r.dest % 2 ^ 48 + r.report.length ≤ b → u.byte b = s.byte b)
                    ∧ ∀ c : Fin 24, s.fw.attWait = some c.val → replied s u c mbOK 0 (leBytes 4 5331)))
              ∧ (r.acks = 0 → r.dest / 2 ^ 48 ≠ s.fld F.FAB_ID_ID → s.fw.attWait = none → Reaches (done false) (fun u =>
                u.fld F.MGP_ATT_CTL_BUSY = 0 ∧ u.fw.att = none ∧ (r.err = true → u.fld F.MGP_ATT_CTL_WRITE_ERR = 1)
                  ∧ (r.err = false → u.fld F.MGP_ATT_CTL_DONE = 1) ∧ OnlyChanges [.fw] (fun b => b = R.MGP_ATT_CTL) s u))))
    ∧ (∀ (m : Master) (s : State),
      let left := if s.fld F.MGP_TRIAL_ARMED = 1 then 120000 - (s.tide.now - s.fw.trialAt) / 4000000 else s.fld F.MGP_TRIAL_REMAIN_MS
      let expire := Sys2Proof.Machine.exec .mgpTrialExpire s
      let dog := Sys2Proof.Machine.exec .mgpWdtExpire s
      let bites := s.fld F.MGP_WDT_EN = 1 ∧ s.fw.kind = 0
      (s.fld F.MGP_TRIAL_ARMED = 0 ∨ left ≠ 0 → expire = .next s)
        ∧ (s.fld F.MGP_TRIAL_ARMED = 1 → left = 0 → Reaches expire (fun u => u.fld F.MGP_TRIAL_ARMED = 0 ∧ u.fld F.MGP_TRIAL_EXPIRED = 1
          ∧ u.fld F.MGP_TRIAL_REMAIN_MS = 0 ∧ 5 ∈ u.fw.sched ∧ OnlyChanges [.fw] (fun b => b = R.MGP_TRIAL) s u))
        ∧ Reaches (Sys2Proof.Machine.exec (.mgpTrialStop m) s) (fun u => u.fld F.MGP_TRIAL_ARMED = 0
          ∧ u.fld F.MGP_TRIAL_REMAIN_MS = left ∧ WriteChanges [] (fun b => b = R.MGP_TRIAL) s u)
        ∧ (¬bites → dog = .next s)
        ∧ (bites → Reaches dog (fun u => u.fld F.MGP_WDT_EXPIRED = 1 ∧ u.fld F.MGP_WDT_REMAIN_MS = 0 ∧ 4 ∈ u.fw.sched
          ∧ u.fw.wdtLog = true ∧ OnlyChanges [.fw] (fun b => b = R.MGP_WDT) s u))
        ∧ Reaches (Sys2Proof.Machine.exec (.mgpWdtKick m) s) (fun u => u.fld F.MGP_WDT_REMAIN_MS = s.fld F.MGP_WDT_TIMEOUT_MS
          ∧ WriteChanges [] (fun b => b = R.MGP_WDT) s u))
    ∧ ∀ s : State,
      (∀ die : Fin 4,
        let check := Sys2Proof.Machine.exec (.dcpHeartbeatCheck die) s
        let n := s.fld F.MGP_HB_COUNT
        let same := n = s.fw.hb.getD die.val 0
        let m := s.fld (F.DCP_HB_MISSES die) + 1
        let lim := max 1 (s.fld (F.DCP_HB_MISS_MAX die))
        let on := s.fld (F.DCP_HB_EN die) = 1 ∧ s.fw.held = false
        (¬on → check = .next s)
          ∧ (on → ¬same → Reaches check (fun u => u.fld (F.DCP_HB_MISSES die) = 0 ∧ mgpOnly s u))
          ∧ (on → same → Reaches check (fun u => u.fld (F.DCP_HB_MISSES die) = min 15 m ∧ mgpOnly s u
            ∧ (m = lim → die.val = 0 → s.fw.kind = 0 ∨ s.fw.kind = 4 → 4 ∈ u.fw.sched) ∧ (m ≠ lim → u.evt = s.evt)
            ∧ (m = lim → Logged s u s.count (srcDCP die.val) 0x0F02 true [(1, die.val), (4, n)]))))
        ∧ (s.fw.released = false → Sys2Proof.Machine.exec .dcpAliveCheck s = .next s)
        ∧ (s.fw.released = true → s.fw.alive.length = 4 → captureOff s → s.fld F.EVT_STATUS_REPLAY_RUN = 0 →
          Reaches (Sys2Proof.Machine.exec .dcpAliveCheck s) (fun u =>
            OnlyChanges [.fw, .mbox, .mboxBad, .mod, .fab, .rep, .evt, .host]
              (fun b => blockReg 6 b ∨ blockReg 7 b ∨ blockReg 2 b ∨ logReg b) s u
            ∧ ∀ d, d < 4 →
              let n := s.fld (F.DCP_ALIVE_COUNT d)
              let old := s.fw.alive.getD d (0, 0)
              let c := 14 + d
              let st := s.fld (F.MBX_CH_STATUS_STATE c)
              u.fw.alive.getD d (0, 0) = (n, if n = old.1 ∧ old.2 ≠ 4 then old.2 + 1 else 0)
                ∧ (n = old.1 → old.2 = 4 → s.fld (F.MBX_CH_STATUS_TX_AGENT c) ≠ 6 → st = chPENDING ∨ st = chTAKEN →
                  u.fld (F.MBX_CH_STATUS_STATE c) = chDONE ∧ u.mbBytes c 0x400 8 = leBytes 8 (mbABORTED + s.mbTag c * 2 ^ 32))))

/-! ## The event unit: records, audit, capture, replay -/

/-- What a ring of the event unit may change as it stores a record. -/
def ringOnly (s u : State) : Prop := OnlyChanges [.mem, .tags, .memu, .evt, .host] (fun b => memoryReg b ∨ blockReg 9 b) s u

/-- `n` bytes at `a` hold `bs`, and every other byte of memory stands. -/
def storedAt (s u : State) (a : Nat) (bs : List Byte) : Prop :=
  u.bytes a bs.length = bs ∧ ∀ b, b < a ∨ a + bs.length ≤ b → u.byte b = s.byte b

/-- Vector `v` has been signalled: its message is sent or pending (R408). -/
def signalled (s u : State) (v : Nat) : Prop :=
  (u.reg R.MBX_PBA).getLsbD v = true ∨ ∃ a d, u.host.sent = s.host.sent ++ [(v, a, d)]

/-- Event records, the audit ring, capture and replay (R450 to R452, R459 to R465, R467). The record of least source and code among those
of one ns goes to the ring, or to the buffer while the ring is off; a full ring drops it or overwrites its oldest. A software record
keeps its bits but for the tide and the FW and REPLAY flags. RD moves forward over written records only. Audit records go likewise to
their ring. Capture freezes after its trigger. Entropy is captured, and in replay comes from the record; replay starts only on a quiet
device and delivers the recorded tides. -/
def Obligations.EventUnit : Prop :=
  (∀ (sameNs : Nat) (s : State),
    let accept := Sys2Proof.Machine.exec (.eventAccept sameNs) s
    let near := s.evt.waiting.take (max sameNs 1)
    let far := s.evt.waiting.drop (max sameNs 1)
    let lower (p q : Nat × BitVec 256) : Prop := p.1 < q.1 ∨ (p.1 = q.1 ∧ recCode p.2 < recCode q.2)
    let size := 2 ^ s.fld F.EVT_CTL_LOG2
    let wr := s.fld F.EVT_WR_WR
    let rd := s.fld F.EVT_RD_RD
    let place := s.fld F.EVT_RING_BASE_BASE + 32 * (wr % size)
    let on := s.fld F.EVT_CTL_EN = 1 ∧ s.evt.warm = false
    let full := idxDiff wr rd = size
    (s.evt.waiting = [] → accept = .next s)
      ∧ ∀ early p late, near = early ++ p :: late → (∀ q ∈ early, lower p q) → (∀ q ∈ late, ¬lower q p) →
        let rest := early ++ late ++ far
        (on → ¬full → inMemory place 32 → Reaches accept (fun u => storedAt s u place (leBytes 32 p.2.toNat)
            ∧ u.fld F.EVT_WR_WR = (wr + 1) % 2 ^ 32 ∧ u.fld F.EVT_RD_RD = rd ∧ rest <+: u.evt.waiting ∧ ringOnly s u))
          ∧ (on → full → s.fld F.EVT_CTL_STOP_FULL = 0 → inMemory place 32 → Reaches accept (fun u =>
            storedAt s u place (leBytes 32 p.2.toNat) ∧ u.fld F.EVT_WR_WR = (wr + 1) % 2 ^ 32
              ∧ u.fld F.EVT_RD_RD = (rd + 1) % 2 ^ 32 ∧ u.fld F.EVT_CNT_OVERWRITTEN = satAdd 16 (s.fld F.EVT_CNT_OVERWRITTEN) 1
              ∧ u.fld F.EVT_STATUS_LOST = 1 ∧ rest <+: u.evt.waiting ∧ ringOnly s u))
          ∧ (on → full → s.fld F.EVT_CTL_STOP_FULL = 1 → Reaches accept (fun u => u.evt = { s.evt with waiting := rest }
            ∧ u.fld F.EVT_CNT_FULL_DROP = satAdd 16 (s.fld F.EVT_CNT_FULL_DROP) 1 ∧ u.fld F.EVT_STATUS_LOST = 1
            ∧ OnlyChanges [.evt] logReg s u))
          ∧ (¬on → s.evt.pre.length < 64 → Reaches accept (fun u =>
            u.evt = { s.evt with waiting := rest, pre := s.evt.pre ++ [p.2] } ∧ OnlyChanges [.evt] (fun _ => False) s u))
          ∧ (¬on → 64 ≤ s.evt.pre.length → Reaches accept (fun u => u.evt = { s.evt with waiting := rest }
            ∧ u.fld F.EVT_CNT_PRE_DROP = satAdd 16 (s.fld F.EVT_CNT_PRE_DROP) 1 ∧ u.fld F.EVT_STATUS_LOST = 1
            ∧ OnlyChanges [.evt] logReg s u)))
    ∧ (∀ s : State,
      let w := s.swRecord
      Reaches (Sys2Proof.Machine.exec .evtSwCommit s) (fun u => OnlyChanges [.evt, .host] logReg s u ∧ ∃ r : BitVec 256,
        r.toNat % 2 ^ 48 = s.fld F.TIDE_COUNT_COUNT
          ∧ (∀ k, 48 ≤ k → k < 256 → (r.getLsbD k = true ↔ w.testBit k = true ∨ k = 82
            ∨ (k = 81 ∧ s.fld F.EVT_STATUS_REPLAY_RUN = 1)))
          ∧ ((s.evt.waiting.filter (fun p => p.1 == recSource r)).length < 4 → u.evt.waiting = s.evt.waiting
            ++ [(recSource r, if s.evt.lostSrc.contains (recSource r) then markLost r else r)])
          ∧ (4 ≤ (s.evt.waiting.filter (fun p => p.1 == recSource r)).length → u.evt.waiting = s.evt.waiting
            ∧ recSource r ∈ u.evt.lostSrc ∧ u.fld F.EVT_STATUS_LOST = 1
            ∧ u.fld F.EVT_CNT_SRC_DROP = satAdd 16 (s.fld F.EVT_CNT_SRC_DROP) 1)
          ∧ (w.testBit 80 = false → u.host = s.host) ∧ (w.testBit 80 = true → recCode r < 0x1000 → signalled s u (32 + recCode r / 256))))
    ∧ (∀ (v : BitVec 64) (s : State),
      let refused (i : Instr) : Prop := Reaches (Sys2Proof.Machine.exec i s) (fun u => u.fld F.EVT_STATUS_CFG_ERR = 1
        ∧ OnlyChanges [] (fun b => b = R.EVT_STATUS) s u)
      let ctl := Sys2Proof.Machine.exec (.evtCtlWrite v) s
      let log2 := v.toNat / 2 ^ 16 % 32
      let set (u : State) : Prop := u.fld F.EVT_CTL_EN = v.toNat % 2 ∧ u.fld F.EVT_CTL_STOP_FULL = v.toNat / 2 % 2
        ∧ u.fld F.EVT_CTL_LOG2 = log2
      let turnsOn := s.fld F.EVT_CTL_EN = 0 ∧ v.toNat % 2 = 1
      let n := v.toNat % 2 ^ 32
      let rd := s.fld F.EVT_RD_RD
      let wr := s.fld F.EVT_WR_WR
      let held := idxDiff wr rd
      let slot (k : Nat) : Nat := s.fld F.EVT_RING_BASE_BASE + 32 * ((wr + k) % 2 ^ log2)
      let aud := idxDiff (s.fld F.EVT_AUDIT_WR_WR) (s.fld F.EVT_AUDIT_RD_RD)
      let cap := Sys2Proof.Machine.exec (.evtCapEnable v) s
      let starts := s.fld F.EVT_CAP_CTL_EN = 0 ∧ v.getLsbD 8 = true
      (log2 < 10 ∨ 24 < log2 → refused (.evtCtlWrite v))
        ∧ (10 ≤ log2 → log2 ≤ 24 → ¬turnsOn → Reaches ctl (fun u => set u ∧ OnlyChanges [] (fun b => b = R.EVT_CTL) s u))
        ∧ (10 ≤ log2 → log2 ≤ 24 → turnsOn → held + s.evt.pre.length ≤ 2 ^ log2 → (∀ k, k < s.evt.pre.length → inMemory (slot k) 32) →
          Reaches ctl (fun u => set u ∧ u.evt.pre = [] ∧ u.fld F.EVT_WR_WR = (wr + s.evt.pre.length) % 2 ^ 32
            ∧ u.fld F.EVT_RD_RD = rd ∧ (∀ k, k < s.evt.pre.length → u.bytes (slot k) 32 = leBytes 32 (s.evt.pre.getD k 0).toNat)
            ∧ (∀ b, (∀ k, k < s.evt.pre.length → b < slot k ∨ slot k + 32 ≤ b) → u.byte b = s.byte b) ∧ ringOnly s u))
        ∧ (idxDiff n rd ≤ held → Reaches (Sys2Proof.Machine.exec (.evtRdWrite v) s) (fun u => u.fld F.EVT_RD_RD = n
          ∧ OnlyChanges [] (fun b => b = R.EVT_RD) s u))
        ∧ (held < idxDiff n rd → refused (.evtRdWrite v))
        ∧ (idxDiff n (s.fld F.EVT_AUDIT_RD_RD) ≤ aud → Reaches (Sys2Proof.Machine.exec (.evtAuditRdWrite v) s) (fun u =>
          u.fld F.EVT_AUDIT_RD_RD = n ∧ OnlyChanges [] (fun b => b = R.EVT_AUDIT_RD) s u))
        ∧ (aud < idxDiff n (s.fld F.EVT_AUDIT_RD_RD) → refused (.evtAuditRdWrite v))
        ∧ (starts → Reaches cap (fun u => u.reg R.EVT_CAP_CTL = v &&& 0x0000FFFFFFFF03FF ∧ u.reg R.EVT_CAP_WR = 0
          ∧ u.reg R.EVT_CAP_OLDEST = 0 ∧ u.reg R.EVT_CAP_STATUS = 0
          ∧ u.evt = { s.evt with capGap := false, capLens := [], trig := none } ∧ OnlyChanges [.evt] (fun b =>
            b = R.EVT_CAP_CTL ∨ b = R.EVT_CAP_WR ∨ b = R.EVT_CAP_OLDEST ∨ b = R.EVT_CAP_STATUS) s u))
        ∧ (¬starts → Reaches cap (fun u => u.reg R.EVT_CAP_CTL = v &&& 0x0000FFFFFFFF03FF
          ∧ OnlyChanges [] (fun b => b = R.EVT_CAP_CTL) s u)))
    ∧ (∀ (sameNs : Nat) (s : State),
      let accept := Sys2Proof.Machine.exec (.auditAccept sameNs) s
      let near := s.evt.audit.take (max sameNs 1)
      let size := 2 ^ s.fld F.EVT_AUDIT_LOG2
      let wr := s.fld F.EVT_AUDIT_WR_WR
      let place := s.fld F.EVT_AUDIT_BASE + 32 * (wr % size)
      let full := idxDiff wr (s.fld F.EVT_AUDIT_RD_RD) = size
      (s.evt.audit = [] → accept = .next s)
        ∧ ∀ early r late, near = early ++ r :: late → (∀ q ∈ early, r.before q = true) → (∀ q ∈ late, q.before r = false) → r.t < 144 →
          let rest := early ++ late ++ s.evt.audit.drop (max sameNs 1)
          (¬full → inMemory place 32 → Reaches accept (fun u =>
              storedAt s u place (leBytes 8 r.w0.toNat ++ leBytes 8 r.w1.toNat ++ leBytes 8 r.w2.toNat ++ List.replicate 8 0)
                ∧ u.fld F.EVT_AUDIT_WR_WR = (wr + 1) % 2 ^ 32 ∧ u.evt.audit = rest
                ∧ u.fld (F.TSQ_AUDIT_CNT_RECORDS r.t) = satAdd 32 (s.fld (F.TSQ_AUDIT_CNT_RECORDS r.t)) 1
                ∧ OnlyChanges [.mem, .tags, .memu, .evt, .host] (fun b => memoryReg b ∨ blockReg 9 b ∨ b = R.TSQ_AUDIT_CNT r.t
                  ∨ ∃ i, i < 8 ∧ b = R.TSQ_EVCNT_VALUE r.t i) s u))
            ∧ (full → Reaches accept (fun u => u.evt = { s.evt with audit := rest }
              ∧ u.fld (F.TSQ_AUDIT_CNT_DROPPED r.t) = satAdd 32 (s.fld (F.TSQ_AUDIT_CNT_DROPPED r.t)) 1
              ∧ OnlyChanges [.evt] (fun b => b = R.TSQ_AUDIT_CNT r.t) s u)))
    ∧ (∀ s : State,
      let freeze := Sys2Proof.Machine.exec .captureFreeze s
      let rng := Sys2Proof.Machine.exec .evtRngRead s
      let due (t : Nat) : Prop := s.fld F.EVT_CAP_STATUS_FROZEN = 0 ∧ s.fld F.EVT_CAP_CTL_EN = 1
        ∧ t + s.fld F.EVT_CAP_CTL_TRIG_DELAY ≤ s.tide.delivered
      let wr := s.fld F.EVT_CAP_WR_WR
      let place := s.fld F.EVT_CAP_BASE_BASE + wr % s.fld F.EVT_CAP_SIZE_SIZE
      let captures := s.fld F.EVT_CAP_CTL_EN = 1 ∧ (s.fld F.EVT_CAP_CTL_CLASSES).testBit 2 = true
        ∧ s.fld F.EVT_CAP_STATUS_FROZEN = 0 ∧ s.fld F.EVT_CAP_STATUS_FULL = 0
      (s.evt.trig = none → freeze = .next s)
        ∧ (∀ t, s.evt.trig = some t → (¬due t → freeze = .next s)
          ∧ (due t → Reaches freeze (fun u => u.fld F.EVT_CAP_STATUS_FROZEN = 1
            ∧ u.fld F.EVT_CAP_STATUS_FREEZE_TIDE = s.tide.delivered % 2 ^ 48
            ∧ Logged s u s.count srcEVT 0x0F05 true [(2, s.fld F.EVT_CAP_CTL_TRIG_CODE), (8, t), (8, s.tide.delivered)]
            ∧ OnlyChanges [.evt, .host] (fun b => b = R.EVT_CAP_STATUS ∨ logReg b) s u)))
        ∧ (∀ v vs, s.fld F.EVT_STATUS_REPLAY_RUN = 1 → s.rep.rng = v :: vs → Reaches rng (fun u => u.rep = { s.rep with rng := vs }
          ∧ OnlyChanges [.rep] (fun _ => False) s u))
        ∧ (s.fld F.EVT_STATUS_REPLAY_RUN = 1 → s.rep.rng = [] → Reaches rng (fun u => u.rep = { s.rep with div := s.rep.div + 1 }
          ∧ u.fld F.EVT_REPLAY_DIVSEQ_COUNT = satAdd 32 (s.fld F.EVT_REPLAY_DIVSEQ_COUNT) 1
          ∧ OnlyChanges [.rep] (fun b => b = R.EVT_REPLAY_DIVSEQ) s u))
        ∧ (s.fld F.EVT_STATUS_REPLAY_RUN = 0 → ¬captures → Reaches rng (fun u => u.evt = { s.evt with fresh := s.evt.fresh + 1 }
          ∧ OnlyChanges [.evt] (fun _ => False) s u))
        ∧ (s.fld F.EVT_STATUS_REPLAY_RUN = 0 → captures → s.fld F.EVT_CAP_CTL_MODE = 0 →
          wr % s.fld F.EVT_CAP_SIZE_SIZE + 32 ≤ s.fld F.EVT_CAP_SIZE_SIZE → inMemory place 32 → Reaches rng (fun u =>
            storedAt s u place (leBytes 8 (s.fld F.TIDE_COUNT_COUNT + 2 ^ 48 * 2 + 2 ^ 52 * b2n s.evt.capGap)
                ++ leBytes 8 (8 + 2 ^ 32 * s.evt.capSeq) ++ leBytes 8 (Config.entropy s.evt.fresh).toNat ++ List.replicate 8 0)
              ∧ u.fld F.EVT_CAP_WR_WR = (wr + 32) % 2 ^ 48 ∧ u.evt.capSeq = (s.evt.capSeq + 1) % 2 ^ 32
              ∧ u.evt.capLens.getLast? = some 32 ∧ ringOnly s u)))
    ∧ ∀ s : State,
      let go := Sys2Proof.Machine.exec .evtReplayGo s
      let stop := Sys2Proof.Machine.exec .evtReplayStop s
      let running := s.fld F.EVT_STATUS_REPLAY_RUN = 1
      let quiet := (∀ p, p < 16 → s.fld (F.FAB_PORT_CFG_EN p) = 0) ∧ s.fld F.TIDE_CTL_ENABLE = 0 ∧ captureOff s
        ∧ s.fld F.FAB_ID_VALID = 1 ∧ s.repClass (s.fld F.EVT_REPLAY_START_POS) = 6
      let done := [(8, s.rep.last), (4, s.rep.inj), (4, s.rep.div)]
      (¬quiet → Reaches go (fun u => u.fld F.EVT_STATUS_CFG_ERR = 1 ∧ OnlyChanges [] (fun b => b = R.EVT_STATUS) s u))
        ∧ (quiet → Reaches go (fun u => u.fld F.EVT_STATUS_REPLAY_RUN = 1
          ∧ u.fld F.EVT_REPLAY_POS_POS = s.fld F.EVT_REPLAY_START_POS ∧ u.rep = RepUnit.init
          ∧ OnlyChanges [.rep] (fun b => b = R.EVT_STATUS ∨ b = R.EVT_REPLAY_POS) s u))
        ∧ (¬running → stop = .next s)
        ∧ (running → Reaches stop (fun u => u.fld F.EVT_STATUS_REPLAY_RUN = 0 ∧ Logged s u s.count srcEVT 0x0F07 false done
          ∧ OnlyChanges [.evt, .host] logReg s u))
        ∧ ∀ (time : Nat) (stuck : Bool),
          let tide := Sys2Proof.Machine.exec (.replayTide time stuck) s
          let pos := s.fld F.EVT_REPLAY_POS_POS
          let r := s.repRec pos
          let e := s.fld F.EVT_REPLAY_END_POS
          let over' (p : Nat) : Prop := e ≤ p ∨ (s.repRec p).cls = 6
          let q := s.repRec r.next
          let delivers (u : State) : Prop := u.fld F.TIDE_COUNT_COUNT = r.count ∧ u.tide.delivered = r.count ∧ u.rep.last = r.count
            ∧ u.mem = s.mem ∧ u.pending = s.pending
          (¬running → tide = .next s)
            ∧ (running → stuck = true ∨ e ≤ pos → Reaches tide (fun u => u.fld F.EVT_STATUS_REPLAY_RUN = 0
              ∧ Logged s u s.count srcEVT 0x0F07 false done))
            ∧ (running → stuck = false → pos < e → r.kind ≠ 2 → s.fld F.PWR_QENERGY_EN = 0 → s.fld F.PWR_CTL_BUDGET_EN = 0 →
              (over' r.next → Reaches tide (fun u => delivers u ∧ u.fld F.EVT_REPLAY_POS_POS = r.next % 2 ^ 48
                  ∧ u.rep = { s.rep with last := r.count }))
                ∧ (¬over' r.next → q.cls = 2 → over' q.next → Reaches tide (fun u => delivers u
                  ∧ u.fld F.EVT_REPLAY_POS_POS = q.next % 2 ^ 48 ∧ u.rep.inj = s.rep.inj + 1
                  ∧ u.rep.rng = s.rep.rng ++ [BitVec.ofNat 64 (leNat (q.body.take 8))])))

/-! ## Registers of the local map, the windows, the module -/

/-- Bit `k` of a register after a write of bits `w`, where the write covers it, by its field's access code (R14, R15). -/
def writtenBit (r : RegRow) (old w : Nat) (covered : Bool) (k : Nat) : Bool :=
  match r.flds.find? (fun f => decide (f.lo ≤ k) && decide (k < f.lo + f.width)) with
  | some f => match f.access with
    | .rw => if covered then w.testBit k else old.testBit k
    | .wo => if covered then w.testBit k else old.testBit k
    | .w1c => old.testBit k && !(covered && w.testBit k)
    | _ => old.testBit k
  | none => old.testBit k

/-- Registers whose writes act by their access codes alone: the memory unit's but MEM_SCRUB, a tile's vector registers while no job
runs, and EVT_SW. -/
def plainRegister (s : State) (a : Nat) : Prop :=
  (blockReg 1 a ∧ a ≠ R.MEM_SCRUB) ∨ (∃ w, w < 4 ∧ a = R.EVT_SW w)
    ∨ (∃ t, t < 144 ∧ R.VXE_CENSUS_CTL t ≤ a ∧ a < R.VXE_CENSUS_CTL t + 0x100000 ∧ s.anyStreamOut = false)

/-- A mailbox command of the SMBus: its PEC and its channel. -/
def smbRow : Instr → Option (Bool × BitVec 8)
  | .mbWrite pec ch _ _ => some (pec, ch)
  | .mbCtlSend pec ch => some (pec, ch)
  | .mbCtlRelease pec ch => some (pec, ch)
  | .mbRead pec ch _ _ => some (pec, ch)
  | .mbStatus pec ch => some (pec, ch)
  | _ => none

/-- A flash command of the SMBus: whether its PEC is good, its address, and whether its length and page are allowed. -/
def flashRow : Instr → Option (Bool × Nat × Bool × Bool)
  | .flErase pec a => some (pec, a.toNat, true, true)
  | .flWrite pec a d => some (pec, a.toNat, decide (d.length ≤ 236), decide (a.toNat % 256 + d.length ≤ 256))
  | .flRead pec a n => some (pec, a.toNat, decide (n ≤ 236), true)
  | _ => none

/-- The SMBus unit has answered, and nothing else has changed. -/
def smbAnswered (s u : State) (m : ModUnit) (a : Option (List Byte)) : Prop :=
  u.mod = { m with answers := s.mod.answers ++ [a] } ∧ OnlyChanges [.mod] (fun _ => False) s u

/-- The rails have gone: everything outside standby stands as at reset; the flash, the module and the trip record remain. -/
def dark (s u : State) : Prop :=
  u.pending = s.pending ∧ u.flash = s.flash ∧ u.mod = { s.mod with en := false, good := false, waiting := none, db := 0 }
    ∧ u.pwr.trip = s.pwr.trip ∧ (∀ a, u.reg a = regReset a) ∧ u.mem = State.reset.mem ∧ u.strm = State.reset.strm
    ∧ u.que = State.reset.que ∧ u.fw = State.reset.fw

/-- Register writes, the windows, the module's power and its SMBus (R14, R15, R271, R272, R425, R474 to R479). A write of a register
changes the bits its access codes let it, in the lanes it covers; a shape register space does not take is unmapped; a register with a
command of its own takes the write as that command. A window's base lies in a register region. PWR_EN raises and drops the rails; a trip
holds them off. The SMBus unit answers, refuses or NACKs; flash operations erase and program. -/
def Obligations.RegistersAndModule : Prop :=
  (∀ (m : Master) (addr : BitVec 48) (data : List Byte) (time : Nat) (s : State),
    let a := addr.toNat
    let x := a - a % 8
    let n := data.length
    let write := Sys2Proof.Machine.exec (.registerWrite m addr data time) s
    let covered (k : Nat) : Bool := n == 8 || k / 32 == a % 8 / 4
    let same (cmd : Instr) : Prop := write = Sys2Proof.Machine.exec cmd (s.tideNow time)
    let v := BitVec.ofNat 64 (leNat data)
    (isRegs a = false → write = .next s)
      ∧ (∀ r, rowAt x = some r → plainRegister s x → (n = 8 ∧ a % 8 = 0) ∨ (n = 4 ∧ a % 4 = 0) → Reaches write (fun u =>
          (∀ k, k < 64 → (u.reg x).getLsbD k = writtenBit r (s.reg x).toNat (leNat data * 2 ^ (8 * (a % 8))) (covered k) k)
            ∧ OnlyChanges [.tide] (fun b => b = x ∨ b = R.TIDE_TIME) s u))
      ∧ (0 < n → regShape a n = false → (regionOf a = .tileRegs ∧ a + n ≤ 0x030048000000)
          ∨ (regionOf a = .devRegs ∧ a + n ≤ 0x038010000000) → Reaches write (fun u => u.fld F.MEM_STATUS_UNMAPPED = 1
            ∧ u.fld F.MEM_CNT_UNMAPPED_VALUE = satAdd 64 (s.fld F.MEM_CNT_UNMAPPED_VALUE) 1
            ∧ OnlyChanges [.tide, .evt, .host] (fun b => b = R.TIDE_TIME ∨ memoryReg b) s u))
      ∧ (n = 8 → a = R.MEM_SCRUB → same (.memScrubWrite v)) ∧ (n = 8 → a = R.EVT_CTL → same (.evtCtlWrite v))
      ∧ (n = 8 → a = R.EVT_RD → same (.evtRdWrite v)))
    ∧ (∀ (v : BitVec 64) (s : State),
      let base := v.toNat / 2 ^ 24 % 2 ^ 24 * 2 ^ 24
      let win := Sys2Proof.Machine.exec (.mbxWinWrite false v) s
      let bar := Sys2Proof.Machine.exec (.mbxWinWrite true v) s
      let wrong (o : Host.Outcome State Fault Refusal) : Prop :=
        Reaches o (fun u => u.fld F.MBX_STATUS_CFG_ERR = 1 ∧ OnlyChanges [] (fun b => b = R.MBX_STATUS) s u)
      (isRegs base = true → Reaches win (fun u => (u.reg R.MBX_WIN).toNat = base ∧ OnlyChanges [] (fun b => b = R.MBX_WIN) s u))
        ∧ (isRegs base = false → wrong win)
        ∧ (v.toNat % 2 ^ s.host.bar2Log2 = 0 → Reaches bar (fun u => u.reg R.MBX_BAR2 = v
          ∧ OnlyChanges [] (fun b => b = R.MBX_BAR2) s u))
        ∧ (v.toNat % 2 ^ s.host.bar2Log2 ≠ 0 → wrong bar))
    ∧ (∀ (low : Nat) (failed : Option (BitVec 8)) (s : State),
      let assert' := Sys2Proof.Machine.exec (.pwrEnAssert low failed) s
      let holds (m : ModUnit) : Prop := Reaches assert' (fun u => u.mod = m ∧ OnlyChanges [.mod] (fun _ => False) s u)
      let on := { s.mod with en := true, tripped := false }
      let opens := s.mod.standby = true ∧ s.mod.en = false
      let stays := s.mod.tripped = true ∧ low < 100
      Reaches (Sys2Proof.Machine.exec .standbyUp s) (fun u => u.mod = { s.mod with standby := true }
          ∧ OnlyChanges [.mod] (fun _ => False) s u)
        ∧ (¬opens → assert' = .next s)
        ∧ (opens → stays → holds { s.mod with en := true })
        ∧ (opens → ¬stays → s.mod.flashOp ≠ none → holds { on with waiting := some (failed.map (fun r => r.toNat)) })
        ∧ (opens → ¬stays → s.mod.flashOp = none → failed = none → holds { on with good := true, waiting := none })
        ∧ (∀ r, opens → ¬stays → s.mod.flashOp = none → failed = some r →
          holds { on with good := false, waiting := none, rail := some r.toNat })
        ∧ (s.mod.en = true → Reaches (Sys2Proof.Machine.exec .pwrEnDeassert s) (dark s))
        ∧ (s.mod.en = false → Sys2Proof.Machine.exec .pwrEnDeassert s = .next s)
        ∧ Reaches (Sys2Proof.Machine.exec .inputUndervoltage s) (dark s))
    ∧ (∀ s : State,
      let cur := s.fld F.PWR_STATE_CUR
      let alert := Sys2Proof.Machine.exec .smbAlertResponse s
      let rings := ∃ c, 21 ≤ c ∧ c ≤ 23 ∧ s.fld (F.MBX_CH_STATUS_STATE c) = chDONE
      let wake := Sys2Proof.Machine.exec .modWake s
      (cur < 2 → s.pwr.entering = none → wake = .next s)
        ∧ (2 ≤ cur ∨ s.pwr.entering ≠ none → wake = Sys2Proof.Machine.exec (.powerWake 0x80 0) s ∧ Reaches wake (fun u =>
          u.fld F.PWR_STATE_CUR = (if cur ≤ 1 then 0 else 1) ∧ u.pwr.entering = none ∧ u.fld F.PWR_WAKE_CAUSE = 7 ∧ u.mem = s.mem))
        ∧ (rings → Reaches alert (fun u => smbAnswered s u s.mod (some [BitVec.ofNat 8 (0x58 + Config.smbStraps.val)])))
        ∧ (¬rings → Reaches alert (fun u => smbAnswered s u s.mod none)))
    ∧ (∀ (i : Instr) (pec : Bool) (ch : BitVec 8) (s : State), smbRow i = some (pec, ch) →
      let rails := s.mod.good = true ∧ s.mod.tripped = false
      let sleeps := s.fld F.PWR_STATE_CUR = 3
      (¬rails ∨ (¬sleeps ∧ (pec = false ∨ ch.toNat < 21 ∨ 23 < ch.toNat)) → Reaches (Sys2Proof.Machine.exec i s) (fun u =>
          smbAnswered s u s.mod none))
        ∧ (rails → sleeps → Reaches (Sys2Proof.Machine.exec i s) (fun u => u.mod.answers = s.mod.answers ++ [none]
          ∧ u.fld F.PWR_STATE_CUR = 1 ∧ u.fld F.PWR_WAKE_CAUSE = 8 ∧ u.mbox = s.mbox ∧ u.mem = s.mem)))
    ∧ (∀ (c : Fin 24) (off : BitVec 16) (data : List Byte) (n : Nat) (s : State), 21 ≤ c.val → s.mod.good = true →
      s.mod.tripped = false → s.fld F.PWR_STATE_CUR ≠ 3 →
      let ch := BitVec.ofNat 8 c.val
      let st := s.fld (F.MBX_CH_STATUS_STATE c)
      let o := off.toNat
      let bs := data.take (0x400 - o)
      let put := Sys2Proof.Machine.exec (.mbWrite true ch off data) s
      let get := Sys2Proof.Machine.exec (.mbRead true ch off n) s
      let as (cmd smb : Instr) : Prop := ∃ u, Sys2Proof.Machine.exec cmd s = .next u
        ∧ Sys2Proof.Machine.exec smb s = .next { u with mod := { u.mod with answers := u.mod.answers ++ [some []] } }
      (240 < data.length → Reaches put (fun u => smbAnswered s u s.mod none))
        ∧ (data.length ≤ 240 → o < 0x400 → st = chIDLE → Reaches put (fun u => u.mbBytes c o bs.length = bs
          ∧ (∀ d k, d < 24 → k < 0x800 → d ≠ c.val ∨ k < o ∨ o + bs.length ≤ k → u.mbByte d k = s.mbByte d k)
          ∧ u.mod = { s.mod with answers := s.mod.answers ++ [some []] } ∧ OnlyChanges [.mod, .mbox, .mboxBad] (fun _ => False) s u))
        ∧ (data.length ≤ 240 → o < 0x400 → st ≠ chIDLE → Reaches put (fun u => u.fld (F.MBX_CH_STATUS_WRITE_IGNORED c) = 1
          ∧ u.mod = { s.mod with answers := s.mod.answers ++ [some []] }
          ∧ OnlyChanges [.mod] (fun b => b = R.MBX_CH_STATUS c) s u))
        ∧ as (.send c) (.mbCtlSend true ch) ∧ as (.release c) (.mbCtlRelease true ch)
        ∧ (240 < n → Reaches get (fun u => smbAnswered s u s.mod none))
        ∧ (n ≤ 240 → o + n ≤ 0x400 → Reaches get (fun u => smbAnswered s u s.mod (some (s.mbBytes c (0x400 + o) n))))
        ∧ Reaches (Sys2Proof.Machine.exec (.mbStatus true ch) s) (fun u => smbAnswered s u s.mod
          (some [BitVec.ofNat 8 st, if s.mod.db.testBit c then 1 else 0])))
    ∧ ∀ s : State,
      let flashOpen := s.mod.en = false ∨ s.fld F.MGP_BOOT_ROM_STATUS = 2
      let status (pec : Bool) := Sys2Proof.Machine.exec (.flStatus pec) s
      let busy := s.mod.flashOp ≠ none
      let barred (a : Nat) : Prop := (0x20000 ≤ a ∧ a < 0x60000) ∨ 0x4000000 ≤ a
      let bit (b : Bool) (k : Nat) : Nat := if b then 2 ^ k else 0
      (∀ (i : Instr) (pec : Bool) (a : Nat) (short within : Bool), flashRow i = some (pec, a, short, within) →
        (pec = false ∨ short = false ∨ ¬flashOpen → Reaches (Sys2Proof.Machine.exec i s) (fun u => smbAnswered s u s.mod none))
          ∧ (pec = true → short = true → flashOpen → busy ∨ within = false ∨ barred a → Reaches (Sys2Proof.Machine.exec i s) (fun u =>
            smbAnswered s u { s.mod with refused := true } (some []))))
        ∧ (flashOpen → ¬busy → (∀ a : BitVec 32, ¬barred a.toNat →
          let op (o : FlashOp) : ModUnit := { s.mod with refused := false, verify := false, flashOp := some o }
          Reaches (Sys2Proof.Machine.exec (.flErase true a) s) (fun u =>
              smbAnswered s u (op (.erase (a.toNat / 0x10000 * 0x10000))) (some []))
            ∧ (∀ d : List Byte, d.length ≤ 236 → a.toNat % 256 + d.length ≤ 256 →
              Reaches (Sys2Proof.Machine.exec (.flWrite true a d) s) (fun u => smbAnswered s u (op (.program a.toNat d)) (some [])))
            ∧ ∀ n, n ≤ 236 → Reaches (Sys2Proof.Machine.exec (.flRead true a n) s) (fun u =>
              smbAnswered s u { s.mod with refused := false } (some (s.flashBytes a.toNat n)))))
        ∧ (¬flashOpen → ∀ pec, Reaches (status pec) (fun u => smbAnswered s u s.mod none))
        ∧ (flashOpen → Reaches (status true) (fun u => smbAnswered s u s.mod
          (some [BitVec.ofNat 8 (bit s.mod.flashOp.isSome 0 + bit s.mod.refused 1 + bit s.mod.verify 2), 0])))
        ∧ (flashOpen → Reaches (status false) (fun u => smbAnswered s u s.mod none))
        ∧ ∀ verifyErr : Bool,
          let done := Sys2Proof.Machine.exec (.flashOpComplete verifyErr) s
          let inside (op : FlashOp) (b : Nat) : Prop := match op with
            | .erase a => a ≤ b ∧ b < a + 0x10000
            | .program a d => a ≤ b ∧ b < a + d.length
          let value (op : FlashOp) (b : Nat) : Byte :=
            if verifyErr then Config.flashUnverified s.evt.fresh b
            else match op with
              | .erase _ => 0xFF
              | .program a d => s.flashByte b &&& d.getD (b - a) 0
          let rails (m : ModUnit) : ModUnit := match s.mod.waiting with
            | none => m
            | some none => { m with good := true, waiting := none }
            | some (some r) => { m with good := false, waiting := none, rail := some r }
          (s.mod.flashOp = none → done = .next s)
            ∧ ∀ op, s.mod.flashOp = some op → Reaches done (fun u => (∀ b, inside op b → u.flashByte b = value op b)
              ∧ (∀ b, ¬inside op b → u.flashByte b = s.flashByte b) ∧ u.mod = rails { s.mod with flashOp := none, verify := verifyErr }
              ∧ u.evt = { s.evt with fresh := s.evt.fresh + 1 } ∧ OnlyChanges [.mod, .flash, .evt] (fun _ => False) s u)
end

