-- ==== Sys2Proof/Laws/Store.lean ====
section
/-! SUPPORT. The laws of the sparse store: a read after a write, and that a write keeps the canonical form. -/
namespace Sys2Proof.Machine

variable {α : Type}

theorem Store.get_erase_same (d : Nat → α) (m : Store α) (k : Nat) : Store.get d (m.erase k) k = d k := by
  induction m with
  | nil => rfl
  | cons p m ih =>
    obtain ⟨j, v⟩ := p
    simp only [Store.erase, List.filter_cons] at *
    by_cases h : j = k
    · simp [h, ih]
    · simp [h, Store.get, ih]

theorem Store.get_erase_other (d : Nat → α) (m : Store α) {k l : Nat} (h : l ≠ k) :
    Store.get d (m.erase k) l = Store.get d m l := by
  induction m with
  | nil => rfl
  | cons p m ih =>
    obtain ⟨j, v⟩ := p
    simp only [Store.erase, List.filter_cons] at *
    by_cases hj : j = k
    · subst hj
      simp [ih, Store.get, Ne.symm h]
    · simp [hj, Store.get, ih]

theorem Store.get_insert_same (d : Nat → α) (m : Store α) (k : Nat) (v : α) (h : ∀ p ∈ m, p.1 ≠ k) :
    Store.get d (m.insert k v) k = v := by
  induction m with
  | nil => simp [Store.insert, Store.get]
  | cons p m ih =>
    obtain ⟨j, w⟩ := p
    have hj : j ≠ k := h (j, w) (by simp)
    by_cases hlt : k < j
    · simp [Store.insert, hlt, Store.get]
    · simp [Store.insert, hlt, Store.get, hj, ih (fun q hq => h q (by simp [hq]))]

theorem Store.get_insert_other (d : Nat → α) (m : Store α) {k l : Nat} (v : α) (h : l ≠ k) :
    Store.get d (m.insert k v) l = Store.get d m l := by
  induction m with
  | nil => simp [Store.insert, Store.get, Ne.symm h]
  | cons p m ih =>
    obtain ⟨j, w⟩ := p
    by_cases hlt : k < j
    · simp [Store.insert, hlt, Store.get, Ne.symm h]
    · simp [Store.insert, hlt, Store.get, ih]

theorem Store.erase_no_key (m : Store α) (k : Nat) : ∀ p ∈ m.erase k, p.1 ≠ k := by
  intro p hp
  simp [Store.erase] at hp
  exact hp.2

/-- A read of the key just written gives the value written. -/
@[simp] theorem Store.get_put_same [DecidableEq α] (d : Nat → α) (m : Store α) (k : Nat) (v : α) :
    Store.get d (Store.put d m k v) k = v := by
  unfold Store.put
  split
  · next h => rw [Store.get_erase_same, h]
  · exact Store.get_insert_same d _ k v (Store.erase_no_key m k)

/-- A write leaves every other key's value alone. -/
theorem Store.get_put_other [DecidableEq α] (d : Nat → α) (m : Store α) {k l : Nat} (v : α) (h : l ≠ k) :
    Store.get d (Store.put d m k v) l = Store.get d m l := by
  unfold Store.put
  split
  · exact Store.get_erase_other d m h
  · rw [Store.get_insert_other d _ v h, Store.get_erase_other d m h]

theorem Store.get_put [DecidableEq α] (d : Nat → α) (m : Store α) (k l : Nat) (v : α) :
    Store.get d (Store.put d m k v) l = if l = k then v else Store.get d m l := by
  by_cases h : l = k
  · subst h; simp
  · simp [h, Store.get_put_other d m v h]

theorem Store.mem_insert (m : Store α) (k : Nat) (v : α) (p : Nat × α) :
    p ∈ m.insert k v ↔ p = (k, v) ∨ p ∈ m := by
  induction m with
  | nil => simp [Store.insert]
  | cons q m ih =>
    obtain ⟨j, w⟩ := q
    by_cases hlt : k < j
    · simp [Store.insert, hlt]
    · simp only [Store.insert, hlt, if_false, List.mem_cons, ih]
      constructor
      · rintro (h | h | h) <;> simp [h]
      · rintro (h | h | h) <;> simp [h]

theorem Store.sorted_erase (m : Store α) (k : Nat) (h : Store.sorted m = true) : Store.sorted (m.erase k) = true := by
  induction m with
  | nil => rfl
  | cons p m ih =>
    obtain ⟨j, v⟩ := p
    simp only [Store.sorted, Bool.and_eq_true, List.all_eq_true, decide_eq_true_eq] at h
    have ih' := ih h.2
    by_cases hj : j = k
    · simpa [Store.erase, hj] using ih'
    · have : Store.erase ((j, v) :: m) k = (j, v) :: Store.erase m k := by simp [Store.erase, hj]
      rw [this]
      simp only [Store.sorted, Bool.and_eq_true, List.all_eq_true, decide_eq_true_eq]
      refine ⟨fun p hp => h.1 p ?_, ih'⟩
      simp [Store.erase] at hp
      exact hp.1

theorem Store.sorted_insert (m : Store α) (k : Nat) (v : α) (h : Store.sorted m = true) (hk : ∀ p ∈ m, p.1 ≠ k) :
    Store.sorted (m.insert k v) = true := by
  induction m with
  | nil => simp [Store.insert, Store.sorted]
  | cons p m ih =>
    obtain ⟨j, w⟩ := p
    have hs := h
    simp only [Store.sorted, Bool.and_eq_true, List.all_eq_true, decide_eq_true_eq] at h
    have hj : j ≠ k := hk (j, w) (by simp)
    by_cases hlt : k < j
    · simp only [Store.insert, hlt, if_true]
      rw [Store.sorted, hs, Bool.and_true]
      simp only [List.all_eq_true, decide_eq_true_eq]
      intro q hq
      rcases List.mem_cons.mp hq with rfl | hq
      · exact hlt
      · exact Nat.lt_trans hlt (h.1 q hq)
    · simp only [Store.insert, hlt, if_false]
      rw [Store.sorted, ih h.2 (fun q hq => hk q (by simp [hq])), Bool.and_true]
      simp only [List.all_eq_true, decide_eq_true_eq]
      intro q hq
      rcases (Store.mem_insert m k v q).mp hq with rfl | hq
      · show j < k
        omega
      · exact h.1 q hq

/-- A write keeps the canonical form. -/
theorem Store.wf_put [DecidableEq α] (d : Nat → α) (m : Store α) (k : Nat) (v : α)
    (h : Store.wf d m = true) : Store.wf d (Store.put d m k v) = true := by
  simp only [Store.wf, Bool.and_eq_true, List.all_eq_true, decide_eq_true_eq] at h
  have he : ∀ p ∈ m.erase k, p.2 ≠ d p.1 := by
    intro p hp
    simp [Store.erase] at hp
    exact h.2 p hp.1
  unfold Store.put
  split
  · simp only [Store.wf, Bool.and_eq_true, List.all_eq_true, decide_eq_true_eq]
    exact ⟨Store.sorted_erase m k h.1, he⟩
  · next hv =>
    simp only [Store.wf, Bool.and_eq_true, List.all_eq_true, decide_eq_true_eq]
    refine ⟨Store.sorted_insert _ k v (Store.sorted_erase m k h.1) (Store.erase_no_key m k), ?_⟩
    intro p hp
    rcases (Store.mem_insert _ k v p).mp hp with rfl | hp
    · exact hv
    · exact he p hp

theorem Store.sorted_filter (m : Store α) (f : Nat × α → Bool) (h : Store.sorted m = true) :
    Store.sorted (m.filter f) = true := by
  induction m with
  | nil => rfl
  | cons p m ih =>
    obtain ⟨j, v⟩ := p
    simp only [Store.sorted, Bool.and_eq_true, List.all_eq_true, decide_eq_true_eq] at h
    rw [List.filter_cons]
    split
    · simp only [Store.sorted, Bool.and_eq_true, List.all_eq_true, decide_eq_true_eq]
      exact ⟨fun q hq => h.1 q (List.mem_filter.mp hq).1, ih h.2⟩
    · exact ih h.2

/-- Entries taken out of a store leave its canonical form. -/
theorem Store.wf_filter [DecidableEq α] (d : Nat → α) (m : Store α) (f : Nat × α → Bool) (h : Store.wf d m = true) :
    Store.wf d (m.filter f) = true := by
  simp only [Store.wf, Bool.and_eq_true, List.all_eq_true] at h ⊢
  exact ⟨Store.sorted_filter m f h.1, fun p hp => h.2 p (List.mem_filter.mp hp).1⟩

/-- A fold of operations that keep the canonical form keeps it. -/
theorem Store.wf_foldl [DecidableEq α] {β : Type} (d : Nat → α) {f : Store α → β → Store α} {l : List β} {m : Store α}
    (hf : ∀ m x, Store.wf d m = true → Store.wf d (f m x) = true) (h : Store.wf d m = true) :
    Store.wf d (l.foldl f m) = true := by
  induction l generalizing m with
  | nil => exact h
  | cons a l ih => exact ih (hf m a h)

theorem Store.wf_nil [DecidableEq α] (d : Nat → α) : Store.wf d ([] : Store α) = true := rfl

end Sys2Proof.Machine
end

