-- ==== Sys2Proof/Laws/State.lean ====
section
/-! SUPPORT. What each named update of the state leaves alone (true by unfolding, for the simplifier), and what the matching read
gives after it. -/
namespace Sys2Proof.Machine

section
variable (s : State)

@[simp] theorem State.setReg_pending (a : Nat) (w : Word) : (s.setReg a w).pending = s.pending := rfl
@[simp] theorem State.setReg_mem (a : Nat) (w : Word) : (s.setReg a w).mem = s.mem := rfl
@[simp] theorem State.setReg_tags (a : Nat) (w : Word) : (s.setReg a w).tags = s.tags := rfl
@[simp] theorem State.setReg_memu (a : Nat) (w : Word) : (s.setReg a w).memu = s.memu := rfl
@[simp] theorem State.setReg_tide (a : Nat) (w : Word) : (s.setReg a w).tide = s.tide := rfl
@[simp] theorem State.setReg_tiles (a : Nat) (w : Word) : (s.setReg a w).tiles = s.tiles := rfl
@[simp] theorem State.setReg_strm (a : Nat) (w : Word) : (s.setReg a w).strm = s.strm := rfl
@[simp] theorem State.setReg_vregs (a : Nat) (w : Word) : (s.setReg a w).vregs = s.vregs := rfl
@[simp] theorem State.setReg_mregs (a : Nat) (w : Word) : (s.setReg a w).mregs = s.mregs := rfl
@[simp] theorem State.setReg_engs (a : Nat) (w : Word) : (s.setReg a w).engs = s.engs := rfl
@[simp] theorem State.setReg_ftq (a : Nat) (w : Word) : (s.setReg a w).ftq = s.ftq := rfl
@[simp] theorem State.setReg_mxa (a : Nat) (w : Word) : (s.setReg a w).mxa = s.mxa := rfl
@[simp] theorem State.setReg_acc (a : Nat) (w : Word) : (s.setReg a w).acc = s.acc := rfl
@[simp] theorem State.setReg_sfu (a : Nat) (w : Word) : (s.setReg a w).sfu = s.sfu := rfl
@[simp] theorem State.setReg_sfuMem (a : Nat) (w : Word) : (s.setReg a w).sfuMem = s.sfuMem := rfl
@[simp] theorem State.setReg_spe (a : Nat) (w : Word) : (s.setReg a w).spe = s.spe := rfl
@[simp] theorem State.setReg_cam (a : Nat) (w : Word) : (s.setReg a w).cam = s.cam := rfl
@[simp] theorem State.setReg_lxe (a : Nat) (w : Word) : (s.setReg a w).lxe = s.lxe := rfl
@[simp] theorem State.setReg_lxeId (a : Nat) (w : Word) : (s.setReg a w).lxeId = s.lxeId := rfl
@[simp] theorem State.setReg_fab (a : Nat) (w : Word) : (s.setReg a w).fab = s.fab := rfl
@[simp] theorem State.setReg_que (a : Nat) (w : Word) : (s.setReg a w).que = s.que := rfl
@[simp] theorem State.setReg_gre (a : Nat) (w : Word) : (s.setReg a w).gre = s.gre := rfl
@[simp] theorem State.setReg_pwr (a : Nat) (w : Word) : (s.setReg a w).pwr = s.pwr := rfl
@[simp] theorem State.setReg_mbox (a : Nat) (w : Word) : (s.setReg a w).mbox = s.mbox := rfl
@[simp] theorem State.setReg_proxy (a : Nat) (w : Word) : (s.setReg a w).proxy = s.proxy := rfl
@[simp] theorem State.setReg_mboxBad (a : Nat) (w : Word) : (s.setReg a w).mboxBad = s.mboxBad := rfl
@[simp] theorem State.setReg_fw (a : Nat) (w : Word) : (s.setReg a w).fw = s.fw := rfl
@[simp] theorem State.setReg_rep (a : Nat) (w : Word) : (s.setReg a w).rep = s.rep := rfl
@[simp] theorem State.setReg_mod (a : Nat) (w : Word) : (s.setReg a w).mod = s.mod := rfl
@[simp] theorem State.setReg_flash (a : Nat) (w : Word) : (s.setReg a w).flash = s.flash := rfl
@[simp] theorem State.setReg_census (a : Nat) (w : Word) : (s.setReg a w).census = s.census := rfl
@[simp] theorem State.setReg_linkFly (a : Nat) (w : Word) : (s.setReg a w).linkFly = s.linkFly := rfl
@[simp] theorem State.setReg_evt (a : Nat) (w : Word) : (s.setReg a w).evt = s.evt := rfl
@[simp] theorem State.setReg_host (a : Nat) (w : Word) : (s.setReg a w).host = s.host := rfl

@[simp] theorem State.setByte_pending (a : Nat) (b : Byte) : (s.setByte a b).pending = s.pending := rfl
@[simp] theorem State.setByte_regs (a : Nat) (b : Byte) : (s.setByte a b).regs = s.regs := rfl
@[simp] theorem State.setByte_tags (a : Nat) (b : Byte) : (s.setByte a b).tags = s.tags := rfl
@[simp] theorem State.setByte_memu (a : Nat) (b : Byte) : (s.setByte a b).memu = s.memu := rfl
@[simp] theorem State.setByte_tide (a : Nat) (b : Byte) : (s.setByte a b).tide = s.tide := rfl
@[simp] theorem State.setByte_tiles (a : Nat) (b : Byte) : (s.setByte a b).tiles = s.tiles := rfl
@[simp] theorem State.setByte_strm (a : Nat) (b : Byte) : (s.setByte a b).strm = s.strm := rfl
@[simp] theorem State.setByte_vregs (a : Nat) (b : Byte) : (s.setByte a b).vregs = s.vregs := rfl
@[simp] theorem State.setByte_mregs (a : Nat) (b : Byte) : (s.setByte a b).mregs = s.mregs := rfl
@[simp] theorem State.setByte_engs (a : Nat) (b : Byte) : (s.setByte a b).engs = s.engs := rfl
@[simp] theorem State.setByte_ftq (a : Nat) (b : Byte) : (s.setByte a b).ftq = s.ftq := rfl
@[simp] theorem State.setByte_mxa (a : Nat) (b : Byte) : (s.setByte a b).mxa = s.mxa := rfl
@[simp] theorem State.setByte_acc (a : Nat) (b : Byte) : (s.setByte a b).acc = s.acc := rfl
@[simp] theorem State.setByte_sfu (a : Nat) (b : Byte) : (s.setByte a b).sfu = s.sfu := rfl
@[simp] theorem State.setByte_sfuMem (a : Nat) (b : Byte) : (s.setByte a b).sfuMem = s.sfuMem := rfl
@[simp] theorem State.setByte_spe (a : Nat) (b : Byte) : (s.setByte a b).spe = s.spe := rfl
@[simp] theorem State.setByte_cam (a : Nat) (b : Byte) : (s.setByte a b).cam = s.cam := rfl
@[simp] theorem State.setByte_lxe (a : Nat) (b : Byte) : (s.setByte a b).lxe = s.lxe := rfl
@[simp] theorem State.setByte_lxeId (a : Nat) (b : Byte) : (s.setByte a b).lxeId = s.lxeId := rfl
@[simp] theorem State.setByte_fab (a : Nat) (b : Byte) : (s.setByte a b).fab = s.fab := rfl
@[simp] theorem State.setByte_que (a : Nat) (b : Byte) : (s.setByte a b).que = s.que := rfl
@[simp] theorem State.setByte_gre (a : Nat) (b : Byte) : (s.setByte a b).gre = s.gre := rfl
@[simp] theorem State.setByte_pwr (a : Nat) (b : Byte) : (s.setByte a b).pwr = s.pwr := rfl
@[simp] theorem State.setByte_mbox (a : Nat) (b : Byte) : (s.setByte a b).mbox = s.mbox := rfl
@[simp] theorem State.setByte_proxy (a : Nat) (b : Byte) : (s.setByte a b).proxy = s.proxy := rfl
@[simp] theorem State.setByte_mboxBad (a : Nat) (b : Byte) : (s.setByte a b).mboxBad = s.mboxBad := rfl
@[simp] theorem State.setByte_fw (a : Nat) (b : Byte) : (s.setByte a b).fw = s.fw := rfl
@[simp] theorem State.setByte_rep (a : Nat) (b : Byte) : (s.setByte a b).rep = s.rep := rfl
@[simp] theorem State.setByte_mod (a : Nat) (b : Byte) : (s.setByte a b).mod = s.mod := rfl
@[simp] theorem State.setByte_flash (a : Nat) (b : Byte) : (s.setByte a b).flash = s.flash := rfl
@[simp] theorem State.setByte_census (a : Nat) (b : Byte) : (s.setByte a b).census = s.census := rfl
@[simp] theorem State.setByte_linkFly (a : Nat) (b : Byte) : (s.setByte a b).linkFly = s.linkFly := rfl
@[simp] theorem State.setByte_evt (a : Nat) (b : Byte) : (s.setByte a b).evt = s.evt := rfl
@[simp] theorem State.setByte_host (a : Nat) (b : Byte) : (s.setByte a b).host = s.host := rfl

@[simp] theorem State.setTag_pending (w : Nat) (g : WordTag) : (s.setTag w g).pending = s.pending := rfl
@[simp] theorem State.setTag_regs (w : Nat) (g : WordTag) : (s.setTag w g).regs = s.regs := rfl
@[simp] theorem State.setTag_mem (w : Nat) (g : WordTag) : (s.setTag w g).mem = s.mem := rfl
@[simp] theorem State.setTag_memu (w : Nat) (g : WordTag) : (s.setTag w g).memu = s.memu := rfl
@[simp] theorem State.setTag_tide (w : Nat) (g : WordTag) : (s.setTag w g).tide = s.tide := rfl
@[simp] theorem State.setTag_tiles (w : Nat) (g : WordTag) : (s.setTag w g).tiles = s.tiles := rfl
@[simp] theorem State.setTag_strm (w : Nat) (g : WordTag) : (s.setTag w g).strm = s.strm := rfl
@[simp] theorem State.setTag_vregs (w : Nat) (g : WordTag) : (s.setTag w g).vregs = s.vregs := rfl
@[simp] theorem State.setTag_mregs (w : Nat) (g : WordTag) : (s.setTag w g).mregs = s.mregs := rfl
@[simp] theorem State.setTag_engs (w : Nat) (g : WordTag) : (s.setTag w g).engs = s.engs := rfl
@[simp] theorem State.setTag_ftq (w : Nat) (g : WordTag) : (s.setTag w g).ftq = s.ftq := rfl
@[simp] theorem State.setTag_mxa (w : Nat) (g : WordTag) : (s.setTag w g).mxa = s.mxa := rfl
@[simp] theorem State.setTag_acc (w : Nat) (g : WordTag) : (s.setTag w g).acc = s.acc := rfl
@[simp] theorem State.setTag_sfu (w : Nat) (g : WordTag) : (s.setTag w g).sfu = s.sfu := rfl
@[simp] theorem State.setTag_sfuMem (w : Nat) (g : WordTag) : (s.setTag w g).sfuMem = s.sfuMem := rfl
@[simp] theorem State.setTag_spe (w : Nat) (g : WordTag) : (s.setTag w g).spe = s.spe := rfl
@[simp] theorem State.setTag_cam (w : Nat) (g : WordTag) : (s.setTag w g).cam = s.cam := rfl
@[simp] theorem State.setTag_lxe (w : Nat) (g : WordTag) : (s.setTag w g).lxe = s.lxe := rfl
@[simp] theorem State.setTag_lxeId (w : Nat) (g : WordTag) : (s.setTag w g).lxeId = s.lxeId := rfl
@[simp] theorem State.setTag_fab (w : Nat) (g : WordTag) : (s.setTag w g).fab = s.fab := rfl
@[simp] theorem State.setTag_que (w : Nat) (g : WordTag) : (s.setTag w g).que = s.que := rfl
@[simp] theorem State.setTag_gre (w : Nat) (g : WordTag) : (s.setTag w g).gre = s.gre := rfl
@[simp] theorem State.setTag_pwr (w : Nat) (g : WordTag) : (s.setTag w g).pwr = s.pwr := rfl
@[simp] theorem State.setTag_mbox (w : Nat) (g : WordTag) : (s.setTag w g).mbox = s.mbox := rfl
@[simp] theorem State.setTag_proxy (w : Nat) (g : WordTag) : (s.setTag w g).proxy = s.proxy := rfl
@[simp] theorem State.setTag_mboxBad (w : Nat) (g : WordTag) : (s.setTag w g).mboxBad = s.mboxBad := rfl
@[simp] theorem State.setTag_fw (w : Nat) (g : WordTag) : (s.setTag w g).fw = s.fw := rfl
@[simp] theorem State.setTag_rep (w : Nat) (g : WordTag) : (s.setTag w g).rep = s.rep := rfl
@[simp] theorem State.setTag_mod (w : Nat) (g : WordTag) : (s.setTag w g).mod = s.mod := rfl
@[simp] theorem State.setTag_flash (w : Nat) (g : WordTag) : (s.setTag w g).flash = s.flash := rfl
@[simp] theorem State.setTag_census (w : Nat) (g : WordTag) : (s.setTag w g).census = s.census := rfl
@[simp] theorem State.setTag_linkFly (w : Nat) (g : WordTag) : (s.setTag w g).linkFly = s.linkFly := rfl
@[simp] theorem State.setTag_evt (w : Nat) (g : WordTag) : (s.setTag w g).evt = s.evt := rfl
@[simp] theorem State.setTag_host (w : Nat) (g : WordTag) : (s.setTag w g).host = s.host := rfl

@[simp] theorem State.setTile_pending (t : Nat) (u : TileHid) : (s.setTile t u).pending = s.pending := rfl
@[simp] theorem State.setTile_regs (t : Nat) (u : TileHid) : (s.setTile t u).regs = s.regs := rfl
@[simp] theorem State.setTile_mem (t : Nat) (u : TileHid) : (s.setTile t u).mem = s.mem := rfl
@[simp] theorem State.setTile_tags (t : Nat) (u : TileHid) : (s.setTile t u).tags = s.tags := rfl
@[simp] theorem State.setTile_memu (t : Nat) (u : TileHid) : (s.setTile t u).memu = s.memu := rfl
@[simp] theorem State.setTile_tide (t : Nat) (u : TileHid) : (s.setTile t u).tide = s.tide := rfl
@[simp] theorem State.setTile_strm (t : Nat) (u : TileHid) : (s.setTile t u).strm = s.strm := rfl
@[simp] theorem State.setTile_vregs (t : Nat) (u : TileHid) : (s.setTile t u).vregs = s.vregs := rfl
@[simp] theorem State.setTile_mregs (t : Nat) (u : TileHid) : (s.setTile t u).mregs = s.mregs := rfl
@[simp] theorem State.setTile_engs (t : Nat) (u : TileHid) : (s.setTile t u).engs = s.engs := rfl
@[simp] theorem State.setTile_ftq (t : Nat) (u : TileHid) : (s.setTile t u).ftq = s.ftq := rfl
@[simp] theorem State.setTile_mxa (t : Nat) (u : TileHid) : (s.setTile t u).mxa = s.mxa := rfl
@[simp] theorem State.setTile_acc (t : Nat) (u : TileHid) : (s.setTile t u).acc = s.acc := rfl
@[simp] theorem State.setTile_sfu (t : Nat) (u : TileHid) : (s.setTile t u).sfu = s.sfu := rfl
@[simp] theorem State.setTile_sfuMem (t : Nat) (u : TileHid) : (s.setTile t u).sfuMem = s.sfuMem := rfl
@[simp] theorem State.setTile_spe (t : Nat) (u : TileHid) : (s.setTile t u).spe = s.spe := rfl
@[simp] theorem State.setTile_cam (t : Nat) (u : TileHid) : (s.setTile t u).cam = s.cam := rfl
@[simp] theorem State.setTile_lxe (t : Nat) (u : TileHid) : (s.setTile t u).lxe = s.lxe := rfl
@[simp] theorem State.setTile_lxeId (t : Nat) (u : TileHid) : (s.setTile t u).lxeId = s.lxeId := rfl
@[simp] theorem State.setTile_fab (t : Nat) (u : TileHid) : (s.setTile t u).fab = s.fab := rfl
@[simp] theorem State.setTile_que (t : Nat) (u : TileHid) : (s.setTile t u).que = s.que := rfl
@[simp] theorem State.setTile_gre (t : Nat) (u : TileHid) : (s.setTile t u).gre = s.gre := rfl
@[simp] theorem State.setTile_pwr (t : Nat) (u : TileHid) : (s.setTile t u).pwr = s.pwr := rfl
@[simp] theorem State.setTile_mbox (t : Nat) (u : TileHid) : (s.setTile t u).mbox = s.mbox := rfl
@[simp] theorem State.setTile_proxy (t : Nat) (u : TileHid) : (s.setTile t u).proxy = s.proxy := rfl
@[simp] theorem State.setTile_mboxBad (t : Nat) (u : TileHid) : (s.setTile t u).mboxBad = s.mboxBad := rfl
@[simp] theorem State.setTile_fw (t : Nat) (u : TileHid) : (s.setTile t u).fw = s.fw := rfl
@[simp] theorem State.setTile_rep (t : Nat) (u : TileHid) : (s.setTile t u).rep = s.rep := rfl
@[simp] theorem State.setTile_mod (t : Nat) (u : TileHid) : (s.setTile t u).mod = s.mod := rfl
@[simp] theorem State.setTile_flash (t : Nat) (u : TileHid) : (s.setTile t u).flash = s.flash := rfl
@[simp] theorem State.setTile_census (t : Nat) (u : TileHid) : (s.setTile t u).census = s.census := rfl
@[simp] theorem State.setTile_linkFly (t : Nat) (u : TileHid) : (s.setTile t u).linkFly = s.linkFly := rfl
@[simp] theorem State.setTile_evt (t : Nat) (u : TileHid) : (s.setTile t u).evt = s.evt := rfl
@[simp] theorem State.setTile_host (t : Nat) (u : TileHid) : (s.setTile t u).host = s.host := rfl

@[simp] theorem State.setStream_pending (t st : Nat) (u : StreamHid) : (s.setStream t st u).pending = s.pending := rfl
@[simp] theorem State.setStream_regs (t st : Nat) (u : StreamHid) : (s.setStream t st u).regs = s.regs := rfl
@[simp] theorem State.setStream_mem (t st : Nat) (u : StreamHid) : (s.setStream t st u).mem = s.mem := rfl
@[simp] theorem State.setStream_tags (t st : Nat) (u : StreamHid) : (s.setStream t st u).tags = s.tags := rfl
@[simp] theorem State.setStream_memu (t st : Nat) (u : StreamHid) : (s.setStream t st u).memu = s.memu := rfl
@[simp] theorem State.setStream_tide (t st : Nat) (u : StreamHid) : (s.setStream t st u).tide = s.tide := rfl
@[simp] theorem State.setStream_tiles (t st : Nat) (u : StreamHid) : (s.setStream t st u).tiles = s.tiles := rfl
@[simp] theorem State.setStream_vregs (t st : Nat) (u : StreamHid) : (s.setStream t st u).vregs = s.vregs := rfl
@[simp] theorem State.setStream_mregs (t st : Nat) (u : StreamHid) : (s.setStream t st u).mregs = s.mregs := rfl
@[simp] theorem State.setStream_engs (t st : Nat) (u : StreamHid) : (s.setStream t st u).engs = s.engs := rfl
@[simp] theorem State.setStream_ftq (t st : Nat) (u : StreamHid) : (s.setStream t st u).ftq = s.ftq := rfl
@[simp] theorem State.setStream_mxa (t st : Nat) (u : StreamHid) : (s.setStream t st u).mxa = s.mxa := rfl
@[simp] theorem State.setStream_acc (t st : Nat) (u : StreamHid) : (s.setStream t st u).acc = s.acc := rfl
@[simp] theorem State.setStream_sfu (t st : Nat) (u : StreamHid) : (s.setStream t st u).sfu = s.sfu := rfl
@[simp] theorem State.setStream_sfuMem (t st : Nat) (u : StreamHid) : (s.setStream t st u).sfuMem = s.sfuMem := rfl
@[simp] theorem State.setStream_spe (t st : Nat) (u : StreamHid) : (s.setStream t st u).spe = s.spe := rfl
@[simp] theorem State.setStream_cam (t st : Nat) (u : StreamHid) : (s.setStream t st u).cam = s.cam := rfl
@[simp] theorem State.setStream_lxe (t st : Nat) (u : StreamHid) : (s.setStream t st u).lxe = s.lxe := rfl
@[simp] theorem State.setStream_lxeId (t st : Nat) (u : StreamHid) : (s.setStream t st u).lxeId = s.lxeId := rfl
@[simp] theorem State.setStream_fab (t st : Nat) (u : StreamHid) : (s.setStream t st u).fab = s.fab := rfl
@[simp] theorem State.setStream_que (t st : Nat) (u : StreamHid) : (s.setStream t st u).que = s.que := rfl
@[simp] theorem State.setStream_gre (t st : Nat) (u : StreamHid) : (s.setStream t st u).gre = s.gre := rfl
@[simp] theorem State.setStream_pwr (t st : Nat) (u : StreamHid) : (s.setStream t st u).pwr = s.pwr := rfl
@[simp] theorem State.setStream_mbox (t st : Nat) (u : StreamHid) : (s.setStream t st u).mbox = s.mbox := rfl
@[simp] theorem State.setStream_proxy (t st : Nat) (u : StreamHid) : (s.setStream t st u).proxy = s.proxy := rfl
@[simp] theorem State.setStream_mboxBad (t st : Nat) (u : StreamHid) : (s.setStream t st u).mboxBad = s.mboxBad := rfl
@[simp] theorem State.setStream_fw (t st : Nat) (u : StreamHid) : (s.setStream t st u).fw = s.fw := rfl
@[simp] theorem State.setStream_rep (t st : Nat) (u : StreamHid) : (s.setStream t st u).rep = s.rep := rfl
@[simp] theorem State.setStream_mod (t st : Nat) (u : StreamHid) : (s.setStream t st u).mod = s.mod := rfl
@[simp] theorem State.setStream_flash (t st : Nat) (u : StreamHid) : (s.setStream t st u).flash = s.flash := rfl
@[simp] theorem State.setStream_census (t st : Nat) (u : StreamHid) : (s.setStream t st u).census = s.census := rfl
@[simp] theorem State.setStream_linkFly (t st : Nat) (u : StreamHid) : (s.setStream t st u).linkFly = s.linkFly := rfl
@[simp] theorem State.setStream_evt (t st : Nat) (u : StreamHid) : (s.setStream t st u).evt = s.evt := rfl
@[simp] theorem State.setStream_host (t st : Nat) (u : StreamHid) : (s.setStream t st u).host = s.host := rfl

@[simp] theorem State.setEng_pending (t e : Nat) (u : EngHid) : (s.setEng t e u).pending = s.pending := rfl
@[simp] theorem State.setEng_regs (t e : Nat) (u : EngHid) : (s.setEng t e u).regs = s.regs := rfl
@[simp] theorem State.setEng_mem (t e : Nat) (u : EngHid) : (s.setEng t e u).mem = s.mem := rfl
@[simp] theorem State.setEng_tags (t e : Nat) (u : EngHid) : (s.setEng t e u).tags = s.tags := rfl
@[simp] theorem State.setEng_memu (t e : Nat) (u : EngHid) : (s.setEng t e u).memu = s.memu := rfl
@[simp] theorem State.setEng_tide (t e : Nat) (u : EngHid) : (s.setEng t e u).tide = s.tide := rfl
@[simp] theorem State.setEng_tiles (t e : Nat) (u : EngHid) : (s.setEng t e u).tiles = s.tiles := rfl
@[simp] theorem State.setEng_strm (t e : Nat) (u : EngHid) : (s.setEng t e u).strm = s.strm := rfl
@[simp] theorem State.setEng_vregs (t e : Nat) (u : EngHid) : (s.setEng t e u).vregs = s.vregs := rfl
@[simp] theorem State.setEng_mregs (t e : Nat) (u : EngHid) : (s.setEng t e u).mregs = s.mregs := rfl
@[simp] theorem State.setEng_ftq (t e : Nat) (u : EngHid) : (s.setEng t e u).ftq = s.ftq := rfl
@[simp] theorem State.setEng_mxa (t e : Nat) (u : EngHid) : (s.setEng t e u).mxa = s.mxa := rfl
@[simp] theorem State.setEng_acc (t e : Nat) (u : EngHid) : (s.setEng t e u).acc = s.acc := rfl
@[simp] theorem State.setEng_sfu (t e : Nat) (u : EngHid) : (s.setEng t e u).sfu = s.sfu := rfl
@[simp] theorem State.setEng_sfuMem (t e : Nat) (u : EngHid) : (s.setEng t e u).sfuMem = s.sfuMem := rfl
@[simp] theorem State.setEng_spe (t e : Nat) (u : EngHid) : (s.setEng t e u).spe = s.spe := rfl
@[simp] theorem State.setEng_cam (t e : Nat) (u : EngHid) : (s.setEng t e u).cam = s.cam := rfl
@[simp] theorem State.setEng_lxe (t e : Nat) (u : EngHid) : (s.setEng t e u).lxe = s.lxe := rfl
@[simp] theorem State.setEng_lxeId (t e : Nat) (u : EngHid) : (s.setEng t e u).lxeId = s.lxeId := rfl
@[simp] theorem State.setEng_fab (t e : Nat) (u : EngHid) : (s.setEng t e u).fab = s.fab := rfl
@[simp] theorem State.setEng_que (t e : Nat) (u : EngHid) : (s.setEng t e u).que = s.que := rfl
@[simp] theorem State.setEng_gre (t e : Nat) (u : EngHid) : (s.setEng t e u).gre = s.gre := rfl
@[simp] theorem State.setEng_pwr (t e : Nat) (u : EngHid) : (s.setEng t e u).pwr = s.pwr := rfl
@[simp] theorem State.setEng_mbox (t e : Nat) (u : EngHid) : (s.setEng t e u).mbox = s.mbox := rfl
@[simp] theorem State.setEng_proxy (t e : Nat) (u : EngHid) : (s.setEng t e u).proxy = s.proxy := rfl
@[simp] theorem State.setEng_mboxBad (t e : Nat) (u : EngHid) : (s.setEng t e u).mboxBad = s.mboxBad := rfl
@[simp] theorem State.setEng_fw (t e : Nat) (u : EngHid) : (s.setEng t e u).fw = s.fw := rfl
@[simp] theorem State.setEng_rep (t e : Nat) (u : EngHid) : (s.setEng t e u).rep = s.rep := rfl
@[simp] theorem State.setEng_mod (t e : Nat) (u : EngHid) : (s.setEng t e u).mod = s.mod := rfl
@[simp] theorem State.setEng_flash (t e : Nat) (u : EngHid) : (s.setEng t e u).flash = s.flash := rfl
@[simp] theorem State.setEng_census (t e : Nat) (u : EngHid) : (s.setEng t e u).census = s.census := rfl
@[simp] theorem State.setEng_linkFly (t e : Nat) (u : EngHid) : (s.setEng t e u).linkFly = s.linkFly := rfl
@[simp] theorem State.setEng_evt (t e : Nat) (u : EngHid) : (s.setEng t e u).evt = s.evt := rfl
@[simp] theorem State.setEng_host (t e : Nat) (u : EngHid) : (s.setEng t e u).host = s.host := rfl

@[simp] theorem State.setVreg_pending (t e v : Nat) (u : VReg) : (s.setVreg t e v u).pending = s.pending := rfl
@[simp] theorem State.setVreg_regs (t e v : Nat) (u : VReg) : (s.setVreg t e v u).regs = s.regs := rfl
@[simp] theorem State.setVreg_mem (t e v : Nat) (u : VReg) : (s.setVreg t e v u).mem = s.mem := rfl
@[simp] theorem State.setVreg_tags (t e v : Nat) (u : VReg) : (s.setVreg t e v u).tags = s.tags := rfl
@[simp] theorem State.setVreg_memu (t e v : Nat) (u : VReg) : (s.setVreg t e v u).memu = s.memu := rfl
@[simp] theorem State.setVreg_tide (t e v : Nat) (u : VReg) : (s.setVreg t e v u).tide = s.tide := rfl
@[simp] theorem State.setVreg_tiles (t e v : Nat) (u : VReg) : (s.setVreg t e v u).tiles = s.tiles := rfl
@[simp] theorem State.setVreg_strm (t e v : Nat) (u : VReg) : (s.setVreg t e v u).strm = s.strm := rfl
@[simp] theorem State.setVreg_mregs (t e v : Nat) (u : VReg) : (s.setVreg t e v u).mregs = s.mregs := rfl
@[simp] theorem State.setVreg_engs (t e v : Nat) (u : VReg) : (s.setVreg t e v u).engs = s.engs := rfl
@[simp] theorem State.setVreg_ftq (t e v : Nat) (u : VReg) : (s.setVreg t e v u).ftq = s.ftq := rfl
@[simp] theorem State.setVreg_mxa (t e v : Nat) (u : VReg) : (s.setVreg t e v u).mxa = s.mxa := rfl
@[simp] theorem State.setVreg_acc (t e v : Nat) (u : VReg) : (s.setVreg t e v u).acc = s.acc := rfl
@[simp] theorem State.setVreg_sfu (t e v : Nat) (u : VReg) : (s.setVreg t e v u).sfu = s.sfu := rfl
@[simp] theorem State.setVreg_sfuMem (t e v : Nat) (u : VReg) : (s.setVreg t e v u).sfuMem = s.sfuMem := rfl
@[simp] theorem State.setVreg_spe (t e v : Nat) (u : VReg) : (s.setVreg t e v u).spe = s.spe := rfl
@[simp] theorem State.setVreg_cam (t e v : Nat) (u : VReg) : (s.setVreg t e v u).cam = s.cam := rfl
@[simp] theorem State.setVreg_lxe (t e v : Nat) (u : VReg) : (s.setVreg t e v u).lxe = s.lxe := rfl
@[simp] theorem State.setVreg_lxeId (t e v : Nat) (u : VReg) : (s.setVreg t e v u).lxeId = s.lxeId := rfl
@[simp] theorem State.setVreg_fab (t e v : Nat) (u : VReg) : (s.setVreg t e v u).fab = s.fab := rfl
@[simp] theorem State.setVreg_que (t e v : Nat) (u : VReg) : (s.setVreg t e v u).que = s.que := rfl
@[simp] theorem State.setVreg_gre (t e v : Nat) (u : VReg) : (s.setVreg t e v u).gre = s.gre := rfl
@[simp] theorem State.setVreg_pwr (t e v : Nat) (u : VReg) : (s.setVreg t e v u).pwr = s.pwr := rfl
@[simp] theorem State.setVreg_mbox (t e v : Nat) (u : VReg) : (s.setVreg t e v u).mbox = s.mbox := rfl
@[simp] theorem State.setVreg_proxy (t e v : Nat) (u : VReg) : (s.setVreg t e v u).proxy = s.proxy := rfl
@[simp] theorem State.setVreg_mboxBad (t e v : Nat) (u : VReg) : (s.setVreg t e v u).mboxBad = s.mboxBad := rfl
@[simp] theorem State.setVreg_fw (t e v : Nat) (u : VReg) : (s.setVreg t e v u).fw = s.fw := rfl
@[simp] theorem State.setVreg_rep (t e v : Nat) (u : VReg) : (s.setVreg t e v u).rep = s.rep := rfl
@[simp] theorem State.setVreg_mod (t e v : Nat) (u : VReg) : (s.setVreg t e v u).mod = s.mod := rfl
@[simp] theorem State.setVreg_flash (t e v : Nat) (u : VReg) : (s.setVreg t e v u).flash = s.flash := rfl
@[simp] theorem State.setVreg_census (t e v : Nat) (u : VReg) : (s.setVreg t e v u).census = s.census := rfl
@[simp] theorem State.setVreg_linkFly (t e v : Nat) (u : VReg) : (s.setVreg t e v u).linkFly = s.linkFly := rfl
@[simp] theorem State.setVreg_evt (t e v : Nat) (u : VReg) : (s.setVreg t e v u).evt = s.evt := rfl
@[simp] theorem State.setVreg_host (t e v : Nat) (u : VReg) : (s.setVreg t e v u).host = s.host := rfl

@[simp] theorem State.setMreg_pending (t e v : Nat) (u : MReg) : (s.setMreg t e v u).pending = s.pending := rfl
@[simp] theorem State.setMreg_regs (t e v : Nat) (u : MReg) : (s.setMreg t e v u).regs = s.regs := rfl
@[simp] theorem State.setMreg_mem (t e v : Nat) (u : MReg) : (s.setMreg t e v u).mem = s.mem := rfl
@[simp] theorem State.setMreg_tags (t e v : Nat) (u : MReg) : (s.setMreg t e v u).tags = s.tags := rfl
@[simp] theorem State.setMreg_memu (t e v : Nat) (u : MReg) : (s.setMreg t e v u).memu = s.memu := rfl
@[simp] theorem State.setMreg_tide (t e v : Nat) (u : MReg) : (s.setMreg t e v u).tide = s.tide := rfl
@[simp] theorem State.setMreg_tiles (t e v : Nat) (u : MReg) : (s.setMreg t e v u).tiles = s.tiles := rfl
@[simp] theorem State.setMreg_strm (t e v : Nat) (u : MReg) : (s.setMreg t e v u).strm = s.strm := rfl
@[simp] theorem State.setMreg_vregs (t e v : Nat) (u : MReg) : (s.setMreg t e v u).vregs = s.vregs := rfl
@[simp] theorem State.setMreg_engs (t e v : Nat) (u : MReg) : (s.setMreg t e v u).engs = s.engs := rfl
@[simp] theorem State.setMreg_ftq (t e v : Nat) (u : MReg) : (s.setMreg t e v u).ftq = s.ftq := rfl
@[simp] theorem State.setMreg_mxa (t e v : Nat) (u : MReg) : (s.setMreg t e v u).mxa = s.mxa := rfl
@[simp] theorem State.setMreg_acc (t e v : Nat) (u : MReg) : (s.setMreg t e v u).acc = s.acc := rfl
@[simp] theorem State.setMreg_sfu (t e v : Nat) (u : MReg) : (s.setMreg t e v u).sfu = s.sfu := rfl
@[simp] theorem State.setMreg_sfuMem (t e v : Nat) (u : MReg) : (s.setMreg t e v u).sfuMem = s.sfuMem := rfl
@[simp] theorem State.setMreg_spe (t e v : Nat) (u : MReg) : (s.setMreg t e v u).spe = s.spe := rfl
@[simp] theorem State.setMreg_cam (t e v : Nat) (u : MReg) : (s.setMreg t e v u).cam = s.cam := rfl
@[simp] theorem State.setMreg_lxe (t e v : Nat) (u : MReg) : (s.setMreg t e v u).lxe = s.lxe := rfl
@[simp] theorem State.setMreg_lxeId (t e v : Nat) (u : MReg) : (s.setMreg t e v u).lxeId = s.lxeId := rfl
@[simp] theorem State.setMreg_fab (t e v : Nat) (u : MReg) : (s.setMreg t e v u).fab = s.fab := rfl
@[simp] theorem State.setMreg_que (t e v : Nat) (u : MReg) : (s.setMreg t e v u).que = s.que := rfl
@[simp] theorem State.setMreg_gre (t e v : Nat) (u : MReg) : (s.setMreg t e v u).gre = s.gre := rfl
@[simp] theorem State.setMreg_pwr (t e v : Nat) (u : MReg) : (s.setMreg t e v u).pwr = s.pwr := rfl
@[simp] theorem State.setMreg_mbox (t e v : Nat) (u : MReg) : (s.setMreg t e v u).mbox = s.mbox := rfl
@[simp] theorem State.setMreg_proxy (t e v : Nat) (u : MReg) : (s.setMreg t e v u).proxy = s.proxy := rfl
@[simp] theorem State.setMreg_mboxBad (t e v : Nat) (u : MReg) : (s.setMreg t e v u).mboxBad = s.mboxBad := rfl
@[simp] theorem State.setMreg_fw (t e v : Nat) (u : MReg) : (s.setMreg t e v u).fw = s.fw := rfl
@[simp] theorem State.setMreg_rep (t e v : Nat) (u : MReg) : (s.setMreg t e v u).rep = s.rep := rfl
@[simp] theorem State.setMreg_mod (t e v : Nat) (u : MReg) : (s.setMreg t e v u).mod = s.mod := rfl
@[simp] theorem State.setMreg_flash (t e v : Nat) (u : MReg) : (s.setMreg t e v u).flash = s.flash := rfl
@[simp] theorem State.setMreg_census (t e v : Nat) (u : MReg) : (s.setMreg t e v u).census = s.census := rfl
@[simp] theorem State.setMreg_linkFly (t e v : Nat) (u : MReg) : (s.setMreg t e v u).linkFly = s.linkFly := rfl
@[simp] theorem State.setMreg_evt (t e v : Nat) (u : MReg) : (s.setMreg t e v u).evt = s.evt := rfl
@[simp] theorem State.setMreg_host (t e v : Nat) (u : MReg) : (s.setMreg t e v u).host = s.host := rfl

@[simp] theorem State.setFtqBank_pending (t b : Nat) (u : FtqBank) : (s.setFtqBank t b u).pending = s.pending := rfl
@[simp] theorem State.setFtqBank_regs (t b : Nat) (u : FtqBank) : (s.setFtqBank t b u).regs = s.regs := rfl
@[simp] theorem State.setFtqBank_mem (t b : Nat) (u : FtqBank) : (s.setFtqBank t b u).mem = s.mem := rfl
@[simp] theorem State.setFtqBank_tags (t b : Nat) (u : FtqBank) : (s.setFtqBank t b u).tags = s.tags := rfl
@[simp] theorem State.setFtqBank_memu (t b : Nat) (u : FtqBank) : (s.setFtqBank t b u).memu = s.memu := rfl
@[simp] theorem State.setFtqBank_tide (t b : Nat) (u : FtqBank) : (s.setFtqBank t b u).tide = s.tide := rfl
@[simp] theorem State.setFtqBank_tiles (t b : Nat) (u : FtqBank) : (s.setFtqBank t b u).tiles = s.tiles := rfl
@[simp] theorem State.setFtqBank_strm (t b : Nat) (u : FtqBank) : (s.setFtqBank t b u).strm = s.strm := rfl
@[simp] theorem State.setFtqBank_vregs (t b : Nat) (u : FtqBank) : (s.setFtqBank t b u).vregs = s.vregs := rfl
@[simp] theorem State.setFtqBank_mregs (t b : Nat) (u : FtqBank) : (s.setFtqBank t b u).mregs = s.mregs := rfl
@[simp] theorem State.setFtqBank_engs (t b : Nat) (u : FtqBank) : (s.setFtqBank t b u).engs = s.engs := rfl
@[simp] theorem State.setFtqBank_mxa (t b : Nat) (u : FtqBank) : (s.setFtqBank t b u).mxa = s.mxa := rfl
@[simp] theorem State.setFtqBank_acc (t b : Nat) (u : FtqBank) : (s.setFtqBank t b u).acc = s.acc := rfl
@[simp] theorem State.setFtqBank_sfu (t b : Nat) (u : FtqBank) : (s.setFtqBank t b u).sfu = s.sfu := rfl
@[simp] theorem State.setFtqBank_sfuMem (t b : Nat) (u : FtqBank) : (s.setFtqBank t b u).sfuMem = s.sfuMem := rfl
@[simp] theorem State.setFtqBank_spe (t b : Nat) (u : FtqBank) : (s.setFtqBank t b u).spe = s.spe := rfl
@[simp] theorem State.setFtqBank_cam (t b : Nat) (u : FtqBank) : (s.setFtqBank t b u).cam = s.cam := rfl
@[simp] theorem State.setFtqBank_lxe (t b : Nat) (u : FtqBank) : (s.setFtqBank t b u).lxe = s.lxe := rfl
@[simp] theorem State.setFtqBank_lxeId (t b : Nat) (u : FtqBank) : (s.setFtqBank t b u).lxeId = s.lxeId := rfl
@[simp] theorem State.setFtqBank_fab (t b : Nat) (u : FtqBank) : (s.setFtqBank t b u).fab = s.fab := rfl
@[simp] theorem State.setFtqBank_que (t b : Nat) (u : FtqBank) : (s.setFtqBank t b u).que = s.que := rfl
@[simp] theorem State.setFtqBank_gre (t b : Nat) (u : FtqBank) : (s.setFtqBank t b u).gre = s.gre := rfl
@[simp] theorem State.setFtqBank_pwr (t b : Nat) (u : FtqBank) : (s.setFtqBank t b u).pwr = s.pwr := rfl
@[simp] theorem State.setFtqBank_mbox (t b : Nat) (u : FtqBank) : (s.setFtqBank t b u).mbox = s.mbox := rfl
@[simp] theorem State.setFtqBank_proxy (t b : Nat) (u : FtqBank) : (s.setFtqBank t b u).proxy = s.proxy := rfl
@[simp] theorem State.setFtqBank_mboxBad (t b : Nat) (u : FtqBank) : (s.setFtqBank t b u).mboxBad = s.mboxBad := rfl
@[simp] theorem State.setFtqBank_fw (t b : Nat) (u : FtqBank) : (s.setFtqBank t b u).fw = s.fw := rfl
@[simp] theorem State.setFtqBank_rep (t b : Nat) (u : FtqBank) : (s.setFtqBank t b u).rep = s.rep := rfl
@[simp] theorem State.setFtqBank_mod (t b : Nat) (u : FtqBank) : (s.setFtqBank t b u).mod = s.mod := rfl
@[simp] theorem State.setFtqBank_flash (t b : Nat) (u : FtqBank) : (s.setFtqBank t b u).flash = s.flash := rfl
@[simp] theorem State.setFtqBank_census (t b : Nat) (u : FtqBank) : (s.setFtqBank t b u).census = s.census := rfl
@[simp] theorem State.setFtqBank_linkFly (t b : Nat) (u : FtqBank) : (s.setFtqBank t b u).linkFly = s.linkFly := rfl
@[simp] theorem State.setFtqBank_evt (t b : Nat) (u : FtqBank) : (s.setFtqBank t b u).evt = s.evt := rfl
@[simp] theorem State.setFtqBank_host (t b : Nat) (u : FtqBank) : (s.setFtqBank t b u).host = s.host := rfl

@[simp] theorem State.setMxau_pending (t : Nat) (u : MxaUnit) : (s.setMxau t u).pending = s.pending := rfl
@[simp] theorem State.setMxau_regs (t : Nat) (u : MxaUnit) : (s.setMxau t u).regs = s.regs := rfl
@[simp] theorem State.setMxau_mem (t : Nat) (u : MxaUnit) : (s.setMxau t u).mem = s.mem := rfl
@[simp] theorem State.setMxau_tags (t : Nat) (u : MxaUnit) : (s.setMxau t u).tags = s.tags := rfl
@[simp] theorem State.setMxau_memu (t : Nat) (u : MxaUnit) : (s.setMxau t u).memu = s.memu := rfl
@[simp] theorem State.setMxau_tide (t : Nat) (u : MxaUnit) : (s.setMxau t u).tide = s.tide := rfl
@[simp] theorem State.setMxau_tiles (t : Nat) (u : MxaUnit) : (s.setMxau t u).tiles = s.tiles := rfl
@[simp] theorem State.setMxau_strm (t : Nat) (u : MxaUnit) : (s.setMxau t u).strm = s.strm := rfl
@[simp] theorem State.setMxau_vregs (t : Nat) (u : MxaUnit) : (s.setMxau t u).vregs = s.vregs := rfl
@[simp] theorem State.setMxau_mregs (t : Nat) (u : MxaUnit) : (s.setMxau t u).mregs = s.mregs := rfl
@[simp] theorem State.setMxau_engs (t : Nat) (u : MxaUnit) : (s.setMxau t u).engs = s.engs := rfl
@[simp] theorem State.setMxau_ftq (t : Nat) (u : MxaUnit) : (s.setMxau t u).ftq = s.ftq := rfl
@[simp] theorem State.setMxau_acc (t : Nat) (u : MxaUnit) : (s.setMxau t u).acc = s.acc := rfl
@[simp] theorem State.setMxau_sfu (t : Nat) (u : MxaUnit) : (s.setMxau t u).sfu = s.sfu := rfl
@[simp] theorem State.setMxau_sfuMem (t : Nat) (u : MxaUnit) : (s.setMxau t u).sfuMem = s.sfuMem := rfl
@[simp] theorem State.setMxau_spe (t : Nat) (u : MxaUnit) : (s.setMxau t u).spe = s.spe := rfl
@[simp] theorem State.setMxau_cam (t : Nat) (u : MxaUnit) : (s.setMxau t u).cam = s.cam := rfl
@[simp] theorem State.setMxau_lxe (t : Nat) (u : MxaUnit) : (s.setMxau t u).lxe = s.lxe := rfl
@[simp] theorem State.setMxau_lxeId (t : Nat) (u : MxaUnit) : (s.setMxau t u).lxeId = s.lxeId := rfl
@[simp] theorem State.setMxau_fab (t : Nat) (u : MxaUnit) : (s.setMxau t u).fab = s.fab := rfl
@[simp] theorem State.setMxau_que (t : Nat) (u : MxaUnit) : (s.setMxau t u).que = s.que := rfl
@[simp] theorem State.setMxau_gre (t : Nat) (u : MxaUnit) : (s.setMxau t u).gre = s.gre := rfl
@[simp] theorem State.setMxau_pwr (t : Nat) (u : MxaUnit) : (s.setMxau t u).pwr = s.pwr := rfl
@[simp] theorem State.setMxau_mbox (t : Nat) (u : MxaUnit) : (s.setMxau t u).mbox = s.mbox := rfl
@[simp] theorem State.setMxau_proxy (t : Nat) (u : MxaUnit) : (s.setMxau t u).proxy = s.proxy := rfl
@[simp] theorem State.setMxau_mboxBad (t : Nat) (u : MxaUnit) : (s.setMxau t u).mboxBad = s.mboxBad := rfl
@[simp] theorem State.setMxau_fw (t : Nat) (u : MxaUnit) : (s.setMxau t u).fw = s.fw := rfl
@[simp] theorem State.setMxau_rep (t : Nat) (u : MxaUnit) : (s.setMxau t u).rep = s.rep := rfl
@[simp] theorem State.setMxau_mod (t : Nat) (u : MxaUnit) : (s.setMxau t u).mod = s.mod := rfl
@[simp] theorem State.setMxau_flash (t : Nat) (u : MxaUnit) : (s.setMxau t u).flash = s.flash := rfl
@[simp] theorem State.setMxau_census (t : Nat) (u : MxaUnit) : (s.setMxau t u).census = s.census := rfl
@[simp] theorem State.setMxau_linkFly (t : Nat) (u : MxaUnit) : (s.setMxau t u).linkFly = s.linkFly := rfl
@[simp] theorem State.setMxau_evt (t : Nat) (u : MxaUnit) : (s.setMxau t u).evt = s.evt := rfl
@[simp] theorem State.setMxau_host (t : Nat) (u : MxaUnit) : (s.setMxau t u).host = s.host := rfl

@[simp] theorem State.setAccWord_pending (t b w v : Nat) : (s.setAccWord t b w v).pending = s.pending := rfl
@[simp] theorem State.setAccWord_regs (t b w v : Nat) : (s.setAccWord t b w v).regs = s.regs := rfl
@[simp] theorem State.setAccWord_mem (t b w v : Nat) : (s.setAccWord t b w v).mem = s.mem := rfl
@[simp] theorem State.setAccWord_tags (t b w v : Nat) : (s.setAccWord t b w v).tags = s.tags := rfl
@[simp] theorem State.setAccWord_memu (t b w v : Nat) : (s.setAccWord t b w v).memu = s.memu := rfl
@[simp] theorem State.setAccWord_tide (t b w v : Nat) : (s.setAccWord t b w v).tide = s.tide := rfl
@[simp] theorem State.setAccWord_tiles (t b w v : Nat) : (s.setAccWord t b w v).tiles = s.tiles := rfl
@[simp] theorem State.setAccWord_strm (t b w v : Nat) : (s.setAccWord t b w v).strm = s.strm := rfl
@[simp] theorem State.setAccWord_vregs (t b w v : Nat) : (s.setAccWord t b w v).vregs = s.vregs := rfl
@[simp] theorem State.setAccWord_mregs (t b w v : Nat) : (s.setAccWord t b w v).mregs = s.mregs := rfl
@[simp] theorem State.setAccWord_engs (t b w v : Nat) : (s.setAccWord t b w v).engs = s.engs := rfl
@[simp] theorem State.setAccWord_ftq (t b w v : Nat) : (s.setAccWord t b w v).ftq = s.ftq := rfl
@[simp] theorem State.setAccWord_mxa (t b w v : Nat) : (s.setAccWord t b w v).mxa = s.mxa := rfl
@[simp] theorem State.setAccWord_sfu (t b w v : Nat) : (s.setAccWord t b w v).sfu = s.sfu := rfl
@[simp] theorem State.setAccWord_sfuMem (t b w v : Nat) : (s.setAccWord t b w v).sfuMem = s.sfuMem := rfl
@[simp] theorem State.setAccWord_spe (t b w v : Nat) : (s.setAccWord t b w v).spe = s.spe := rfl
@[simp] theorem State.setAccWord_cam (t b w v : Nat) : (s.setAccWord t b w v).cam = s.cam := rfl
@[simp] theorem State.setAccWord_lxe (t b w v : Nat) : (s.setAccWord t b w v).lxe = s.lxe := rfl
@[simp] theorem State.setAccWord_lxeId (t b w v : Nat) : (s.setAccWord t b w v).lxeId = s.lxeId := rfl
@[simp] theorem State.setAccWord_fab (t b w v : Nat) : (s.setAccWord t b w v).fab = s.fab := rfl
@[simp] theorem State.setAccWord_que (t b w v : Nat) : (s.setAccWord t b w v).que = s.que := rfl
@[simp] theorem State.setAccWord_gre (t b w v : Nat) : (s.setAccWord t b w v).gre = s.gre := rfl
@[simp] theorem State.setAccWord_pwr (t b w v : Nat) : (s.setAccWord t b w v).pwr = s.pwr := rfl
@[simp] theorem State.setAccWord_mbox (t b w v : Nat) : (s.setAccWord t b w v).mbox = s.mbox := rfl
@[simp] theorem State.setAccWord_proxy (t b w v : Nat) : (s.setAccWord t b w v).proxy = s.proxy := rfl
@[simp] theorem State.setAccWord_mboxBad (t b w v : Nat) : (s.setAccWord t b w v).mboxBad = s.mboxBad := rfl
@[simp] theorem State.setAccWord_fw (t b w v : Nat) : (s.setAccWord t b w v).fw = s.fw := rfl
@[simp] theorem State.setAccWord_rep (t b w v : Nat) : (s.setAccWord t b w v).rep = s.rep := rfl
@[simp] theorem State.setAccWord_mod (t b w v : Nat) : (s.setAccWord t b w v).mod = s.mod := rfl
@[simp] theorem State.setAccWord_flash (t b w v : Nat) : (s.setAccWord t b w v).flash = s.flash := rfl
@[simp] theorem State.setAccWord_census (t b w v : Nat) : (s.setAccWord t b w v).census = s.census := rfl
@[simp] theorem State.setAccWord_linkFly (t b w v : Nat) : (s.setAccWord t b w v).linkFly = s.linkFly := rfl
@[simp] theorem State.setAccWord_evt (t b w v : Nat) : (s.setAccWord t b w v).evt = s.evt := rfl
@[simp] theorem State.setAccWord_host (t b w v : Nat) : (s.setAccWord t b w v).host = s.host := rfl

@[simp] theorem State.setSfuu_pending (t : Nat) (u : SfuUnit) : (s.setSfuu t u).pending = s.pending := rfl
@[simp] theorem State.setSfuu_regs (t : Nat) (u : SfuUnit) : (s.setSfuu t u).regs = s.regs := rfl
@[simp] theorem State.setSfuu_mem (t : Nat) (u : SfuUnit) : (s.setSfuu t u).mem = s.mem := rfl
@[simp] theorem State.setSfuu_tags (t : Nat) (u : SfuUnit) : (s.setSfuu t u).tags = s.tags := rfl
@[simp] theorem State.setSfuu_memu (t : Nat) (u : SfuUnit) : (s.setSfuu t u).memu = s.memu := rfl
@[simp] theorem State.setSfuu_tide (t : Nat) (u : SfuUnit) : (s.setSfuu t u).tide = s.tide := rfl
@[simp] theorem State.setSfuu_tiles (t : Nat) (u : SfuUnit) : (s.setSfuu t u).tiles = s.tiles := rfl
@[simp] theorem State.setSfuu_strm (t : Nat) (u : SfuUnit) : (s.setSfuu t u).strm = s.strm := rfl
@[simp] theorem State.setSfuu_vregs (t : Nat) (u : SfuUnit) : (s.setSfuu t u).vregs = s.vregs := rfl
@[simp] theorem State.setSfuu_mregs (t : Nat) (u : SfuUnit) : (s.setSfuu t u).mregs = s.mregs := rfl
@[simp] theorem State.setSfuu_engs (t : Nat) (u : SfuUnit) : (s.setSfuu t u).engs = s.engs := rfl
@[simp] theorem State.setSfuu_ftq (t : Nat) (u : SfuUnit) : (s.setSfuu t u).ftq = s.ftq := rfl
@[simp] theorem State.setSfuu_mxa (t : Nat) (u : SfuUnit) : (s.setSfuu t u).mxa = s.mxa := rfl
@[simp] theorem State.setSfuu_acc (t : Nat) (u : SfuUnit) : (s.setSfuu t u).acc = s.acc := rfl
@[simp] theorem State.setSfuu_sfuMem (t : Nat) (u : SfuUnit) : (s.setSfuu t u).sfuMem = s.sfuMem := rfl
@[simp] theorem State.setSfuu_spe (t : Nat) (u : SfuUnit) : (s.setSfuu t u).spe = s.spe := rfl
@[simp] theorem State.setSfuu_cam (t : Nat) (u : SfuUnit) : (s.setSfuu t u).cam = s.cam := rfl
@[simp] theorem State.setSfuu_lxe (t : Nat) (u : SfuUnit) : (s.setSfuu t u).lxe = s.lxe := rfl
@[simp] theorem State.setSfuu_lxeId (t : Nat) (u : SfuUnit) : (s.setSfuu t u).lxeId = s.lxeId := rfl
@[simp] theorem State.setSfuu_fab (t : Nat) (u : SfuUnit) : (s.setSfuu t u).fab = s.fab := rfl
@[simp] theorem State.setSfuu_que (t : Nat) (u : SfuUnit) : (s.setSfuu t u).que = s.que := rfl
@[simp] theorem State.setSfuu_gre (t : Nat) (u : SfuUnit) : (s.setSfuu t u).gre = s.gre := rfl
@[simp] theorem State.setSfuu_pwr (t : Nat) (u : SfuUnit) : (s.setSfuu t u).pwr = s.pwr := rfl
@[simp] theorem State.setSfuu_mbox (t : Nat) (u : SfuUnit) : (s.setSfuu t u).mbox = s.mbox := rfl
@[simp] theorem State.setSfuu_proxy (t : Nat) (u : SfuUnit) : (s.setSfuu t u).proxy = s.proxy := rfl
@[simp] theorem State.setSfuu_mboxBad (t : Nat) (u : SfuUnit) : (s.setSfuu t u).mboxBad = s.mboxBad := rfl
@[simp] theorem State.setSfuu_fw (t : Nat) (u : SfuUnit) : (s.setSfuu t u).fw = s.fw := rfl
@[simp] theorem State.setSfuu_rep (t : Nat) (u : SfuUnit) : (s.setSfuu t u).rep = s.rep := rfl
@[simp] theorem State.setSfuu_mod (t : Nat) (u : SfuUnit) : (s.setSfuu t u).mod = s.mod := rfl
@[simp] theorem State.setSfuu_flash (t : Nat) (u : SfuUnit) : (s.setSfuu t u).flash = s.flash := rfl
@[simp] theorem State.setSfuu_census (t : Nat) (u : SfuUnit) : (s.setSfuu t u).census = s.census := rfl
@[simp] theorem State.setSfuu_linkFly (t : Nat) (u : SfuUnit) : (s.setSfuu t u).linkFly = s.linkFly := rfl
@[simp] theorem State.setSfuu_evt (t : Nat) (u : SfuUnit) : (s.setSfuu t u).evt = s.evt := rfl
@[simp] theorem State.setSfuu_host (t : Nat) (u : SfuUnit) : (s.setSfuu t u).host = s.host := rfl

@[simp] theorem State.setSfuByte_pending (t b o : Nat) (u : Byte) : (s.setSfuByte t b o u).pending = s.pending := rfl
@[simp] theorem State.setSfuByte_regs (t b o : Nat) (u : Byte) : (s.setSfuByte t b o u).regs = s.regs := rfl
@[simp] theorem State.setSfuByte_mem (t b o : Nat) (u : Byte) : (s.setSfuByte t b o u).mem = s.mem := rfl
@[simp] theorem State.setSfuByte_tags (t b o : Nat) (u : Byte) : (s.setSfuByte t b o u).tags = s.tags := rfl
@[simp] theorem State.setSfuByte_memu (t b o : Nat) (u : Byte) : (s.setSfuByte t b o u).memu = s.memu := rfl
@[simp] theorem State.setSfuByte_tide (t b o : Nat) (u : Byte) : (s.setSfuByte t b o u).tide = s.tide := rfl
@[simp] theorem State.setSfuByte_tiles (t b o : Nat) (u : Byte) : (s.setSfuByte t b o u).tiles = s.tiles := rfl
@[simp] theorem State.setSfuByte_strm (t b o : Nat) (u : Byte) : (s.setSfuByte t b o u).strm = s.strm := rfl
@[simp] theorem State.setSfuByte_vregs (t b o : Nat) (u : Byte) : (s.setSfuByte t b o u).vregs = s.vregs := rfl
@[simp] theorem State.setSfuByte_mregs (t b o : Nat) (u : Byte) : (s.setSfuByte t b o u).mregs = s.mregs := rfl
@[simp] theorem State.setSfuByte_engs (t b o : Nat) (u : Byte) : (s.setSfuByte t b o u).engs = s.engs := rfl
@[simp] theorem State.setSfuByte_ftq (t b o : Nat) (u : Byte) : (s.setSfuByte t b o u).ftq = s.ftq := rfl
@[simp] theorem State.setSfuByte_mxa (t b o : Nat) (u : Byte) : (s.setSfuByte t b o u).mxa = s.mxa := rfl
@[simp] theorem State.setSfuByte_acc (t b o : Nat) (u : Byte) : (s.setSfuByte t b o u).acc = s.acc := rfl
@[simp] theorem State.setSfuByte_sfu (t b o : Nat) (u : Byte) : (s.setSfuByte t b o u).sfu = s.sfu := rfl
@[simp] theorem State.setSfuByte_spe (t b o : Nat) (u : Byte) : (s.setSfuByte t b o u).spe = s.spe := rfl
@[simp] theorem State.setSfuByte_cam (t b o : Nat) (u : Byte) : (s.setSfuByte t b o u).cam = s.cam := rfl
@[simp] theorem State.setSfuByte_lxe (t b o : Nat) (u : Byte) : (s.setSfuByte t b o u).lxe = s.lxe := rfl
@[simp] theorem State.setSfuByte_lxeId (t b o : Nat) (u : Byte) : (s.setSfuByte t b o u).lxeId = s.lxeId := rfl
@[simp] theorem State.setSfuByte_fab (t b o : Nat) (u : Byte) : (s.setSfuByte t b o u).fab = s.fab := rfl
@[simp] theorem State.setSfuByte_que (t b o : Nat) (u : Byte) : (s.setSfuByte t b o u).que = s.que := rfl
@[simp] theorem State.setSfuByte_gre (t b o : Nat) (u : Byte) : (s.setSfuByte t b o u).gre = s.gre := rfl
@[simp] theorem State.setSfuByte_pwr (t b o : Nat) (u : Byte) : (s.setSfuByte t b o u).pwr = s.pwr := rfl
@[simp] theorem State.setSfuByte_mbox (t b o : Nat) (u : Byte) : (s.setSfuByte t b o u).mbox = s.mbox := rfl
@[simp] theorem State.setSfuByte_proxy (t b o : Nat) (u : Byte) : (s.setSfuByte t b o u).proxy = s.proxy := rfl
@[simp] theorem State.setSfuByte_mboxBad (t b o : Nat) (u : Byte) : (s.setSfuByte t b o u).mboxBad = s.mboxBad := rfl
@[simp] theorem State.setSfuByte_fw (t b o : Nat) (u : Byte) : (s.setSfuByte t b o u).fw = s.fw := rfl
@[simp] theorem State.setSfuByte_rep (t b o : Nat) (u : Byte) : (s.setSfuByte t b o u).rep = s.rep := rfl
@[simp] theorem State.setSfuByte_mod (t b o : Nat) (u : Byte) : (s.setSfuByte t b o u).mod = s.mod := rfl
@[simp] theorem State.setSfuByte_flash (t b o : Nat) (u : Byte) : (s.setSfuByte t b o u).flash = s.flash := rfl
@[simp] theorem State.setSfuByte_census (t b o : Nat) (u : Byte) : (s.setSfuByte t b o u).census = s.census := rfl
@[simp] theorem State.setSfuByte_linkFly (t b o : Nat) (u : Byte) : (s.setSfuByte t b o u).linkFly = s.linkFly := rfl
@[simp] theorem State.setSfuByte_evt (t b o : Nat) (u : Byte) : (s.setSfuByte t b o u).evt = s.evt := rfl
@[simp] theorem State.setSfuByte_host (t b o : Nat) (u : Byte) : (s.setSfuByte t b o u).host = s.host := rfl

@[simp] theorem State.setSpeRun_pending (t : Nat) (u : Option SpeRun) : (s.setSpeRun t u).pending = s.pending := rfl
@[simp] theorem State.setSpeRun_regs (t : Nat) (u : Option SpeRun) : (s.setSpeRun t u).regs = s.regs := rfl
@[simp] theorem State.setSpeRun_mem (t : Nat) (u : Option SpeRun) : (s.setSpeRun t u).mem = s.mem := rfl
@[simp] theorem State.setSpeRun_tags (t : Nat) (u : Option SpeRun) : (s.setSpeRun t u).tags = s.tags := rfl
@[simp] theorem State.setSpeRun_memu (t : Nat) (u : Option SpeRun) : (s.setSpeRun t u).memu = s.memu := rfl
@[simp] theorem State.setSpeRun_tide (t : Nat) (u : Option SpeRun) : (s.setSpeRun t u).tide = s.tide := rfl
@[simp] theorem State.setSpeRun_tiles (t : Nat) (u : Option SpeRun) : (s.setSpeRun t u).tiles = s.tiles := rfl
@[simp] theorem State.setSpeRun_strm (t : Nat) (u : Option SpeRun) : (s.setSpeRun t u).strm = s.strm := rfl
@[simp] theorem State.setSpeRun_vregs (t : Nat) (u : Option SpeRun) : (s.setSpeRun t u).vregs = s.vregs := rfl
@[simp] theorem State.setSpeRun_mregs (t : Nat) (u : Option SpeRun) : (s.setSpeRun t u).mregs = s.mregs := rfl
@[simp] theorem State.setSpeRun_engs (t : Nat) (u : Option SpeRun) : (s.setSpeRun t u).engs = s.engs := rfl
@[simp] theorem State.setSpeRun_ftq (t : Nat) (u : Option SpeRun) : (s.setSpeRun t u).ftq = s.ftq := rfl
@[simp] theorem State.setSpeRun_mxa (t : Nat) (u : Option SpeRun) : (s.setSpeRun t u).mxa = s.mxa := rfl
@[simp] theorem State.setSpeRun_acc (t : Nat) (u : Option SpeRun) : (s.setSpeRun t u).acc = s.acc := rfl
@[simp] theorem State.setSpeRun_sfu (t : Nat) (u : Option SpeRun) : (s.setSpeRun t u).sfu = s.sfu := rfl
@[simp] theorem State.setSpeRun_sfuMem (t : Nat) (u : Option SpeRun) : (s.setSpeRun t u).sfuMem = s.sfuMem := rfl
@[simp] theorem State.setSpeRun_cam (t : Nat) (u : Option SpeRun) : (s.setSpeRun t u).cam = s.cam := rfl
@[simp] theorem State.setSpeRun_lxe (t : Nat) (u : Option SpeRun) : (s.setSpeRun t u).lxe = s.lxe := rfl
@[simp] theorem State.setSpeRun_lxeId (t : Nat) (u : Option SpeRun) : (s.setSpeRun t u).lxeId = s.lxeId := rfl
@[simp] theorem State.setSpeRun_fab (t : Nat) (u : Option SpeRun) : (s.setSpeRun t u).fab = s.fab := rfl
@[simp] theorem State.setSpeRun_que (t : Nat) (u : Option SpeRun) : (s.setSpeRun t u).que = s.que := rfl
@[simp] theorem State.setSpeRun_gre (t : Nat) (u : Option SpeRun) : (s.setSpeRun t u).gre = s.gre := rfl
@[simp] theorem State.setSpeRun_pwr (t : Nat) (u : Option SpeRun) : (s.setSpeRun t u).pwr = s.pwr := rfl
@[simp] theorem State.setSpeRun_mbox (t : Nat) (u : Option SpeRun) : (s.setSpeRun t u).mbox = s.mbox := rfl
@[simp] theorem State.setSpeRun_proxy (t : Nat) (u : Option SpeRun) : (s.setSpeRun t u).proxy = s.proxy := rfl
@[simp] theorem State.setSpeRun_mboxBad (t : Nat) (u : Option SpeRun) : (s.setSpeRun t u).mboxBad = s.mboxBad := rfl
@[simp] theorem State.setSpeRun_fw (t : Nat) (u : Option SpeRun) : (s.setSpeRun t u).fw = s.fw := rfl
@[simp] theorem State.setSpeRun_rep (t : Nat) (u : Option SpeRun) : (s.setSpeRun t u).rep = s.rep := rfl
@[simp] theorem State.setSpeRun_mod (t : Nat) (u : Option SpeRun) : (s.setSpeRun t u).mod = s.mod := rfl
@[simp] theorem State.setSpeRun_flash (t : Nat) (u : Option SpeRun) : (s.setSpeRun t u).flash = s.flash := rfl
@[simp] theorem State.setSpeRun_census (t : Nat) (u : Option SpeRun) : (s.setSpeRun t u).census = s.census := rfl
@[simp] theorem State.setSpeRun_linkFly (t : Nat) (u : Option SpeRun) : (s.setSpeRun t u).linkFly = s.linkFly := rfl
@[simp] theorem State.setSpeRun_evt (t : Nat) (u : Option SpeRun) : (s.setSpeRun t u).evt = s.evt := rfl
@[simp] theorem State.setSpeRun_host (t : Nat) (u : Option SpeRun) : (s.setSpeRun t u).host = s.host := rfl

@[simp] theorem State.setCamKey_pending (t k v : Nat) : (s.setCamKey t k v).pending = s.pending := rfl
@[simp] theorem State.setCamKey_regs (t k v : Nat) : (s.setCamKey t k v).regs = s.regs := rfl
@[simp] theorem State.setCamKey_mem (t k v : Nat) : (s.setCamKey t k v).mem = s.mem := rfl
@[simp] theorem State.setCamKey_tags (t k v : Nat) : (s.setCamKey t k v).tags = s.tags := rfl
@[simp] theorem State.setCamKey_memu (t k v : Nat) : (s.setCamKey t k v).memu = s.memu := rfl
@[simp] theorem State.setCamKey_tide (t k v : Nat) : (s.setCamKey t k v).tide = s.tide := rfl
@[simp] theorem State.setCamKey_tiles (t k v : Nat) : (s.setCamKey t k v).tiles = s.tiles := rfl
@[simp] theorem State.setCamKey_strm (t k v : Nat) : (s.setCamKey t k v).strm = s.strm := rfl
@[simp] theorem State.setCamKey_vregs (t k v : Nat) : (s.setCamKey t k v).vregs = s.vregs := rfl
@[simp] theorem State.setCamKey_mregs (t k v : Nat) : (s.setCamKey t k v).mregs = s.mregs := rfl
@[simp] theorem State.setCamKey_engs (t k v : Nat) : (s.setCamKey t k v).engs = s.engs := rfl
@[simp] theorem State.setCamKey_ftq (t k v : Nat) : (s.setCamKey t k v).ftq = s.ftq := rfl
@[simp] theorem State.setCamKey_mxa (t k v : Nat) : (s.setCamKey t k v).mxa = s.mxa := rfl
@[simp] theorem State.setCamKey_acc (t k v : Nat) : (s.setCamKey t k v).acc = s.acc := rfl
@[simp] theorem State.setCamKey_sfu (t k v : Nat) : (s.setCamKey t k v).sfu = s.sfu := rfl
@[simp] theorem State.setCamKey_sfuMem (t k v : Nat) : (s.setCamKey t k v).sfuMem = s.sfuMem := rfl
@[simp] theorem State.setCamKey_spe (t k v : Nat) : (s.setCamKey t k v).spe = s.spe := rfl
@[simp] theorem State.setCamKey_lxe (t k v : Nat) : (s.setCamKey t k v).lxe = s.lxe := rfl
@[simp] theorem State.setCamKey_lxeId (t k v : Nat) : (s.setCamKey t k v).lxeId = s.lxeId := rfl
@[simp] theorem State.setCamKey_fab (t k v : Nat) : (s.setCamKey t k v).fab = s.fab := rfl
@[simp] theorem State.setCamKey_que (t k v : Nat) : (s.setCamKey t k v).que = s.que := rfl
@[simp] theorem State.setCamKey_gre (t k v : Nat) : (s.setCamKey t k v).gre = s.gre := rfl
@[simp] theorem State.setCamKey_pwr (t k v : Nat) : (s.setCamKey t k v).pwr = s.pwr := rfl
@[simp] theorem State.setCamKey_mbox (t k v : Nat) : (s.setCamKey t k v).mbox = s.mbox := rfl
@[simp] theorem State.setCamKey_proxy (t k v : Nat) : (s.setCamKey t k v).proxy = s.proxy := rfl
@[simp] theorem State.setCamKey_mboxBad (t k v : Nat) : (s.setCamKey t k v).mboxBad = s.mboxBad := rfl
@[simp] theorem State.setCamKey_fw (t k v : Nat) : (s.setCamKey t k v).fw = s.fw := rfl
@[simp] theorem State.setCamKey_rep (t k v : Nat) : (s.setCamKey t k v).rep = s.rep := rfl
@[simp] theorem State.setCamKey_mod (t k v : Nat) : (s.setCamKey t k v).mod = s.mod := rfl
@[simp] theorem State.setCamKey_flash (t k v : Nat) : (s.setCamKey t k v).flash = s.flash := rfl
@[simp] theorem State.setCamKey_census (t k v : Nat) : (s.setCamKey t k v).census = s.census := rfl
@[simp] theorem State.setCamKey_linkFly (t k v : Nat) : (s.setCamKey t k v).linkFly = s.linkFly := rfl
@[simp] theorem State.setCamKey_evt (t k v : Nat) : (s.setCamKey t k v).evt = s.evt := rfl
@[simp] theorem State.setCamKey_host (t k v : Nat) : (s.setCamKey t k v).host = s.host := rfl

/-! ## Reads after updates -/

/-- A register read after a register write. -/
theorem State.reg_setReg (a b : Nat) (w : Word) : (s.setReg a w).reg b = if b = a then w else s.reg b :=
  Store.get_put regReset s.regs a b w

@[simp] theorem State.reg_setReg_same (a : Nat) (w : Word) : (s.setReg a w).reg a = w := by simp [State.reg_setReg]

theorem State.reg_setReg_ne {a b : Nat} (w : Word) (h : b ≠ a) : (s.setReg a w).reg b = s.reg b := by
  simp [State.reg_setReg, h]

/-- A byte read after a byte write. -/
theorem State.byte_setByte (a b : Nat) (v : Byte) : (s.setByte a v).byte b = if b = a then v else s.byte b :=
  Store.get_put memDefault s.mem a b v

theorem State.tag_setTag (a b : Nat) (g : WordTag) : (s.setTag a g).tag b = if b = a then g else s.tag b :=
  Store.get_put (fun _ => WordTag.clean) s.tags a b g

theorem State.tile_setTile (t u : Nat) (h : TileHid) : (s.setTile t h).tile u = if u = t then h else s.tile u :=
  Store.get_put (fun _ => TileHid.init) s.tiles t u h

theorem State.stream_setStream (t st : Nat) (h : StreamHid) : (s.setStream t st h).stream t st = h :=
  Store.get_put_same (fun _ => StreamHid.init) s.strm (t * 8 + st) h

theorem State.eng_setEng (t e : Nat) (h : EngHid) : (s.setEng t e h).eng t e = h :=
  Store.get_put_same (fun _ => EngHid.init) s.engs (t * 2 + e) h

theorem State.vreg_setVreg (t e v : Nat) (r : VReg) : (s.setVreg t e v r).vreg t e v = r :=
  Store.get_put_same (fun _ => VReg.zero) s.vregs ((t * 2 + e) * 64 + v) r

theorem State.mreg_setMreg (t e m : Nat) (r : MReg) : (s.setMreg t e m r).mreg t e m = r :=
  Store.get_put_same (fun _ => MReg.zero) s.mregs ((t * 2 + e) * 16 + m) r

theorem State.mxau_setMxau (t : Nat) (u : MxaUnit) : (s.setMxau t u).mxau t = u :=
  Store.get_put_same (fun _ => MxaUnit.init) s.mxa t u

/-- A record kept beside the registers is read through register writes. -/
@[simp] theorem State.setReg_tile (a : Nat) (w : Word) (t : Nat) : (s.setReg a w).tile t = s.tile t := rfl
@[simp] theorem State.setReg_stream (a : Nat) (w : Word) (t st : Nat) : (s.setReg a w).stream t st = s.stream t st := rfl
@[simp] theorem State.setReg_eng (a : Nat) (w : Word) (t e : Nat) : (s.setReg a w).eng t e = s.eng t e := rfl
@[simp] theorem State.setReg_vreg (a : Nat) (w : Word) (t e v : Nat) : (s.setReg a w).vreg t e v = s.vreg t e v := rfl
@[simp] theorem State.setReg_mreg (a : Nat) (w : Word) (t e m : Nat) : (s.setReg a w).mreg t e m = s.mreg t e m := rfl
@[simp] theorem State.setReg_byte (a : Nat) (w : Word) (b : Nat) : (s.setReg a w).byte b = s.byte b := rfl
@[simp] theorem State.setTile_reg (t : Nat) (h : TileHid) (a : Nat) : (s.setTile t h).reg a = s.reg a := rfl
@[simp] theorem State.setTile_byte (t : Nat) (h : TileHid) (a : Nat) : (s.setTile t h).byte a = s.byte a := rfl
@[simp] theorem State.setTile_stream (t : Nat) (h : TileHid) (u st : Nat) : (s.setTile t h).stream u st = s.stream u st := rfl
@[simp] theorem State.setStream_reg (t st : Nat) (h : StreamHid) (a : Nat) : (s.setStream t st h).reg a = s.reg a := rfl
@[simp] theorem State.setStream_tile (t st : Nat) (h : StreamHid) (u : Nat) : (s.setStream t st h).tile u = s.tile u := rfl
@[simp] theorem State.setEng_reg (t e : Nat) (h : EngHid) (a : Nat) : (s.setEng t e h).reg a = s.reg a := rfl
@[simp] theorem State.setTag_reg (w : Nat) (g : WordTag) (a : Nat) : (s.setTag w g).reg a = s.reg a := rfl
@[simp] theorem State.setTag_byte (w : Nat) (g : WordTag) (a : Nat) : (s.setTag w g).byte a = s.byte a := rfl
@[simp] theorem State.setByte_reg (b : Nat) (v : Byte) (a : Nat) : (s.setByte b v).reg a = s.reg a := rfl

end

/-! ## Bit fields -/

theorem testBit_bitsOf (x lo width i : Nat) : (bitsOf x lo width).testBit i = (decide (i < width) && x.testBit (lo + i)) := by
  simp [bitsOf, Nat.testBit_mod_two_pow, Nat.testBit_shiftRight]

theorem testBit_putBits (w : Word) (lo width v i : Nat) (h : lo + width ≤ 64) (hi : i < 64) :
    (putBits w lo width v).toNat.testBit i = if lo ≤ i ∧ i < lo + width then v.testBit (i - lo) else w.toNat.testBit i := by
  rw [BitVec.testBit_toNat]
  simp only [putBits, BitVec.getLsbD_or, BitVec.getLsbD_and, BitVec.getLsbD_not, BitVec.getLsbD_ofNat, hi, decide_true,
    Bool.true_and, Nat.testBit_shiftLeft, Nat.testBit_two_pow_sub_one, Nat.testBit_mod_two_pow]
  rw [← BitVec.testBit_toNat]
  by_cases h1 : lo ≤ i
  · by_cases h2 : i < lo + width
    · have : i - lo < width := by omega
      simp [h1, h2, this]
    · have : ¬ i - lo < width := by omega
      simp [h1, h2, this]
  · simp [h1]

/-- A field read after it is written holds the value's low bits. -/
theorem bitsOf_putBits (w : Word) (lo width v : Nat) (h : lo + width ≤ 64) :
    bitsOf (putBits w lo width v).toNat lo width = v % 2 ^ width := by
  apply Nat.eq_of_testBit_eq
  intro i
  rw [testBit_bitsOf, Nat.testBit_mod_two_pow]
  by_cases hi : i < width
  · rw [testBit_putBits _ _ _ _ _ h (by omega)]
    have h1 : lo ≤ lo + i ∧ lo + i < lo + width := by omega
    simp [h1, hi]
  · simp [hi]

/-- A field apart from the one written is left alone. -/
theorem bitsOf_putBits_apart (w : Word) (lo width v lo' width' : Nat) (h : lo + width ≤ 64)
    (hd : lo' + width' ≤ lo ∨ lo + width ≤ lo') :
    bitsOf (putBits w lo width v).toNat lo' width' = bitsOf w.toNat lo' width' := by
  apply Nat.eq_of_testBit_eq
  intro i
  rw [testBit_bitsOf, testBit_bitsOf]
  by_cases hi : i < width'
  · by_cases h64 : lo' + i < 64
    · rw [testBit_putBits _ _ _ _ _ h h64]
      have h1 : ¬ (lo ≤ lo' + i ∧ lo' + i < lo + width) := by omega
      simp [h1]
    · simp only [hi, decide_true, Bool.true_and]
      rw [BitVec.testBit_toNat, BitVec.testBit_toNat, BitVec.getLsbD_of_ge _ _ (by omega), BitVec.getLsbD_of_ge _ _ (by omega)]
  · simp [hi]

section
variable (s : State)

/-- A field of a register read after it is set. -/
theorem State.fld_setFld_same (f : Field) (v : Nat) (h : f.lo + f.width ≤ 64) : (s.setFld f v).fld f = v % 2 ^ f.width := by
  simp [State.fld, State.setFld, bitsOf_putBits _ _ _ _ h]

/-- Another field of the same register is left alone. -/
theorem State.fld_setFld_apart (f g : Field) (v : Nat) (h : f.lo + f.width ≤ 64)
    (hd : g.lo + g.width ≤ f.lo ∨ f.lo + f.width ≤ g.lo) : (s.setFld f v).fld g = s.fld g := by
  unfold State.fld State.setFld
  rw [State.reg_setReg]
  split
  · next e => rw [bitsOf_putBits_apart _ _ _ _ _ _ h hd, e]
  · rfl

/-- A field of another register is left alone. -/
theorem State.fld_setFld_ne (f g : Field) (v : Nat) (h : g.addr ≠ f.addr) : (s.setFld f v).fld g = s.fld g := by
  unfold State.fld State.setFld
  rw [State.reg_setReg_ne s _ h]

/-- Setting a field writes its register alone. -/
theorem State.reg_setFld_ne (f : Field) (v b : Nat) (h : b ≠ f.addr) : (s.setFld f v).reg b = s.reg b :=
  State.reg_setReg_ne s _ h

theorem State.reg_incFld_ne (f : Field) (n b : Nat) (h : b ≠ f.addr) : (s.incFld f n).reg b = s.reg b :=
  State.reg_setFld_ne s f _ b h

theorem State.reg_set1_ne (f : Field) (b : Nat) (h : b ≠ f.addr) : (s.set1 f).reg b = s.reg b :=
  State.reg_setFld_ne s f _ b h

theorem State.reg_orFld_ne (f : Field) (v b : Nat) (h : b ≠ f.addr) : (s.orFld f v).reg b = s.reg b :=
  State.reg_setFld_ne s f _ b h

@[simp] theorem State.setFld_pending (f : Field) (v : Nat) : (s.setFld f v).pending = s.pending := rfl
@[simp] theorem State.setFld_mem (f : Field) (v : Nat) : (s.setFld f v).mem = s.mem := rfl
@[simp] theorem State.setFld_tags (f : Field) (v : Nat) : (s.setFld f v).tags = s.tags := rfl
@[simp] theorem State.setFld_memu (f : Field) (v : Nat) : (s.setFld f v).memu = s.memu := rfl
@[simp] theorem State.setFld_tide (f : Field) (v : Nat) : (s.setFld f v).tide = s.tide := rfl
@[simp] theorem State.setFld_tiles (f : Field) (v : Nat) : (s.setFld f v).tiles = s.tiles := rfl
@[simp] theorem State.setFld_strm (f : Field) (v : Nat) : (s.setFld f v).strm = s.strm := rfl
@[simp] theorem State.setFld_vregs (f : Field) (v : Nat) : (s.setFld f v).vregs = s.vregs := rfl
@[simp] theorem State.setFld_mregs (f : Field) (v : Nat) : (s.setFld f v).mregs = s.mregs := rfl
@[simp] theorem State.setFld_engs (f : Field) (v : Nat) : (s.setFld f v).engs = s.engs := rfl
@[simp] theorem State.setFld_ftq (f : Field) (v : Nat) : (s.setFld f v).ftq = s.ftq := rfl
@[simp] theorem State.setFld_mxa (f : Field) (v : Nat) : (s.setFld f v).mxa = s.mxa := rfl
@[simp] theorem State.setFld_acc (f : Field) (v : Nat) : (s.setFld f v).acc = s.acc := rfl
@[simp] theorem State.setFld_sfu (f : Field) (v : Nat) : (s.setFld f v).sfu = s.sfu := rfl
@[simp] theorem State.setFld_sfuMem (f : Field) (v : Nat) : (s.setFld f v).sfuMem = s.sfuMem := rfl
@[simp] theorem State.setFld_spe (f : Field) (v : Nat) : (s.setFld f v).spe = s.spe := rfl
@[simp] theorem State.setFld_cam (f : Field) (v : Nat) : (s.setFld f v).cam = s.cam := rfl
@[simp] theorem State.setFld_lxe (f : Field) (v : Nat) : (s.setFld f v).lxe = s.lxe := rfl
@[simp] theorem State.setFld_lxeId (f : Field) (v : Nat) : (s.setFld f v).lxeId = s.lxeId := rfl
@[simp] theorem State.setFld_fab (f : Field) (v : Nat) : (s.setFld f v).fab = s.fab := rfl
@[simp] theorem State.setFld_que (f : Field) (v : Nat) : (s.setFld f v).que = s.que := rfl
@[simp] theorem State.setFld_gre (f : Field) (v : Nat) : (s.setFld f v).gre = s.gre := rfl
@[simp] theorem State.setFld_pwr (f : Field) (v : Nat) : (s.setFld f v).pwr = s.pwr := rfl
@[simp] theorem State.setFld_mbox (f : Field) (v : Nat) : (s.setFld f v).mbox = s.mbox := rfl
@[simp] theorem State.setFld_proxy (f : Field) (v : Nat) : (s.setFld f v).proxy = s.proxy := rfl
@[simp] theorem State.setFld_mboxBad (f : Field) (v : Nat) : (s.setFld f v).mboxBad = s.mboxBad := rfl
@[simp] theorem State.setFld_fw (f : Field) (v : Nat) : (s.setFld f v).fw = s.fw := rfl
@[simp] theorem State.setFld_rep (f : Field) (v : Nat) : (s.setFld f v).rep = s.rep := rfl
@[simp] theorem State.setFld_mod (f : Field) (v : Nat) : (s.setFld f v).mod = s.mod := rfl
@[simp] theorem State.setFld_flash (f : Field) (v : Nat) : (s.setFld f v).flash = s.flash := rfl
@[simp] theorem State.setFld_census (f : Field) (v : Nat) : (s.setFld f v).census = s.census := rfl
@[simp] theorem State.setFld_linkFly (f : Field) (v : Nat) : (s.setFld f v).linkFly = s.linkFly := rfl
@[simp] theorem State.setFld_evt (f : Field) (v : Nat) : (s.setFld f v).evt = s.evt := rfl
@[simp] theorem State.setFld_host (f : Field) (v : Nat) : (s.setFld f v).host = s.host := rfl

@[simp] theorem State.set1_pending (f : Field) : (s.set1 f).pending = s.pending := rfl
@[simp] theorem State.set1_mem (f : Field) : (s.set1 f).mem = s.mem := rfl
@[simp] theorem State.set1_tags (f : Field) : (s.set1 f).tags = s.tags := rfl
@[simp] theorem State.set1_memu (f : Field) : (s.set1 f).memu = s.memu := rfl
@[simp] theorem State.set1_tide (f : Field) : (s.set1 f).tide = s.tide := rfl
@[simp] theorem State.set1_tiles (f : Field) : (s.set1 f).tiles = s.tiles := rfl
@[simp] theorem State.set1_strm (f : Field) : (s.set1 f).strm = s.strm := rfl
@[simp] theorem State.set1_vregs (f : Field) : (s.set1 f).vregs = s.vregs := rfl
@[simp] theorem State.set1_mregs (f : Field) : (s.set1 f).mregs = s.mregs := rfl
@[simp] theorem State.set1_engs (f : Field) : (s.set1 f).engs = s.engs := rfl
@[simp] theorem State.set1_ftq (f : Field) : (s.set1 f).ftq = s.ftq := rfl
@[simp] theorem State.set1_mxa (f : Field) : (s.set1 f).mxa = s.mxa := rfl
@[simp] theorem State.set1_acc (f : Field) : (s.set1 f).acc = s.acc := rfl
@[simp] theorem State.set1_sfu (f : Field) : (s.set1 f).sfu = s.sfu := rfl
@[simp] theorem State.set1_sfuMem (f : Field) : (s.set1 f).sfuMem = s.sfuMem := rfl
@[simp] theorem State.set1_spe (f : Field) : (s.set1 f).spe = s.spe := rfl
@[simp] theorem State.set1_cam (f : Field) : (s.set1 f).cam = s.cam := rfl
@[simp] theorem State.set1_lxe (f : Field) : (s.set1 f).lxe = s.lxe := rfl
@[simp] theorem State.set1_lxeId (f : Field) : (s.set1 f).lxeId = s.lxeId := rfl
@[simp] theorem State.set1_fab (f : Field) : (s.set1 f).fab = s.fab := rfl
@[simp] theorem State.set1_que (f : Field) : (s.set1 f).que = s.que := rfl
@[simp] theorem State.set1_gre (f : Field) : (s.set1 f).gre = s.gre := rfl
@[simp] theorem State.set1_pwr (f : Field) : (s.set1 f).pwr = s.pwr := rfl
@[simp] theorem State.set1_mbox (f : Field) : (s.set1 f).mbox = s.mbox := rfl
@[simp] theorem State.set1_proxy (f : Field) : (s.set1 f).proxy = s.proxy := rfl
@[simp] theorem State.set1_mboxBad (f : Field) : (s.set1 f).mboxBad = s.mboxBad := rfl
@[simp] theorem State.set1_fw (f : Field) : (s.set1 f).fw = s.fw := rfl
@[simp] theorem State.set1_rep (f : Field) : (s.set1 f).rep = s.rep := rfl
@[simp] theorem State.set1_mod (f : Field) : (s.set1 f).mod = s.mod := rfl
@[simp] theorem State.set1_flash (f : Field) : (s.set1 f).flash = s.flash := rfl
@[simp] theorem State.set1_census (f : Field) : (s.set1 f).census = s.census := rfl
@[simp] theorem State.set1_linkFly (f : Field) : (s.set1 f).linkFly = s.linkFly := rfl
@[simp] theorem State.set1_evt (f : Field) : (s.set1 f).evt = s.evt := rfl
@[simp] theorem State.set1_host (f : Field) : (s.set1 f).host = s.host := rfl

@[simp] theorem State.incFld_pending (f : Field) (n : Nat) : (s.incFld f n).pending = s.pending := rfl
@[simp] theorem State.incFld_mem (f : Field) (n : Nat) : (s.incFld f n).mem = s.mem := rfl
@[simp] theorem State.incFld_tags (f : Field) (n : Nat) : (s.incFld f n).tags = s.tags := rfl
@[simp] theorem State.incFld_memu (f : Field) (n : Nat) : (s.incFld f n).memu = s.memu := rfl
@[simp] theorem State.incFld_tide (f : Field) (n : Nat) : (s.incFld f n).tide = s.tide := rfl
@[simp] theorem State.incFld_tiles (f : Field) (n : Nat) : (s.incFld f n).tiles = s.tiles := rfl
@[simp] theorem State.incFld_strm (f : Field) (n : Nat) : (s.incFld f n).strm = s.strm := rfl
@[simp] theorem State.incFld_vregs (f : Field) (n : Nat) : (s.incFld f n).vregs = s.vregs := rfl
@[simp] theorem State.incFld_mregs (f : Field) (n : Nat) : (s.incFld f n).mregs = s.mregs := rfl
@[simp] theorem State.incFld_engs (f : Field) (n : Nat) : (s.incFld f n).engs = s.engs := rfl
@[simp] theorem State.incFld_ftq (f : Field) (n : Nat) : (s.incFld f n).ftq = s.ftq := rfl
@[simp] theorem State.incFld_mxa (f : Field) (n : Nat) : (s.incFld f n).mxa = s.mxa := rfl
@[simp] theorem State.incFld_acc (f : Field) (n : Nat) : (s.incFld f n).acc = s.acc := rfl
@[simp] theorem State.incFld_sfu (f : Field) (n : Nat) : (s.incFld f n).sfu = s.sfu := rfl
@[simp] theorem State.incFld_sfuMem (f : Field) (n : Nat) : (s.incFld f n).sfuMem = s.sfuMem := rfl
@[simp] theorem State.incFld_spe (f : Field) (n : Nat) : (s.incFld f n).spe = s.spe := rfl
@[simp] theorem State.incFld_cam (f : Field) (n : Nat) : (s.incFld f n).cam = s.cam := rfl
@[simp] theorem State.incFld_lxe (f : Field) (n : Nat) : (s.incFld f n).lxe = s.lxe := rfl
@[simp] theorem State.incFld_lxeId (f : Field) (n : Nat) : (s.incFld f n).lxeId = s.lxeId := rfl
@[simp] theorem State.incFld_fab (f : Field) (n : Nat) : (s.incFld f n).fab = s.fab := rfl
@[simp] theorem State.incFld_que (f : Field) (n : Nat) : (s.incFld f n).que = s.que := rfl
@[simp] theorem State.incFld_gre (f : Field) (n : Nat) : (s.incFld f n).gre = s.gre := rfl
@[simp] theorem State.incFld_pwr (f : Field) (n : Nat) : (s.incFld f n).pwr = s.pwr := rfl
@[simp] theorem State.incFld_mbox (f : Field) (n : Nat) : (s.incFld f n).mbox = s.mbox := rfl
@[simp] theorem State.incFld_proxy (f : Field) (n : Nat) : (s.incFld f n).proxy = s.proxy := rfl
@[simp] theorem State.incFld_mboxBad (f : Field) (n : Nat) : (s.incFld f n).mboxBad = s.mboxBad := rfl
@[simp] theorem State.incFld_fw (f : Field) (n : Nat) : (s.incFld f n).fw = s.fw := rfl
@[simp] theorem State.incFld_rep (f : Field) (n : Nat) : (s.incFld f n).rep = s.rep := rfl
@[simp] theorem State.incFld_mod (f : Field) (n : Nat) : (s.incFld f n).mod = s.mod := rfl
@[simp] theorem State.incFld_flash (f : Field) (n : Nat) : (s.incFld f n).flash = s.flash := rfl
@[simp] theorem State.incFld_census (f : Field) (n : Nat) : (s.incFld f n).census = s.census := rfl
@[simp] theorem State.incFld_linkFly (f : Field) (n : Nat) : (s.incFld f n).linkFly = s.linkFly := rfl
@[simp] theorem State.incFld_evt (f : Field) (n : Nat) : (s.incFld f n).evt = s.evt := rfl
@[simp] theorem State.incFld_host (f : Field) (n : Nat) : (s.incFld f n).host = s.host := rfl

@[simp] theorem State.orFld_pending (f : Field) (v : Nat) : (s.orFld f v).pending = s.pending := rfl
@[simp] theorem State.orFld_mem (f : Field) (v : Nat) : (s.orFld f v).mem = s.mem := rfl
@[simp] theorem State.orFld_tags (f : Field) (v : Nat) : (s.orFld f v).tags = s.tags := rfl
@[simp] theorem State.orFld_memu (f : Field) (v : Nat) : (s.orFld f v).memu = s.memu := rfl
@[simp] theorem State.orFld_tide (f : Field) (v : Nat) : (s.orFld f v).tide = s.tide := rfl
@[simp] theorem State.orFld_tiles (f : Field) (v : Nat) : (s.orFld f v).tiles = s.tiles := rfl
@[simp] theorem State.orFld_strm (f : Field) (v : Nat) : (s.orFld f v).strm = s.strm := rfl
@[simp] theorem State.orFld_vregs (f : Field) (v : Nat) : (s.orFld f v).vregs = s.vregs := rfl
@[simp] theorem State.orFld_mregs (f : Field) (v : Nat) : (s.orFld f v).mregs = s.mregs := rfl
@[simp] theorem State.orFld_engs (f : Field) (v : Nat) : (s.orFld f v).engs = s.engs := rfl
@[simp] theorem State.orFld_ftq (f : Field) (v : Nat) : (s.orFld f v).ftq = s.ftq := rfl
@[simp] theorem State.orFld_mxa (f : Field) (v : Nat) : (s.orFld f v).mxa = s.mxa := rfl
@[simp] theorem State.orFld_acc (f : Field) (v : Nat) : (s.orFld f v).acc = s.acc := rfl
@[simp] theorem State.orFld_sfu (f : Field) (v : Nat) : (s.orFld f v).sfu = s.sfu := rfl
@[simp] theorem State.orFld_sfuMem (f : Field) (v : Nat) : (s.orFld f v).sfuMem = s.sfuMem := rfl
@[simp] theorem State.orFld_spe (f : Field) (v : Nat) : (s.orFld f v).spe = s.spe := rfl
@[simp] theorem State.orFld_cam (f : Field) (v : Nat) : (s.orFld f v).cam = s.cam := rfl
@[simp] theorem State.orFld_lxe (f : Field) (v : Nat) : (s.orFld f v).lxe = s.lxe := rfl
@[simp] theorem State.orFld_lxeId (f : Field) (v : Nat) : (s.orFld f v).lxeId = s.lxeId := rfl
@[simp] theorem State.orFld_fab (f : Field) (v : Nat) : (s.orFld f v).fab = s.fab := rfl
@[simp] theorem State.orFld_que (f : Field) (v : Nat) : (s.orFld f v).que = s.que := rfl
@[simp] theorem State.orFld_gre (f : Field) (v : Nat) : (s.orFld f v).gre = s.gre := rfl
@[simp] theorem State.orFld_pwr (f : Field) (v : Nat) : (s.orFld f v).pwr = s.pwr := rfl
@[simp] theorem State.orFld_mbox (f : Field) (v : Nat) : (s.orFld f v).mbox = s.mbox := rfl
@[simp] theorem State.orFld_proxy (f : Field) (v : Nat) : (s.orFld f v).proxy = s.proxy := rfl
@[simp] theorem State.orFld_mboxBad (f : Field) (v : Nat) : (s.orFld f v).mboxBad = s.mboxBad := rfl
@[simp] theorem State.orFld_fw (f : Field) (v : Nat) : (s.orFld f v).fw = s.fw := rfl
@[simp] theorem State.orFld_rep (f : Field) (v : Nat) : (s.orFld f v).rep = s.rep := rfl
@[simp] theorem State.orFld_mod (f : Field) (v : Nat) : (s.orFld f v).mod = s.mod := rfl
@[simp] theorem State.orFld_flash (f : Field) (v : Nat) : (s.orFld f v).flash = s.flash := rfl
@[simp] theorem State.orFld_census (f : Field) (v : Nat) : (s.orFld f v).census = s.census := rfl
@[simp] theorem State.orFld_linkFly (f : Field) (v : Nat) : (s.orFld f v).linkFly = s.linkFly := rfl
@[simp] theorem State.orFld_evt (f : Field) (v : Nat) : (s.orFld f v).evt = s.evt := rfl
@[simp] theorem State.orFld_host (f : Field) (v : Nat) : (s.orFld f v).host = s.host := rfl

end

end Sys2Proof.Machine
end

