-- ==== Sys2Proof/Laws/Frame.lean ====
section
/-! SUPPORT. Frames: how they compose, and what the shared operations of logging, retiring and issuing leave alone. -/
namespace Sys2Proof.Machine

variable {parts : List Part} {touch : Nat → Prop} {s t u : State}

theorem OnlyChanges.refl : OnlyChanges parts touch s s := ⟨rfl, fun p _ => by cases p <;> rfl, fun _ _ => rfl⟩

theorem OnlyChanges.trans (h : OnlyChanges parts touch s t) (k : OnlyChanges parts touch t u) :
    OnlyChanges parts touch s u := by
  refine ⟨k.1.trans h.1, fun p hp => ?_, fun a ha => (k.2.2 a ha).trans (h.2.2 a ha)⟩
  have h1 := h.2.1 p hp
  have h2 := k.2.1 p hp
  cases p <;> exact h2.trans h1

theorem OnlyChanges.mono {ps : List Part} {f : Nat → Prop} (h : OnlyChanges parts touch s t) (hp : ∀ p ∈ parts, p ∈ ps)
    (hf : ∀ a, touch a → f a) : OnlyChanges ps f s t :=
  ⟨h.1, fun p n => h.2.1 p (fun m => n (hp p m)), fun a n => h.2.2 a (fun m => n (hf a m))⟩

/-- A register of the frame set. -/
theorem OnlyChanges.setReg {a : Nat} {w : Word} (h : OnlyChanges parts touch s t) (ha : touch a) :
    OnlyChanges parts touch s (t.setReg a w) := by
  refine ⟨h.1, fun p hp => ?_, fun b hb => ?_⟩
  · have := h.2.1 p hp; cases p <;> exact this
  · exact (State.reg_setReg_ne t w (fun e => hb (by subst e; exact ha))).trans (h.2.2 b hb)

theorem OnlyChanges.setFld {f : Field} {v : Nat} (h : OnlyChanges parts touch s t) (ha : touch f.addr) :
    OnlyChanges parts touch s (t.setFld f v) := h.setReg ha

theorem OnlyChanges.set1 {f : Field} (h : OnlyChanges parts touch s t) (ha : touch f.addr) :
    OnlyChanges parts touch s (t.set1 f) := h.setReg ha

theorem OnlyChanges.incFld {f : Field} {n : Nat} (h : OnlyChanges parts touch s t) (ha : touch f.addr) :
    OnlyChanges parts touch s (t.incFld f n) := h.setReg ha

theorem OnlyChanges.orFld {f : Field} {n : Nat} (h : OnlyChanges parts touch s t) (ha : touch f.addr) :
    OnlyChanges parts touch s (t.orFld f n) := h.setReg ha

theorem OnlyChanges.ite {c : Prop} [Decidable c] {a b : State} (ha : c → OnlyChanges parts touch s a)
    (hb : ¬c → OnlyChanges parts touch s b) : OnlyChanges parts touch s (if c then a else b) := by
  split
  · exact ha ‹_›
  · exact hb ‹_›

theorem OnlyChanges.foldl {α : Type} {f : State → α → State} {l : List α}
    (hf : ∀ u x, x ∈ l → OnlyChanges parts touch s u → OnlyChanges parts touch s (f u x)) (h : OnlyChanges parts touch s t) :
    OnlyChanges parts touch s (l.foldl f t) := by
  induction l generalizing t with
  | nil => exact h
  | cons a l ih =>
    exact ih (fun u x m => hf u x (List.mem_cons_of_mem _ m)) (hf t a List.mem_cons_self h)

/-- An update of parts of the frame, the queue and the registers standing. -/
theorem OnlyChanges.upd (h : OnlyChanges parts touch s t) (hq : u.pending = t.pending) (hr : u.regs = t.regs)
    (hp : ∀ p, p ∉ parts → p.same t u) : OnlyChanges parts touch s u :=
  h.trans ⟨hq, hp, fun a _ => by simp only [State.reg, hr]⟩

theorem OnlyChanges.setStream {a st : Nat} {r : StreamHid} (h : OnlyChanges parts touch s t) (hp : Part.strm ∈ parts) :
    OnlyChanges parts touch s (t.setStream a st r) :=
  h.upd rfl rfl (fun p n => by cases p <;> first | rfl | exact absurd hp n)

theorem OnlyChanges.setTile {a : Nat} {r : TileHid} (h : OnlyChanges parts touch s t) (hp : Part.tiles ∈ parts) :
    OnlyChanges parts touch s (t.setTile a r) :=
  h.upd rfl rfl (fun p n => by cases p <;> first | rfl | exact absurd hp n)

/-! ## Logging -/

section Log
variable (he : Part.evt ∈ parts) (hh : Part.host ∈ parts) (hl : ∀ a, logReg a → touch a)
include he hl

omit hl in
theorem OnlyChanges.noteTrigger {c d : Nat} (h : OnlyChanges parts touch s t) : OnlyChanges parts touch s (t.noteTrigger c d) := by
  unfold State.noteTrigger
  exact .ite (fun _ => h.upd rfl rfl (fun p n => by cases p <;> first | rfl | exact absurd he n)) (fun _ => h)

theorem OnlyChanges.arise {src : Nat} {r : BitVec 256} (h : OnlyChanges parts touch s t) :
    OnlyChanges parts touch s (t.arise src r) := by
  unfold State.arise
  refine .ite (fun _ => h.upd rfl rfl (fun p n => by cases p <;> first | rfl | exact absurd he n)) (fun _ => ?_)
  refine (OnlyChanges.set1 (f := F.EVT_STATUS_LOST) (h.incFld (f := F.EVT_CNT_SRC_DROP) (n := 1) (hl _ (.inl rfl)))
    (hl _ (.inr (.inl rfl)))).upd rfl rfl (fun p n => by cases p <;> first | rfl | exact absurd he n)

include hh

omit he in
theorem OnlyChanges.signal {v : Nat} (h : OnlyChanges parts touch s t) : OnlyChanges parts touch s (t.signal v) := by
  unfold State.signal
  refine .ite (fun _ => h.upd rfl rfl (fun p n => by cases p <;> first | rfl | exact absurd hh n)) (fun _ => ?_)
  exact h.setReg (hl _ (.inr (.inr rfl)))

theorem OnlyChanges.logAt {tide src code : Nat} {host : Bool} {d : List (Nat × Nat)} (h : OnlyChanges parts touch s t) :
    OnlyChanges parts touch s (t.logAt tide src code host d) := by
  have k := (h.arise he hl (src := src) (r := mkRecord tide src code (b2n host + 2 * t.fld F.EVT_STATUS_REPLAY_RUN)
    (packDetail d 0))).noteTrigger he (c := code) (d := tide)
  unfold State.logAt
  exact .ite (fun _ => k.signal hh hl) (fun _ => k)

theorem OnlyChanges.logTile {a code : Nat} {host : Bool} {d : List (Nat × Nat)} (h : OnlyChanges parts touch s t) :
    OnlyChanges parts touch s (t.logTile a code host d) := h.logAt he hh hl

theorem OnlyChanges.logDev {src code : Nat} {host : Bool} {d : List (Nat × Nat)} (h : OnlyChanges parts touch s t) :
    OnlyChanges parts touch s (t.logDev src code host d) := h.logAt he hh hl

theorem OnlyChanges.logDeliv {src code : Nat} {host : Bool} {d : List (Nat × Nat)} (h : OnlyChanges parts touch s t) :
    OnlyChanges parts touch s (t.logDeliv src code host d) := h.logAt he hh hl

omit hh hl in
theorem OnlyChanges.oncePerTide {k : Nat × Nat × Nat} {f : State → State} (h : OnlyChanges parts touch s t)
    (hf : ∀ u, OnlyChanges parts touch s u → OnlyChanges parts touch s (f u)) :
    OnlyChanges parts touch s (t.oncePerTide k f) := by
  unfold State.oncePerTide
  exact .ite (fun _ => h) (fun _ => hf _ (h.upd rfl rfl (fun p n => by cases p <;> first | rfl | exact absurd he n)))

end Log

/-! ## A stream's own registers -/

section Stream
variable {a st : Nat} (hp : Part.strm ∈ parts) (he : Part.evt ∈ parts) (hh : Part.host ∈ parts)
  (hr : ∀ x, streamReg a st x → touch x)
include hr

theorem OnlyChanges.countEv {sel k n : Nat} (h : OnlyChanges parts touch s t) :
    OnlyChanges parts touch s (t.countEv a sel k n) := by
  refine .foldl (fun u i hi k => .ite (fun _ => k.incFld (hr _ (.inr (.inr (.inl ⟨i, List.mem_range.1 hi, rfl⟩)))))
    (fun _ => k)) h

theorem OnlyChanges.setStState {v : Nat} (h : OnlyChanges parts touch s t) : OnlyChanges parts touch s (t.setStState a st v) :=
  h.setFld (hr _ (.inl rfl))

include hp

omit hp in
theorem OnlyChanges.countHeld {rs : List Nat} {free : Nat} (h : OnlyChanges parts touch s t) :
    OnlyChanges parts touch s (t.countHeld a st rs free) := by
  have one (sel d : Nat) {u : State} (k : OnlyChanges parts touch s u) :
      OnlyChanges parts touch s (if d = 0 then u else u.countEv a sel st d) := .ite (fun _ => k) (fun _ => k.countEv hr)
  unfold State.countHeld
  exact one _ _ (one _ _ h)

theorem OnlyChanges.countIssue (h : OnlyChanges parts touch s t) : OnlyChanges parts touch s (t.countIssue a st) :=
  ((h.incFld (hr _ (.inr (.inl rfl)))).countEv hr).setStream hp

theorem OnlyChanges.haltNow {v : Nat} (h : OnlyChanges parts touch s t) : OnlyChanges parts touch s (t.haltNow a st v) :=
  ((h.setStream hp).setStState hr).setFld (hr _ (.inl rfl))

theorem OnlyChanges.haltDrain {v : Nat} (h : OnlyChanges parts touch s t) : OnlyChanges parts touch s (t.haltDrain a st v) := by
  unfold State.haltDrain
  exact .ite (fun _ => h.haltNow hp hr) (fun _ => (h.setStream hp).setStState hr)

theorem OnlyChanges.breakDrain {v : Nat} (h : OnlyChanges parts touch s t) :
    OnlyChanges parts touch s (t.breakDrain a st v) := (h.setStream hp).setStState hr

theorem OnlyChanges.setLoops {ls : List LoopLevel} (h : OnlyChanges parts touch s t) :
    OnlyChanges parts touch s (t.setLoops a st ls) := (h.setStream hp).setFld (hr _ (.inl rfl))

include he hh

theorem OnlyChanges.errStop {r c : Nat} {d : List (Nat × Nat)} (h : OnlyChanges parts touch s t) :
    OnlyChanges parts touch s (t.errStop a st r c d) :=
  (h.logTile he hh (fun x k => hr x (.inr (.inr (.inr k))))).haltDrain hp hr

theorem OnlyChanges.setPc {p : Nat} (h : OnlyChanges parts touch s t) : OnlyChanges parts touch s (t.setPc a st p) := by
  have k := h.setFld (f := F.TSQ_STREAM_STATUS_PC a st) (v := p) (hr _ (.inl rfl))
  unfold State.setPc
  exact .ite (fun _ => k) (fun _ => (k.logTile he hh (fun x k => hr x (.inr (.inr (.inr k))))).haltDrain hp hr)

theorem OnlyChanges.retire {p : Nat} (h : OnlyChanges parts touch s t) : OnlyChanges parts touch s (t.retire a st p) := by
  have k (h0 : StreamHid) (ls : List LoopLevel) (q : Nat) :
      OnlyChanges parts touch s ((((t.setStream a st h0).setStState a st stRUN).setLoops a st ls).setPc a st q) :=
    (((h.setStream hp).setStState hr).setLoops hp hr).setPc hp he hh hr
  unfold State.retire
  extract_lets r src s0 s1 n
  have k1 : OnlyChanges parts touch s s1 := k _ _ _
  clear_value s1
  exact .ite (fun _ => k1) (fun _ => .ite (fun _ => k1.breakDrain hp hr)
    (fun _ => .ite (fun _ => (k1.setStream hp).breakDrain hp hr) (fun _ => k1)))

theorem OnlyChanges.retireNext (h : OnlyChanges parts touch s t) : OnlyChanges parts touch s (t.retireNext a st) :=
  h.retire hp he hh hr

end Stream

/-! ## Scalar registers and issue -/

theorem OnlyChanges.setSreg {a st n : Nat} {w : Word} (h : OnlyChanges parts touch s t)
    (ha : n ≠ 0 → touch (R.TSQ_SREG a st n)) : OnlyChanges parts touch s (t.setSreg a st n w) := by
  unfold State.setSreg
  exact .ite (fun _ => h) (fun k => h.setReg (ha k))

theorem OnlyChanges.setSregAt {a st n lat : Nat} {w : Word} (h : OnlyChanges parts touch s t) (hp : Part.strm ∈ parts)
    (ha : n ≠ 0 → touch (R.TSQ_SREG a st n)) : OnlyChanges parts touch s (t.setSregAt a st n lat w) := by
  unfold State.setSregAt
  exact .ite (fun _ => h.setSreg ha) (fun _ => (h.setSreg ha).setStream hp)

/-- Holding a result's readers changes no scalar register. -/
theorem setSregAt_sreg {s : State} {a st n lat b sb m : Nat} {w : Word} :
    (s.setSregAt a st n lat w).sreg b sb m = (s.setSreg a st n w).sreg b sb m := by
  unfold State.setSregAt
  split <;> rfl

/-- No scalar register is among the registers following an instruction may write. -/
theorem sreg_not_streamReg (t : Fin 144) (st : Fin 8) (n : BitVec 5) (k : Fin 8): ¬ streamReg t st (R.TSQ_SREG t k n.toNat) := by
  have := t.isLt; have := st.isLt; have := k.isLt; have := n.isLt
  simp only [streamReg, logReg, R.TSQ_SREG, R.TSQ_STREAM_STATUS, R.TSQ_STREAM_ICOUNT, R.TSQ_EVCNT_VALUE, R.EVT_CNT, R.EVT_STATUS, R.MBX_PBA]
  rintro (h | h | ⟨i, h1, h⟩ | h | h | h) <;> omega

theorem issue_issues {s : State} {i : Iss} (h : Issues s i) (rs : List Nat) (f : State → State) :
    s.issue i rs f = f (((s.advance i.t i.ac).countHeld i.t i.st rs 0).countIssue i.t i.st) := by
  simp [State.issue, h.1, h.2]

theorem sreg_congr {s u : State} {t st n : Nat} (h : u.reg (R.TSQ_SREG t st n) = s.reg (R.TSQ_SREG t st n)) :
   u.sreg t st n = s.sreg t st n := by simp [State.sreg, h]

/-- A scalar operation that issues: SD's new value, and what else changes. -/
theorem scalarOpAt_spec (i : Iss) (a : ScalarArgs) (rs : List Nat) (lat : Nat) (f) (s : State) (h : Issues s i) :
    let s0 := s.advance i.t i.ac
    let u := s.scalarOpAt i a rs lat f
    u.sreg i.t i.st a.sd.toNat = (if a.sd = 0 then 0 else f (s0.sreg i.t i.st a.sd.toNat) (s0.sreg i.t i.st a.sa.toNat)
      (if a.i then a.imm.signExtend 64 else s0.sreg i.t i.st a.sb.toNat))
    ∧ OnlyChanges [.strm, .evt, .host] (fun b => streamReg i.t i.st b ∨ (a.sd ≠ 0 ∧ b = R.TSQ_SREG i.t i.st a.sd.toNat)) s0 u := by
  intro s0 u
  have hc : OnlyChanges [.strm] (streamReg i.t i.st) s0 ((s0.countHeld i.t i.st rs 0).countIssue i.t i.st) :=
    (OnlyChanges.refl.countHeld (fun _ h => h)).countIssue (by simp) (fun _ h => h)
  have hs (n : BitVec 5) : ((s0.countHeld i.t i.st rs 0).countIssue i.t i.st).sreg i.t i.st n.toNat = s0.sreg i.t i.st n.toNat :=
    sreg_congr (hc.2.2 _ (sreg_not_streamReg _ _ n _))
  have hz : a.sd = 0 ↔ a.sd.toNat = 0 := by simp [← BitVec.toNat_inj]
  simp only [u, State.scalarOpAt, issue_issues h]
  constructor
  · simp only [State.opA, State.opB]
    rw [hs, hs, hs]
    generalize f _ _ _ = v
    have k := (OnlyChanges.refl (s := ((s0.countHeld i.t i.st rs 0).countIssue i.t i.st).setSregAt i.t i.st a.sd.toNat lat v)
      (parts := [.strm, .evt, .host])).retireNext (a := i.t) (st := i.st) (by simp) (by simp) (by simp) (fun _ h => h)
    rw [sreg_congr (k.2.2 _ (sreg_not_streamReg _ _ a.sd _)), setSregAt_sreg]
    simp only [State.setSreg, State.sreg, hz]
    by_cases e : a.sd.toNat = 0 <;> simp [e]
  · exact (OnlyChanges.setSregAt (hc.mono (by simp) (fun _ h => Or.inl h)) (by simp)
      (fun k => Or.inr ⟨fun e => k (hz.1 e), rfl⟩)).retireNext (by simp) (by simp) (by simp) (fun _ h => Or.inl h)

/-- The same of latency 1. -/
theorem scalarOp_spec (i : Iss) (a : ScalarArgs) (f) (s : State) (h : Issues s i) :
    let s0 := s.advance i.t i.ac
    (s.scalarOp i a f).sreg i.t i.st a.sd.toNat = (if a.sd = 0 then 0 else f (s0.sreg i.t i.st a.sd.toNat)
      (s0.sreg i.t i.st a.sa.toNat) (if a.i then a.imm.signExtend 64 else s0.sreg i.t i.st a.sb.toNat))
    ∧ OnlyChanges [.strm, .evt, .host] (fun b => streamReg i.t i.st b ∨ (a.sd ≠ 0 ∧ b = R.TSQ_SREG i.t i.st a.sd.toNat)) s0
      (s.scalarOp i a f) := scalarOpAt_spec i a _ _ f s h

end Sys2Proof.Machine
end

