-- ==== Sys2Proof/Laws/Keep.lean ====
section
/-! SUPPORT. What every operation of the model keeps, said once: the queue of waiting commands, and the canonical form
of every store. The files Keep<File>.lean say it of each operation. -/
namespace Sys2Proof.Machine

/-- What an operation keeps: a queue of waiting commands, and a reason for every store to be in canonical form. -/
structure Kept where
  queue : List Instr
  canon : Prop

/-- The state's queue is the one kept, and every store is in canonical form where there is reason for it. -/
def Holds (ps : Kept) (s : State) : Prop := s.pending = ps.queue ∧ (ps.canon → s.canonical)

/-- The outcome is a next state that holds them. -/
def Done (ps : Kept) (o : Host.Outcome State Fault Refusal) : Prop := ∃ t, o = .next t ∧ Holds ps t

/-- A state that may be answered holds them. -/
def Opt (ps : Kept) (o : Option State) : Prop := ∀ t, o = some t → Holds ps t

theorem Opt.some {ps : Kept} {t : State} (h : Holds ps t) : Opt ps (some t) := fun _ e => Option.some.inj e ▸ h

theorem Opt.none {ps : Kept} : Opt ps none := fun _ e => nomatch e

theorem Opt.ite {ps : Kept} {c : Prop} [Decidable c] {a b : Option State} (ha : c → Opt ps a) (hb : ¬c → Opt ps b) :
    Opt ps (if c then a else b) := by
  split
  · exact ha ‹_›
  · exact hb ‹_›

theorem Opt.get {ps : Kept} {o : Option State} {t : State} (e : o = Option.some t) (h : Opt ps o) : Holds ps t := h t e

theorem Done.next {ps : Kept} {t : State} (h : Holds ps t) : Done ps (.next t) := ⟨t, rfl, h⟩

/-- An update of any other part of the state. -/
theorem Holds.upd {ps : Kept} {x : State} {a0} {a1} {a2} {a3} {a4} {a5} {a6} {a7} {a8} {a9} {a10} {a11} {a12} (h : Holds ps x) :
    Holds ps (State.mk x.pending x.regs x.mem x.tags a0 a1 x.tiles x.strm x.vregs x.mregs x.engs x.ftq x.mxa x.acc x.sfu x.sfuMem x.spe x.cam x.lxe a2 a3 a4 a5 a6 x.mbox x.proxy x.mboxBad a7 a8 a9 x.flash x.census a10 a11 a12) := h

/-- An update that takes registers back to their reset values, and any other part of the state. -/
theorem Holds.updRegs {ps : Kept} {x : State} {f : Nat × Word → Bool} {a0} {a1} {a2} {a3} {a4} {a5} {a6} {a7} {a8} {a9} {a10} {a11} {a12} (h : Holds ps x) :
    Holds ps (State.mk x.pending (x.regs.filter f) x.mem x.tags a0 a1 x.tiles x.strm x.vregs x.mregs x.engs x.ftq x.mxa x.acc x.sfu x.sfuMem x.spe x.cam x.lxe a2 a3 a4 a5 a6 x.mbox x.proxy x.mboxBad a7 a8 a9 x.flash x.census a10 a11 a12) := by
  refine ⟨h.1, fun hc => ?_⟩
  obtain ⟨k0, k1, k2, k3, k4, k5, k6, k7, k8, k9, k10, k11, k12, k13, k14, k15, k16, k17, k18, k19, k20⟩ := h.2 hc
  exact ⟨Store.wf_filter _ _ _ k0, k1, k2, k3, k4, k5, k6, k7, k8, k9, k10, k11, k12, k13, k14, k15, k16, k17, k18, k19, k20⟩

theorem Holds.ite {ps : Kept} {c : Prop} [Decidable c] {a b : State} (ha : c → Holds ps a) (hb : ¬c → Holds ps b) :
    Holds ps (if c then a else b) := by
  split
  · exact ha ‹_›
  · exact hb ‹_›

theorem Done.ite {ps : Kept} {c : Prop} [Decidable c] {a b : Host.Outcome State Fault Refusal} (ha : c → Done ps a)
    (hb : ¬c → Done ps b) : Done ps (if c then a else b) := by
  split
  · exact ha ‹_›
  · exact hb ‹_›

theorem Holds.ite1 {ps : Kept} {β : Type} {c : Prop} [Decidable c] {a b : State × β} (ha : c → Holds ps a.1)
    (hb : ¬c → Holds ps b.1) : Holds ps (if c then a else b).1 := by
  split
  · exact ha ‹_›
  · exact hb ‹_›

theorem Holds.pair {ps : Kept} {β : Type} {p : State × β} {s : State} {b : β} (e : p = (s, b)) (h : Holds ps p.1) :
    Holds ps s := by
  subst e
  exact h

theorem Holds.foldl {ps : Kept} {α : Type} {f : State → α → State} {l : List α} {s : State}
    (hf : ∀ s x, Holds ps s → Holds ps (f s x)) (h : Holds ps s) : Holds ps (l.foldl f s) := by
  induction l generalizing s with
  | nil => exact h
  | cons a l ih => exact ih (hf s a h)

theorem Holds.foldl1 {ps : Kept} {α β : Type} {f : State × β → α → State × β} {l : List α} {p : State × β}
    (hf : ∀ p x, Holds ps p.1 → Holds ps (f p x).1) (h : Holds ps p.1) : Holds ps (l.foldl f p).1 := by
  induction l generalizing p with
  | nil => exact h
  | cons a l ih => exact ih (hf p a h)

theorem Opt.foldl {ps : Kept} {α : Type} {f : State → α → Option State} {l : List α} {o : Option State}
    (hf : ∀ s x, Holds ps s → Opt ps (f s x)) (h : Opt ps o) : Opt ps (l.foldl (fun r x => r.bind (fun s => f s x)) o) := by
  induction l generalizing o with
  | nil => exact h
  | cons a l ih =>
    refine ih ?_
    cases o with
    | none => exact Opt.none
    | some s => exact hf s a (h s rfl)

theorem State.setReg_holds {ps : Kept} {s : State} {a : Nat} {w : Word} (h : Holds ps s) : Holds ps (s.setReg a w) := by
  refine ⟨h.1, fun hc => ?_⟩
  obtain ⟨k0, k1, k2, k3, k4, k5, k6, k7, k8, k9, k10, k11, k12, k13, k14, k15, k16, k17, k18, k19, k20⟩ := h.2 hc
  exact ⟨Store.wf_put _ _ _ _ k0, k1, k2, k3, k4, k5, k6, k7, k8, k9, k10, k11, k12, k13, k14, k15, k16, k17, k18, k19, k20⟩

theorem State.setByte_holds {ps : Kept} {s : State} {a : Nat} {b : Byte} (h : Holds ps s) : Holds ps (s.setByte a b) := by
  refine ⟨h.1, fun hc => ?_⟩
  obtain ⟨k0, k1, k2, k3, k4, k5, k6, k7, k8, k9, k10, k11, k12, k13, k14, k15, k16, k17, k18, k19, k20⟩ := h.2 hc
  exact ⟨k0, Store.wf_put _ _ _ _ k1, k2, k3, k4, k5, k6, k7, k8, k9, k10, k11, k12, k13, k14, k15, k16, k17, k18, k19, k20⟩

end Sys2Proof.Machine
end

