-- ==== Sys2Proof/Laws/KeepOps.lean ====
section
/-! SUPPORT. What the operations of Machine/Ops.lean keep. -/
set_option linter.unusedTactic false
set_option linter.unreachableTactic false
set_option linter.unusedVariables false
namespace Sys2Proof.Machine

theorem State.setFld_holds {ps : Kept} {s : State} {f : Field} {v : Nat} (hq : Holds ps s) :
    Holds ps (State.setFld s f v) := by
  unfold State.setFld
  repeat' first
    | with_reducible first
      | assumption | apply Holds.ite | apply State.setReg_holds
    | intro _ | dsimp only

theorem State.set1_holds {ps : Kept} {s : State} {f : Field} (hq : Holds ps s) :
    Holds ps (State.set1 s f) := by
  unfold State.set1
  repeat' first
    | with_reducible first
      | assumption | apply Holds.ite | apply State.setFld_holds
    | intro _ | dsimp only

theorem State.incFld_holds {ps : Kept} {s : State} {f : Field} {n : Nat} (hq : Holds ps s) :
    Holds ps (State.incFld s f n) := by
  unfold State.incFld
  repeat' first
    | with_reducible first
      | assumption | apply Holds.ite | apply State.setFld_holds
    | intro _ | dsimp only

theorem State.orFld_holds {ps : Kept} {s : State} {f : Field} {v : Nat} (hq : Holds ps s) :
    Holds ps (State.orFld s f v) := by
  unfold State.orFld
  repeat' first
    | with_reducible first
      | assumption | apply Holds.ite | apply State.setFld_holds
    | intro _ | dsimp only

theorem State.takeFresh_holds {ps : Kept} {s : State} (hq : Holds ps s) :
    Holds ps (State.takeFresh s).1 := by
  unfold State.takeFresh
  repeat' first
    | with_reducible first
      | assumption | apply Holds.ite | apply Holds.ite1 | apply Holds.foldl1
    | fail_if_no_progress with_reducible apply Holds.upd | intro _ | dsimp only

theorem State.setTile_holds {ps : Kept} {s : State} {t : Nat} {u : TileHid} (h : Holds ps s) : Holds ps (s.setTile t u) := by
  refine ⟨h.1, fun hc => ?_⟩
  obtain ⟨k0, k1, k2, k3, k4, k5, k6, k7, k8, k9, k10, k11, k12, k13, k14, k15, k16, k17, k18, k19, k20⟩ := h.2 hc
  exact ⟨k0, k1, k2, Store.wf_put _ _ _ _ k3, k4, k5, k6, k7, k8, k9, k10, k11, k12, k13, k14, k15, k16, k17, k18, k19, k20⟩

theorem State.setStream_holds {ps : Kept} {s : State} {t st : Nat} {u : StreamHid} (h : Holds ps s) : Holds ps (s.setStream t st u) := by
  refine ⟨h.1, fun hc => ?_⟩
  obtain ⟨k0, k1, k2, k3, k4, k5, k6, k7, k8, k9, k10, k11, k12, k13, k14, k15, k16, k17, k18, k19, k20⟩ := h.2 hc
  exact ⟨k0, k1, k2, k3, Store.wf_put _ _ _ _ k4, k5, k6, k7, k8, k9, k10, k11, k12, k13, k14, k15, k16, k17, k18, k19, k20⟩

theorem State.setEng_holds {ps : Kept} {s : State} {t e : Nat} {u : EngHid} (h : Holds ps s) : Holds ps (s.setEng t e u) := by
  refine ⟨h.1, fun hc => ?_⟩
  obtain ⟨k0, k1, k2, k3, k4, k5, k6, k7, k8, k9, k10, k11, k12, k13, k14, k15, k16, k17, k18, k19, k20⟩ := h.2 hc
  exact ⟨k0, k1, k2, k3, k4, k5, k6, Store.wf_put _ _ _ _ k7, k8, k9, k10, k11, k12, k13, k14, k15, k16, k17, k18, k19, k20⟩

theorem State.setVreg_holds {ps : Kept} {s : State} {t e v : Nat} {u : VReg} (h : Holds ps s) : Holds ps (s.setVreg t e v u) := by
  refine ⟨h.1, fun hc => ?_⟩
  obtain ⟨k0, k1, k2, k3, k4, k5, k6, k7, k8, k9, k10, k11, k12, k13, k14, k15, k16, k17, k18, k19, k20⟩ := h.2 hc
  exact ⟨k0, k1, k2, k3, k4, Store.wf_put _ _ _ _ k5, k6, k7, k8, k9, k10, k11, k12, k13, k14, k15, k16, k17, k18, k19, k20⟩

theorem State.setMreg_holds {ps : Kept} {s : State} {t e v : Nat} {u : MReg} (h : Holds ps s) : Holds ps (s.setMreg t e v u) := by
  refine ⟨h.1, fun hc => ?_⟩
  obtain ⟨k0, k1, k2, k3, k4, k5, k6, k7, k8, k9, k10, k11, k12, k13, k14, k15, k16, k17, k18, k19, k20⟩ := h.2 hc
  exact ⟨k0, k1, k2, k3, k4, k5, Store.wf_put _ _ _ _ k6, k7, k8, k9, k10, k11, k12, k13, k14, k15, k16, k17, k18, k19, k20⟩

theorem State.setFtqBank_holds {ps : Kept} {s : State} {t b : Nat} {u : FtqBank} (h : Holds ps s) : Holds ps (s.setFtqBank t b u) := by
  refine ⟨h.1, fun hc => ?_⟩
  obtain ⟨k0, k1, k2, k3, k4, k5, k6, k7, k8, k9, k10, k11, k12, k13, k14, k15, k16, k17, k18, k19, k20⟩ := h.2 hc
  exact ⟨k0, k1, k2, k3, k4, k5, k6, k7, Store.wf_put _ _ _ _ k8, k9, k10, k11, k12, k13, k14, k15, k16, k17, k18, k19, k20⟩

theorem State.setMxau_holds {ps : Kept} {s : State} {t : Nat} {u : MxaUnit} (h : Holds ps s) : Holds ps (s.setMxau t u) := by
  refine ⟨h.1, fun hc => ?_⟩
  obtain ⟨k0, k1, k2, k3, k4, k5, k6, k7, k8, k9, k10, k11, k12, k13, k14, k15, k16, k17, k18, k19, k20⟩ := h.2 hc
  exact ⟨k0, k1, k2, k3, k4, k5, k6, k7, k8, Store.wf_put _ _ _ _ k9, k10, k11, k12, k13, k14, k15, k16, k17, k18, k19, k20⟩

theorem State.setAccWord_holds {ps : Kept} {s : State} {t b w v : Nat} (h : Holds ps s) : Holds ps (s.setAccWord t b w v) := by
  refine ⟨h.1, fun hc => ?_⟩
  obtain ⟨k0, k1, k2, k3, k4, k5, k6, k7, k8, k9, k10, k11, k12, k13, k14, k15, k16, k17, k18, k19, k20⟩ := h.2 hc
  exact ⟨k0, k1, k2, k3, k4, k5, k6, k7, k8, k9, Store.wf_put _ _ _ _ k10, k11, k12, k13, k14, k15, k16, k17, k18, k19, k20⟩

theorem State.setSfuu_holds {ps : Kept} {s : State} {t : Nat} {u : SfuUnit} (h : Holds ps s) : Holds ps (s.setSfuu t u) := by
  refine ⟨h.1, fun hc => ?_⟩
  obtain ⟨k0, k1, k2, k3, k4, k5, k6, k7, k8, k9, k10, k11, k12, k13, k14, k15, k16, k17, k18, k19, k20⟩ := h.2 hc
  exact ⟨k0, k1, k2, k3, k4, k5, k6, k7, k8, k9, k10, Store.wf_put _ _ _ _ k11, k12, k13, k14, k15, k16, k17, k18, k19, k20⟩

theorem State.setSfuByte_holds {ps : Kept} {s : State} {t b o : Nat} {u : Byte} (h : Holds ps s) : Holds ps (s.setSfuByte t b o u) := by
  refine ⟨h.1, fun hc => ?_⟩
  obtain ⟨k0, k1, k2, k3, k4, k5, k6, k7, k8, k9, k10, k11, k12, k13, k14, k15, k16, k17, k18, k19, k20⟩ := h.2 hc
  exact ⟨k0, k1, k2, k3, k4, k5, k6, k7, k8, k9, k10, k11, Store.wf_put _ _ _ _ k12, k13, k14, k15, k16, k17, k18, k19, k20⟩

theorem State.setSpeRun_holds {ps : Kept} {s : State} {t : Nat} {u : Option SpeRun} (h : Holds ps s) : Holds ps (s.setSpeRun t u) := by
  refine ⟨h.1, fun hc => ?_⟩
  obtain ⟨k0, k1, k2, k3, k4, k5, k6, k7, k8, k9, k10, k11, k12, k13, k14, k15, k16, k17, k18, k19, k20⟩ := h.2 hc
  exact ⟨k0, k1, k2, k3, k4, k5, k6, k7, k8, k9, k10, k11, k12, Store.wf_put _ _ _ _ k13, k14, k15, k16, k17, k18, k19, k20⟩

theorem State.setCamKey_holds {ps : Kept} {s : State} {t k v : Nat} (h : Holds ps s) : Holds ps (s.setCamKey t k v) := by
  refine ⟨h.1, fun hc => ?_⟩
  obtain ⟨k0, k1, k2, k3, k4, k5, k6, k7, k8, k9, k10, k11, k12, k13, k14, k15, k16, k17, k18, k19, k20⟩ := h.2 hc
  exact ⟨k0, k1, k2, k3, k4, k5, k6, k7, k8, k9, k10, k11, k12, k13, Store.wf_put _ _ _ _ k14, k15, k16, k17, k18, k19, k20⟩

theorem State.censusAdd_holds {ps : Kept} {s : State} {t f c n : Nat} (h : Holds ps s) : Holds ps (s.censusAdd t f c n) := by
  unfold State.censusAdd
  refine Holds.ite (fun _ => h) (fun _ => ?_)
  refine ⟨h.1, fun hc => ?_⟩
  obtain ⟨k0, k1, k2, k3, k4, k5, k6, k7, k8, k9, k10, k11, k12, k13, k14, k15, k16, k17, k18, k19, k20⟩ := h.2 hc
  exact ⟨k0, k1, k2, k3, k4, k5, k6, k7, k8, k9, k10, k11, k12, k13, k14, k15, k16, k17, k18, k19, Store.wf_put _ _ _ _ k20⟩

theorem State.setSreg_holds {ps : Kept} {s : State} {t st n : Nat} {w : Word} (hq : Holds ps s) :
    Holds ps (State.setSreg s t st n w) := by
  unfold State.setSreg
  repeat' first
    | with_reducible first
      | assumption | apply Holds.ite | apply State.setReg_holds
    | intro _ | split | dsimp only

theorem State.sendVector_holds {ps : Kept} {s : State} {v : Nat} (hq : Holds ps s) :
    Holds ps (State.sendVector s v) := by
  unfold State.sendVector
  repeat' first
    | with_reducible first
      | assumption | apply Holds.ite
    | fail_if_no_progress with_reducible apply Holds.upd | intro _ | split | dsimp only

theorem State.pendVector_holds {ps : Kept} {s : State} {v : Nat} (hq : Holds ps s) :
    Holds ps (State.pendVector s v) := by
  unfold State.pendVector
  repeat' first
    | with_reducible first
      | assumption | apply Holds.ite | apply State.setReg_holds
    | intro _ | dsimp only

theorem State.signal_holds {ps : Kept} {s : State} {v : Nat} (hq : Holds ps s) :
    Holds ps (State.signal s v) := by
  unfold State.signal
  repeat' first
    | with_reducible first
      | assumption | apply Holds.ite | apply State.pendVector_holds | apply State.sendVector_holds
    | intro _ | split | dsimp only

theorem State.noteTrigger_holds {ps : Kept} {s : State} {code tide : Nat} (hq : Holds ps s) :
    Holds ps (State.noteTrigger s code tide) := by
  unfold State.noteTrigger
  repeat' first
    | with_reducible first
      | assumption | apply Holds.ite
    | fail_if_no_progress with_reducible apply Holds.upd | intro _ | split | dsimp only

theorem State.arise_holds {ps : Kept} {s : State} {src : Nat} {r : BitVec 256} (hq : Holds ps s) :
    Holds ps (State.arise s src r) := by
  unfold State.arise
  dsimp only
  repeat' first
    | with_reducible first
      | assumption | apply Holds.ite | apply State.incFld_holds | apply State.set1_holds
    | fail_if_no_progress with_reducible apply Holds.upd | intro _ | split | dsimp only

theorem State.logAt_holds {ps : Kept} {s : State} {tide src code : Nat} {host : Bool} {detail : List (Nat × Nat)} (hq : Holds ps s) :
    Holds ps (State.logAt s tide src code host detail) := by
  unfold State.logAt
  dsimp only
  repeat' first
    | with_reducible first
      | assumption | apply Holds.ite | apply State.arise_holds | apply State.noteTrigger_holds | apply State.signal_holds
    | intro _ | split | dsimp only

theorem State.logDev_holds {ps : Kept} {s : State} {src code : Nat} {host : Bool} {detail : List (Nat × Nat)} (hq : Holds ps s) :
    Holds ps (State.logDev s src code host detail) := by
  unfold State.logDev
  repeat' first
    | with_reducible first
      | assumption | apply Holds.ite | apply State.logAt_holds
    | intro _ | dsimp only

theorem State.logDeliv_holds {ps : Kept} {s : State} {src code : Nat} {host : Bool} {detail : List (Nat × Nat)} (hq : Holds ps s) :
    Holds ps (State.logDeliv s src code host detail) := by
  unfold State.logDeliv
  repeat' first
    | with_reducible first
      | assumption | apply Holds.ite | apply State.logAt_holds
    | intro _ | dsimp only

theorem State.logTile_holds {ps : Kept} {s : State} {t code : Nat} {host : Bool} {detail : List (Nat × Nat)} (hq : Holds ps s) :
    Holds ps (State.logTile s t code host detail) := by
  unfold State.logTile
  repeat' first
    | with_reducible first
      | assumption | apply Holds.ite | apply State.logAt_holds
    | intro _ | dsimp only

theorem State.oncePerTide_holds {ps : Kept} {s : State} {key : Nat × Nat × Nat} {f : State → State} (hq : Holds ps s) (hf : ∀ x0, Holds ps x0 → Holds ps (f x0)) :
    Holds ps (State.oncePerTide s key f) := by
  unfold State.oncePerTide
  dsimp only
  repeat' first
    | with_reducible first
      | assumption | apply Holds.ite | apply hf
    | fail_if_no_progress with_reducible apply Holds.upd | intro _ | split | dsimp only

theorem State.countEv_holds {ps : Kept} {s : State} {t sel st n : Nat} (hq : Holds ps s) :
    Holds ps (State.countEv s t sel st n) := by
  unfold State.countEv
  repeat' first
    | with_reducible first
      | assumption | apply Holds.ite | apply State.incFld_holds | apply Holds.foldl | apply Holds.ite1 | apply Holds.foldl1
    | intro _ | split | dsimp only

theorem State.tokUpd_holds {ps : Kept} {s : State} {t : Nat} {u : TokUpd} (hq : Holds ps s) :
    Holds ps (State.tokUpd s t u) := by
  unfold State.tokUpd
  repeat' first
    | with_reducible first
      | assumption | apply Holds.ite | apply State.setTile_holds
    | fail_if_no_progress with_reducible apply Holds.upd | intro _ | dsimp only

theorem State.produce_holds {ps : Kept} {s : State} {t k flags producer : Nat} (hq : Holds ps s) :
    Holds ps (State.produce s t k flags producer) := by
  unfold State.produce
  repeat' first
    | with_reducible first
      | assumption | apply Holds.ite | apply State.countEv_holds | apply State.tokUpd_holds
    | intro _ | dsimp only

theorem State.sfuArm_holds {ps : Kept} {s : State} {t tok n : Nat} (hq : Holds ps s) :
    Holds ps (State.sfuArm s t tok n) := by
  unfold State.sfuArm
  dsimp only
  repeat' first
    | with_reducible first
      | assumption | apply Holds.ite | apply State.logTile_holds | apply State.set1_holds | apply State.setSfuu_holds
    | fail_if_no_progress with_reducible apply Holds.upd | intro _ | split | dsimp only

theorem State.settleArms_holds {ps : Kept} {s : State} {t : Nat} (hq : Holds ps s) :
    Holds ps (State.settleArms s t) := by
  unfold State.settleArms
  dsimp only
  repeat' first
    | with_reducible first
      | assumption | apply Holds.ite | apply State.setSfuu_holds | apply State.sfuArm_holds | apply Holds.foldl
      | apply Holds.ite1 | apply Holds.foldl1
    | fail_if_no_progress with_reducible apply Holds.upd | intro _ | split | dsimp only

theorem State.tokInc_holds {ps : Kept} {s : State} {t k n flags producer : Nat} (hq : Holds ps s) :
    Holds ps (State.tokInc s t k n flags producer) := by
  unfold State.tokInc
  dsimp only
  repeat' first
    | with_reducible first
      | assumption | apply Holds.ite | apply State.logTile_holds | apply State.orFld_holds | apply State.setFld_holds
    | intro _ | split | dsimp only

theorem State.applyTok_holds {ps : Kept} {s : State} {t : Nat} {u : TokUpd} (hq : Holds ps s) :
    Holds ps (State.applyTok s t u) := by
  cases u <;> unfold State.applyTok <;> repeat' first
    | with_reducible assumption
    | with_reducible apply State.setFld_holds
    | with_reducible apply State.tokInc_holds

theorem State.latchReady_holds {ps : Kept} {s : State} {t : Nat} (hq : Holds ps s) :
    Holds ps (State.latchReady s t) := by
  unfold State.latchReady
  repeat' first
    | with_reducible first
      | assumption | apply Holds.ite
    | fail_if_no_progress with_reducible apply Holds.upd | intro _ | split | dsimp only

theorem State.applyToks_holds {ps : Kept} {s : State} {t : Nat} {us : List TokUpd} (hq : Holds ps s) :
    Holds ps (State.applyToks s t us) := by
  unfold State.applyToks
  dsimp only
  repeat' first
    | with_reducible first
      | assumption | apply Holds.ite | apply State.applyTok_holds | apply State.latchReady_holds | apply Holds.foldl
      | apply Holds.ite1 | apply Holds.foldl1
    | intro _ | dsimp only

end Sys2Proof.Machine
end

