-- ==== Sys2Proof/Laws/KeepMem.lean ====
section
/-! SUPPORT. What the operations of Machine/Mem.lean keep. -/
set_option linter.unusedTactic false
set_option linter.unreachableTactic false
set_option linter.unusedVariables false
namespace Sys2Proof.Machine

theorem State.setTag_holds {ps : Kept} {s : State} {w : Nat} {g : WordTag} (h : Holds ps s) : Holds ps (s.setTag w g) := by
  refine ⟨h.1, fun hc => ?_⟩
  obtain ⟨k0, k1, k2, k3, k4, k5, k6, k7, k8, k9, k10, k11, k12, k13, k14, k15, k16, k17, k18, k19, k20⟩ := h.2 hc
  exact ⟨k0, k1, Store.wf_put _ _ _ _ k2, k3, k4, k5, k6, k7, k8, k9, k10, k11, k12, k13, k14, k15, k16, k17, k18, k19, k20⟩

theorem State.captureErr_holds {ps : Kept} {s : State} {q : Req} {tier kind a : Nat} (hq : Holds ps s) :
    Holds ps (State.captureErr s q tier kind a) := by
  unfold State.captureErr
  dsimp only
  repeat' first
    | with_reducible first
      | assumption | apply Holds.ite | apply State.set1_holds | apply State.setFld_holds
    | intro _ | split | dsimp only

theorem State.countCE_holds {ps : Kept} {s : State} {a : Nat} (hq : Holds ps s) :
    Holds ps (State.countCE s a) := by
  unfold State.countCE
  dsimp only
  repeat' first
    | with_reducible first
      | assumption | apply Holds.ite | apply State.incFld_holds | apply State.logAt_holds | apply State.oncePerTide_holds
      | apply State.set1_holds
    | fail_if_no_progress with_reducible apply Holds.upd | intro _ | split | dsimp only

theorem State.countUE_holds {ps : Kept} {s : State} {q : Req} {kind a : Nat} (hq : Holds ps s) :
    Holds ps (State.countUE s q kind a) := by
  unfold State.countUE
  dsimp only
  repeat' first
    | with_reducible first
      | assumption | apply Holds.ite | apply State.captureErr_holds | apply State.incFld_holds | apply State.set1_holds
    | fail_if_no_progress with_reducible apply Holds.upd | intro _ | split | dsimp only

theorem State.readUE_holds {ps : Kept} {s : State} {q : Req} {kind a : Nat} (hq : Holds ps s) :
    Holds ps (State.readUE s q kind a) := by
  unfold State.readUE
  repeat' first
    | with_reducible first
      | assumption | apply Holds.ite | apply State.countUE_holds | apply State.logAt_holds | apply State.oncePerTide_holds
    | intro _ | dsimp only

theorem State.noteRead_holds {ps : Kept} {s : State} {q : Req} {w : Nat} (hq : Holds ps s) :
    Holds ps (State.noteRead s q w) := by
  unfold State.noteRead
  dsimp only
  repeat' first
    | with_reducible first
      | assumption | apply Holds.ite | apply State.countCE_holds | apply State.incFld_holds | apply State.readUE_holds
      | apply State.set1_holds | apply State.setTag_holds
    | fail_if_no_progress with_reducible apply Holds.upd | intro _ | split | dsimp only

theorem State.noteReads_holds {ps : Kept} {s : State} {q : Req} {a n : Nat} (hq : Holds ps s) :
    Holds ps (State.noteReads s q a n) := by
  unfold State.noteReads
  repeat' first
    | with_reducible first
      | assumption | apply Holds.ite | apply State.noteRead_holds | apply Holds.foldl | apply Holds.ite1 | apply Holds.foldl1
    | intro _ | dsimp only

theorem State.putMark_holds {ps : Kept} {s : State} {w : Nat} {marked : Bool} (hq : Holds ps s) :
    Holds ps (State.putMark s w marked) := by
  unfold State.putMark
  repeat' first
    | with_reducible first
      | assumption | apply Holds.ite | apply State.incFld_holds | apply State.setTag_holds
    | intro _ | split | dsimp only

theorem State.noteWrite_holds {ps : Kept} {s : State} {q : Req} {w : Nat} {whole bad : Bool} (hq : Holds ps s) :
    Holds ps (State.noteWrite s q w whole bad) := by
  unfold State.noteWrite
  repeat' first
    | with_reducible first
      | assumption | apply Holds.ite | apply State.countCE_holds | apply State.noteRead_holds | apply State.putMark_holds
      | apply State.readUE_holds
    | fail_if_no_progress with_reducible apply Holds.upd | intro _ | split | dsimp only

theorem State.writeBytes_holds {ps : Kept} {s : State} {q : Req} {a : Nat} {bs : List Byte} {bad : Bool} (hq : Holds ps s) :
    Holds ps (State.writeBytes s q a bs bad) := by
  unfold State.writeBytes
  dsimp only
  repeat' first
    | with_reducible first
      | assumption | apply Holds.ite | apply State.noteWrite_holds | apply State.setByte_holds | apply Holds.foldl
      | apply Holds.ite1 | apply Holds.foldl1
    | intro _ | dsimp only

theorem State.noteMerge_holds {ps : Kept} {s : State} {w : Nat} {whole bad : Bool} (hq : Holds ps s) :
    Holds ps (State.noteMerge s w whole bad) := by
  unfold State.noteMerge
  repeat' first
    | with_reducible first
      | assumption | apply Holds.ite | apply State.putMark_holds
    | fail_if_no_progress with_reducible apply Holds.upd | intro _ | split | dsimp only

theorem State.rmwBytes_holds {ps : Kept} {s : State} {q : Req} {a : Nat} {bs : List Byte} {bad : Bool} (hq : Holds ps s) :
    Holds ps (State.rmwBytes s q a bs bad) := by
  unfold State.rmwBytes
  dsimp only
  repeat' first
    | with_reducible first
      | assumption | apply Holds.ite | apply State.noteMerge_holds | apply State.noteReads_holds | apply State.setByte_holds
      | apply Holds.foldl | apply Holds.ite1 | apply Holds.foldl1
    | intro _ | dsimp only

theorem State.unmapped_holds {ps : Kept} {s : State} {q : Req} {a kind : Nat} (hq : Holds ps s) :
    Holds ps (State.unmapped s q a kind) := by
  unfold State.unmapped
  dsimp only
  repeat' first
    | with_reducible first
      | assumption | apply Holds.ite | apply State.captureErr_holds | apply State.incFld_holds | apply State.logDev_holds
      | apply State.oncePerTide_holds | apply State.set1_holds
    | intro _ | dsimp only

theorem State.upset_holds {ps : Kept} {s : State} {us : List (Nat × Bool)} (hq : Holds ps s) :
    Holds ps (State.upset s us) := by
  unfold State.upset
  repeat' first
    | with_reducible first
      | assumption | apply Holds.ite | apply State.setTag_holds | apply Holds.foldl | apply Holds.ite1 | apply Holds.foldl1
    | intro _ | split | dsimp only

theorem State.noteRegWrite_holds {ps : Kept} {s : State} {q : Req} {x a : Nat} (hq : Holds ps s) :
    Holds ps (State.noteRegWrite s q x a) := by
  unfold State.noteRegWrite
  dsimp only
  repeat' first
    | with_reducible first
      | assumption | apply Holds.ite | apply State.logDev_holds | apply State.logTile_holds | apply State.oncePerTide_holds
      | apply State.set1_holds
    | fail_if_no_progress with_reducible apply Holds.upd | intro _ | split | dsimp only

theorem State.noteBy_holds {ps : Kept} {s : State} {m : Master} {a : Nat} (hq : Holds ps s) :
    Holds ps (State.noteBy s m a) := by
  unfold State.noteBy
  repeat' first
    | with_reducible first
      | assumption | apply Holds.ite | apply State.noteRegWrite_holds
    | intro _ | dsimp only

end Sys2Proof.Machine
end

