-- ==== Sys2Proof/Laws/KeepPostEng.lean ====
section
/-! SUPPORT. What the operations of Machine/PostEng.lean keep. -/
set_option linter.unusedTactic false
set_option linter.unreachableTactic false
set_option linter.unusedVariables false
namespace Sys2Proof.Machine

theorem State.setQueue_holds {ps : Kept} {s : State} {q : Nat} {x : Option Queue} (hq : Holds ps s) :
    Holds ps (State.setQueue s q x) := by
  unfold State.setQueue
  dsimp only
  repeat' first
    | with_reducible first
      | assumption | apply Holds.ite | apply State.setFld_holds
    | fail_if_no_progress with_reducible apply Holds.upd | intro _ | dsimp only

theorem State.postTaken_holds {ps : Kept} {s : State} {t : Nat} {te : Bool} {e : PostEnt} (hq : Holds ps s) :
    Holds ps (State.postTaken s t te e) := by
  unfold State.postTaken
  repeat' first
    | with_reducible first
      | assumption | apply Holds.ite | apply State.setTile_holds
    | fail_if_no_progress with_reducible apply Holds.upd | intro _ | split | dsimp only

theorem State.postSettle_holds {ps : Kept} {s : State} {t : Nat} (hq : Holds ps s) :
    Holds ps (State.postSettle s t) := by
  unfold State.postSettle
  dsimp only
  repeat' first
    | with_reducible first
      | assumption | apply Holds.ite | apply State.produce_holds | apply State.setTile_holds | apply Holds.foldl
      | apply Holds.ite1 | apply Holds.foldl1
    | fail_if_no_progress with_reducible apply Holds.upd | intro _ | split | dsimp only

theorem State.postOwe_holds {ps : Kept} {s : State} {t : Nat} {te : Bool} {token flags producer : Nat} (hq : Holds ps s) :
    Holds ps (State.postOwe s t te token flags producer) := by
  unfold State.postOwe
  repeat' first
    | with_reducible first
      | assumption | apply Holds.ite | apply State.postSettle_holds | apply State.postTaken_holds
    | intro _ | dsimp only

theorem State.postDone_holds {ps : Kept} {s : State} {t : Nat} {e : PostEnt} {token flags producer : Nat} (hq : Holds ps s) :
    Holds ps (State.postDone s t e token flags producer) := by
  unfold State.postDone
  dsimp only
  repeat' first
    | with_reducible first
      | assumption | apply Holds.ite | apply State.postSettle_holds | apply State.produce_holds | apply State.setTile_holds
    | fail_if_no_progress with_reducible apply Holds.upd | intro _ | split | dsimp only

theorem State.quePostReject_holds {ps : Kept} {s : State} {t token : Nat} {te : Bool} {reason q : Nat} {bad : Bool} (hq : Holds ps s) :
    Holds ps (State.quePostReject s t token te reason q bad) := by
  unfold State.quePostReject
  dsimp only
  repeat' first
    | with_reducible first
      | assumption | apply Holds.ite | apply State.incFld_holds | apply State.postOwe_holds | apply State.set1_holds
      | apply State.setFld_holds
    | intro _ | split | dsimp only

theorem State.quePost_holds {ps : Kept} {s : State} {t : Nat} {te : Bool} {token q : Nat} {desc : List Byte} {bad : Bool} (hq : Holds ps s) :
    Holds ps (State.quePost s t te token q desc bad) := by
  unfold State.quePost
  dsimp only
  repeat' first
    | with_reducible first
      | assumption | apply Holds.ite | apply State.postTaken_holds | apply State.quePostReject_holds
      | apply State.setQueue_holds | apply State.writeBytes_holds
    | fail_if_no_progress with_reducible apply Holds.upd | intro _ | split | dsimp only

theorem State.setBuckets_holds {ps : Kept} {s : State} {c : Nat} {bs : List GreBucket} (hq : Holds ps s) :
    Holds ps (State.setBuckets s c bs) := by
  unfold State.setBuckets
  dsimp only
  repeat' first
    | with_reducible first
      | assumption | apply Holds.ite | apply State.setFld_holds
    | fail_if_no_progress with_reducible apply Holds.upd | intro _ | dsimp only

theorem State.setBucket_holds {ps : Kept} {s : State} {b : GreBucket} (hq : Holds ps s) :
    Holds ps (State.setBucket s b) := by
  unfold State.setBucket
  repeat' first
    | with_reducible first
      | assumption | apply Holds.ite
    | fail_if_no_progress with_reducible apply Holds.upd | intro _ | split | dsimp only

theorem State.greLate_holds {ps : Kept} {s : State} {b : GreBucket} (hq : Holds ps s) :
    Holds ps (State.greLate s b) := by
  unfold State.greLate
  repeat' first
    | with_reducible first
      | assumption | apply Holds.ite | apply State.incFld_holds | apply State.logDeliv_holds | apply State.set1_holds
      | apply State.setBucket_holds
    | fail_if_no_progress with_reducible apply Holds.upd | intro _ | dsimp only

theorem State.grePoison_holds {ps : Kept} {s : State} {b : GreBucket} {block phase n : Nat} (hq : Holds ps s) :
    Holds ps (State.grePoison s b block phase n).1 := by
  unfold State.grePoison
  dsimp only
  repeat' first
    | with_reducible first
      | assumption | apply Holds.ite | apply State.incFld_holds | apply State.logDeliv_holds | apply State.set1_holds
      | apply Holds.ite1 | apply Holds.foldl1
    | fail_if_no_progress with_reducible apply Holds.upd | intro _ | split | dsimp only

theorem State.grePost_holds {ps : Kept} {s : State} {t c : Nat} {te : Bool} {token : Nat} {words : List Nat} {bad : Bool} (hq : Holds ps s) :
    Holds ps (State.grePost s t c te token words bad) := by
  unfold State.grePost
  dsimp only
  repeat' first
    | with_reducible first
      | assumption | apply Holds.ite | apply State.greLate_holds | apply State.grePoison_holds | apply State.incFld_holds
      | apply State.logDeliv_holds | apply State.postOwe_holds | apply State.postTaken_holds | apply State.set1_holds
      | apply State.setBuckets_holds | apply State.setFld_holds
    | fail_if_no_progress with_reducible apply Holds.upd | intro _ | split | dsimp only

theorem State.postExec_holds {ps : Kept} {s : State} {t : Nat} {c : QCmd} (hq : Holds ps s) :
    Holds ps (State.postExec s t c) := by
  unfold State.postExec
  repeat' first
    | with_reducible first
      | assumption | apply Holds.ite | apply State.grePost_holds | apply State.quePost_holds
    | fail_if_no_progress with_reducible apply Holds.upd | intro _ | split | dsimp only

theorem State.postRun_holds {ps : Kept} {s : State} {t n : Nat} (hq : Holds ps s) :
    Holds ps (State.postRun s t n) := by
  unfold State.postRun
  dsimp only
  repeat' first
    | with_reducible first
      | assumption | apply Holds.ite | apply State.postExec_holds | apply State.setTile_holds | apply Holds.foldl
      | apply Holds.ite1 | apply Holds.foldl1
    | fail_if_no_progress with_reducible apply Holds.upd | intro _ | split | dsimp only

end Sys2Proof.Machine
end

