-- ==== Sys2Proof/Laws/KeepVecCore.lean ====
section
/-! SUPPORT. What the operations of Machine/VecCore.lean keep. -/
set_option linter.unusedTactic false
set_option linter.unreachableTactic false
set_option linter.unusedVariables false
namespace Sys2Proof.Machine

theorem State.storeMap_holds {ps : Kept} {s : State} {q : Req} {m : ByteMap} (hq : Holds ps s) :
    Holds ps (State.storeMap s q m) := by
  unfold State.storeMap
  dsimp only
  repeat' first
    | with_reducible first
      | assumption | apply Holds.ite | apply State.noteWrite_holds | apply State.setByte_holds | apply Holds.foldl
      | apply Holds.ite1 | apply Holds.foldl1
    | intro _ | dsimp only

theorem State.pushEv_holds {ps : Kept} {s : State} {t : Nat} {v : VEvent} (hq : Holds ps s) :
    Holds ps (State.pushEv s t v) := by
  unfold State.pushEv
  repeat' first
    | with_reducible first
      | assumption | apply Holds.ite | apply State.setTile_holds
    | fail_if_no_progress with_reducible apply Holds.upd | intro _ | dsimp only

theorem State.takeCarry_holds {ps : Kept} {s : State} {t : Nat} {v : VEvent} {r : ScanRec} (hq : Holds ps s) :
    Holds ps (State.takeCarry s t v r).1 := by
  unfold State.takeCarry
  dsimp only
  repeat' first
    | with_reducible first
      | assumption | apply Holds.ite | apply State.logTile_holds | apply State.pushEv_holds | apply State.setEng_holds
      | apply State.setFld_holds | apply Holds.ite1 | apply Holds.foldl1
    | fail_if_no_progress with_reducible apply Holds.upd | intro _ | split | refine Holds.pair (by with_reducible assumption) ?_ | dsimp only

theorem State.finishScan_holds {ps : Kept} {s : State} {t : Nat} {v : VEvent} {r : ScanRec} (hq : Holds ps s) :
    Holds ps (State.finishScan s t v r) := by
  unfold State.finishScan
  dsimp only
  repeat' first
    | with_reducible first
      | assumption | apply Holds.ite | apply State.pushEv_holds | apply State.takeCarry_holds | apply Holds.foldl
      | apply Holds.ite1 | apply Holds.foldl1
    | fail_if_no_progress with_reducible apply Holds.upd | intro _ | split | refine Holds.pair (by with_reducible assumption) ?_ | dsimp only

theorem State.finishNorm_holds {ps : Kept} {s : State} {t : Nat} {v : VEvent} {r : NormRec} (hq : Holds ps s) :
    Holds ps (State.finishNorm s t v r) := by
  unfold State.finishNorm
  dsimp only
  repeat' first
    | with_reducible first
      | assumption | apply Holds.ite | apply State.pushEv_holds
    | fail_if_no_progress with_reducible apply Holds.upd | intro _ | split | dsimp only

theorem State.finishSmax_holds {ps : Kept} {s : State} {t : Nat} {v : VEvent} {r : SmaxRec} (hq : Holds ps s) :
    Holds ps (State.finishSmax s t v r) := by
  unfold State.finishSmax
  dsimp only
  repeat' first
    | with_reducible first
      | assumption | apply Holds.ite | apply State.pushEv_holds
    | fail_if_no_progress with_reducible apply Holds.upd | intro _ | split | dsimp only

theorem State.doLoad_holds {ps : Kept} {s : State} {t : Nat} {v : VEvent} {reg w : Nat} {els : List (Nat × Option Nat × Bool)} {zero : List Nat} {due : Nat} (hq : Holds ps s) :
    Holds ps (State.doLoad s t v reg w els zero due) := by
  unfold State.doLoad
  dsimp only
  repeat' first
    | with_reducible first
      | assumption | apply Holds.ite | apply State.incFld_holds | apply State.noteRead_holds | apply State.pushEv_holds
      | apply Holds.foldl | apply Holds.ite1 | apply Holds.foldl1
    | fail_if_no_progress with_reducible apply Holds.upd | intro _ | split | dsimp only

theorem State.landOp_holds {ps : Kept} {s : State} {t : Nat} {v : VEvent} (hq : Holds ps s) :
    Holds ps (State.landOp s t v) := by
  unfold State.landOp
  repeat' first
    | with_reducible first
      | assumption | apply Holds.ite | apply State.doLoad_holds | apply State.finishNorm_holds | apply State.finishScan_holds
      | apply State.finishSmax_holds | apply State.orFld_holds | apply State.setFld_holds | apply State.setMreg_holds
      | apply State.setVreg_holds | apply State.storeMap_holds | apply Holds.foldl | apply Holds.ite1 | apply Holds.foldl1
    | fail_if_no_progress with_reducible apply Holds.upd | intro _ | split | dsimp only

theorem State.landDue_holds {ps : Kept} {t n k : Nat} {all : Bool} {s : State} (hq : Holds ps s) :
    Holds ps (State.landDue t n all k s) := by
  induction k generalizing s with
  | zero => exact hq
  | succ k ih =>
    unfold State.landDue
    split
    · exact hq
    · exact ih (State.landOp_holds (State.setTile_holds hq))

end Sys2Proof.Machine
end

