-- ==== Sys2Proof/Laws/KeepStream.lean ====
section
/-! SUPPORT. What the operations of Machine/Stream.lean keep. -/
set_option linter.unusedTactic false
set_option linter.unreachableTactic false
set_option linter.unusedVariables false
namespace Sys2Proof.Machine

theorem State.setStState_holds {ps : Kept} {s : State} {t st v : Nat} (hq : Holds ps s) :
    Holds ps (State.setStState s t st v) := by
  unfold State.setStState
  repeat' first
    | with_reducible first
      | assumption | apply Holds.ite | apply State.setFld_holds
    | intro _ | dsimp only

theorem State.countWaits_holds {ps : Kept} {s : State} {t d : Nat} (hq : Holds ps s) :
    Holds ps (State.countWaits s t d) := by
  unfold State.countWaits
  repeat' first
    | with_reducible first
      | assumption | apply Holds.ite | apply State.countEv_holds | apply Holds.foldl | apply Holds.ite1 | apply Holds.foldl1
    | fail_if_no_progress with_reducible apply Holds.upd | intro _ | split | dsimp only

theorem State.advance_holds {ps : Kept} {s : State} {t n : Nat} (hq : Holds ps s) :
    Holds ps (State.advance s t n) := by
  unfold State.advance
  dsimp only
  repeat' first
    | with_reducible first
      | assumption | apply Holds.ite | apply State.applyToks_holds | apply State.countEv_holds | apply State.countWaits_holds
      | apply State.landDue_holds | apply State.postRun_holds | apply State.setEng_holds | apply State.setTile_holds
      | apply State.settleArms_holds | apply Holds.foldl | apply Holds.ite1 | apply Holds.foldl1
    | fail_if_no_progress with_reducible apply Holds.upd | intro _ | split | dsimp only

theorem State.haltNow_holds {ps : Kept} {s : State} {t st reason : Nat} (hq : Holds ps s) :
    Holds ps (State.haltNow s t st reason) := by
  unfold State.haltNow
  dsimp only
  repeat' first
    | with_reducible first
      | assumption | apply Holds.ite | apply State.setFld_holds | apply State.setStState_holds | apply State.setStream_holds
    | fail_if_no_progress with_reducible apply Holds.upd | intro _ | split | dsimp only

theorem State.haltDrain_holds {ps : Kept} {s : State} {t st reason : Nat} (hq : Holds ps s) :
    Holds ps (State.haltDrain s t st reason) := by
  unfold State.haltDrain
  repeat' first
    | with_reducible first
      | assumption | apply Holds.ite | apply State.haltNow_holds | apply State.setStState_holds | apply State.setStream_holds
    | fail_if_no_progress with_reducible apply Holds.upd | intro _ | split | dsimp only

theorem State.breakDrain_holds {ps : Kept} {s : State} {t st cause : Nat} (hq : Holds ps s) :
    Holds ps (State.breakDrain s t st cause) := by
  unfold State.breakDrain
  repeat' first
    | with_reducible first
      | assumption | apply Holds.ite | apply State.setStState_holds | apply State.setStream_holds
    | fail_if_no_progress with_reducible apply Holds.upd | intro _ | dsimp only

theorem State.breakNow_holds {ps : Kept} {s : State} {t st cause : Nat} (hq : Holds ps s) :
    Holds ps (State.breakNow s t st cause) := by
  unfold State.breakNow
  repeat' first
    | with_reducible first
      | assumption | apply Holds.ite | apply State.logTile_holds | apply State.setStState_holds | apply State.setStream_holds
    | fail_if_no_progress with_reducible apply Holds.upd | intro _ | dsimp only

theorem State.errStop_holds {ps : Kept} {s : State} {t st reason code : Nat} {more : List (Nat × Nat)} (hq : Holds ps s) :
    Holds ps (State.errStop s t st reason code more) := by
  unfold State.errStop
  repeat' first
    | with_reducible first
      | assumption | apply Holds.ite | apply State.haltDrain_holds | apply State.logTile_holds
    | intro _ | dsimp only

theorem State.illegal_holds {ps : Kept} {s : State} {t st word : Nat} (hq : Holds ps s) :
    Holds ps (State.illegal s t st word) := by
  unfold State.illegal
  repeat' first
    | with_reducible first
      | assumption | apply Holds.ite | apply State.errStop_holds
    | intro _ | dsimp only

theorem State.setPc_holds {ps : Kept} {s : State} {t st p : Nat} (hq : Holds ps s) :
    Holds ps (State.setPc s t st p) := by
  unfold State.setPc
  repeat' first
    | with_reducible first
      | assumption | apply Holds.ite | apply State.haltDrain_holds | apply State.logTile_holds | apply State.setFld_holds
    | intro _ | split | dsimp only

theorem State.setLoops_holds {ps : Kept} {s : State} {t st : Nat} {ls : List LoopLevel} (hq : Holds ps s) :
    Holds ps (State.setLoops s t st ls) := by
  unfold State.setLoops
  repeat' first
    | with_reducible first
      | assumption | apply Holds.ite | apply State.setFld_holds | apply State.setStream_holds
    | fail_if_no_progress with_reducible apply Holds.upd | intro _ | dsimp only

theorem State.retire_holds {ps : Kept} {s : State} {t st p : Nat} (hq : Holds ps s) :
    Holds ps (State.retire s t st p) := by
  unfold State.retire
  dsimp only
  repeat' first
    | with_reducible first
      | assumption | apply Holds.ite | apply State.breakDrain_holds | apply State.setLoops_holds | apply State.setPc_holds
      | apply State.setStState_holds | apply State.setStream_holds
    | fail_if_no_progress with_reducible apply Holds.upd | intro _ | split | dsimp only

theorem State.retireNext_holds {ps : Kept} {s : State} {t st : Nat} (hq : Holds ps s) :
    Holds ps (State.retireNext s t st) := by
  unfold State.retireNext
  repeat' first
    | with_reducible first
      | assumption | apply Holds.ite | apply State.retire_holds
    | intro _ | dsimp only

theorem State.countIssue_holds {ps : Kept} {s : State} {t st : Nat} (hq : Holds ps s) :
    Holds ps (State.countIssue s t st) := by
  unfold State.countIssue
  dsimp only
  repeat' first
    | with_reducible first
      | assumption | apply Holds.ite | apply State.countEv_holds | apply State.incFld_holds | apply State.setStream_holds
    | fail_if_no_progress with_reducible apply Holds.upd | intro _ | dsimp only

theorem State.countHeld_holds {ps : Kept} {s : State} {t st : Nat} {regs : List Nat} {free : Nat} (hq : Holds ps s) :
    Holds ps (State.countHeld s t st regs free) := by
  unfold State.countHeld
  dsimp only
  repeat' first
    | with_reducible first
      | assumption | apply Holds.ite | apply State.countEv_holds | apply Holds.foldl | apply Holds.ite1 | apply Holds.foldl1
    | intro _ | split | dsimp only

theorem State.setSregAt_holds {ps : Kept} {s : State} {t st n lat : Nat} {w : Word} (hq : Holds ps s) :
    Holds ps (State.setSregAt s t st n lat w) := by
  unfold State.setSregAt
  dsimp only
  repeat' first
    | with_reducible first
      | assumption | apply Holds.ite | apply State.setSreg_holds | apply State.setStream_holds
    | fail_if_no_progress with_reducible apply Holds.upd | intro _ | split | dsimp only

theorem State.issue_holds {ps : Kept} {s : State} {i : Iss} {regs : List Nat} {body : State → State} (hq : Holds ps s) (hbody : ∀ x0, Holds ps x0 → Holds ps (body x0)) :
    Holds ps (State.issue s i regs body) := by
  unfold State.issue
  dsimp only
  repeat' first
    | with_reducible first
      | assumption | apply Holds.ite | apply State.advance_holds | apply State.breakDrain_holds | apply State.countHeld_holds
      | apply State.countIssue_holds | apply hbody
    | intro _ | split | dsimp only

theorem State.issueFenced_holds {ps : Kept} {s : State} {i : Iss} {c : Instr} {regs : List Nat} {body : State → State} (hq : Holds ps s) (hbody : ∀ x0, Holds ps x0 → Holds ps (body x0)) :
    Holds ps (State.issueFenced s i c regs body) := by
  unfold State.issueFenced
  dsimp only
  repeat' first
    | with_reducible first
      | assumption | apply Holds.ite | apply State.advance_holds | apply State.breakDrain_holds | apply State.countHeld_holds
      | apply State.countIssue_holds | apply State.setStState_holds | apply State.setStream_holds | apply hbody
    | fail_if_no_progress with_reducible apply Holds.upd | intro _ | split | dsimp only

theorem State.issueIllegal_holds {ps : Kept} {s : State} {i : Iss} {word : Nat} (hq : Holds ps s) :
    Holds ps (State.issueIllegal s i word) := by
  unfold State.issueIllegal
  dsimp only
  repeat' first
    | with_reducible first
      | assumption | apply Holds.ite | apply State.advance_holds | apply State.breakDrain_holds | apply State.illegal_holds
    | intro _ | split | dsimp only

end Sys2Proof.Machine
end

