-- ==== Sys2Proof/Laws/KeepScalar.lean ====
section
/-! SUPPORT. What the operations of Machine/Scalar.lean keep. -/
set_option linter.unusedTactic false
set_option linter.unreachableTactic false
set_option linter.unusedVariables false
namespace Sys2Proof.Machine

theorem State.scalarOpAt_holds {ps : Kept} {s : State} {i : Iss} {a : ScalarArgs} {regs : List Nat} {lat : Nat} {f : Word → Word → Word → Word} (hq : Holds ps s) :
    Holds ps (State.scalarOpAt s i a regs lat f) := by
  unfold State.scalarOpAt
  repeat' first
    | with_reducible first
      | assumption | apply Holds.ite | apply State.issue_holds | apply State.retireNext_holds | apply State.setSregAt_holds
    | intro _ | dsimp only

theorem State.scalarOp_holds {ps : Kept} {s : State} {i : Iss} {a : ScalarArgs} {f : Word → Word → Word → Word} (hq : Holds ps s) :
    Holds ps (State.scalarOp s i a f) := by
  unfold State.scalarOp
  repeat' first
    | with_reducible first
      | assumption | apply Holds.ite | apply State.scalarOpAt_holds
    | intro _ | dsimp only

theorem execSAdd_holds {ps : Kept} {i : Iss} {a : ScalarArgs} {s : State} (hq : Holds ps s) :
    Done ps (execSAdd i a s) := by
  unfold execSAdd
  repeat' first
    | with_reducible first
      | assumption | apply Holds.ite | apply State.scalarOp_holds | apply Done.next | apply Done.ite
    | intro _ | dsimp only

theorem execSSub_holds {ps : Kept} {i : Iss} {a : ScalarArgs} {s : State} (hq : Holds ps s) :
    Done ps (execSSub i a s) := by
  unfold execSSub
  repeat' first
    | with_reducible first
      | assumption | apply Holds.ite | apply State.scalarOp_holds | apply Done.next | apply Done.ite
    | intro _ | dsimp only

theorem execSMul_holds {ps : Kept} {i : Iss} {a : ScalarArgs} {s : State} (hq : Holds ps s) :
    Done ps (execSMul i a s) := by
  unfold execSMul
  repeat' first
    | with_reducible first
      | assumption | apply Holds.ite | apply State.scalarOpAt_holds | apply Done.next | apply Done.ite
    | intro _ | dsimp only

theorem execSMad_holds {ps : Kept} {i : Iss} {a : ScalarArgs} {s : State} (hq : Holds ps s) :
    Done ps (execSMad i a s) := by
  unfold execSMad
  repeat' first
    | with_reducible first
      | assumption | apply Holds.ite | apply State.scalarOpAt_holds | apply Done.next | apply Done.ite
    | intro _ | dsimp only

theorem execSAnd_holds {ps : Kept} {i : Iss} {a : ScalarArgs} {s : State} (hq : Holds ps s) :
    Done ps (execSAnd i a s) := by
  unfold execSAnd
  repeat' first
    | with_reducible first
      | assumption | apply Holds.ite | apply State.scalarOp_holds | apply Done.next | apply Done.ite
    | intro _ | dsimp only

theorem execSOr_holds {ps : Kept} {i : Iss} {a : ScalarArgs} {s : State} (hq : Holds ps s) :
    Done ps (execSOr i a s) := by
  unfold execSOr
  repeat' first
    | with_reducible first
      | assumption | apply Holds.ite | apply State.scalarOp_holds | apply Done.next | apply Done.ite
    | intro _ | dsimp only

theorem execSXor_holds {ps : Kept} {i : Iss} {a : ScalarArgs} {s : State} (hq : Holds ps s) :
    Done ps (execSXor i a s) := by
  unfold execSXor
  repeat' first
    | with_reducible first
      | assumption | apply Holds.ite | apply State.scalarOp_holds | apply Done.next | apply Done.ite
    | intro _ | dsimp only

theorem execSShl_holds {ps : Kept} {i : Iss} {a : ScalarArgs} {s : State} (hq : Holds ps s) :
    Done ps (execSShl i a s) := by
  unfold execSShl
  repeat' first
    | with_reducible first
      | assumption | apply Holds.ite | apply State.scalarOp_holds | apply Done.next | apply Done.ite
    | intro _ | dsimp only

theorem execSShr_holds {ps : Kept} {i : Iss} {a : ScalarArgs} {s : State} (hq : Holds ps s) :
    Done ps (execSShr i a s) := by
  unfold execSShr
  repeat' first
    | with_reducible first
      | assumption | apply Holds.ite | apply State.scalarOp_holds | apply Done.next | apply Done.ite
    | intro _ | dsimp only

theorem execSSra_holds {ps : Kept} {i : Iss} {a : ScalarArgs} {s : State} (hq : Holds ps s) :
    Done ps (execSSra i a s) := by
  unfold execSSra
  repeat' first
    | with_reducible first
      | assumption | apply Holds.ite | apply State.scalarOp_holds | apply Done.next | apply Done.ite
    | intro _ | dsimp only

theorem execSMin_holds {ps : Kept} {i : Iss} {a : ScalarArgs} {s : State} (hq : Holds ps s) :
    Done ps (execSMin i a s) := by
  unfold execSMin
  repeat' first
    | with_reducible first
      | assumption | apply Holds.ite | apply State.scalarOp_holds | apply Done.next | apply Done.ite
    | intro _ | split | dsimp only

theorem execSMax_holds {ps : Kept} {i : Iss} {a : ScalarArgs} {s : State} (hq : Holds ps s) :
    Done ps (execSMax i a s) := by
  unfold execSMax
  repeat' first
    | with_reducible first
      | assumption | apply Holds.ite | apply State.scalarOp_holds | apply Done.next | apply Done.ite
    | intro _ | split | dsimp only

theorem execSMinu_holds {ps : Kept} {i : Iss} {a : ScalarArgs} {s : State} (hq : Holds ps s) :
    Done ps (execSMinu i a s) := by
  unfold execSMinu
  repeat' first
    | with_reducible first
      | assumption | apply Holds.ite | apply State.scalarOp_holds | apply Done.next | apply Done.ite
    | intro _ | split | dsimp only

theorem execSMaxu_holds {ps : Kept} {i : Iss} {a : ScalarArgs} {s : State} (hq : Holds ps s) :
    Done ps (execSMaxu i a s) := by
  unfold execSMaxu
  repeat' first
    | with_reducible first
      | assumption | apply Holds.ite | apply State.scalarOp_holds | apply Done.next | apply Done.ite
    | intro _ | split | dsimp only

theorem execSCeq_holds {ps : Kept} {i : Iss} {a : ScalarArgs} {s : State} (hq : Holds ps s) :
    Done ps (execSCeq i a s) := by
  unfold execSCeq
  repeat' first
    | with_reducible first
      | assumption | apply Holds.ite | apply State.scalarOp_holds | apply Done.next | apply Done.ite
    | intro _ | dsimp only

theorem execSClt_holds {ps : Kept} {i : Iss} {a : ScalarArgs} {s : State} (hq : Holds ps s) :
    Done ps (execSClt i a s) := by
  unfold execSClt
  repeat' first
    | with_reducible first
      | assumption | apply Holds.ite | apply State.scalarOp_holds | apply Done.next | apply Done.ite
    | intro _ | dsimp only

theorem execSCltu_holds {ps : Kept} {i : Iss} {a : ScalarArgs} {s : State} (hq : Holds ps s) :
    Done ps (execSCltu i a s) := by
  unfold execSCltu
  repeat' first
    | with_reducible first
      | assumption | apply Holds.ite | apply State.scalarOp_holds | apply Done.next | apply Done.ite
    | intro _ | dsimp only

theorem execSIns_holds {ps : Kept} {i : Iss} {a : ScalarArgs} {s : State} (hq : Holds ps s) :
    Done ps (execSIns i a s) := by
  unfold execSIns
  repeat' first
    | with_reducible first
      | assumption | apply Holds.ite | apply State.issueIllegal_holds | apply State.scalarOpAt_holds | apply Done.next
      | apply Done.ite
    | intro _ | split | dsimp only

end Sys2Proof.Machine
end

