-- ==== Sys2Proof/Laws/KeepControl.lean ====
section
/-! SUPPORT. What the operations of Machine/Control.lean keep. -/
set_option linter.unusedTactic false
set_option linter.unreachableTactic false
set_option linter.unusedVariables false
namespace Sys2Proof.Machine

theorem execNop_holds {ps : Kept} {i : Iss} {s : State} (hq : Holds ps s) :
    Done ps (execNop i s) := by
  unfold execNop
  repeat' first
    | with_reducible first
      | assumption | apply Holds.ite | apply State.issue_holds | apply State.retireNext_holds | apply Done.next
      | apply Done.ite
    | intro _ | dsimp only

theorem State.haltBody_holds {ps : Kept} {s : State} {i : Iss} (hq : Holds ps s) :
    Holds ps (State.haltBody s i) := by
  unfold State.haltBody
  repeat' first
    | with_reducible first
      | assumption | apply Holds.ite | apply State.haltDrain_holds
    | intro _ | dsimp only

theorem execHalt_holds {ps : Kept} {i : Iss} {s : State} (hq : Holds ps s) :
    Done ps (execHalt i s) := by
  unfold execHalt
  repeat' first
    | with_reducible first
      | assumption | apply Holds.ite | apply State.haltBody_holds | apply State.issue_holds | apply Done.next
      | apply Done.ite
    | intro _ | dsimp only

theorem State.loopBody_holds {ps : Kept} {s : State} {i : Iss} {body count : Nat} (hq : Holds ps s) :
    Holds ps (State.loopBody s i body count) := by
  unfold State.loopBody
  dsimp only
  repeat' first
    | with_reducible first
      | assumption | apply Holds.ite | apply State.errStop_holds | apply State.retire_holds | apply State.retireNext_holds
      | apply State.setLoops_holds
    | fail_if_no_progress with_reducible apply Holds.upd | intro _ | split | dsimp only

theorem execLoop_holds {ps : Kept} {i : Iss} {sa : BitVec 5} {imm : Bool} {body : BitVec 14} {count : BitVec 24} {s : State} (hq : Holds ps s) :
    Done ps (execLoop i sa imm body count s) := by
  unfold execLoop
  dsimp only
  repeat' first
    | with_reducible first
      | assumption | apply Holds.ite | apply State.issue_holds | apply State.issueIllegal_holds | apply State.logTile_holds
      | apply State.loopBody_holds | apply Done.next | apply Done.ite
    | intro _ | split | dsimp only

theorem State.skipBody_holds {ps : Kept} {s : State} {i : Iss} {taken : Bool} {n : Nat} (hq : Holds ps s) :
    Holds ps (State.skipBody s i taken n) := by
  unfold State.skipBody
  dsimp only
  repeat' first
    | with_reducible first
      | assumption | apply Holds.ite | apply State.countEv_holds | apply State.errStop_holds | apply State.retire_holds
      | apply State.retireNext_holds
    | fail_if_no_progress with_reducible apply Holds.upd | intro _ | split | dsimp only

theorem execSkipZ_holds {ps : Kept} {i : Iss} {sa : BitVec 5} {n : BitVec 24} {s : State} (hq : Holds ps s) :
    Done ps (execSkipZ i sa n s) := by
  unfold execSkipZ
  repeat' first
    | with_reducible first
      | assumption | apply Holds.ite | apply State.issue_holds | apply State.skipBody_holds | apply Done.next
      | apply Done.ite
    | intro _ | dsimp only

theorem execSkipNz_holds {ps : Kept} {i : Iss} {sa : BitVec 5} {n : BitVec 24} {s : State} (hq : Holds ps s) :
    Done ps (execSkipNz i sa n s) := by
  unfold execSkipNz
  repeat' first
    | with_reducible first
      | assumption | apply Holds.ite | apply State.issue_holds | apply State.skipBody_holds | apply Done.next
      | apply Done.ite
    | intro _ | dsimp only

theorem execLidx_holds {ps : Kept} {i : Iss} {sd : BitVec 5} {level : BitVec 2} {s : State} (hq : Holds ps s) :
    Done ps (execLidx i sd level s) := by
  unfold execLidx
  repeat' first
    | with_reducible first
      | assumption | apply Holds.ite | apply State.issue_holds | apply State.retireNext_holds | apply State.setSreg_holds
      | apply Done.next | apply Done.ite
    | intro _ | dsimp only

end Sys2Proof.Machine
end

