-- ==== Sys2Proof/Laws/KeepToken.lean ====
section
/-! SUPPORT. What the operations of Machine/Token.lean keep. -/
set_option linter.unusedTactic false
set_option linter.unreachableTactic false
set_option linter.unusedVariables false
namespace Sys2Proof.Machine

theorem State.satisfy_holds {ps : Kept} {s : State} {t st k n sd : Nat} (hq : Holds ps s) :
    Holds ps (State.satisfy s t st k n sd) := by
  unfold State.satisfy
  repeat' first
    | with_reducible first
      | assumption | apply Holds.ite | apply State.retireNext_holds | apply State.setSreg_holds | apply State.tokUpd_holds
    | intro _ | dsimp only

theorem State.tryWait_holds {ps : Kept} {s : State} {t k st : Nat} (hq : Holds ps s) :
    Holds ps (State.tryWait s t k st) := by
  unfold State.tryWait
  dsimp only
  repeat' first
    | with_reducible first
      | assumption | apply Holds.ite | apply State.satisfy_holds
    | intro _ | split | dsimp only

theorem State.waitsBelow_holds {ps : Kept} {s : State} {t k st : Nat} (hq : Holds ps s) :
    Holds ps (State.waitsBelow s t k st) := by
  unfold State.waitsBelow
  repeat' first
    | with_reducible first
      | assumption | apply Holds.ite | apply State.tryWait_holds | apply Holds.foldl | apply Holds.ite1 | apply Holds.foldl1
    | intro _ | dsimp only

theorem State.tokWaitBody_holds {ps : Kept} {s : State} {i : Iss} {a : TokArgs} (hq : Holds ps s) :
    Holds ps (State.tokWaitBody s i a) := by
  unfold State.tokWaitBody
  dsimp only
  repeat' first
    | with_reducible first
      | assumption | apply Holds.ite | apply State.satisfy_holds | apply State.setFld_holds | apply State.setStState_holds
      | apply State.setStream_holds | apply State.waitsBelow_holds
    | fail_if_no_progress with_reducible apply Holds.upd | intro _ | split | dsimp only

theorem execTokWait_holds {ps : Kept} {i : Iss} {a : TokArgs} {s : State} (hq : Holds ps s) :
    Done ps (execTokWait i a s) := by
  unfold execTokWait
  repeat' first
    | with_reducible first
      | assumption | apply Holds.ite | apply State.issueFenced_holds | apply State.tokWaitBody_holds | apply Done.next
      | apply Done.ite
    | intro _ | dsimp only

theorem execTokSet_holds {ps : Kept} {i : Iss} {a : TokArgs} {s : State} (hq : Holds ps s) :
    Done ps (execTokSet i a s) := by
  unfold execTokSet
  repeat' first
    | with_reducible first
      | assumption | apply Holds.ite | apply State.countEv_holds | apply State.issue_holds | apply State.retireNext_holds
      | apply State.tokUpd_holds | apply Done.next | apply Done.ite
    | intro _ | split | dsimp only

theorem execTokClr_holds {ps : Kept} {i : Iss} {a : TokArgs} {s : State} (hq : Holds ps s) :
    Done ps (execTokClr i a s) := by
  unfold execTokClr
  repeat' first
    | with_reducible first
      | assumption | apply Holds.ite | apply State.issue_holds | apply State.retireNext_holds | apply State.tokUpd_holds
      | apply Done.next | apply Done.ite
    | intro _ | dsimp only

theorem execTokRead_holds {ps : Kept} {i : Iss} {a : TokArgs} {s : State} (hq : Holds ps s) :
    Done ps (execTokRead i a s) := by
  unfold execTokRead
  dsimp only
  repeat' first
    | with_reducible first
      | assumption | apply Holds.ite | apply State.issue_holds | apply State.retireNext_holds | apply State.setSreg_holds
      | apply Done.next | apply Done.ite
    | intro _ | dsimp only

theorem execTokenWaitSatisfied_holds {ps : Kept} {p : StreamAt} {s : State} (hq : Holds ps s) :
    Done ps (execTokenWaitSatisfied p s) := by
  unfold execTokenWaitSatisfied
  dsimp only
  repeat' first
    | with_reducible first
      | assumption | apply Holds.ite | apply State.advance_holds | apply State.waitsBelow_holds | apply Done.next
      | apply Done.ite
    | intro _ | split | dsimp only

theorem execTokenTimeout_holds {ps : Kept} {p : StreamAt} {s : State} (hq : Holds ps s) :
    Done ps (execTokenTimeout p s) := by
  unfold execTokenTimeout
  dsimp only
  repeat' first
    | with_reducible first
      | assumption | apply Holds.ite | apply State.advance_holds | apply State.logTile_holds | apply State.setStream_holds
      | apply Holds.foldl | apply Holds.ite1 | apply Holds.foldl1 | apply Done.next | apply Done.ite
    | fail_if_no_progress with_reducible apply Holds.upd | intro _ | split | dsimp only

end Sys2Proof.Machine
end

