-- ==== Sys2Proof/Laws/KeepFrame.lean ====
section
/-! SUPPORT. What the operations of Machine/Frame.lean keep. -/
set_option linter.unusedTactic false
set_option linter.unreachableTactic false
set_option linter.unusedVariables false
namespace Sys2Proof.Machine

theorem State.frameCloseBody_holds {ps : Kept} {s : State} {t st op time : Nat} (hq : Holds ps s) :
    Holds ps (State.frameCloseBody s t st op time) := by
  unfold State.frameCloseBody
  dsimp only
  repeat' first
    | with_reducible first
      | assumption | apply Holds.ite | apply State.incFld_holds | apply State.logTile_holds | apply State.setFld_holds
    | fail_if_no_progress with_reducible apply Holds.upd | intro _ | split | dsimp only

theorem State.frameOpened_holds {ps : Kept} {s : State} {t st : Nat} (hq : Holds ps s) :
    Holds ps (State.frameOpened s t st) := by
  unfold State.frameOpened
  repeat' first
    | with_reducible first
      | assumption | apply Holds.ite | apply State.retireNext_holds | apply State.set1_holds
    | intro _ | dsimp only

theorem State.frameOpenBody_holds {ps : Kept} {s : State} {i : Iss} {a : FrameArgs} {abs : Bool} (hq : Holds ps s) :
    Holds ps (State.frameOpenBody s i a abs) := by
  unfold State.frameOpenBody
  dsimp only
  repeat' first
    | with_reducible first
      | assumption | apply Holds.ite | apply State.frameCloseBody_holds | apply State.frameOpened_holds
      | apply State.incFld_holds | apply State.logTile_holds | apply State.setFld_holds | apply State.setStState_holds
      | apply State.setStream_holds
    | fail_if_no_progress with_reducible apply Holds.upd | intro _ | split | dsimp only

theorem execFrameOpen_holds {ps : Kept} {i : Iss} {a : FrameArgs} {s : State} (hq : Holds ps s) :
    Done ps (execFrameOpen i a s) := by
  unfold execFrameOpen
  repeat' first
    | with_reducible first
      | assumption | apply Holds.ite | apply State.frameOpenBody_holds | apply State.issueFenced_holds | apply Done.next
      | apply Done.ite
    | intro _ | dsimp only

theorem execFrameOpenA_holds {ps : Kept} {i : Iss} {a : FrameArgs} {s : State} (hq : Holds ps s) :
    Done ps (execFrameOpenA i a s) := by
  unfold execFrameOpenA
  repeat' first
    | with_reducible first
      | assumption | apply Holds.ite | apply State.frameOpenBody_holds | apply State.issueFenced_holds | apply Done.next
      | apply Done.ite
    | intro _ | dsimp only

theorem execFrameClose_holds {ps : Kept} {i : Iss} (_a : FrameArgs) {time : Nat} {s : State} (hq : Holds ps s) :
    Done ps (execFrameClose i _a time s) := by
  unfold execFrameClose
  repeat' first
    | with_reducible first
      | assumption | apply Holds.ite | apply State.frameCloseBody_holds | apply State.issue_holds
      | apply State.retireNext_holds | apply Done.next | apply Done.ite
    | intro _ | dsimp only

theorem execFrameStat_holds {ps : Kept} {i : Iss} {a : FrameArgs} {s : State} (hq : Holds ps s) :
    Done ps (execFrameStat i a s) := by
  unfold execFrameStat
  repeat' first
    | with_reducible first
      | assumption | apply Holds.ite | apply State.issue_holds | apply State.retireNext_holds | apply State.setSreg_holds
      | apply Done.next | apply Done.ite
    | intro _ | dsimp only

theorem execFrameWaitEnd_holds {ps : Kept} {p : StreamAt} {s : State} (hq : Holds ps s) :
    Done ps (execFrameWaitEnd p s) := by
  unfold execFrameWaitEnd
  dsimp only
  repeat' first
    | with_reducible first
      | assumption | apply Holds.ite | apply State.advance_holds | apply State.frameOpened_holds | apply Done.next
      | apply Done.ite
    | intro _ | split | dsimp only

end Sys2Proof.Machine
end

