-- ==== Sys2Proof/Laws/KeepCounter.lean ====
section
/-! SUPPORT. What the operations of Machine/Counter.lean keep. -/
set_option linter.unusedTactic false
set_option linter.unreachableTactic false
set_option linter.unusedVariables false
namespace Sys2Proof.Machine

theorem execCtrRead_holds {ps : Kept} {i : Iss} {a : CtrArgs} {s : State} (hq : Holds ps s) :
    Done ps (execCtrRead i a s) := by
  unfold execCtrRead
  repeat' first
    | with_reducible first
      | assumption | apply Holds.ite | apply State.issue_holds | apply State.issueIllegal_holds
      | apply State.retireNext_holds | apply State.setSreg_holds | apply Done.next | apply Done.ite
    | intro _ | split | dsimp only

theorem execCtrClr_holds {ps : Kept} {i : Iss} {a : CtrArgs} {s : State} (hq : Holds ps s) :
    Done ps (execCtrClr i a s) := by
  unfold execCtrClr
  repeat' first
    | with_reducible first
      | assumption | apply Holds.ite | apply State.issue_holds | apply State.issueIllegal_holds
      | apply State.retireNext_holds | apply State.setFld_holds | apply Done.next | apply Done.ite
    | intro _ | split | dsimp only

theorem execCtrTide_holds {ps : Kept} {i : Iss} {a : CtrArgs} {s : State} (hq : Holds ps s) :
    Done ps (execCtrTide i a s) := by
  unfold execCtrTide
  repeat' first
    | with_reducible first
      | assumption | apply Holds.ite | apply State.issue_holds | apply State.retireNext_holds | apply State.setSreg_holds
      | apply Done.next | apply Done.ite
    | intro _ | dsimp only

theorem execCtrCyc_holds {ps : Kept} {i : Iss} {a : CtrArgs} {s : State} (hq : Holds ps s) :
    Done ps (execCtrCyc i a s) := by
  unfold execCtrCyc
  repeat' first
    | with_reducible first
      | assumption | apply Holds.ite | apply State.issue_holds | apply State.retireNext_holds | apply State.setSreg_holds
      | apply Done.next | apply Done.ite
    | intro _ | dsimp only

theorem execCmpSet_holds {ps : Kept} {i : Iss} {a : CtrArgs} {s : State} (hq : Holds ps s) :
    Done ps (execCmpSet i a s) := by
  unfold execCmpSet
  repeat' first
    | with_reducible first
      | assumption | apply Holds.ite | apply State.issue_holds | apply State.issueIllegal_holds
      | apply State.retireNext_holds | apply State.set1_holds | apply State.setFld_holds | apply Done.next | apply Done.ite
    | intro _ | split | dsimp only

theorem execCmpArm_holds {ps : Kept} {i : Iss} {a : CtrArgs} {s : State} (hq : Holds ps s) :
    Done ps (execCmpArm i a s) := by
  unfold execCmpArm
  repeat' first
    | with_reducible first
      | assumption | apply Holds.ite | apply State.issue_holds | apply State.issueIllegal_holds
      | apply State.retireNext_holds | apply State.set1_holds | apply Done.next | apply Done.ite
    | intro _ | split | dsimp only

theorem State.breakWait_holds {ps : Kept} {s : State} {t st : Nat} (hq : Holds ps s) :
    Holds ps (State.breakWait s t st) := by
  unfold State.breakWait
  repeat' first
    | with_reducible first
      | assumption | apply Holds.ite | apply State.breakNow_holds | apply State.setStream_holds
    | fail_if_no_progress with_reducible apply Holds.upd | intro _ | dsimp only

theorem State.cmpBreak_holds {ps : Kept} {s : State} {t st : Nat} (hq : Holds ps s) :
    Holds ps (State.cmpBreak s t st) := by
  unfold State.cmpBreak
  repeat' first
    | with_reducible first
      | assumption | apply Holds.ite | apply State.breakDrain_holds | apply State.breakWait_holds
    | fail_if_no_progress with_reducible apply Holds.upd | intro _ | split | refine Holds.pair (by with_reducible assumption) ?_ | dsimp only

theorem execComparatorFire_holds {ps : Kept} {t : Fin 144} {j : Fin 4} {ac : Nat} {s : State} (hq : Holds ps s) :
    Done ps (execComparatorFire t j ac s) := by
  unfold execComparatorFire
  dsimp only
  repeat' first
    | with_reducible first
      | assumption | apply Holds.ite | apply State.advance_holds | apply State.cmpBreak_holds | apply State.logTile_holds
      | apply State.set1_holds | apply State.setFld_holds | apply Holds.foldl | apply Holds.ite1 | apply Holds.foldl1
      | apply Done.next | apply Done.ite
    | intro _ | split | dsimp only

theorem execTsqCtlUnfreeze_holds {ps : Kept} {m : Master} {t : Fin 144} {s : State} (hq : Holds ps s) :
    Done ps (execTsqCtlUnfreeze m t s) := by
  unfold execTsqCtlUnfreeze
  repeat' first
    | with_reducible first
      | assumption | apply Holds.ite | apply State.noteBy_holds | apply State.setFld_holds | apply Holds.foldl
      | apply Holds.ite1 | apply Holds.foldl1 | apply Done.next | apply Done.ite
    | intro _ | dsimp only

end Sys2Proof.Machine
end

