-- ==== Sys2Proof/Laws/KeepStreamCtl.lean ====
section
/-! SUPPORT. What the operations of Machine/StreamCtl.lean keep. -/
set_option linter.unusedTactic false
set_option linter.unreachableTactic false
set_option linter.unusedVariables false
namespace Sys2Proof.Machine

theorem State.startStream_holds {ps : Kept} {s : State} {t st : Nat} (hq : Holds ps s) :
    Holds ps (State.startStream s t st) := by
  unfold State.startStream
  dsimp only
  repeat' first
    | with_reducible first
      | assumption | apply Holds.ite | apply State.setPc_holds | apply State.setReg_holds | apply State.setStState_holds
      | apply State.setStream_holds | apply Holds.foldl | apply Holds.ite1 | apply Holds.foldl1
    | fail_if_no_progress with_reducible apply Holds.upd | intro _ | dsimp only

theorem State.start_holds {ps : Kept} {s : State} {t mask : Nat} (hq : Holds ps s) :
    Holds ps (State.start s t mask) := by
  unfold State.start
  dsimp only
  repeat' first
    | with_reducible first
      | assumption | apply Holds.ite | apply State.set1_holds | apply State.startStream_holds | apply Holds.foldl
      | apply Holds.ite1 | apply Holds.foldl1
    | intro _ | split | dsimp only

theorem execTsqCtlStart_holds {ps : Kept} {m : Master} {t : Fin 144} {mask : BitVec 8} {s : State} (hq : Holds ps s) :
    Done ps (execTsqCtlStart m t mask s) := by
  unfold execTsqCtlStart
  repeat' first
    | with_reducible first
      | assumption | apply Holds.ite | apply State.noteBy_holds | apply State.start_holds | apply Done.next | apply Done.ite
    | intro _ | dsimp only

theorem State.haltStream_holds {ps : Kept} {s : State} {t st : Nat} (hq : Holds ps s) :
    Holds ps (State.haltStream s t st) := by
  unfold State.haltStream
  repeat' first
    | with_reducible first
      | assumption | apply Holds.ite | apply State.haltDrain_holds
    | fail_if_no_progress with_reducible apply Holds.upd | intro _ | split | refine Holds.pair (by with_reducible assumption) ?_ | dsimp only

theorem State.haltMask_holds {ps : Kept} {s : State} {t mask : Nat} (hq : Holds ps s) :
    Holds ps (State.haltMask s t mask) := by
  unfold State.haltMask
  repeat' first
    | with_reducible first
      | assumption | apply Holds.ite | apply State.haltStream_holds | apply Holds.foldl | apply Holds.ite1
      | apply Holds.foldl1
    | intro _ | split | dsimp only

theorem execTsqCtlHalt_holds {ps : Kept} {m : Master} {t : Fin 144} {mask : BitVec 8} {s : State} (hq : Holds ps s) :
    Done ps (execTsqCtlHalt m t mask s) := by
  unfold execTsqCtlHalt
  repeat' first
    | with_reducible first
      | assumption | apply Holds.ite | apply State.haltMask_holds | apply State.noteBy_holds | apply Done.next
      | apply Done.ite
    | intro _ | dsimp only

theorem State.resumeStream_holds {ps : Kept} {s : State} {t st : Nat} (hq : Holds ps s) :
    Holds ps (State.resumeStream s t st) := by
  unfold State.resumeStream
  dsimp only
  repeat' first
    | with_reducible first
      | assumption | apply Holds.ite | apply State.setStState_holds | apply State.setStream_holds
    | fail_if_no_progress with_reducible apply Holds.upd | intro _ | split | dsimp only

theorem State.resumeMask_holds {ps : Kept} {s : State} {t mask : Nat} (hq : Holds ps s) :
    Holds ps (State.resumeMask s t mask) := by
  unfold State.resumeMask
  repeat' first
    | with_reducible first
      | assumption | apply Holds.ite | apply State.resumeStream_holds | apply Holds.foldl | apply Holds.ite1
      | apply Holds.foldl1
    | intro _ | split | dsimp only

theorem execTsqCtlResume_holds {ps : Kept} {m : Master} {t : Fin 144} {mask : BitVec 8} {s : State} (hq : Holds ps s) :
    Done ps (execTsqCtlResume m t mask s) := by
  unfold execTsqCtlResume
  repeat' first
    | with_reducible first
      | assumption | apply Holds.ite | apply State.noteBy_holds | apply State.resumeMask_holds | apply Done.next
      | apply Done.ite
    | intro _ | dsimp only

theorem State.tokenWrite_holds {ps : Kept} {s : State} {t k : Nat} {v : Word} (hq : Holds ps s) :
    Holds ps (State.tokenWrite s t k v) := by
  unfold State.tokenWrite
  repeat' first
    | with_reducible first
      | assumption | apply Holds.ite | apply State.setTile_holds
    | fail_if_no_progress with_reducible apply Holds.upd | intro _ | dsimp only

theorem execTsqTokenWrite_holds {ps : Kept} {m : Master} {t : Fin 144} {k : BitVec 12} {v : BitVec 64} {s : State} (hq : Holds ps s) :
    Done ps (execTsqTokenWrite m t k v s) := by
  unfold execTsqTokenWrite
  repeat' first
    | with_reducible first
      | assumption | apply Holds.ite | apply State.noteBy_holds | apply State.tokenWrite_holds | apply Done.next
      | apply Done.ite
    | intro _ | dsimp only

theorem State.sregWrite_holds {ps : Kept} {s : State} {t st n : Nat} {v : Word} (hq : Holds ps s) :
    Holds ps (State.sregWrite s t st n v) := by
  unfold State.sregWrite
  repeat' first
    | with_reducible first
      | assumption | apply Holds.ite | apply State.setSreg_holds
    | intro _ | split | dsimp only

theorem execTsqSregWrite_holds {ps : Kept} {m : Master} {t : Fin 144} {st : Fin 8} {n : BitVec 5} {v : BitVec 64} {s : State} (hq : Holds ps s) :
    Done ps (execTsqSregWrite m t st n v s) := by
  unfold execTsqSregWrite
  repeat' first
    | with_reducible first
      | assumption | apply Holds.ite | apply State.noteBy_holds | apply State.sregWrite_holds | apply Done.next
      | apply Done.ite
    | intro _ | dsimp only

theorem execStreamBreak_holds {ps : Kept} {p : StreamAt} {s : State} (hq : Holds ps s) :
    Done ps (execStreamBreak p s) := by
  unfold execStreamBreak
  dsimp only
  repeat' first
    | with_reducible first
      | assumption | apply Holds.ite | apply State.advance_holds | apply State.breakNow_holds | apply Done.next
      | apply Done.ite
    | fail_if_no_progress with_reducible apply Holds.upd | intro _ | split | refine Holds.pair (by with_reducible assumption) ?_ | dsimp only

theorem State.landAll_holds {ps : Kept} {s : State} {t n : Nat} (hq : Holds ps s) :
    Holds ps (State.landAll s t n) := by
  unfold State.landAll
  dsimp only
  repeat' first
    | with_reducible first
      | assumption | apply Holds.ite | apply State.advance_holds | apply State.landDue_holds
    | intro _ | dsimp only

theorem execVectorWriteback_holds {ps : Kept} {t : Fin 144} {ac : Nat} {s : State} (hq : Holds ps s) :
    Done ps (execVectorWriteback t ac s) := by
  unfold execVectorWriteback
  repeat' first
    | with_reducible first
      | assumption | apply Holds.ite | apply State.landAll_holds | apply Done.next | apply Done.ite
    | intro _ | dsimp only

theorem execIllegalInsn_holds {ps : Kept} {i : Iss} {word : BitVec 64} {s : State} (hq : Holds ps s) :
    Done ps (execIllegalInsn i word s) := by
  unfold execIllegalInsn
  repeat' first
    | with_reducible first
      | assumption | apply Holds.ite | apply State.issueIllegal_holds | apply Done.next | apply Done.ite
    | fail_if_no_progress with_reducible apply Holds.upd | intro _ | split | dsimp only

end Sys2Proof.Machine
end

