-- ==== Sys2Proof/Laws/KeepEvt.lean ====
section
/-! SUPPORT. What the operations of Machine/Evt.lean keep. -/
set_option linter.unusedTactic false
set_option linter.unreachableTactic false
set_option linter.unusedVariables false
namespace Sys2Proof.Machine

theorem State.devWrite_holds {ps : Kept} {s : State} {src a : Nat} {bs : List Byte} {bad : Bool} (hq : Holds ps s) :
    Holds ps (State.devWrite s src a bs bad) := by
  unfold State.devWrite
  repeat' first
    | with_reducible first
      | assumption | apply Holds.ite | apply State.unmapped_holds | apply State.writeBytes_holds | apply Holds.foldl
      | apply Holds.ite1 | apply Holds.foldl1
    | intro _ | split | dsimp only

theorem State.ringWrite_holds {ps : Kept} {s : State} {r : BitVec 256} (hq : Holds ps s) :
    Holds ps (State.ringWrite s r) := by
  unfold State.ringWrite
  dsimp only
  repeat' first
    | with_reducible first
      | assumption | apply Holds.ite | apply State.devWrite_holds | apply State.incFld_holds | apply State.set1_holds
      | apply State.setFld_holds
    | intro _ | split | dsimp only

theorem State.acceptRec_holds {ps : Kept} {s : State} {r : BitVec 256} (hq : Holds ps s) :
    Holds ps (State.acceptRec s r) := by
  unfold State.acceptRec
  repeat' first
    | with_reducible first
      | assumption | apply Holds.ite | apply State.incFld_holds | apply State.ringWrite_holds | apply State.set1_holds
    | fail_if_no_progress with_reducible apply Holds.upd | intro _ | split | dsimp only

theorem execEventAccept_holds {ps : Kept} {sameNs : Nat} {s : State} (hq : Holds ps s) :
    Done ps (execEventAccept sameNs s) := by
  unfold execEventAccept
  repeat' first
    | with_reducible first
      | assumption | apply Holds.ite | apply State.acceptRec_holds | apply Done.next | apply Done.ite
    | fail_if_no_progress with_reducible apply Holds.upd | intro _ | split | dsimp only

theorem State.swCommit_holds {ps : Kept} {s : State} (hq : Holds ps s) :
    Holds ps (State.swCommit s) := by
  unfold State.swCommit
  dsimp only
  repeat' first
    | with_reducible first
      | assumption | apply Holds.ite | apply State.arise_holds | apply State.noteTrigger_holds | apply State.signal_holds
    | intro _ | split | dsimp only

theorem execEvtSwCommit_holds {ps : Kept} {s : State} (hq : Holds ps s) :
    Done ps (execEvtSwCommit s) := by
  unfold execEvtSwCommit
  repeat' first
    | with_reducible first
      | assumption | apply Holds.ite | apply State.swCommit_holds | apply Done.next | apply Done.ite
    | intro _ | dsimp only

theorem State.evtCtlWrite_holds {ps : Kept} {s : State} {v : Word} (hq : Holds ps s) :
    Holds ps (State.evtCtlWrite s v) := by
  unfold State.evtCtlWrite
  dsimp only
  repeat' first
    | with_reducible first
      | assumption | apply Holds.ite | apply State.ringWrite_holds | apply State.set1_holds | apply State.setFld_holds
      | apply Holds.foldl | apply Holds.ite1 | apply Holds.foldl1
    | fail_if_no_progress with_reducible apply Holds.upd | intro _ | split | dsimp only

theorem execEvtCtlWrite_holds {ps : Kept} {v : BitVec 64} {s : State} (hq : Holds ps s) :
    Done ps (execEvtCtlWrite v s) := by
  unfold execEvtCtlWrite
  repeat' first
    | with_reducible first
      | assumption | apply Holds.ite | apply State.evtCtlWrite_holds | apply Done.next | apply Done.ite
    | intro _ | dsimp only

theorem State.evtRdWrite_holds {ps : Kept} {s : State} {v : Word} (hq : Holds ps s) :
    Holds ps (State.evtRdWrite s v) := by
  unfold State.evtRdWrite
  dsimp only
  repeat' first
    | with_reducible first
      | assumption | apply Holds.ite | apply State.set1_holds | apply State.setFld_holds
    | intro _ | split | dsimp only

theorem execEvtRdWrite_holds {ps : Kept} {v : BitVec 64} {s : State} (hq : Holds ps s) :
    Done ps (execEvtRdWrite v s) := by
  unfold execEvtRdWrite
  repeat' first
    | with_reducible first
      | assumption | apply Holds.ite | apply State.evtRdWrite_holds | apply Done.next | apply Done.ite
    | intro _ | dsimp only

theorem State.auditArise_holds {ps : Kept} {s : State} {r : AuditRec} (hq : Holds ps s) :
    Holds ps (State.auditArise s r) := by
  unfold State.auditArise
  repeat' first
    | with_reducible first
      | assumption | apply Holds.ite | apply State.incFld_holds
    | fail_if_no_progress with_reducible apply Holds.upd | intro _ | split | dsimp only

theorem execAuditAccept_holds {ps : Kept} {sameNs : Nat} {s : State} (hq : Holds ps s) :
    Done ps (execAuditAccept sameNs s) := by
  unfold execAuditAccept
  dsimp only
  repeat' first
    | with_reducible first
      | assumption | apply Holds.ite | apply State.countEv_holds | apply State.devWrite_holds | apply State.incFld_holds
      | apply State.setFld_holds | apply Done.next | apply Done.ite
    | fail_if_no_progress with_reducible apply Holds.upd | intro _ | split | dsimp only

theorem State.auditRdWrite_holds {ps : Kept} {s : State} {v : Word} (hq : Holds ps s) :
    Holds ps (State.auditRdWrite s v) := by
  unfold State.auditRdWrite
  dsimp only
  repeat' first
    | with_reducible first
      | assumption | apply Holds.ite | apply State.set1_holds | apply State.setFld_holds
    | intro _ | split | dsimp only

theorem execEvtAuditRdWrite_holds {ps : Kept} {v : BitVec 64} {s : State} (hq : Holds ps s) :
    Done ps (execEvtAuditRdWrite v s) := by
  unfold execEvtAuditRdWrite
  repeat' first
    | with_reducible first
      | assumption | apply Holds.ite | apply State.auditRdWrite_holds | apply Done.next | apply Done.ite
    | intro _ | dsimp only

theorem State.ringBytes_holds {ps : Kept} {s : State} {base size pos : Nat} {bs : List Byte} {bad : Bool} (hq : Holds ps s) :
    Holds ps (State.ringBytes s base size pos bs bad) := by
  unfold State.ringBytes
  dsimp only
  repeat' first
    | with_reducible first
      | assumption | apply Holds.ite | apply State.devWrite_holds
    | intro _ | split | dsimp only

theorem State.capture_holds {ps : Kept} {s : State} {cls : Nat} {bad : Bool} {body : List Byte} (hq : Holds ps s) :
    Holds ps (State.capture s cls bad body) := by
  unfold State.capture
  dsimp only
  repeat' first
    | with_reducible first
      | assumption | apply Holds.ite | apply State.ringBytes_holds | apply State.set1_holds | apply State.setFld_holds
    | fail_if_no_progress with_reducible apply Holds.upd | intro _ | split | dsimp only

theorem State.capCtlWrite_holds {ps : Kept} {s : State} {v : Word} (hq : Holds ps s) :
    Holds ps (State.capCtlWrite s v) := by
  unfold State.capCtlWrite
  dsimp only
  repeat' first
    | with_reducible first
      | assumption | apply Holds.ite | apply State.setReg_holds
    | fail_if_no_progress with_reducible apply Holds.upd | intro _ | split | dsimp only

theorem execEvtCapEnable_holds {ps : Kept} {v : BitVec 64} {s : State} (hq : Holds ps s) :
    Done ps (execEvtCapEnable v s) := by
  unfold execEvtCapEnable
  repeat' first
    | with_reducible first
      | assumption | apply Holds.ite | apply State.capCtlWrite_holds | apply Done.next | apply Done.ite
    | intro _ | dsimp only

theorem execCaptureFreeze_holds {ps : Kept} {s : State} (hq : Holds ps s) :
    Done ps (execCaptureFreeze s) := by
  unfold execCaptureFreeze
  dsimp only
  repeat' first
    | with_reducible first
      | assumption | apply Holds.ite | apply State.logDev_holds | apply State.set1_holds | apply State.setFld_holds
      | apply Done.next | apply Done.ite
    | fail_if_no_progress with_reducible apply Holds.upd | intro _ | split | dsimp only

end Sys2Proof.Machine
end

