-- ==== Sys2Proof/Laws/KeepTide.lean ====
section
/-! SUPPORT. What the operations of Machine/Tide.lean keep. -/
set_option linter.unusedTactic false
set_option linter.unreachableTactic false
set_option linter.unusedVariables false
namespace Sys2Proof.Machine

theorem State.setTide_holds {ps : Kept} {s : State} {u : TideUnit} (hq : Holds ps s) :
    Holds ps (State.setTide s u) := by
  unfold State.setTide
  repeat' first
    | with_reducible first
      | assumption | apply Holds.ite
    | fail_if_no_progress with_reducible apply Holds.upd | intro _ | dsimp only

theorem State.tideNow_holds {ps : Kept} {s : State} {time : Nat} (hq : Holds ps s) :
    Holds ps (State.tideNow s time) := by
  unfold State.tideNow
  dsimp only
  repeat' first
    | with_reducible first
      | assumption | apply Holds.ite | apply State.setFld_holds | apply State.setTide_holds
    | fail_if_no_progress with_reducible apply Holds.upd | intro _ | dsimp only

theorem State.writeSlack_holds {ps : Kept} {s : State} {t inst : Nat} (hq : Holds ps s) :
    Holds ps (State.writeSlack s t inst) := by
  unfold State.writeSlack
  dsimp only
  repeat' first
    | with_reducible first
      | assumption | apply Holds.ite | apply State.setFld_holds | apply State.setTide_holds | apply Holds.foldl
      | apply Holds.ite1 | apply Holds.foldl1
    | fail_if_no_progress with_reducible apply Holds.upd | intro _ | split | dsimp only

theorem State.settleEchoes_holds {ps : Kept} {s : State} {first last inst : Nat} (hq : Holds ps s) :
    Holds ps (State.settleEchoes s first last inst) := by
  unfold State.settleEchoes
  dsimp only
  repeat' first
    | with_reducible first
      | assumption | apply Holds.ite | apply State.setFld_holds | apply State.setTide_holds | apply Holds.foldl
      | apply Holds.ite1 | apply Holds.foldl1
    | fail_if_no_progress with_reducible apply Holds.upd | intro _ | split | refine Holds.pair (by with_reducible assumption) ?_ | dsimp only

theorem State.takeTides_holds {ps : Kept} {s : State} {first last kind inst : Nat} (hq : Holds ps s) :
    Holds ps (State.takeTides s first last kind inst) := by
  unfold State.takeTides
  dsimp only
  repeat' first
    | with_reducible first
      | assumption | apply Holds.ite | apply State.capture_holds | apply State.setFld_holds | apply State.setTide_holds
      | apply State.settleEchoes_holds | apply State.writeSlack_holds | apply Holds.foldl | apply Holds.ite1
      | apply Holds.foldl1
    | fail_if_no_progress with_reducible apply Holds.upd | intro _ | split | dsimp only

theorem State.lockTo_holds {ps : Kept} {s : State} {n mark : Nat} (hq : Holds ps s) :
    Holds ps (State.lockTo s n mark) := by
  unfold State.lockTo
  dsimp only
  repeat' first
    | with_reducible first
      | assumption | apply Holds.ite | apply State.setFld_holds | apply State.setTide_holds | apply State.takeFresh_holds
    | fail_if_no_progress with_reducible apply Holds.upd | intro _ | split | dsimp only

theorem State.takePend_holds {ps : Kept} {s : State} {p : PendTide} (hq : Holds ps s) :
    Holds ps (State.takePend s p) := by
  unfold State.takePend
  dsimp only
  repeat' first
    | with_reducible first
      | assumption | apply Holds.ite | apply State.incFld_holds | apply State.lockTo_holds | apply State.setTide_holds
      | apply State.takeTides_holds
    | fail_if_no_progress with_reducible apply Holds.upd | intro _ | split | dsimp only

theorem State.takeJump_holds {ps : Kept} {s : State} {n inst mark : Nat} (hq : Holds ps s) :
    Holds ps (State.takeJump s n inst mark) := by
  unfold State.takeJump
  dsimp only
  repeat' first
    | with_reducible first
      | assumption | apply Holds.ite | apply State.incFld_holds | apply State.lockTo_holds | apply State.logDev_holds
      | apply State.set1_holds | apply State.setTide_holds | apply State.takeTides_holds
    | fail_if_no_progress with_reducible apply Holds.upd | intro _ | split | dsimp only

theorem State.sendSymbol_holds {ps : Kept} {s : State} {mask : Nat} {b : BitVec 112} {at' : Nat} (hq : Holds ps s) :
    Holds ps (State.sendSymbol s mask b at') := by
  unfold State.sendSymbol
  repeat' first
    | with_reducible first
      | assumption | apply Holds.ite | apply State.setTide_holds
    | fail_if_no_progress with_reducible apply Holds.upd | intro _ | dsimp only

theorem State.depose_holds {ps : Kept} {s : State} {source epoch : Nat} (hq : Holds ps s) :
    Holds ps (State.depose s source epoch) := by
  unfold State.depose
  dsimp only
  repeat' first
    | with_reducible first
      | assumption | apply Holds.ite | apply State.logDev_holds | apply State.set1_holds | apply State.setFld_holds
      | apply State.setTide_holds
    | fail_if_no_progress with_reducible apply Holds.upd | intro _ | dsimp only

theorem State.adopt_holds {ps : Kept} {s : State} {source epoch : Nat} (hq : Holds ps s) :
    Holds ps (State.adopt s source epoch) := by
  unfold State.adopt
  repeat' first
    | with_reducible first
      | assumption | apply Holds.ite | apply State.setFld_holds
    | intro _ | dsimp only

theorem State.acceptMark_holds {ps : Kept} {s : State} {n inst mark : Nat} {jump late : Bool} (hq : Holds ps s) :
    Holds ps (State.acceptMark s n inst mark jump late) := by
  unfold State.acceptMark
  dsimp only
  repeat' first
    | with_reducible first
      | assumption | apply Holds.ite | apply State.setTide_holds | apply State.takePend_holds
    | fail_if_no_progress with_reducible apply Holds.upd | intro _ | split | dsimp only

theorem State.judgeMark_holds {ps : Kept} {s : State} {n inst mark source : Nat} {fresh late : Bool} (hq : Holds ps s) :
    Holds ps (State.judgeMark s n inst mark source fresh late) := by
  unfold State.judgeMark
  dsimp only
  repeat' first
    | with_reducible first
      | assumption | apply Holds.ite | apply State.acceptMark_holds | apply State.incFld_holds | apply State.logDev_holds
      | apply State.setFld_holds | apply State.setTide_holds
    | fail_if_no_progress with_reducible apply Holds.upd | intro _ | split | dsimp only

theorem State.applyMark_holds {ps : Kept} {s : State} {m : SymFields} {port inst mark : Nat} {late : Bool} (hq : Holds ps s) :
    Holds ps (State.applyMark s m port inst mark late) := by
  unfold State.applyMark
  dsimp only
  repeat' first
    | with_reducible first
      | assumption | apply Holds.ite | apply State.adopt_holds | apply State.depose_holds | apply State.incFld_holds
      | apply State.judgeMark_holds | apply State.logDev_holds | apply State.set1_holds | apply State.setTide_holds
    | fail_if_no_progress with_reducible apply Holds.upd | intro _ | split | dsimp only

theorem State.markRx_holds {ps : Kept} {s : State} {port : Nat} {b : BitVec 112} (hq : Holds ps s) :
    Holds ps (State.markRx s port b) := by
  unfold State.markRx
  dsimp only
  repeat' first
    | with_reducible first
      | assumption | apply Holds.ite | apply State.applyMark_holds | apply State.incFld_holds | apply State.logDev_holds
      | apply State.sendSymbol_holds | apply State.setTide_holds
    | fail_if_no_progress with_reducible apply Holds.upd | intro _ | split | dsimp only

theorem State.tideDo_holds {ps : Kept} {s : State} {time : Nat} {f : State → State} (hq : Holds ps s) (hf : ∀ x0, Holds ps x0 → Holds ps (f x0)) :
    Holds ps (State.tideDo s time f) := by
  unfold State.tideDo
  dsimp only
  repeat' first
    | with_reducible first
      | assumption | apply Holds.ite | apply State.tideNow_holds | apply hf
    | intro _ | split | dsimp only

theorem execTideMarkRx_holds {ps : Kept} {sym : TideSym} {s : State} (hq : Holds ps s) :
    Done ps (execTideMarkRx sym s) := by
  unfold execTideMarkRx
  repeat' first
    | with_reducible first
      | assumption | apply Holds.ite | apply State.markRx_holds | apply State.tideDo_holds | apply Done.next | apply Done.ite
    | intro _ | dsimp only

theorem State.dueJump_holds {ps : Kept} {s : State} (hq : Holds ps s) :
    Holds ps (State.dueJump s) := by
  unfold State.dueJump
  repeat' first
    | with_reducible first
      | assumption | apply Holds.ite | apply State.setTide_holds | apply State.takeJump_holds
    | fail_if_no_progress with_reducible apply Holds.upd | intro _ | split | dsimp only

theorem execTideJump_holds {ps : Kept} {time : Nat} {s : State} (hq : Holds ps s) :
    Done ps (execTideJump time s) := by
  unfold execTideJump
  repeat' first
    | with_reducible first
      | assumption | apply Holds.ite | apply State.dueJump_holds | apply State.tideDo_holds | apply Done.next
      | apply Done.ite
    | intro _ | dsimp only

theorem State.duePend_holds {ps : Kept} {s : State} (hq : Holds ps s) :
    Holds ps (State.duePend s) := by
  unfold State.duePend
  repeat' first
    | with_reducible first
      | assumption | apply Holds.ite | apply State.takePend_holds
    | fail_if_no_progress with_reducible apply Holds.upd | intro _ | split | dsimp only

theorem execPendingTideTake_holds {ps : Kept} {time : Nat} {s : State} (hq : Holds ps s) :
    Done ps (execPendingTideTake time s) := by
  unfold execPendingTideTake
  repeat' first
    | with_reducible first
      | assumption | apply Holds.ite | apply State.duePend_holds | apply State.tideDo_holds | apply Done.next
      | apply Done.ite
    | intro _ | dsimp only

theorem State.coastLimit_holds {ps : Kept} {s : State} (hq : Holds ps s) :
    Holds ps (State.coastLimit s) := by
  unfold State.coastLimit
  dsimp only
  repeat' first
    | with_reducible first
      | assumption | apply Holds.ite | apply State.logDev_holds | apply State.set1_holds | apply State.setTide_holds
    | fail_if_no_progress with_reducible apply Holds.upd | intro _ | split | dsimp only

theorem State.backupMiss_holds {ps : Kept} {s : State} (hq : Holds ps s) :
    Holds ps (State.backupMiss s) := by
  unfold State.backupMiss
  dsimp only
  repeat' first
    | with_reducible first
      | assumption | apply Holds.ite | apply State.adopt_holds | apply State.logDev_holds | apply State.set1_holds
      | apply State.setFld_holds | apply State.setTide_holds
    | fail_if_no_progress with_reducible apply Holds.upd | intro _ | split | dsimp only

theorem State.nextWindow_holds {ps : Kept} {s : State} (hq : Holds ps s) :
    Holds ps (State.nextWindow s) := by
  unfold State.nextWindow
  repeat' first
    | with_reducible first
      | assumption | apply Holds.ite | apply State.setTide_holds
    | fail_if_no_progress with_reducible apply Holds.upd | intro _ | dsimp only

theorem State.noMiss_holds {ps : Kept} {s : State} (hq : Holds ps s) :
    Holds ps (State.noMiss s) := by
  unfold State.noMiss
  repeat' first
    | with_reducible first
      | assumption | apply Holds.ite | apply State.setTide_holds
    | fail_if_no_progress with_reducible apply Holds.upd | intro _ | split | dsimp only

theorem State.coast_holds {ps : Kept} {s : State} (hq : Holds ps s) :
    Holds ps (State.coast s) := by
  unfold State.coast
  repeat' first
    | with_reducible first
      | assumption | apply Holds.ite | apply State.setFld_holds | apply State.takeTides_holds
    | intro _ | split | dsimp only

theorem State.windowClose_holds {ps : Kept} {s : State} (hq : Holds ps s) :
    Holds ps (State.windowClose s) := by
  unfold State.windowClose
  dsimp only
  repeat' first
    | with_reducible first
      | assumption | apply Holds.ite | apply State.backupMiss_holds | apply State.coast_holds | apply State.coastLimit_holds
      | apply State.incFld_holds | apply State.logDev_holds | apply State.nextWindow_holds | apply State.noMiss_holds
    | fail_if_no_progress with_reducible apply Holds.upd | intro _ | split | dsimp only

theorem execMissWindowClose_holds {ps : Kept} {time : Nat} {s : State} (hq : Holds ps s) :
    Done ps (execMissWindowClose time s) := by
  unfold execMissWindowClose
  repeat' first
    | with_reducible first
      | assumption | apply Holds.ite | apply State.tideDo_holds | apply State.windowClose_holds | apply Done.next
      | apply Done.ite
    | intro _ | dsimp only

theorem State.emitMark_holds {ps : Kept} {s : State} (hq : Holds ps s) :
    Holds ps (State.emitMark s) := by
  unfold State.emitMark
  dsimp only
  repeat' first
    | with_reducible first
      | assumption | apply Holds.ite | apply State.sendSymbol_holds | apply State.setTide_holds
    | fail_if_no_progress with_reducible apply Holds.upd | intro _ | split | dsimp only

theorem execMasterMarkEmit_holds {ps : Kept} {time : Nat} {s : State} (hq : Holds ps s) :
    Done ps (execMasterMarkEmit time s) := by
  unfold execMasterMarkEmit
  repeat' first
    | with_reducible first
      | assumption | apply Holds.ite | apply State.emitMark_holds | apply State.tideDo_holds | apply Done.next
      | apply Done.ite
    | intro _ | dsimp only

theorem State.masterTake_holds {ps : Kept} {s : State} (hq : Holds ps s) :
    Holds ps (State.masterTake s) := by
  unfold State.masterTake
  dsimp only
  repeat' first
    | with_reducible first
      | assumption | apply Holds.ite | apply State.setTide_holds | apply State.takeTides_holds
    | fail_if_no_progress with_reducible apply Holds.upd | intro _ | split | dsimp only

theorem execMasterTideTake_holds {ps : Kept} {time : Nat} {s : State} (hq : Holds ps s) :
    Done ps (execMasterTideTake time s) := by
  unfold execMasterTideTake
  repeat' first
    | with_reducible first
      | assumption | apply Holds.ite | apply State.masterTake_holds | apply State.tideDo_holds | apply Done.next
      | apply Done.ite
    | intro _ | dsimp only

theorem State.sendEcho_holds {ps : Kept} {s : State} (hq : Holds ps s) :
    Holds ps (State.sendEcho s) := by
  unfold State.sendEcho
  dsimp only
  repeat' first
    | with_reducible first
      | assumption | apply Holds.ite | apply State.sendSymbol_holds | apply State.setTide_holds
    | fail_if_no_progress with_reducible apply Holds.upd | intro _ | split | dsimp only

theorem execEchoSend_holds {ps : Kept} {time : Nat} {s : State} (hq : Holds ps s) :
    Done ps (execEchoSend time s) := by
  unfold execEchoSend
  repeat' first
    | with_reducible first
      | assumption | apply Holds.ite | apply State.sendEcho_holds | apply State.tideDo_holds | apply Done.next
      | apply Done.ite
    | intro _ | dsimp only

theorem State.echoRx_holds {ps : Kept} {s : State} {port : Fin 16} {b : BitVec 112} (hq : Holds ps s) :
    Holds ps (State.echoRx s port b) := by
  unfold State.echoRx
  dsimp only
  repeat' first
    | with_reducible first
      | assumption | apply Holds.ite | apply State.setFld_holds | apply State.setTide_holds
    | fail_if_no_progress with_reducible apply Holds.upd | intro _ | split | dsimp only

theorem execTideEchoRx_holds {ps : Kept} {sym : TideSym} {s : State} (hq : Holds ps s) :
    Done ps (execTideEchoRx sym s) := by
  unfold execTideEchoRx
  repeat' first
    | with_reducible first
      | assumption | apply Holds.ite | apply State.echoRx_holds | apply State.tideDo_holds | apply Done.next | apply Done.ite
    | intro _ | dsimp only

theorem State.measureDelay_holds {ps : Kept} {s : State} {port : Nat} {m : Option (Nat × Nat)} (hq : Holds ps s) :
    Holds ps (State.measureDelay s port m) := by
  unfold State.measureDelay
  repeat' first
    | with_reducible first
      | assumption | apply Holds.ite | apply State.set1_holds | apply State.setFld_holds
    | fail_if_no_progress with_reducible apply Holds.upd | intro _ | split | refine Holds.pair (by with_reducible assumption) ?_ | dsimp only

theorem execLinkDelayMeasure_holds {ps : Kept} {port : Fin 16} {m : Option (Nat × Nat)} {time : Nat} {s : State} (hq : Holds ps s) :
    Done ps (execLinkDelayMeasure port m time s) := by
  unfold execLinkDelayMeasure
  repeat' first
    | with_reducible first
      | assumption | apply Holds.ite | apply State.measureDelay_holds | apply State.tideNow_holds | apply Done.next
      | apply Done.ite
    | intro _ | dsimp only

theorem State.tideEnable_holds {ps : Kept} {s : State} {v : Nat} (hq : Holds ps s) :
    Holds ps (State.tideEnable s v) := by
  unfold State.tideEnable
  dsimp only
  repeat' first
    | with_reducible first
      | assumption | apply Holds.ite | apply State.set1_holds | apply State.setFld_holds | apply State.setTide_holds
    | fail_if_no_progress with_reducible apply Holds.upd | intro _ | split | dsimp only

theorem execTideCtlEnable_holds {ps : Kept} {m : Master} {v : BitVec 1} {time : Nat} {s : State} (hq : Holds ps s) :
    Done ps (execTideCtlEnable m v time s) := by
  unfold execTideCtlEnable
  repeat' first
    | with_reducible first
      | assumption | apply Holds.ite | apply State.noteBy_holds | apply State.tideEnable_holds | apply State.tideNow_holds
      | apply Done.next | apply Done.ite
    | intro _ | dsimp only

theorem State.tideRole_holds {ps : Kept} {s : State} {v : Nat} (hq : Holds ps s) :
    Holds ps (State.tideRole s v) := by
  unfold State.tideRole
  dsimp only
  repeat' first
    | with_reducible first
      | assumption | apply Holds.ite | apply State.adopt_holds | apply State.set1_holds | apply State.setFld_holds
      | apply State.setTide_holds
    | fail_if_no_progress with_reducible apply Holds.upd | intro _ | split | dsimp only

theorem execTideCtlRole_holds {ps : Kept} {m : Master} {v : BitVec 2} {time : Nat} {s : State} (hq : Holds ps s) :
    Done ps (execTideCtlRole m v time s) := by
  unfold execTideCtlRole
  repeat' first
    | with_reducible first
      | assumption | apply Holds.ite | apply State.noteBy_holds | apply State.tideNow_holds | apply State.tideRole_holds
      | apply Done.next | apply Done.ite
    | intro _ | dsimp only

theorem State.tidePeriodWrite_holds {ps : Kept} {s : State} {v : Word} (hq : Holds ps s) :
    Holds ps (State.tidePeriodWrite s v) := by
  unfold State.tidePeriodWrite
  dsimp only
  repeat' first
    | with_reducible first
      | assumption | apply Holds.ite | apply State.set1_holds | apply State.setFld_holds
    | intro _ | split | dsimp only

theorem execTidePeriodWrite_holds {ps : Kept} {m : Master} {v : BitVec 64} {s : State} (hq : Holds ps s) :
    Done ps (execTidePeriodWrite m v s) := by
  unfold execTidePeriodWrite
  repeat' first
    | with_reducible first
      | assumption | apply Holds.ite | apply State.noteBy_holds | apply State.tidePeriodWrite_holds | apply Done.next
      | apply Done.ite
    | intro _ | dsimp only

theorem State.tideLeadWrite_holds {ps : Kept} {s : State} {v : Word} (hq : Holds ps s) :
    Holds ps (State.tideLeadWrite s v) := by
  unfold State.tideLeadWrite
  dsimp only
  repeat' first
    | with_reducible first
      | assumption | apply Holds.ite | apply State.set1_holds | apply State.setFld_holds
    | intro _ | split | dsimp only

theorem execTideLeadWrite_holds {ps : Kept} {m : Master} {v : BitVec 64} {s : State} (hq : Holds ps s) :
    Done ps (execTideLeadWrite m v s) := by
  unfold execTideLeadWrite
  repeat' first
    | with_reducible first
      | assumption | apply Holds.ite | apply State.noteBy_holds | apply State.tideLeadWrite_holds | apply Done.next
      | apply Done.ite
    | intro _ | dsimp only

theorem State.tideLoad_holds {ps : Kept} {s : State} {v : Word} (hq : Holds ps s) :
    Holds ps (State.tideLoad s v) := by
  unfold State.tideLoad
  dsimp only
  repeat' first
    | with_reducible first
      | assumption | apply Holds.ite | apply State.set1_holds | apply State.setFld_holds
    | intro _ | split | dsimp only

theorem execTideLoad_holds {ps : Kept} {m : Master} {v : BitVec 64} {s : State} (hq : Holds ps s) :
    Done ps (execTideLoad m v s) := by
  unfold execTideLoad
  repeat' first
    | with_reducible first
      | assumption | apply Holds.ite | apply State.noteBy_holds | apply State.tideLoad_holds | apply Done.next
      | apply Done.ite
    | intro _ | dsimp only

end Sys2Proof.Machine
end

