-- ==== Sys2Proof/Laws/KeepVecOps.lean ====
section
/-! SUPPORT. What the operations of Machine/VecOps.lean keep. -/
set_option linter.unusedTactic false
set_option linter.unreachableTactic false
set_option linter.unusedVariables false
namespace Sys2Proof.Machine

theorem State.runPlan_holds {ps : Kept} {s : State} {t e st pc : Nat} {p : VPlan} (hq : Holds ps s) :
    Holds ps (State.runPlan s t e st pc p) := by
  unfold State.runPlan
  dsimp only
  repeat' first
    | with_reducible first
      | assumption | apply Holds.ite | apply State.auditArise_holds | apply State.setEng_holds | apply State.setTile_holds
      | apply Holds.foldl | apply Holds.ite1 | apply Holds.foldl1
    | fail_if_no_progress with_reducible apply Holds.upd | intro _ | split | dsimp only

theorem State.takeUnits_holds {ps : Kept} {s : State} {t e : Nat} {us : List (Nat × Nat)} (hq : Holds ps s) :
    Holds ps (State.takeUnits s t e us) := by
  unfold State.takeUnits
  dsimp only
  repeat' first
    | with_reducible first
      | assumption | apply Holds.ite | apply State.setEng_holds
    | fail_if_no_progress with_reducible apply Holds.upd | intro _ | dsimp only

theorem State.vecIssue_holds {ps : Kept} {s : State} {i : Iss} {op bits : Nat} {body : Nat → State → State} (hq : Holds ps s) (hbody : ∀ x0 x1, Holds ps x1 → Holds ps (body x0 x1)) :
    Holds ps (State.vecIssue s i op bits body) := by
  unfold State.vecIssue
  dsimp only
  repeat' first
    | with_reducible first
      | assumption | apply Holds.ite | apply State.advance_holds | apply State.breakDrain_holds | apply State.countEv_holds
      | apply State.countHeld_holds | apply State.countIssue_holds | apply State.illegal_holds | apply State.retireNext_holds
      | apply State.takeUnits_holds | apply hbody
    | fail_if_no_progress with_reducible apply Holds.upd | intro _ | split | dsimp only

theorem State.vecElems_holds {ps : Kept} {s : State} {i : Iss} {e : Nat} {a : VArgs} {lat w : Nat} {srcs : List Nat} {f : Nat → Nat × Bool × Nat} (hq : Holds ps s) :
    Holds ps (State.vecElems s i e a lat w srcs f) := by
  unfold State.vecElems
  dsimp only
  repeat' first
    | with_reducible first
      | assumption | apply Holds.ite | apply State.runPlan_holds
    | intro _ | dsimp only

end Sys2Proof.Machine
end

