-- ==== Sys2Proof/Laws/KeepVecAlu.lean ====
section
/-! SUPPORT. What the operations of Machine/VecAlu.lean keep. -/
set_option linter.unusedTactic false
set_option linter.unreachableTactic false
set_option linter.unusedVariables false
namespace Sys2Proof.Machine

theorem State.vecBinary_holds {ps : Kept} {s : State} {i : Iss} {e : Nat} {a : VArgs} {lat : Nat} {f : Nat → Nat → Nat × Nat} (hq : Holds ps s) :
    Holds ps (State.vecBinary s i e a lat f) := by
  unfold State.vecBinary
  dsimp only
  repeat' first
    | with_reducible first
      | assumption | apply Holds.ite | apply State.vecElems_holds
    | intro _ | dsimp only

theorem State.vecUnary_holds {ps : Kept} {s : State} {i : Iss} {e : Nat} {a : VArgs} {lat : Nat} {f : Nat → Nat × Nat} (hq : Holds ps s) :
    Holds ps (State.vecUnary s i e a lat f) := by
  unfold State.vecUnary
  dsimp only
  repeat' first
    | with_reducible first
      | assumption | apply Holds.ite | apply State.vecElems_holds
    | intro _ | dsimp only

theorem execVmov_holds {ps : Kept} {i : Iss} {a : VArgs} {s : State} (hq : Holds ps s) :
    Done ps (execVmov i a s) := by
  unfold execVmov
  repeat' first
    | with_reducible first
      | assumption | apply Holds.ite | apply State.vecIssue_holds | apply State.vecUnary_holds | apply Done.next
      | apply Done.ite
    | intro _ | dsimp only

theorem execVand_holds {ps : Kept} {i : Iss} {a : VArgs} {s : State} (hq : Holds ps s) :
    Done ps (execVand i a s) := by
  unfold execVand
  repeat' first
    | with_reducible first
      | assumption | apply Holds.ite | apply State.vecBinary_holds | apply State.vecIssue_holds | apply Done.next
      | apply Done.ite
    | intro _ | dsimp only

theorem execVor_holds {ps : Kept} {i : Iss} {a : VArgs} {s : State} (hq : Holds ps s) :
    Done ps (execVor i a s) := by
  unfold execVor
  repeat' first
    | with_reducible first
      | assumption | apply Holds.ite | apply State.vecBinary_holds | apply State.vecIssue_holds | apply Done.next
      | apply Done.ite
    | intro _ | dsimp only

theorem execVxor_holds {ps : Kept} {i : Iss} {a : VArgs} {s : State} (hq : Holds ps s) :
    Done ps (execVxor i a s) := by
  unfold execVxor
  repeat' first
    | with_reducible first
      | assumption | apply Holds.ite | apply State.vecBinary_holds | apply State.vecIssue_holds | apply Done.next
      | apply Done.ite
    | intro _ | dsimp only

theorem execVnot_holds {ps : Kept} {i : Iss} {a : VArgs} {s : State} (hq : Holds ps s) :
    Done ps (execVnot i a s) := by
  unfold execVnot
  repeat' first
    | with_reducible first
      | assumption | apply Holds.ite | apply State.vecIssue_holds | apply State.vecUnary_holds | apply Done.next
      | apply Done.ite
    | intro _ | dsimp only

theorem State.vecShift_holds {ps : Kept} {s : State} {i : Iss} {e : Nat} {a : VArgs} {f : Nat → Nat → Nat} (hq : Holds ps s) :
    Holds ps (State.vecShift s i e a f) := by
  unfold State.vecShift
  repeat' first
    | with_reducible first
      | assumption | apply Holds.ite | apply State.vecBinary_holds | apply State.vecUnary_holds
    | intro _ | split | dsimp only

theorem execVshl_holds {ps : Kept} {i : Iss} {a : VArgs} {s : State} (hq : Holds ps s) :
    Done ps (execVshl i a s) := by
  unfold execVshl
  repeat' first
    | with_reducible first
      | assumption | apply Holds.ite | apply State.vecIssue_holds | apply State.vecShift_holds | apply Done.next
      | apply Done.ite
    | intro _ | dsimp only

theorem execVshr_holds {ps : Kept} {i : Iss} {a : VArgs} {s : State} (hq : Holds ps s) :
    Done ps (execVshr i a s) := by
  unfold execVshr
  repeat' first
    | with_reducible first
      | assumption | apply Holds.ite | apply State.vecIssue_holds | apply State.vecShift_holds | apply Done.next
      | apply Done.ite
    | intro _ | dsimp only

theorem State.maskOp_holds {ps : Kept} {s : State} {i : Iss} {e : Nat} {a : VArgs} {srcs : List Nat} {f : Nat → Bool × Bool} (hq : Holds ps s) :
    Holds ps (State.maskOp s i e a srcs f) := by
  unfold State.maskOp
  dsimp only
  repeat' first
    | with_reducible first
      | assumption | apply Holds.ite | apply State.runPlan_holds
    | intro _ | dsimp only

theorem execVmset_holds {ps : Kept} {i : Iss} {a : VArgs} {s : State} (hq : Holds ps s) :
    Done ps (execVmset i a s) := by
  unfold execVmset
  dsimp only
  repeat' first
    | with_reducible first
      | assumption | apply Holds.ite | apply State.maskOp_holds | apply State.vecIssue_holds | apply Done.next
      | apply Done.ite
    | fail_if_no_progress with_reducible apply Holds.upd | intro _ | split | dsimp only

theorem State.maskBinary_holds {ps : Kept} {s : State} {i : Iss} {e : Nat} {a : VArgs} {f : Bool → Bool → Bool} (hq : Holds ps s) :
    Holds ps (State.maskBinary s i e a f) := by
  unfold State.maskBinary
  dsimp only
  repeat' first
    | with_reducible first
      | assumption | apply Holds.ite | apply State.maskOp_holds
    | intro _ | dsimp only

theorem execVmand_holds {ps : Kept} {i : Iss} {a : VArgs} {s : State} (hq : Holds ps s) :
    Done ps (execVmand i a s) := by
  unfold execVmand
  repeat' first
    | with_reducible first
      | assumption | apply Holds.ite | apply State.maskBinary_holds | apply State.vecIssue_holds | apply Done.next
      | apply Done.ite
    | intro _ | dsimp only

theorem execVmor_holds {ps : Kept} {i : Iss} {a : VArgs} {s : State} (hq : Holds ps s) :
    Done ps (execVmor i a s) := by
  unfold execVmor
  repeat' first
    | with_reducible first
      | assumption | apply Holds.ite | apply State.maskBinary_holds | apply State.vecIssue_holds | apply Done.next
      | apply Done.ite
    | intro _ | dsimp only

theorem execVmnot_holds {ps : Kept} {i : Iss} {a : VArgs} {s : State} (hq : Holds ps s) :
    Done ps (execVmnot i a s) := by
  unfold execVmnot
  dsimp only
  repeat' first
    | with_reducible first
      | assumption | apply Holds.ite | apply State.maskOp_holds | apply State.vecIssue_holds | apply Done.next
      | apply Done.ite
    | intro _ | dsimp only

theorem State.vecArith_holds {ps : Kept} {s : State} {i : Iss} {e : Nat} {a : VArgs} {op : Nat} (hq : Holds ps s) :
    Holds ps (State.vecArith s i e a op) := by
  unfold State.vecArith
  repeat' first
    | with_reducible first
      | assumption | apply Holds.ite | apply State.vecBinary_holds
    | intro _ | dsimp only

theorem execVadd_holds {ps : Kept} {i : Iss} {a : VArgs} {s : State} (hq : Holds ps s) :
    Done ps (execVadd i a s) := by
  unfold execVadd
  repeat' first
    | with_reducible first
      | assumption | apply Holds.ite | apply State.vecArith_holds | apply State.vecIssue_holds | apply Done.next
      | apply Done.ite
    | intro _ | dsimp only

theorem execVsub_holds {ps : Kept} {i : Iss} {a : VArgs} {s : State} (hq : Holds ps s) :
    Done ps (execVsub i a s) := by
  unfold execVsub
  repeat' first
    | with_reducible first
      | assumption | apply Holds.ite | apply State.vecArith_holds | apply State.vecIssue_holds | apply Done.next
      | apply Done.ite
    | intro _ | dsimp only

theorem execVmul_holds {ps : Kept} {i : Iss} {a : VArgs} {s : State} (hq : Holds ps s) :
    Done ps (execVmul i a s) := by
  unfold execVmul
  repeat' first
    | with_reducible first
      | assumption | apply Holds.ite | apply State.vecArith_holds | apply State.vecIssue_holds | apply Done.next
      | apply Done.ite
    | intro _ | dsimp only

theorem execVmin_holds {ps : Kept} {i : Iss} {a : VArgs} {s : State} (hq : Holds ps s) :
    Done ps (execVmin i a s) := by
  unfold execVmin
  repeat' first
    | with_reducible first
      | assumption | apply Holds.ite | apply State.vecArith_holds | apply State.vecIssue_holds | apply Done.next
      | apply Done.ite
    | intro _ | dsimp only

theorem execVmax_holds {ps : Kept} {i : Iss} {a : VArgs} {s : State} (hq : Holds ps s) :
    Done ps (execVmax i a s) := by
  unfold execVmax
  repeat' first
    | with_reducible first
      | assumption | apply Holds.ite | apply State.vecArith_holds | apply State.vecIssue_holds | apply Done.next
      | apply Done.ite
    | intro _ | dsimp only

theorem execVfma_holds {ps : Kept} {i : Iss} {a : VArgs} {s : State} (hq : Holds ps s) :
    Done ps (execVfma i a s) := by
  unfold execVfma
  dsimp only
  repeat' first
    | with_reducible first
      | assumption | apply Holds.ite | apply State.vecElems_holds | apply State.vecIssue_holds | apply Done.next
      | apply Done.ite
    | intro _ | split | dsimp only

theorem execVcmp_holds {ps : Kept} {i : Iss} {a : VArgs} {s : State} (hq : Holds ps s) :
    Done ps (execVcmp i a s) := by
  unfold execVcmp
  dsimp only
  repeat' first
    | with_reducible first
      | assumption | apply Holds.ite | apply State.runPlan_holds | apply State.vecIssue_holds | apply Done.next
      | apply Done.ite
    | intro _ | split | dsimp only

theorem execVbcast_holds {ps : Kept} {i : Iss} {a : VArgs} {s : State} (hq : Holds ps s) :
    Done ps (execVbcast i a s) := by
  unfold execVbcast
  dsimp only
  repeat' first
    | with_reducible first
      | assumption | apply Holds.ite | apply State.vecElems_holds | apply State.vecIssue_holds | apply Done.next
      | apply Done.ite
    | intro _ | dsimp only

theorem execVmovS_holds {ps : Kept} {i : Iss} {a : VArgs} {s : State} (hq : Holds ps s) :
    Done ps (execVmovS i a s) := by
  unfold execVmovS
  dsimp only
  repeat' first
    | with_reducible first
      | assumption | apply Holds.ite | apply State.incFld_holds | apply State.logTile_holds | apply State.runPlan_holds
      | apply State.setSregAt_holds | apply State.vecIssue_holds | apply Done.next | apply Done.ite
    | intro _ | split | dsimp only

theorem execVsetvl_holds {ps : Kept} {i : Iss} {a : VArgs} {s : State} (hq : Holds ps s) :
    Done ps (execVsetvl i a s) := by
  unfold execVsetvl
  dsimp only
  repeat' first
    | with_reducible first
      | assumption | apply Holds.ite | apply State.setFld_holds | apply State.vecIssue_holds | apply Done.next
      | apply Done.ite
    | intro _ | split | dsimp only

theorem execVstatS_holds {ps : Kept} {i : Iss} {a : VArgs} {s : State} (hq : Holds ps s) :
    Done ps (execVstatS i a s) := by
  unfold execVstatS
  dsimp only
  repeat' first
    | with_reducible first
      | assumption | apply Holds.ite | apply State.runPlan_holds | apply State.setFld_holds | apply State.setSregAt_holds
      | apply State.vecIssue_holds | apply Done.next | apply Done.ite
    | intro _ | split | dsimp only

theorem execVperm_holds {ps : Kept} {i : Iss} {a : VArgs} {s : State} (hq : Holds ps s) :
    Done ps (execVperm i a s) := by
  unfold execVperm
  dsimp only
  repeat' first
    | with_reducible first
      | assumption | apply Holds.ite | apply State.vecElems_holds | apply State.vecIssue_holds | apply Done.next
      | apply Done.ite
    | intro _ | split | dsimp only

theorem execVshuf_holds {ps : Kept} {i : Iss} {a : VArgs} {s : State} (hq : Holds ps s) :
    Done ps (execVshuf i a s) := by
  unfold execVshuf
  dsimp only
  repeat' first
    | with_reducible first
      | assumption | apply Holds.ite | apply State.runPlan_holds | apply State.vecElems_holds | apply State.vecIssue_holds
      | apply Done.next | apply Done.ite
    | fail_if_no_progress with_reducible apply Holds.upd | intro _ | split | refine Holds.pair (by with_reducible assumption) ?_ | dsimp only

end Sys2Proof.Machine
end

