-- ==== Sys2Proof/Laws/KeepVecCvt.lean ====
section
/-! SUPPORT. What the operations of Machine/VecCvt.lean keep. -/
set_option linter.unusedTactic false
set_option linter.unreachableTactic false
set_option linter.unusedVariables false
namespace Sys2Proof.Machine

theorem State.censusCvts_holds {ps : Kept} {s : State} {t src dst : Nat} {cs : List Cvt} (hq : Holds ps s) :
    Holds ps (State.censusCvts s t src dst cs) := by
  unfold State.censusCvts
  repeat' first
    | with_reducible first
      | assumption | apply Holds.ite | apply State.censusAdd_holds
    | fail_if_no_progress with_reducible apply Holds.upd | intro _ | split | dsimp only

theorem State.vcvtBody_holds {ps : Kept} {s : State} {i : Iss} {e : Nat} {a : VArgs} (hq : Holds ps s) :
    Holds ps (State.vcvtBody s i e a) := by
  unfold State.vcvtBody
  dsimp only
  repeat' first
    | with_reducible first
      | assumption | apply Holds.ite | apply State.censusCvts_holds | apply State.runPlan_holds | apply Holds.foldl
      | apply Holds.ite1 | apply Holds.foldl1
    | fail_if_no_progress with_reducible apply Holds.upd | intro _ | split | dsimp only

theorem execVcvt_holds {ps : Kept} {i : Iss} {a : VArgs} {s : State} (hq : Holds ps s) :
    Done ps (execVcvt i a s) := by
  unfold execVcvt
  repeat' first
    | with_reducible first
      | assumption | apply Holds.ite | apply State.vcvtBody_holds | apply State.vecIssue_holds | apply Done.next
      | apply Done.ite
    | intro _ | dsimp only

end Sys2Proof.Machine
end

