-- ==== Sys2Proof/Laws/KeepVecRed.lean ====
section
/-! SUPPORT. What the operations of Machine/VecRed.lean keep. -/
set_option linter.unusedTactic false
set_option linter.unreachableTactic false
set_option linter.unusedVariables false
namespace Sys2Proof.Machine

theorem State.redWrite_holds {ps : Kept} {s : State} {i : Iss} {e : Nat} {a : VArgs} {lat : Nat} {head : List (Nat × Bool)} {fl : Nat} (hq : Holds ps s) :
    Holds ps (State.redWrite s i e a lat head fl) := by
  unfold State.redWrite
  dsimp only
  repeat' first
    | with_reducible first
      | assumption | apply Holds.ite | apply State.runPlan_holds
    | intro _ | dsimp only

theorem State.redTree_holds {ps : Kept} {s : State} {i : Iss} {e : Nat} {a : VArgs} {op : Nat} (hq : Holds ps s) :
    Holds ps (State.redTree s i e a op) := by
  unfold State.redTree
  dsimp only
  repeat' first
    | with_reducible first
      | assumption | apply Holds.ite | apply State.redWrite_holds
    | fail_if_no_progress with_reducible apply Holds.upd | intro _ | split | dsimp only | rw [id_eq]

theorem State.redExtreme_holds {ps : Kept} {s : State} {i : Iss} {e : Nat} {a : VArgs} {isMax arg : Bool} (hq : Holds ps s) :
    Holds ps (State.redExtreme s i e a isMax arg) := by
  unfold State.redExtreme
  dsimp only
  repeat' first
    | with_reducible first
      | assumption | apply Holds.ite | apply State.redWrite_holds
    | fail_if_no_progress with_reducible apply Holds.upd | intro _ | split | dsimp only

theorem execVredSum_holds {ps : Kept} {i : Iss} {a : VArgs} {s : State} (hq : Holds ps s) :
    Done ps (execVredSum i a s) := by
  unfold execVredSum
  repeat' first
    | with_reducible first
      | assumption | apply Holds.ite | apply State.redTree_holds | apply State.vecIssue_holds | apply Done.next
      | apply Done.ite
    | intro _ | dsimp only

theorem execVredProd_holds {ps : Kept} {i : Iss} {a : VArgs} {s : State} (hq : Holds ps s) :
    Done ps (execVredProd i a s) := by
  unfold execVredProd
  repeat' first
    | with_reducible first
      | assumption | apply Holds.ite | apply State.redTree_holds | apply State.vecIssue_holds | apply Done.next
      | apply Done.ite
    | intro _ | dsimp only

theorem execVredMax_holds {ps : Kept} {i : Iss} {a : VArgs} {s : State} (hq : Holds ps s) :
    Done ps (execVredMax i a s) := by
  unfold execVredMax
  repeat' first
    | with_reducible first
      | assumption | apply Holds.ite | apply State.redExtreme_holds | apply State.vecIssue_holds | apply Done.next
      | apply Done.ite
    | intro _ | dsimp only

theorem execVredMin_holds {ps : Kept} {i : Iss} {a : VArgs} {s : State} (hq : Holds ps s) :
    Done ps (execVredMin i a s) := by
  unfold execVredMin
  repeat' first
    | with_reducible first
      | assumption | apply Holds.ite | apply State.redExtreme_holds | apply State.vecIssue_holds | apply Done.next
      | apply Done.ite
    | intro _ | dsimp only

theorem execVargMax_holds {ps : Kept} {i : Iss} {a : VArgs} {s : State} (hq : Holds ps s) :
    Done ps (execVargMax i a s) := by
  unfold execVargMax
  repeat' first
    | with_reducible first
      | assumption | apply Holds.ite | apply State.redExtreme_holds | apply State.vecIssue_holds | apply Done.next
      | apply Done.ite
    | intro _ | dsimp only

theorem execVargMin_holds {ps : Kept} {i : Iss} {a : VArgs} {s : State} (hq : Holds ps s) :
    Done ps (execVargMin i a s) := by
  unfold execVargMin
  repeat' first
    | with_reducible first
      | assumption | apply Holds.ite | apply State.redExtreme_holds | apply State.vecIssue_holds | apply Done.next
      | apply Done.ite
    | intro _ | dsimp only

theorem State.scanIssue_holds {ps : Kept} {s : State} {i : Iss} {e : Nat} {a : VArgs} {kind lat : Nat} (hq : Holds ps s) :
    Holds ps (State.scanIssue s i e a kind lat) := by
  unfold State.scanIssue
  dsimp only
  repeat' first
    | with_reducible first
      | assumption | apply Holds.ite | apply State.issue_holds | apply State.runPlan_holds | apply State.start_holds
      | apply Holds.foldl | apply Holds.ite1 | apply Holds.foldl1
    | intro _ | split | dsimp only

theorem execVscanSum_holds {ps : Kept} {i : Iss} {a : VArgs} {s : State} (hq : Holds ps s) :
    Done ps (execVscanSum i a s) := by
  unfold execVscanSum
  repeat' first
    | with_reducible first
      | assumption | apply Holds.ite | apply State.scanIssue_holds | apply State.vecIssue_holds | apply Done.next
      | apply Done.ite
    | intro _ | dsimp only

theorem execVscanProd_holds {ps : Kept} {i : Iss} {a : VArgs} {s : State} (hq : Holds ps s) :
    Done ps (execVscanProd i a s) := by
  unfold execVscanProd
  repeat' first
    | with_reducible first
      | assumption | apply Holds.ite | apply State.scanIssue_holds | apply State.vecIssue_holds | apply Done.next
      | apply Done.ite
    | intro _ | dsimp only

theorem execVscanMax_holds {ps : Kept} {i : Iss} {a : VArgs} {s : State} (hq : Holds ps s) :
    Done ps (execVscanMax i a s) := by
  unfold execVscanMax
  repeat' first
    | with_reducible first
      | assumption | apply Holds.ite | apply State.scanIssue_holds | apply State.vecIssue_holds | apply Done.next
      | apply Done.ite
    | intro _ | dsimp only

theorem execVscanMin_holds {ps : Kept} {i : Iss} {a : VArgs} {s : State} (hq : Holds ps s) :
    Done ps (execVscanMin i a s) := by
  unfold execVscanMin
  repeat' first
    | with_reducible first
      | assumption | apply Holds.ite | apply State.scanIssue_holds | apply State.vecIssue_holds | apply Done.next
      | apply Done.ite
    | intro _ | dsimp only

theorem execVscanLr_holds {ps : Kept} {i : Iss} {a : VArgs} {s : State} (hq : Holds ps s) :
    Done ps (execVscanLr i a s) := by
  unfold execVscanLr
  repeat' first
    | with_reducible first
      | assumption | apply Holds.ite | apply State.scanIssue_holds | apply State.vecIssue_holds | apply Done.next
      | apply Done.ite
    | intro _ | dsimp only

end Sys2Proof.Machine
end

