-- ==== Sys2Proof/Laws/KeepVecMem.lean ====
section
/-! SUPPORT. What the operations of Machine/VecMem.lean keep. -/
set_option linter.unusedTactic false
set_option linter.unreachableTactic false
set_option linter.unusedVariables false
namespace Sys2Proof.Machine

theorem State.noteFaults_holds {ps : Kept} {s : State} {i : Iss} {e op : Nat} {els : List MemEl} (hq : Holds ps s) :
    Holds ps (State.noteFaults s i e op els) := by
  unfold State.noteFaults
  dsimp only
  repeat' first
    | with_reducible first
      | assumption | apply Holds.ite | apply State.incFld_holds | apply State.logTile_holds | apply State.set1_holds
      | apply State.setFld_holds
    | fail_if_no_progress with_reducible apply Holds.upd | intro _ | split | dsimp only

theorem State.vload_holds {ps : Kept} {s : State} {i : Iss} {e op : Nat} {a : VMemArgs} {indexed : Bool} {upset : Upset} (hq : Holds ps s) :
    Holds ps (State.vload s i e op a indexed upset) := by
  unfold State.vload
  dsimp only
  repeat' first
    | with_reducible first
      | assumption | apply Holds.ite | apply State.noteFaults_holds | apply State.runPlan_holds | apply State.takeUnits_holds
      | apply State.upset_holds
    | intro _ | split | dsimp only

theorem State.vstore_holds {ps : Kept} {s : State} {i : Iss} {e op : Nat} {a : VMemArgs} {indexed : Bool} (hq : Holds ps s) :
    Holds ps (State.vstore s i e op a indexed) := by
  unfold State.vstore
  dsimp only
  repeat' first
    | with_reducible first
      | assumption | apply Holds.ite | apply State.noteFaults_holds | apply State.runPlan_holds | apply State.takeUnits_holds
    | intro _ | split | dsimp only

theorem execVld_holds {ps : Kept} {i : Iss} {a : VMemArgs} {upset : Upset} {s : State} (hq : Holds ps s) :
    Done ps (execVld i a upset s) := by
  unfold execVld
  repeat' first
    | with_reducible first
      | assumption | apply Holds.ite | apply State.upset_holds | apply State.vecIssue_holds | apply State.vload_holds
      | apply Done.next | apply Done.ite
    | intro _ | dsimp only

theorem execVst_holds {ps : Kept} {i : Iss} {a : VMemArgs} {s : State} (hq : Holds ps s) :
    Done ps (execVst i a s) := by
  unfold execVst
  repeat' first
    | with_reducible first
      | assumption | apply Holds.ite | apply State.vecIssue_holds | apply State.vstore_holds | apply Done.next
      | apply Done.ite
    | intro _ | dsimp only

theorem execVgather_holds {ps : Kept} {i : Iss} {a : VMemArgs} {upset : Upset} {s : State} (hq : Holds ps s) :
    Done ps (execVgather i a upset s) := by
  unfold execVgather
  repeat' first
    | with_reducible first
      | assumption | apply Holds.ite | apply State.upset_holds | apply State.vecIssue_holds | apply State.vload_holds
      | apply Done.next | apply Done.ite
    | intro _ | dsimp only

theorem execVscatter_holds {ps : Kept} {i : Iss} {a : VMemArgs} {s : State} (hq : Holds ps s) :
    Done ps (execVscatter i a s) := by
  unfold execVscatter
  repeat' first
    | with_reducible first
      | assumption | apply Holds.ite | apply State.vecIssue_holds | apply State.vstore_holds | apply Done.next
      | apply Done.ite
    | intro _ | dsimp only

theorem State.detachedIssue_holds {ps : Kept} {s : State} {i : Iss} {e op : Nat} {a : VMemArgs} {gather : Bool} (hq : Holds ps s) :
    Holds ps (State.detachedIssue s i e op a gather) := by
  unfold State.detachedIssue
  dsimp only
  repeat' first
    | with_reducible first
      | assumption | apply Holds.ite | apply State.auditArise_holds | apply State.noteFaults_holds | apply State.orFld_holds
      | apply State.runPlan_holds | apply State.setEng_holds | apply Holds.foldl | apply Holds.ite1 | apply Holds.foldl1
    | fail_if_no_progress with_reducible apply Holds.upd | intro _ | split | dsimp only

theorem execVgatherN_holds {ps : Kept} {i : Iss} {a : VMemArgs} {s : State} (hq : Holds ps s) :
    Done ps (execVgatherN i a s) := by
  unfold execVgatherN
  repeat' first
    | with_reducible first
      | assumption | apply Holds.ite | apply State.detachedIssue_holds | apply State.vecIssue_holds | apply Done.next
      | apply Done.ite
    | intro _ | dsimp only

theorem execVscatterN_holds {ps : Kept} {i : Iss} {a : VMemArgs} {s : State} (hq : Holds ps s) :
    Done ps (execVscatterN i a s) := by
  unfold execVscatterN
  repeat' first
    | with_reducible first
      | assumption | apply Holds.ite | apply State.detachedIssue_holds | apply State.vecIssue_holds | apply Done.next
      | apply Done.ite
    | intro _ | dsimp only

theorem State.detachedRun_holds {ps : Kept} {s : State} {t e : Nat} {d : DetIns} (hq : Holds ps s) :
    Holds ps (State.detachedRun s t e d).1 := by
  unfold State.detachedRun
  dsimp only
  repeat' first
    | with_reducible first
      | assumption | apply Holds.ite | apply State.incFld_holds | apply State.noteRead_holds | apply State.orFld_holds
      | apply State.setVreg_holds | apply State.storeMap_holds | apply Holds.foldl | apply Holds.ite1 | apply Holds.foldl1
    | intro _ | split | dsimp only

theorem State.auditGather_holds {ps : Kept} {s : State} {t e : Nat} {d : DetIns} {pc : Nat} (hq : Holds ps s) :
    Holds ps (State.auditGather s t e d pc) := by
  unfold State.auditGather
  dsimp only
  repeat' first
    | with_reducible first
      | assumption | apply Holds.ite | apply State.auditArise_holds | apply Holds.foldl | apply Holds.ite1
      | apply Holds.foldl1
    | intro _ | split | dsimp only

theorem execDetachedComplete_holds {ps : Kept} {t : Fin 144} {e : Fin 2} {ac : Nat} {upset : Upset} {s : State} (hq : Holds ps s) :
    Done ps (execDetachedComplete t e ac upset s) := by
  unfold execDetachedComplete
  dsimp only
  repeat' first
    | with_reducible first
      | assumption | apply Holds.ite | apply State.advance_holds | apply State.auditGather_holds
      | apply State.detachedRun_holds | apply State.produce_holds | apply State.setEng_holds | apply State.upset_holds
      | apply Done.next | apply Done.ite
    | fail_if_no_progress with_reducible apply Holds.upd | intro _ | split | dsimp only

theorem execTileLinkArrival_holds {ps : Kept} {t : Fin 144} {e : Fin 2} {ac : Nat} {s : State} (hq : Holds ps s) :
    Done ps (execTileLinkArrival t e ac s) := by
  unfold execTileLinkArrival
  dsimp only
  repeat' first
    | with_reducible first
      | assumption | apply Holds.ite | apply State.advance_holds | apply State.logTile_holds | apply State.orFld_holds
      | apply State.produce_holds | apply State.setEng_holds | apply State.setFld_holds | apply Done.next | apply Done.ite
    | fail_if_no_progress with_reducible apply Holds.upd | intro _ | split | dsimp only

theorem State.ftqUnderrun_holds {ps : Kept} {s : State} {i : Iss} {e op : Nat} (hq : Holds ps s) :
    Holds ps (State.ftqUnderrun s i e op) := by
  unfold State.ftqUnderrun
  repeat' first
    | with_reducible first
      | assumption | apply Holds.ite | apply State.incFld_holds | apply State.logTile_holds | apply State.set1_holds
    | intro _ | dsimp only

theorem State.ftqFill_holds {ps : Kept} {s : State} {t : Nat} (hq : Holds ps s) :
    Holds ps (State.ftqFill s t) := by
  unfold State.ftqFill
  dsimp only
  repeat' first
    | with_reducible first
      | assumption | apply Holds.ite | apply State.setFld_holds
    | intro _ | split | dsimp only

theorem State.ftqRelease_holds {ps : Kept} {s : State} {t b : Nat} (hq : Holds ps s) :
    Holds ps (State.ftqRelease s t b) := by
  unfold State.ftqRelease
  dsimp only
  repeat' first
    | with_reducible first
      | assumption | apply Holds.ite | apply State.ftqFill_holds | apply State.logTile_holds | apply State.setFld_holds
      | apply State.setFtqBank_holds
    | intro _ | split | dsimp only

theorem State.ftqTake_holds {ps : Kept} {s : State} {i : Iss} {e op : Nat} (hq : Holds ps s) :
    Holds ps (State.ftqTake s i e op).1 := by
  unfold State.ftqTake
  dsimp only
  repeat' first
    | with_reducible first
      | assumption | apply Holds.ite | apply State.ftqRelease_holds | apply State.ftqUnderrun_holds
      | apply State.incFld_holds | apply State.set1_holds | apply State.setFld_holds | apply State.setFtqBank_holds
      | apply Holds.ite1 | apply Holds.foldl1
    | fail_if_no_progress with_reducible apply Holds.upd | intro _ | split | dsimp only

theorem State.ftqPopBody_holds {ps : Kept} {s : State} {i : Iss} {e : Nat} {a : VArgs} (hq : Holds ps s) :
    Holds ps (State.ftqPopBody s i e a) := by
  unfold State.ftqPopBody
  dsimp only
  repeat' first
    | with_reducible first
      | assumption | apply Holds.ite | apply State.ftqTake_holds | apply State.runPlan_holds
    | intro _ | split | dsimp only

theorem execFtqPop_holds {ps : Kept} {i : Iss} {a : VArgs} {s : State} (hq : Holds ps s) :
    Done ps (execFtqPop i a s) := by
  unfold execFtqPop
  repeat' first
    | with_reducible first
      | assumption | apply Holds.ite | apply State.ftqPopBody_holds | apply State.vecIssue_holds | apply Done.next
      | apply Done.ite
    | intro _ | dsimp only

theorem State.ftqDropBody_holds {ps : Kept} {s : State} {i : Iss} {e : Nat} (hq : Holds ps s) :
    Holds ps (State.ftqDropBody s i e) := by
  unfold State.ftqDropBody
  repeat' first
    | with_reducible first
      | assumption | apply Holds.ite | apply State.ftqRelease_holds | apply State.ftqUnderrun_holds
      | apply State.incFld_holds
    | fail_if_no_progress with_reducible apply Holds.upd | intro _ | split | dsimp only

theorem execFtqDrop_holds {ps : Kept} {i : Iss} {a : VArgs} {s : State} (hq : Holds ps s) :
    Done ps (execFtqDrop i a s) := by
  unfold execFtqDrop
  repeat' first
    | with_reducible first
      | assumption | apply Holds.ite | apply State.ftqDropBody_holds | apply State.vecIssue_holds | apply Done.next
      | apply Done.ite
    | intro _ | dsimp only

theorem State.ftqCtl_holds {ps : Kept} {s : State} {t : Nat} {v : Word} (hq : Holds ps s) :
    Holds ps (State.ftqCtl s t v) := by
  unfold State.ftqCtl
  repeat' first
    | with_reducible first
      | assumption | apply Holds.ite | apply State.set1_holds | apply State.setReg_holds
    | intro _ | split | dsimp only

theorem execFtqCtlWrite_holds {ps : Kept} {m : Master} {t : Fin 144} {v : BitVec 64} {s : State} (hq : Holds ps s) :
    Done ps (execFtqCtlWrite m t v s) := by
  unfold execFtqCtlWrite
  repeat' first
    | with_reducible first
      | assumption | apply Holds.ite | apply State.ftqCtl_holds | apply State.noteBy_holds | apply Done.next | apply Done.ite
    | intro _ | dsimp only

end Sys2Proof.Machine
end

