-- ==== Sys2Proof/Laws/KeepPost.lean ====
section
/-! SUPPORT. What the operations of Machine/Post.lean keep. -/
set_option linter.unusedTactic false
set_option linter.unreachableTactic false
set_option linter.unusedVariables false
namespace Sys2Proof.Machine

theorem State.copyDesc_holds {ps : Kept} {s : State} {t off n : Nat} (hq : Holds ps s) :
    Holds ps (State.copyDesc s t off n).1 := by
  unfold State.copyDesc
  dsimp only
  repeat' first
    | with_reducible first
      | assumption | apply Holds.ite | apply State.noteReads_holds | apply State.takeFresh_holds | apply Holds.ite1
      | apply Holds.foldl1
    | intro _ | split | dsimp only

theorem State.postBody_holds {ps : Kept} {s : State} {i : Iss} {c : Instr} {sa : BitVec 5} {q : EngQueue} {descs : Nat} {claim : Bool} (hq : Holds ps s) :
    Holds ps (State.postBody s i c sa q descs claim) := by
  unfold State.postBody
  dsimp only
  repeat' first
    | with_reducible first
      | assumption | apply Holds.ite | apply State.copyDesc_holds | apply State.countEv_holds | apply State.retireNext_holds
      | apply State.setStState_holds | apply State.setStream_holds | apply State.setTile_holds
    | fail_if_no_progress with_reducible apply Holds.upd | intro _ | split | dsimp only

end Sys2Proof.Machine
end

