-- ==== Sys2Proof/Laws/KeepMxa.lean ====
section
/-! SUPPORT. What the operations of Machine/Mxa.lean keep. -/
set_option linter.unusedTactic false
set_option linter.unreachableTactic false
set_option linter.unusedVariables false
namespace Sys2Proof.Machine

theorem execMma_holds {ps : Kept} {i : Iss} {a : PostArgs} {s : State} (hq : Holds ps s) :
    Done ps (execMma i a s) := by
  unfold execMma
  repeat' first
    | with_reducible first
      | assumption | apply Holds.ite | apply State.issueFenced_holds | apply State.postBody_holds | apply Done.next
      | apply Done.ite
    | intro _ | dsimp only

theorem execMmaLoads_holds {ps : Kept} {i : Iss} {a : PostArgs} {s : State} (hq : Holds ps s) :
    Done ps (execMmaLoads i a s) := by
  unfold execMmaLoads
  repeat' first
    | with_reducible first
      | assumption | apply Holds.ite | apply State.issueFenced_holds | apply State.postBody_holds | apply Done.next
      | apply Done.ite
    | intro _ | dsimp only

theorem execMmaEw_holds {ps : Kept} {i : Iss} {a : PostArgs} {s : State} (hq : Holds ps s) :
    Done ps (execMmaEw i a s) := by
  unfold execMmaEw
  repeat' first
    | with_reducible first
      | assumption | apply Holds.ite | apply State.issueFenced_holds | apply State.postBody_holds | apply Done.next
      | apply Done.ite
    | intro _ | dsimp only

theorem execMmaMp_holds {ps : Kept} {i : Iss} {a : PostArgs} {s : State} (hq : Holds ps s) :
    Done ps (execMmaMp i a s) := by
  unfold execMmaMp
  repeat' first
    | with_reducible first
      | assumption | apply Holds.ite | apply State.issueFenced_holds | apply State.postBody_holds | apply Done.next
      | apply Done.ite
    | intro _ | dsimp only

theorem State.noteOperands_holds {ps : Kept} {s : State} {t : Nat} {spans : List (Nat × Nat)} (hq : Holds ps s) :
    Holds ps (State.noteOperands s t spans) := by
  unfold State.noteOperands
  repeat' first
    | with_reducible first
      | assumption | apply Holds.ite | apply State.noteRead_holds | apply Holds.foldl | apply Holds.ite1 | apply Holds.foldl1
    | intro _ | dsimp only

theorem State.mxBanks_holds {ps : Kept} {s : State} {t : Nat} {d : MxDesc} {acc : List (List AccEl)} (hq : Holds ps s) :
    Holds ps (State.mxBanks s t d acc) := by
  unfold State.mxBanks
  dsimp only
  repeat' first
    | with_reducible first
      | assumption | apply Holds.ite | apply State.setAccWord_holds | apply Holds.foldl | apply Holds.ite1
      | apply Holds.foldl1
    | intro _ | split | dsimp only

theorem State.mxPush_holds {ps : Kept} {s : State} {t : Nat} {r : MxaRun} (hq : Holds ps s) :
    Holds ps (State.mxPush s t r) := by
  unfold State.mxPush
  repeat' first
    | with_reducible first
      | assumption | apply Holds.ite | apply State.ftqFill_holds | apply State.setMxau_holds
    | fail_if_no_progress with_reducible apply Holds.upd | intro _ | dsimp only

theorem State.mxReject_holds {ps : Kept} {s : State} {t op token reason : Nat} (hq : Holds ps s) :
    Holds ps (State.mxReject s t op token reason) := by
  unfold State.mxReject
  dsimp only
  repeat' first
    | with_reducible first
      | assumption | apply Holds.ite | apply State.incFld_holds | apply State.logTile_holds | apply State.set1_holds
      | apply State.setFld_holds
    | intro _ | dsimp only

theorem State.mxEpisode_holds {ps : Kept} {s : State} {t : Nat} (hq : Holds ps s) :
    Holds ps (State.mxEpisode s t) := by
  unfold State.mxEpisode
  repeat' first
    | with_reducible first
      | assumption | apply Holds.ite | apply State.set1_holds | apply State.setMxau_holds
    | fail_if_no_progress with_reducible apply Holds.upd | intro _ | split | dsimp only

theorem State.mxWork_holds {ps : Kept} {s : State} {t : Nat} {te : Bool} {token : Nat} {d : MxDesc} {bad : Bool} (hq : Holds ps s) :
    Holds ps (State.mxWork s t te token d bad) := by
  unfold State.mxWork
  dsimp only
  repeat' first
    | with_reducible first
      | assumption | apply Holds.ite | apply State.mxBanks_holds | apply State.mxEpisode_holds | apply State.mxPush_holds
      | apply State.noteOperands_holds | apply State.orFld_holds | apply State.set1_holds | apply State.setAccWord_holds
      | apply State.setFld_holds | apply State.setMxau_holds | apply Holds.foldl | apply Holds.ite1 | apply Holds.foldl1
    | fail_if_no_progress with_reducible apply Holds.upd | intro _ | split | dsimp only

theorem execMxaCommandStart_holds {ps : Kept} {t : Fin 144} {ac : Nat} {upset : Upset} {s : State} (hq : Holds ps s) :
    Done ps (execMxaCommandStart t ac upset s) := by
  unfold execMxaCommandStart
  dsimp only
  repeat' first
    | with_reducible first
      | assumption | apply Holds.ite | apply State.advance_holds | apply State.mxPush_holds | apply State.mxReject_holds
      | apply State.mxWork_holds | apply State.setTile_holds | apply State.upset_holds | apply Done.next | apply Done.ite
    | fail_if_no_progress with_reducible apply Holds.upd | intro _ | split | refine Holds.pair (by with_reducible assumption) ?_ | dsimp only

theorem execMxaPacketDelivery_holds {ps : Kept} {t : Fin 144} {ac : Nat} {s : State} (hq : Holds ps s) :
    Done ps (execMxaPacketDelivery t ac s) := by
  unfold execMxaPacketDelivery
  dsimp only
  repeat' first
    | with_reducible first
      | assumption | apply Holds.ite | apply State.advance_holds | apply State.censusAdd_holds | apply State.ftqFill_holds
      | apply State.incFld_holds | apply State.logTile_holds | apply State.orFld_holds | apply State.produce_holds
      | apply State.set1_holds | apply State.setFld_holds | apply State.setFtqBank_holds | apply State.setMxau_holds
      | apply State.setTile_holds | apply Holds.foldl | apply Holds.ite1 | apply Holds.foldl1 | apply Done.next
      | apply Done.ite
    | fail_if_no_progress with_reducible apply Holds.upd | intro _ | split | refine Holds.pair (by with_reducible assumption) ?_ | dsimp only

theorem execMxaCommandComplete_holds {ps : Kept} {t : Fin 144} {ac stallTm stallFtq : Nat} {s : State} (hq : Holds ps s) :
    Done ps (execMxaCommandComplete t ac stallTm stallFtq s) := by
  unfold execMxaCommandComplete
  dsimp only
  repeat' first
    | with_reducible first
      | assumption | apply Holds.ite | apply State.advance_holds | apply State.incFld_holds | apply State.produce_holds
      | apply State.setMxau_holds | apply Done.next | apply Done.ite
    | fail_if_no_progress with_reducible apply Holds.upd | intro _ | split | dsimp only

theorem execMxaEpisodeEnd_holds {ps : Kept} {t : Fin 144} {ac : Nat} {s : State} (hq : Holds ps s) :
    Done ps (execMxaEpisodeEnd t ac s) := by
  unfold execMxaEpisodeEnd
  dsimp only
  repeat' first
    | with_reducible first
      | assumption | apply Holds.ite | apply State.advance_holds | apply State.setFld_holds | apply Done.next
      | apply Done.ite
    | intro _ | split | dsimp only

theorem State.mxaCtl_holds {ps : Kept} {s : State} {t : Nat} {v : Word} (hq : Holds ps s) :
    Holds ps (State.mxaCtl s t v) := by
  unfold State.mxaCtl
  dsimp only
  repeat' first
    | with_reducible first
      | assumption | apply Holds.ite | apply State.set1_holds | apply State.setFld_holds
    | intro _ | split | dsimp only

theorem execMxaCtlWrite_holds {ps : Kept} {m : Master} {t : Fin 144} {v : BitVec 64} {s : State} (hq : Holds ps s) :
    Done ps (execMxaCtlWrite m t v s) := by
  unfold execMxaCtlWrite
  repeat' first
    | with_reducible first
      | assumption | apply Holds.ite | apply State.mxaCtl_holds | apply State.noteBy_holds | apply Done.next | apply Done.ite
    | intro _ | dsimp only

end Sys2Proof.Machine
end

