-- ==== Sys2Proof/Laws/KeepSfu.lean ====
section
/-! SUPPORT. What the operations of Machine/Sfu.lean keep. -/
set_option linter.unusedTactic false
set_option linter.unreachableTactic false
set_option linter.unusedVariables false
namespace Sys2Proof.Machine

theorem State.sfuCtl_holds {ps : Kept} {s : State} {t : Nat} {v : Word} (hq : Holds ps s) :
    Holds ps (State.sfuCtl s t v) := by
  unfold State.sfuCtl
  dsimp only
  repeat' first
    | with_reducible first
      | assumption | apply Holds.ite | apply State.setFld_holds | apply State.setSfuu_holds
    | fail_if_no_progress with_reducible apply Holds.upd | intro _ | dsimp only

theorem State.tableEcc_holds {ps : Kept} {s : State} {t b : Nat} {ecc used : List Nat} (hq : Holds ps s) :
    Holds ps (State.tableEcc s t b ecc used) := by
  unfold State.tableEcc
  repeat' first
    | with_reducible first
      | assumption | apply Holds.ite | apply State.logTile_holds | apply State.set1_holds
    | fail_if_no_progress with_reducible apply Holds.upd | intro _ | split | dsimp only

theorem State.sfuUser_holds {ps : Kept} {s : State} {i : Iss} {e slot : Nat} (hq : Holds ps s) :
    Holds ps (State.sfuUser s i e slot).1 := by
  unfold State.sfuUser
  dsimp only
  repeat' first
    | with_reducible first
      | assumption | apply Holds.ite | apply State.logTile_holds | apply State.set1_holds | apply State.setFld_holds
      | apply Holds.ite1 | apply Holds.foldl1
    | intro _ | split | dsimp only

theorem State.sfuRunElems_holds {ps : Kept} {s : State} {i : Iss} {e : Nat} {a : VArgs} {n lat : Nat} {srcs : List Nat} {g : SfuFun} {ecc : List Nat} {more : Nat} {arg : Nat → Nat × Bool × Nat} {post : Nat → Nat × Nat} (hq : Holds ps s) :
    Holds ps (State.sfuRunElems s i e a n lat srcs g ecc more arg post) := by
  unfold State.sfuRunElems
  dsimp only
  repeat' first
    | with_reducible first
      | assumption | apply Holds.ite | apply State.incFld_holds | apply State.runPlan_holds | apply State.tableEcc_holds
    | intro _ | split | dsimp only

theorem execVsf_holds {ps : Kept} {i : Iss} {a : VArgs} {s : State} (hq : Holds ps s) :
    Done ps (execVsf i a s) := by
  unfold execVsf
  repeat' first
    | with_reducible first
      | assumption | apply Holds.ite | apply State.sfuRunElems_holds | apply State.vecIssue_holds | apply Done.next
      | apply Done.ite
    | intro _ | dsimp only

theorem execVsfU_holds {ps : Kept} {i : Iss} {a : VArgs} {ecc : List Nat} {s : State} (hq : Holds ps s) :
    Done ps (execVsfU i a ecc s) := by
  unfold execVsfU
  dsimp only
  repeat' first
    | with_reducible first
      | assumption | apply Holds.ite | apply State.sfuRunElems_holds | apply State.sfuUser_holds
      | apply State.takeUnits_holds | apply State.vecIssue_holds | apply Done.next | apply Done.ite
    | intro _ | split | dsimp only

theorem State.fuseUnderrun_holds {ps : Kept} {s : State} {i : Iss} {e : Nat} {a : VArgs} {lat fl : Nat} (hq : Holds ps s) :
    Holds ps (State.fuseUnderrun s i e a lat fl) := by
  unfold State.fuseUnderrun
  repeat' first
    | with_reducible first
      | assumption | apply Holds.ite | apply State.runPlan_holds
    | intro _ | dsimp only

theorem State.fuseBody_holds {ps : Kept} {s : State} {i : Iss} {e : Nat} {a : VArgs} {ecc : List Nat} (hq : Holds ps s) :
    Holds ps (State.fuseBody s i e a ecc) := by
  unfold State.fuseBody
  dsimp only
  repeat' first
    | with_reducible first
      | assumption | apply Holds.ite | apply State.ftqTake_holds | apply State.fuseUnderrun_holds
      | apply State.sfuRunElems_holds | apply State.sfuUser_holds | apply State.takeUnits_holds
    | intro _ | split | dsimp only

theorem execVsfFuse_holds {ps : Kept} {i : Iss} {a : VArgs} {ecc : List Nat} {s : State} (hq : Holds ps s) :
    Done ps (execVsfFuse i a ecc s) := by
  unfold execVsfFuse
  repeat' first
    | with_reducible first
      | assumption | apply Holds.ite | apply State.fuseBody_holds | apply State.vecIssue_holds | apply Done.next
      | apply Done.ite
    | intro _ | dsimp only

theorem State.rmsIssue_holds {ps : Kept} {s : State} {i : Iss} {e : Nat} {a : VArgs} (hq : Holds ps s) :
    Holds ps (State.rmsIssue s i e a) := by
  unfold State.rmsIssue
  dsimp only
  repeat' first
    | with_reducible first
      | assumption | apply Holds.ite | apply State.issue_holds | apply State.runPlan_holds | apply Holds.foldl
      | apply Holds.ite1 | apply Holds.foldl1
    | intro _ | split | dsimp only

theorem execVnormRms_holds {ps : Kept} {i : Iss} {a : VArgs} {s : State} (hq : Holds ps s) :
    Done ps (execVnormRms i a s) := by
  unfold execVnormRms
  repeat' first
    | with_reducible first
      | assumption | apply Holds.ite | apply State.rmsIssue_holds | apply State.vecIssue_holds | apply Done.next
      | apply Done.ite
    | intro _ | dsimp only

theorem State.mvIssue_holds {ps : Kept} {s : State} {i : Iss} {e : Nat} {a : VArgs} (hq : Holds ps s) :
    Holds ps (State.mvIssue s i e a) := by
  unfold State.mvIssue
  dsimp only
  repeat' first
    | with_reducible first
      | assumption | apply Holds.ite | apply State.runPlan_holds | apply Holds.foldl | apply Holds.ite1 | apply Holds.foldl1
    | fail_if_no_progress with_reducible apply Holds.upd | intro _ | split | dsimp only

theorem execVnormMv_holds {ps : Kept} {i : Iss} {a : VArgs} {s : State} (hq : Holds ps s) :
    Done ps (execVnormMv i a s) := by
  unfold execVnormMv
  repeat' first
    | with_reducible first
      | assumption | apply Holds.ite | apply State.mvIssue_holds | apply State.vecIssue_holds | apply Done.next
      | apply Done.ite
    | intro _ | dsimp only

theorem State.smaxIssue_holds {ps : Kept} {s : State} {i : Iss} {e : Nat} {a : VArgs} {pass lat : Nat} (hq : Holds ps s) :
    Holds ps (State.smaxIssue s i e a pass lat) := by
  unfold State.smaxIssue
  dsimp only
  repeat' first
    | with_reducible first
      | assumption | apply Holds.ite | apply State.incFld_holds | apply State.issue_holds | apply State.runPlan_holds
      | apply Holds.foldl | apply Holds.ite1 | apply Holds.foldl1
    | intro _ | split | dsimp only

theorem execVsmaxP1_holds {ps : Kept} {i : Iss} {a : VArgs} {s : State} (hq : Holds ps s) :
    Done ps (execVsmaxP1 i a s) := by
  unfold execVsmaxP1
  repeat' first
    | with_reducible first
      | assumption | apply Holds.ite | apply State.smaxIssue_holds | apply State.vecIssue_holds | apply Done.next
      | apply Done.ite
    | intro _ | dsimp only

theorem execVsmaxP2_holds {ps : Kept} {i : Iss} {a : VArgs} {s : State} (hq : Holds ps s) :
    Done ps (execVsmaxP2 i a s) := by
  unfold execVsmaxP2
  repeat' first
    | with_reducible first
      | assumption | apply Holds.ite | apply State.smaxIssue_holds | apply State.vecIssue_holds | apply Done.next
      | apply Done.ite
    | intro _ | dsimp only

theorem execVsfArm_holds {ps : Kept} {i : Iss} {a : VArgs} {s : State} (hq : Holds ps s) :
    Done ps (execVsfArm i a s) := by
  unfold execVsfArm
  dsimp only
  repeat' first
    | with_reducible first
      | assumption | apply Holds.ite | apply State.setSfuu_holds | apply State.vecIssue_holds | apply Done.next
      | apply Done.ite
    | fail_if_no_progress with_reducible apply Holds.upd | intro _ | dsimp only

theorem State.sfuSwapWrite_holds {ps : Kept} {s : State} {t : Nat} {v : Word} (hq : Holds ps s) :
    Holds ps (State.sfuSwapWrite s t v) := by
  unfold State.sfuSwapWrite
  dsimp only
  repeat' first
    | with_reducible first
      | assumption | apply Holds.ite | apply State.setFld_holds | apply State.sfuArm_holds
    | intro _ | split | dsimp only

theorem execSfuSwapArm_holds {ps : Kept} {m : Master} {t : Fin 144} {v : BitVec 64} {s : State} (hq : Holds ps s) :
    Done ps (execSfuSwapArm m t v s) := by
  unfold execSfuSwapArm
  repeat' first
    | with_reducible first
      | assumption | apply Holds.ite | apply State.noteBy_holds | apply State.sfuSwapWrite_holds | apply Done.next
      | apply Done.ite
    | intro _ | dsimp only

theorem execSfuSwapDisarm_holds {ps : Kept} {m : Master} {t : Fin 144} {v : BitVec 64} {s : State} (hq : Holds ps s) :
    Done ps (execSfuSwapDisarm m t v s) := by
  unfold execSfuSwapDisarm
  repeat' first
    | with_reducible first
      | assumption | apply Holds.ite | apply State.noteBy_holds | apply State.sfuSwapWrite_holds | apply Done.next
      | apply Done.ite
    | intro _ | dsimp only

theorem execSfuSwap_holds {ps : Kept} {t : Fin 144} {ac : Nat} {s : State} (hq : Holds ps s) :
    Done ps (execSfuSwap t ac s) := by
  unfold execSfuSwap
  dsimp only
  repeat' first
    | with_reducible first
      | assumption | apply Holds.ite | apply State.advance_holds | apply State.incFld_holds | apply State.logTile_holds
      | apply State.setFld_holds | apply Done.next | apply Done.ite
    | intro _ | split | dsimp only

end Sys2Proof.Machine
end

