-- ==== Sys2Proof/Laws/KeepSpe.lean ====
section
/-! SUPPORT. What the operations of Machine/Spe.lean keep. -/
set_option linter.unusedTactic false
set_option linter.unreachableTactic false
set_option linter.unusedVariables false
namespace Sys2Proof.Machine

theorem execSpMm_holds {ps : Kept} {i : Iss} {a : PostArgs} {s : State} (hq : Holds ps s) :
    Done ps (execSpMm i a s) := by
  unfold execSpMm
  repeat' first
    | with_reducible first
      | assumption | apply Holds.ite | apply State.issueFenced_holds | apply State.postBody_holds | apply Done.next
      | apply Done.ite
    | intro _ | dsimp only

theorem execSpSpgemm_holds {ps : Kept} {i : Iss} {a : PostArgs} {s : State} (hq : Holds ps s) :
    Done ps (execSpSpgemm i a s) := by
  unfold execSpSpgemm
  repeat' first
    | with_reducible first
      | assumption | apply Holds.ite | apply State.issueFenced_holds | apply State.postBody_holds | apply Done.next
      | apply Done.ite
    | intro _ | dsimp only

theorem execSpMerge_holds {ps : Kept} {i : Iss} {a : PostArgs} {s : State} (hq : Holds ps s) :
    Done ps (execSpMerge i a s) := by
  unfold execSpMerge
  repeat' first
    | with_reducible first
      | assumption | apply Holds.ite | apply State.issueFenced_holds | apply State.postBody_holds | apply Done.next
      | apply Done.ite
    | intro _ | dsimp only

theorem execSpHarrow_holds {ps : Kept} {i : Iss} {a : PostArgs} {s : State} (hq : Holds ps s) :
    Done ps (execSpHarrow i a s) := by
  unfold execSpHarrow
  repeat' first
    | with_reducible first
      | assumption | apply Holds.ite | apply State.issueFenced_holds | apply State.postBody_holds | apply Done.next
      | apply Done.ite
    | intro _ | dsimp only

theorem execSpSort_holds {ps : Kept} {i : Iss} {a : PostArgs} {s : State} (hq : Holds ps s) :
    Done ps (execSpSort i a s) := by
  unfold execSpSort
  repeat' first
    | with_reducible first
      | assumption | apply Holds.ite | apply State.issueFenced_holds | apply State.postBody_holds | apply Done.next
      | apply Done.ite
    | intro _ | dsimp only

theorem State.applyWrites_holds {ps : Kept} {s : State} {q : Req} {ws : List (Nat × List (Byte × Bool))} (hq : Holds ps s) :
    Holds ps (State.applyWrites s q ws) := by
  unfold State.applyWrites
  dsimp only
  repeat' first
    | with_reducible first
      | assumption | apply Holds.ite | apply State.storeMap_holds | apply State.unmapped_holds | apply Holds.foldl
      | apply Holds.ite1 | apply Holds.foldl1
    | fail_if_no_progress with_reducible apply Holds.upd | intro _ | split | dsimp only

theorem State.speReject_holds {ps : Kept} {s : State} {t op token reason : Nat} (hq : Holds ps s) :
    Holds ps (State.speReject s t op token reason) := by
  unfold State.speReject
  dsimp only
  repeat' first
    | with_reducible first
      | assumption | apply Holds.ite | apply State.incFld_holds | apply State.logTile_holds | apply State.set1_holds
      | apply State.setFld_holds
    | intro _ | dsimp only

theorem State.cntUp_holds {ps : Kept} {s : State} {f : Field} {n : Nat} (h : Holds ps s) :
    Holds ps (if n = 0 then s else s.incFld f n) := by
  split
  · exact h
  · exact State.incFld_holds h

theorem State.speEffects_holds {ps : Kept} {s : State} {t op token : Nat} {o : SpeOut} {badDesc : Bool} (hq : Holds ps s) :
    Holds ps (State.speEffects s t op token o badDesc) := by
  unfold State.speEffects
  extract_lets cnt route s1 s2 s3 a s4 s5 s6 s7 s8 words s9 s10 s11 s12 s13
  have ks1 : Holds ps s1 := by
    simp only [s1]
    repeat' first
      | with_reducible assumption
      | with_reducible apply Holds.ite
      | with_reducible apply Holds.foldl
      | with_reducible apply State.incFld_holds
      | with_reducible apply State.logTile_holds
      | with_reducible apply State.set1_holds
      | with_reducible apply State.setFld_holds
      | with_reducible apply State.noteRead_holds
      | with_reducible apply State.setCamKey_holds
      | with_reducible apply State.cntUp_holds
      | intro _
      | split
      | dsimp only
  clear_value s1
  have ks2 : Holds ps s2 := by
    simp only [s2]
    repeat' first
      | with_reducible assumption
      | with_reducible apply Holds.ite
      | with_reducible apply Holds.foldl
      | with_reducible apply State.incFld_holds
      | with_reducible apply State.logTile_holds
      | with_reducible apply State.set1_holds
      | with_reducible apply State.setFld_holds
      | with_reducible apply State.noteRead_holds
      | with_reducible apply State.setCamKey_holds
      | with_reducible apply State.cntUp_holds
      | intro _
      | split
      | dsimp only
  clear_value s2
  have ks3 : Holds ps s3 := by
    simp only [s3]
    repeat' first
      | with_reducible assumption
      | with_reducible apply Holds.ite
      | with_reducible apply Holds.foldl
      | with_reducible apply State.incFld_holds
      | with_reducible apply State.logTile_holds
      | with_reducible apply State.set1_holds
      | with_reducible apply State.setFld_holds
      | with_reducible apply State.noteRead_holds
      | with_reducible apply State.setCamKey_holds
      | intro _
      | split
      | dsimp only
  clear_value s3
  have ka : Holds ps a := by
    simp only [a]
    repeat' first
      | with_reducible assumption
      | with_reducible apply Holds.ite
      | with_reducible apply Holds.foldl
      | with_reducible apply State.incFld_holds
      | with_reducible apply State.logTile_holds
      | with_reducible apply State.set1_holds
      | with_reducible apply State.setFld_holds
      | with_reducible apply State.noteRead_holds
      | with_reducible apply State.setCamKey_holds
      | intro _
      | split
      | dsimp only
  clear_value a
  have ks4 : Holds ps s4 := by
    simp only [s4]
    repeat' first
      | with_reducible assumption
      | with_reducible apply Holds.ite
      | with_reducible apply Holds.foldl
      | with_reducible apply State.incFld_holds
      | with_reducible apply State.logTile_holds
      | with_reducible apply State.set1_holds
      | with_reducible apply State.setFld_holds
      | with_reducible apply State.noteRead_holds
      | with_reducible apply State.setCamKey_holds
      | intro _
      | split
      | dsimp only
  clear_value s4
  have ks5 : Holds ps s5 := by
    simp only [s5]
    repeat' first
      | with_reducible assumption
      | with_reducible apply Holds.ite
      | with_reducible apply Holds.foldl
      | with_reducible apply State.incFld_holds
      | with_reducible apply State.logTile_holds
      | with_reducible apply State.set1_holds
      | with_reducible apply State.setFld_holds
      | with_reducible apply State.noteRead_holds
      | with_reducible apply State.setCamKey_holds
      | intro _
      | split
      | dsimp only
  clear_value s5
  have ks6 : Holds ps s6 := by
    simp only [s6]
    repeat' first
      | with_reducible assumption
      | with_reducible apply Holds.ite
      | with_reducible apply Holds.foldl
      | with_reducible apply State.incFld_holds
      | with_reducible apply State.logTile_holds
      | with_reducible apply State.set1_holds
      | with_reducible apply State.setFld_holds
      | with_reducible apply State.noteRead_holds
      | with_reducible apply State.setCamKey_holds
      | intro _
      | split
      | dsimp only
  clear_value s6
  have ks7 : Holds ps s7 := by
    simp only [s7]
    repeat' first
      | with_reducible assumption
      | with_reducible apply Holds.ite
      | with_reducible apply Holds.foldl
      | with_reducible apply State.incFld_holds
      | with_reducible apply State.logTile_holds
      | with_reducible apply State.set1_holds
      | with_reducible apply State.setFld_holds
      | with_reducible apply State.noteRead_holds
      | with_reducible apply State.setCamKey_holds
      | intro _
      | split
      | dsimp only
  clear_value s7
  have ks8 : Holds ps s8 := by
    simp only [s8]
    repeat' first
      | with_reducible assumption
      | with_reducible apply Holds.ite
      | with_reducible apply Holds.foldl
      | with_reducible apply State.incFld_holds
      | with_reducible apply State.logTile_holds
      | with_reducible apply State.set1_holds
      | with_reducible apply State.setFld_holds
      | with_reducible apply State.noteRead_holds
      | with_reducible apply State.setCamKey_holds
      | intro _
      | split
      | dsimp only
  clear_value s8
  have ks9 : Holds ps s9 := by
    simp only [s9]
    repeat' first
      | with_reducible assumption
      | with_reducible apply Holds.ite
      | with_reducible apply Holds.foldl
      | with_reducible apply State.incFld_holds
      | with_reducible apply State.logTile_holds
      | with_reducible apply State.set1_holds
      | with_reducible apply State.setFld_holds
      | with_reducible apply State.noteRead_holds
      | with_reducible apply State.setCamKey_holds
      | intro _
      | split
      | dsimp only
  clear_value s9
  have ks10 : Holds ps s10 := by
    simp only [s10]
    repeat' first
      | with_reducible assumption
      | with_reducible apply Holds.ite
      | with_reducible apply Holds.foldl
      | with_reducible apply State.incFld_holds
      | with_reducible apply State.logTile_holds
      | with_reducible apply State.set1_holds
      | with_reducible apply State.setFld_holds
      | with_reducible apply State.noteRead_holds
      | with_reducible apply State.setCamKey_holds
      | intro _
      | split
      | dsimp only
  clear_value s10
  have ks11 : Holds ps s11 := by
    simp only [s11]
    repeat' first
      | with_reducible assumption
      | with_reducible apply Holds.ite
      | with_reducible apply Holds.foldl
      | with_reducible apply State.incFld_holds
      | with_reducible apply State.logTile_holds
      | with_reducible apply State.set1_holds
      | with_reducible apply State.setFld_holds
      | with_reducible apply State.noteRead_holds
      | with_reducible apply State.setCamKey_holds
      | intro _
      | split
      | dsimp only
  clear_value s11
  have ks12 : Holds ps s12 := by
    simp only [s12]
    repeat' first
      | with_reducible assumption
      | with_reducible apply Holds.ite
      | with_reducible apply Holds.foldl
      | with_reducible apply State.incFld_holds
      | with_reducible apply State.logTile_holds
      | with_reducible apply State.set1_holds
      | with_reducible apply State.setFld_holds
      | with_reducible apply State.noteRead_holds
      | with_reducible apply State.setCamKey_holds
      | intro _
      | split
      | dsimp only
  clear_value s12
  have ks13 : Holds ps s13 := by
    simp only [s13]
    repeat' first
      | with_reducible assumption
      | with_reducible apply Holds.ite
      | with_reducible apply Holds.foldl
      | with_reducible apply State.incFld_holds
      | with_reducible apply State.logTile_holds
      | with_reducible apply State.set1_holds
      | with_reducible apply State.setFld_holds
      | with_reducible apply State.noteRead_holds
      | with_reducible apply State.setCamKey_holds
      | intro _
      | split
      | dsimp only
  clear_value s13
  repeat' first
    | with_reducible assumption
    | with_reducible apply Holds.ite
    | with_reducible apply Holds.foldl
    | with_reducible apply State.incFld_holds
    | with_reducible apply State.logTile_holds
    | with_reducible apply State.set1_holds
    | with_reducible apply State.setFld_holds
    | with_reducible apply State.noteRead_holds
    | with_reducible apply State.setCamKey_holds
    | intro _
    | split
    | dsimp only

theorem State.claimArray_holds {ps : Kept} {s : State} {t : Nat} {d : MxDesc} {o : SpeOut} {acc : List (List AccEl)} {op token : Nat} (hq : Holds ps s) :
    Holds ps (State.claimArray s t d o acc op token) := by
  unfold State.claimArray
  dsimp only
  repeat' first
    | with_reducible first
      | assumption | apply Holds.ite | apply State.mxBanks_holds | apply State.mxEpisode_holds | apply State.mxPush_holds
      | apply State.orFld_holds | apply State.setFld_holds | apply State.setMxau_holds
    | fail_if_no_progress with_reducible apply Holds.upd | intro _ | dsimp only

theorem State.dropClaim_holds {ps : Kept} {s : State} {t : Nat} (hq : Holds ps s) :
    Holds ps (State.dropClaim s t) := by
  unfold State.dropClaim
  repeat' first
    | with_reducible first
      | assumption | apply Holds.ite | apply State.setTile_holds
    | fail_if_no_progress with_reducible apply Holds.upd | intro _ | dsimp only

theorem execSpeCommandStart_holds {ps : Kept} {t : Fin 144} {ac : Nat} {upset : Upset} {s : State} (hq : Holds ps s) :
    Done ps (execSpeCommandStart t ac upset s) := by
  unfold execSpeCommandStart
  dsimp only
  repeat' first
    | with_reducible first
      | assumption | apply Holds.ite | apply State.advance_holds | apply State.claimArray_holds | apply State.dropClaim_holds
      | apply State.set1_holds | apply State.setSpeRun_holds | apply State.setTile_holds | apply State.speEffects_holds
      | apply State.speReject_holds | apply State.takeFresh_holds | apply State.upset_holds | apply Done.next
      | apply Done.ite
    | fail_if_no_progress with_reducible apply Holds.upd | intro _ | split | refine Holds.pair (by with_reducible assumption) ?_ | dsimp only

theorem execSpeCommandComplete_holds {ps : Kept} {t : Fin 144} {ac stallTm stallFtq : Nat} {s : State} (hq : Holds ps s) :
    Done ps (execSpeCommandComplete t ac stallTm stallFtq s) := by
  unfold execSpeCommandComplete
  dsimp only
  repeat' first
    | with_reducible first
      | assumption | apply Holds.ite | apply State.advance_holds | apply State.applyWrites_holds
      | apply State.dropClaim_holds | apply State.incFld_holds | apply State.produce_holds | apply State.setFld_holds
      | apply State.setMxau_holds | apply State.setSpeRun_holds | apply Done.next | apply Done.ite
    | fail_if_no_progress with_reducible apply Holds.upd | intro _ | split | dsimp only

end Sys2Proof.Machine
end

