-- ==== Sys2Proof/Laws/KeepMemCmd.lean ====
section
/-! SUPPORT. What the operations of Machine/MemCmd.lean keep. -/
set_option linter.unusedTactic false
set_option linter.unreachableTactic false
set_option linter.unusedVariables false
namespace Sys2Proof.Machine

theorem State.tierAnswer_holds {ps : Kept} {s : State} {bs : List Byte} {bad err : Bool} (hq : Holds ps s) :
    Holds ps (State.tierAnswer s bs bad err) := by
  unfold State.tierAnswer
  repeat' first
    | with_reducible first
      | assumption | apply Holds.ite
    | fail_if_no_progress with_reducible apply Holds.upd | intro _ | dsimp only

theorem execTierRequest_holds {ps : Kept} {r : TierReq} {s : State} (hq : Holds ps s) :
    Done ps (execTierRequest r s) := by
  unfold execTierRequest
  dsimp only
  repeat' first
    | with_reducible first
      | assumption | apply Holds.ite | apply State.noteReads_holds | apply State.tierAnswer_holds
      | apply State.unmapped_holds | apply State.upset_holds | apply State.writeBytes_holds | apply Holds.foldl
      | apply Holds.ite1 | apply Holds.foldl1 | apply Done.next | apply Done.ite
    | intro _ | split | dsimp only

theorem State.scrubNext_holds {ps : Kept} {s : State} {tier t : Nat} (hq : Holds ps s) :
    Holds ps (State.scrubNext s tier t) := by
  unfold State.scrubNext
  dsimp only
  repeat' first
    | with_reducible first
      | assumption | apply Holds.ite | apply State.incFld_holds | apply State.setFld_holds
    | fail_if_no_progress with_reducible apply Holds.upd | intro _ | split | dsimp only

theorem execMemScrubStep_holds {ps : Kept} {tier : Fin 3} {t : Fin 144} {upset : Option Bool} {cancelled : Bool} {s : State} (hq : Holds ps s) :
    Done ps (execMemScrubStep tier t upset cancelled s) := by
  unfold execMemScrubStep
  dsimp only
  repeat' first
    | with_reducible first
      | assumption | apply Holds.ite | apply State.countCE_holds | apply State.incFld_holds | apply State.logAt_holds
      | apply State.noteRead_holds | apply State.readUE_holds | apply State.scrubNext_holds | apply State.set1_holds
      | apply State.setTag_holds | apply State.upset_holds | apply Done.next | apply Done.ite
    | fail_if_no_progress with_reducible apply Holds.upd | intro _ | split | dsimp only

theorem execMemScrubLag_holds {ps : Kept} {t : Fin 144} {elapsedMs : Nat} {s : State} (hq : Holds ps s) :
    Done ps (execMemScrubLag t elapsedMs s) := by
  unfold execMemScrubLag
  repeat' first
    | with_reducible first
      | assumption | apply Holds.ite | apply State.logTile_holds | apply State.set1_holds | apply Done.next | apply Done.ite
    | intro _ | split | dsimp only

theorem State.memScrubWrite_holds {ps : Kept} {s : State} {v : Word} (hq : Holds ps s) :
    Holds ps (State.memScrubWrite s v) := by
  unfold State.memScrubWrite
  dsimp only
  repeat' first
    | with_reducible first
      | assumption | apply Holds.ite | apply State.set1_holds | apply State.setReg_holds
    | intro _ | split | dsimp only

theorem execMemScrubWrite_holds {ps : Kept} {v : BitVec 64} {s : State} (hq : Holds ps s) :
    Done ps (execMemScrubWrite v s) := by
  unfold execMemScrubWrite
  repeat' first
    | with_reducible first
      | assumption | apply Holds.ite | apply State.memScrubWrite_holds | apply Done.next | apply Done.ite
    | intro _ | dsimp only

end Sys2Proof.Machine
end

