-- ==== Sys2Proof/Laws/KeepFabric.lean ====
section
/-! SUPPORT. What the operations of Machine/Fabric.lean keep. -/
set_option linter.unusedTactic false
set_option linter.unreachableTactic false
set_option linter.unusedVariables false
namespace Sys2Proof.Machine

theorem State.setLink_holds {ps : Kept} {s : State} {l : Nat} {k : Link} (hq : Holds ps s) :
    Holds ps (State.setLink s l k) := by
  unfold State.setLink
  repeat' first
    | with_reducible first
      | assumption | apply Holds.ite
    | fail_if_no_progress with_reducible apply Holds.upd | intro _ | dsimp only

theorem State.sendSym_holds {ps : Kept} {s : State} {l kind a b : Nat} (hq : Holds ps s) :
    Holds ps (State.sendSym s l kind a b) := by
  unfold State.sendSym
  repeat' first
    | with_reducible first
      | assumption | apply Holds.ite
    | fail_if_no_progress with_reducible apply Holds.upd | intro _ | dsimp only

theorem State.pump_holds {ps : Kept} {s : State} {l : Nat} (hq : Holds ps s) :
    Holds ps (State.pump s l) := by
  unfold State.pump
  dsimp only
  repeat' first
    | with_reducible first
      | assumption | apply Holds.ite | apply State.incFld_holds | apply State.setLink_holds
    | fail_if_no_progress with_reducible apply Holds.upd | intro _ | split | dsimp only

theorem State.linkReset_holds {ps : Kept} {s : State} {l st : Nat} (hq : Holds ps s) :
    Holds ps (State.linkReset s l st) := by
  unfold State.linkReset
  repeat' first
    | with_reducible first
      | assumption | apply Holds.ite | apply State.setFld_holds | apply State.setLink_holds
    | fail_if_no_progress with_reducible apply Holds.upd | intro _ | dsimp only

theorem State.portClear_holds {ps : Kept} {s : State} {p : Nat} (hq : Holds ps s) :
    Holds ps (State.portClear s p) := by
  unfold State.portClear
  repeat' first
    | with_reducible first
      | assumption | apply Holds.ite | apply State.setReg_holds
    | intro _ | dsimp only

theorem State.linkLost_holds {ps : Kept} {s : State} {l replays : Nat} (hq : Holds ps s) :
    Holds ps (State.linkLost s l replays) := by
  unfold State.linkLost
  dsimp only
  repeat' first
    | with_reducible first
      | assumption | apply Holds.ite | apply State.incFld_holds | apply State.linkReset_holds | apply State.logDev_holds
      | apply State.set1_holds | apply State.setFld_holds
    | intro _ | split | dsimp only

theorem State.linkDown_holds {ps : Kept} {s : State} {l replays : Nat} (hq : Holds ps s) :
    Holds ps (State.linkDown s l replays) := by
  unfold State.linkDown
  dsimp only
  repeat' first
    | with_reducible first
      | assumption | apply Holds.ite | apply State.linkLost_holds | apply State.logDev_holds | apply State.portClear_holds
      | apply State.set1_holds | apply State.setFld_holds
    | intro _ | split | dsimp only

theorem State.setRails_holds {ps : Kept} {s : State} {v : Nat → Nat} (hq : Holds ps s) :
    Holds ps (State.setRails s v) := by
  unfold State.setRails
  repeat' first
    | with_reducible first
      | assumption | apply Holds.ite
    | fail_if_no_progress with_reducible apply Holds.upd | intro _ | dsimp only

theorem State.linksSleep_holds {ps : Kept} {s : State} {st : Nat} (hq : Holds ps s) :
    Holds ps (State.linksSleep s st) := by
  unfold State.linksSleep
  dsimp only
  repeat' first
    | with_reducible first
      | assumption | apply Holds.ite | apply State.linkReset_holds | apply State.setFld_holds | apply Holds.foldl
      | apply Holds.ite1 | apply Holds.foldl1
    | intro _ | split | dsimp only

theorem State.linksWake_holds {ps : Kept} {s : State} {st : Nat} (hq : Holds ps s) :
    Holds ps (State.linksWake s st) := by
  unfold State.linksWake
  dsimp only
  repeat' first
    | with_reducible first
      | assumption | apply Holds.ite | apply State.setFld_holds | apply Holds.foldl | apply Holds.ite1 | apply Holds.foldl1
    | intro _ | split | dsimp only

theorem State.entryStep_holds {ps : Kept} {s : State} {st k : Nat} (hq : Holds ps s) :
    Holds ps (State.entryStep s st k) := by
  unfold State.entryStep
  dsimp only
  repeat' first
    | with_reducible first
      | assumption | apply Holds.ite | apply State.linksSleep_holds | apply State.setRails_holds
    | fail_if_no_progress with_reducible apply Holds.upd | intro _ | split | dsimp only

theorem State.entryTo_holds {ps : Kept} {s : State} {st n : Nat} (hq : Holds ps s) :
    Holds ps (State.entryTo s st n) := by
  unfold State.entryTo
  repeat' first
    | with_reducible first
      | assumption | apply Holds.ite | apply State.entryStep_holds | apply Holds.foldl | apply Holds.ite1
      | apply Holds.foldl1
    | intro _ | dsimp only

theorem State.askL1_holds {ps : Kept} {s : State} (hq : Holds ps s) :
    Holds ps (State.askL1 s) := by
  unfold State.askL1
  repeat' first
    | with_reducible first
      | assumption | apply Holds.ite
    | fail_if_no_progress with_reducible apply Holds.upd | intro _ | dsimp only

theorem State.wake_holds {ps : Kept} {s : State} {causes detail : Nat} (hq : Holds ps s) :
    Holds ps (State.wake s causes detail) := by
  unfold State.wake
  dsimp only
  repeat' first
    | with_reducible first
      | assumption | apply Holds.ite | apply State.askL1_holds | apply State.entryTo_holds | apply State.linksWake_holds
      | apply State.logDeliv_holds | apply State.pump_holds | apply State.setFld_holds | apply State.setRails_holds
      | apply Holds.foldl | apply Holds.ite1 | apply Holds.foldl1
    | fail_if_no_progress with_reducible apply Holds.upd | intro _ | split | dsimp only

theorem State.wakePacket_holds {ps : Kept} {s : State} {port : Nat} (hq : Holds ps s) :
    Holds ps (State.wakePacket s port) := by
  unfold State.wakePacket
  repeat' first
    | with_reducible first
      | assumption | apply Holds.ite | apply State.wake_holds
    | intro _ | split | dsimp only

theorem State.wakeHost_holds {ps : Kept} {s : State} (hq : Holds ps s) :
    Holds ps (State.wakeHost s) := by
  unfold State.wakeHost
  repeat' first
    | with_reducible first
      | assumption | apply Holds.ite | apply State.wake_holds
    | intro _ | split | dsimp only

theorem State.portCfg_holds {ps : Kept} {s : State} {p : Nat} {v : Word} (hq : Holds ps s) :
    Holds ps (State.portCfg s p v) := by
  unfold State.portCfg
  dsimp only
  repeat' first
    | with_reducible first
      | assumption | apply Holds.ite | apply State.linkReset_holds | apply State.set1_holds | apply State.setFld_holds
      | apply State.setReg_holds
    | intro _ | split | dsimp only

theorem execFabPortCfgWrite_holds {ps : Kept} {p : Fin 16} {v : BitVec 64} {s : State} (hq : Holds ps s) :
    Done ps (execFabPortCfgWrite p v s) := by
  unfold execFabPortCfgWrite
  repeat' first
    | with_reducible first
      | assumption | apply Holds.ite | apply State.portCfg_holds | apply Done.next | apply Done.ite
    | intro _ | dsimp only

theorem execLinkTrainingComplete_holds {ps : Kept} {l : LinkId} {s : State} (hq : Holds ps s) :
    Done ps (execLinkTrainingComplete l s) := by
  unfold execLinkTrainingComplete
  dsimp only
  repeat' first
    | with_reducible first
      | assumption | apply Holds.ite | apply State.logDev_holds | apply State.orFld_holds | apply State.setFld_holds
      | apply Done.next | apply Done.ite
    | intro _ | split | dsimp only

theorem State.captureRx_holds {ps : Kept} {s : State} {p : FabPkt} (hq : Holds ps s) :
    Holds ps (State.captureRx s p) := by
  unfold State.captureRx
  repeat' first
    | with_reducible first
      | assumption | apply Holds.ite | apply State.capture_holds
    | intro _ | split | dsimp only | rw [id_eq]

theorem execLinkPacketRx_holds {ps : Kept} {l : LinkId} {u : LinkUnit} {corr uncorr : Nat} {s : State} (hq : Holds ps s) :
    Done ps (execLinkPacketRx l u corr uncorr s) := by
  unfold execLinkPacketRx
  dsimp only
  repeat' first
    | with_reducible first
      | assumption | apply Holds.ite | apply State.captureRx_holds | apply State.incFld_holds | apply State.sendSym_holds
      | apply State.setLink_holds | apply State.wakePacket_holds | apply Done.next | apply Done.ite
    | fail_if_no_progress with_reducible apply Holds.upd | intro _ | split | dsimp only

theorem execLinkAcknowledge_holds {ps : Kept} {l : LinkId} {seq : BitVec 32} {s : State} (hq : Holds ps s) :
    Done ps (execLinkAcknowledge l seq s) := by
  unfold execLinkAcknowledge
  dsimp only
  repeat' first
    | with_reducible first
      | assumption | apply Holds.ite | apply State.pump_holds | apply State.setLink_holds | apply Done.next | apply Done.ite
    | fail_if_no_progress with_reducible apply Holds.upd | intro _ | dsimp only

theorem execLinkReplayRequest_holds {ps : Kept} {l : LinkId} {seq : BitVec 32} {s : State} (hq : Holds ps s) :
    Done ps (execLinkReplayRequest l seq s) := by
  unfold execLinkReplayRequest
  dsimp only
  repeat' first
    | with_reducible first
      | assumption | apply Holds.ite | apply State.incFld_holds | apply State.linkDown_holds | apply State.setLink_holds
      | apply Done.next | apply Done.ite
    | fail_if_no_progress with_reducible apply Holds.upd | intro _ | split | dsimp only

theorem execCreditReturn_holds {ps : Kept} {l : LinkId} {vc : BitVec 3} {n : Nat} {s : State} (hq : Holds ps s) :
    Done ps (execCreditReturn l vc n s) := by
  unfold execCreditReturn
  dsimp only
  repeat' first
    | with_reducible first
      | assumption | apply Holds.ite | apply State.pump_holds | apply State.setLink_holds | apply Done.next | apply Done.ite
    | fail_if_no_progress with_reducible apply Holds.upd | intro _ | dsimp only

theorem State.onLink_holds {ps : Kept} {s : State} {l : Nat} {p : FabPkt} (hq : Holds ps s) :
    Holds ps (State.onLink s l p) := by
  unfold State.onLink
  repeat' first
    | with_reducible first
      | assumption | apply Holds.ite | apply State.pump_holds | apply State.setLink_holds
    | fail_if_no_progress with_reducible apply Holds.upd | intro _ | dsimp only

theorem State.loopBack_holds {ps : Kept} {s : State} {p : FabPkt} (hq : Holds ps s) :
    Holds ps (State.loopBack s p) := by
  unfold State.loopBack
  repeat' first
    | with_reducible first
      | assumption | apply Holds.ite | apply State.setLink_holds
    | fail_if_no_progress with_reducible apply Holds.upd | intro _ | dsimp only

theorem State.dropNoRoute_holds {ps : Kept} {s : State} {p : FabPkt} {port : Nat} (hq : Holds ps s) :
    Holds ps (State.dropNoRoute s p port) := by
  unfold State.dropNoRoute
  repeat' first
    | with_reducible first
      | assumption | apply Holds.ite | apply State.incFld_holds | apply State.logDev_holds | apply State.oncePerTide_holds
      | apply State.set1_holds
    | intro _ | dsimp only

theorem State.noteTx_holds {ps : Kept} {s : State} {p : FabPkt} (hq : Holds ps s) :
    Holds ps (State.noteTx s p) := by
  unfold State.noteTx
  repeat' first
    | with_reducible first
      | assumption | apply Holds.ite | apply State.capture_holds | apply State.incFld_holds
    | intro _ | dsimp only

theorem State.diverge_holds {ps : Kept} {s : State} {seq unit field : Nat} (hq : Holds ps s) :
    Holds ps (State.diverge s seq unit field) := by
  unfold State.diverge
  dsimp only
  repeat' first
    | with_reducible first
      | assumption | apply Holds.ite | apply State.incFld_holds | apply State.logDev_holds | apply State.setFld_holds
    | fail_if_no_progress with_reducible apply Holds.upd | intro _ | split | dsimp only

theorem State.repCompare_holds {ps : Kept} {s : State} (hq : Holds ps s) :
    Holds ps (State.repCompare s) := by
  unfold State.repCompare
  dsimp only
  repeat' first
    | with_reducible first
      | assumption | apply Holds.ite | apply State.diverge_holds | apply Holds.foldl | apply Holds.ite1 | apply Holds.foldl1
    | fail_if_no_progress with_reducible apply Holds.upd | intro _ | split | dsimp only

theorem State.repMatch_holds {ps : Kept} {s : State} (hq : Holds ps s) :
    Holds ps (State.repMatch s) := by
  unfold State.repMatch
  repeat' first
    | with_reducible first
      | assumption | apply Holds.ite | apply State.loopBack_holds | apply Holds.foldl | apply Holds.ite1 | apply Holds.foldl1
    | fail_if_no_progress with_reducible apply Holds.upd | intro _ | split | dsimp only

theorem State.repSend_holds {ps : Kept} {s : State} {p : FabPkt} (hq : Holds ps s) :
    Holds ps (State.repSend s p) := by
  unfold State.repSend
  dsimp only
  repeat' first
    | with_reducible first
      | assumption | apply Holds.ite | apply State.repCompare_holds | apply State.repMatch_holds
    | fail_if_no_progress with_reducible apply Holds.upd | intro _ | split | dsimp only

theorem State.sendOut_holds {ps : Kept} {s : State} {p : FabPkt} {lost : State → State} (hq : Holds ps s) (hlost : ∀ x0, Holds ps x0 → Holds ps (lost x0)) :
    Holds ps (State.sendOut s p lost) := by
  unfold State.sendOut
  repeat' first
    | with_reducible first
      | assumption | apply Holds.ite | apply State.captureRx_holds | apply State.dropNoRoute_holds | apply State.incFld_holds
      | apply State.loopBack_holds | apply State.noteTx_holds | apply State.onLink_holds | apply State.repSend_holds
      | apply hlost
    | fail_if_no_progress with_reducible apply Holds.upd | intro _ | split | dsimp only

theorem State.fabPost_holds {ps : Kept} {s : State} {p : FabPkt} (hq : Holds ps s) :
    Holds ps (State.fabPost s p) := by
  unfold State.fabPost
  repeat' first
    | with_reducible first
      | assumption | apply Holds.ite | apply State.sendOut_holds
    | intro _ | dsimp only | rw [id_eq]

theorem State.fabAnswer_holds {ps : Kept} {s : State} {p : FabPkt} {code : Nat} (hq : Holds ps s) :
    Holds ps (State.fabAnswer s p code) := by
  unfold State.fabAnswer
  repeat' first
    | with_reducible first
      | assumption | apply Holds.ite | apply State.fabPost_holds | apply State.incFld_holds
    | intro _ | split | dsimp only

theorem State.setReqs_holds {ps : Kept} {s : State} {rs : List FabReq} (hq : Holds ps s) :
    Holds ps (State.setReqs s rs) := by
  unfold State.setReqs
  repeat' first
    | with_reducible first
      | assumption | apply Holds.ite | apply State.setFld_holds
    | fail_if_no_progress with_reducible apply Holds.upd | intro _ | dsimp only

theorem State.fabSend_holds {ps : Kept} {s : State} {p0 : FabPkt} {cl : Client} (hq : Holds ps s) :
    Holds ps (State.fabSend s p0 cl) := by
  unfold State.fabSend
  dsimp only
  repeat' first
    | with_reducible first
      | assumption | apply Holds.ite | apply State.incFld_holds | apply State.loopBack_holds | apply State.sendOut_holds
      | apply State.setReqs_holds
    | fail_if_no_progress with_reducible apply Holds.upd | intro _ | split | dsimp only

theorem State.rxTake_holds {ps : Kept} {s : State} {l : Nat} {p : FabPkt} (hq : Holds ps s) :
    Holds ps (State.rxTake s l p) := by
  unfold State.rxTake
  dsimp only
  repeat' first
    | with_reducible first
      | assumption | apply Holds.ite | apply State.sendSym_holds | apply State.setLink_holds
    | fail_if_no_progress with_reducible apply Holds.upd | intro _ | split | dsimp only

theorem execPacketForward_holds {ps : Kept} {l : RxId} {vc : BitVec 3} {s : State} (hq : Holds ps s) :
    Done ps (execPacketForward l vc s) := by
  unfold execPacketForward
  dsimp only
  repeat' first
    | with_reducible first
      | assumption | apply Holds.ite | apply State.dropNoRoute_holds | apply State.fabAnswer_holds | apply State.incFld_holds
      | apply State.logDev_holds | apply State.onLink_holds | apply State.oncePerTide_holds | apply State.rxTake_holds
      | apply State.set1_holds | apply Done.next | apply Done.ite
    | fail_if_no_progress with_reducible apply Holds.upd | intro _ | split | dsimp only

theorem State.takeLocal_holds {ps : Kept} {s : State} {l : RxId} {vc : BitVec 3} {opc : Nat} {f : State → FabPkt → State} (hq : Holds ps s) (hf : ∀ x0 x1, Holds ps x0 → Holds ps (f x0 x1)) :
    Holds ps (State.takeLocal s l vc opc f) := by
  unfold State.takeLocal
  dsimp only
  repeat' first
    | with_reducible first
      | assumption | apply Holds.ite | apply State.fabAnswer_holds | apply State.incFld_holds | apply State.rxTake_holds
      | apply State.set1_holds | apply hf
    | fail_if_no_progress with_reducible apply Holds.upd | intro _ | split | dsimp only

theorem State.notePoisonRx_holds {ps : Kept} {s : State} {p : FabPkt} (hq : Holds ps s) :
    Holds ps (State.notePoisonRx s p) := by
  unfold State.notePoisonRx
  dsimp only
  repeat' first
    | with_reducible first
      | assumption | apply Holds.ite | apply State.incFld_holds | apply State.set1_holds
    | intro _ | split | dsimp only | rw [id_eq]

theorem State.lateRsp_holds {ps : Kept} {s : State} (hq : Holds ps s) :
    Holds ps (State.lateRsp s) := by
  unfold State.lateRsp
  repeat' first
    | with_reducible first
      | assumption | apply Holds.ite | apply State.incFld_holds | apply State.set1_holds
    | intro _ | dsimp only

theorem State.dropReq_holds {ps : Kept} {s : State} {r : FabReq} (hq : Holds ps s) :
    Holds ps (State.dropReq s r) := by
  unfold State.dropReq
  repeat' first
    | with_reducible first
      | assumption | apply Holds.ite | apply State.setReqs_holds
    | intro _ | dsimp only

theorem State.fabIdWrite_holds {ps : Kept} {s : State} {v : Word} (hq : Holds ps s) :
    Holds ps (State.fabIdWrite s v) := by
  unfold State.fabIdWrite
  repeat' first
    | with_reducible first
      | assumption | apply Holds.ite | apply State.set1_holds | apply State.setReg_holds
    | intro _ | split | dsimp only

theorem execFabIdWrite_holds {ps : Kept} {v : BitVec 64} {s : State} (hq : Holds ps s) :
    Done ps (execFabIdWrite v s) := by
  unfold execFabIdWrite
  repeat' first
    | with_reducible first
      | assumption | apply Holds.ite | apply State.fabIdWrite_holds | apply Done.next | apply Done.ite
    | intro _ | dsimp only

theorem State.setMcrc_holds {ps : Kept} {s : State} {v : Nat} (hq : Holds ps s) :
    Holds ps (State.setMcrc s v) := by
  unfold State.setMcrc
  repeat' first
    | with_reducible first
      | assumption | apply Holds.ite | apply State.setFld_holds
    | intro _ | dsimp only

theorem State.mcrcFeed_holds {ps : Kept} {s : State} {n v : Nat} (hq : Holds ps s) :
    Holds ps (State.mcrcFeed s n v) := by
  unfold State.mcrcFeed
  repeat' first
    | with_reducible first
      | assumption | apply Holds.ite | apply State.setMcrc_holds
    | intro _ | dsimp only

theorem execFabMcrcData8_holds {ps : Kept} {v : BitVec 32} {s : State} (hq : Holds ps s) :
    Done ps (execFabMcrcData8 v s) := by
  unfold execFabMcrcData8
  repeat' first
    | with_reducible first
      | assumption | apply Holds.ite | apply State.mcrcFeed_holds | apply Done.next | apply Done.ite
    | intro _ | dsimp only

theorem execFabMcrcData16_holds {ps : Kept} {v : BitVec 32} {s : State} (hq : Holds ps s) :
    Done ps (execFabMcrcData16 v s) := by
  unfold execFabMcrcData16
  repeat' first
    | with_reducible first
      | assumption | apply Holds.ite | apply State.mcrcFeed_holds | apply Done.next | apply Done.ite
    | intro _ | dsimp only

theorem execFabMcrcData32_holds {ps : Kept} {v : BitVec 32} {s : State} (hq : Holds ps s) :
    Done ps (execFabMcrcData32 v s) := by
  unfold execFabMcrcData32
  repeat' first
    | with_reducible first
      | assumption | apply Holds.ite | apply State.mcrcFeed_holds | apply Done.next | apply Done.ite
    | intro _ | dsimp only

theorem execFabMcrcInit_holds {ps : Kept} {u_ : BitVec 32} {s : State} (hq : Holds ps s) :
    Done ps (execFabMcrcInit u_ s) := by
  unfold execFabMcrcInit
  repeat' first
    | with_reducible first
      | assumption | apply Holds.ite | apply State.setMcrc_holds | apply Done.next | apply Done.ite
    | intro _ | dsimp only

theorem execFabMcrcValueWrite_holds {ps : Kept} {v : BitVec 32} {s : State} (hq : Holds ps s) :
    Done ps (execFabMcrcValueWrite v s) := by
  unfold execFabMcrcValueWrite
  repeat' first
    | with_reducible first
      | assumption | apply Holds.ite | apply State.setMcrc_holds | apply Done.next | apply Done.ite
    | intro _ | dsimp only

end Sys2Proof.Machine
end

