-- ==== Sys2Proof/Laws/KeepQueue.lean ====
section
/-! SUPPORT. What the operations of Machine/Queue.lean keep. -/
set_option linter.unusedTactic false
set_option linter.unreachableTactic false
set_option linter.unusedVariables false
namespace Sys2Proof.Machine

theorem State.queRefuse_holds {ps : Kept} {s : State} (hq : Holds ps s) :
    Holds ps (State.queRefuse s) := by
  unfold State.queRefuse
  repeat' first
    | with_reducible first
      | assumption | apply Holds.ite | apply State.set1_holds
    | intro _ | dsimp only

theorem State.queueEnable_holds {ps : Kept} {s : State} {q : Nat} (hq : Holds ps s) :
    Holds ps (State.queueEnable s q) := by
  unfold State.queueEnable
  dsimp only
  repeat' first
    | with_reducible first
      | assumption | apply Holds.ite | apply State.noteReads_holds | apply State.queRefuse_holds | apply State.setQueue_holds
    | intro _ | split | dsimp only

theorem execQueueEnable_holds {ps : Kept} {m : Master} {q : BitVec 16} {s : State} (hq : Holds ps s) :
    Done ps (execQueueEnable m q s) := by
  unfold execQueueEnable
  repeat' first
    | with_reducible first
      | assumption | apply Holds.ite | apply State.noteBy_holds | apply State.queueEnable_holds | apply Done.next
      | apply Done.ite
    | intro _ | dsimp only

theorem State.queueDisable_holds {ps : Kept} {s : State} {q : Nat} (hq : Holds ps s) :
    Holds ps (State.queueDisable s q) := by
  unfold State.queueDisable
  repeat' first
    | with_reducible first
      | assumption | apply Holds.ite | apply State.queRefuse_holds | apply State.setQueue_holds
    | fail_if_no_progress with_reducible apply Holds.upd | intro _ | split | dsimp only

theorem execQueueDisable_holds {ps : Kept} {m : Master} {q : BitVec 16} {s : State} (hq : Holds ps s) :
    Done ps (execQueueDisable m q s) := by
  unfold execQueueDisable
  repeat' first
    | with_reducible first
      | assumption | apply Holds.ite | apply State.noteBy_holds | apply State.queueDisable_holds | apply Done.next
      | apply Done.ite
    | intro _ | dsimp only

theorem State.resetAlive_holds {ps : Kept} {s : State} {q : Nat} (hq : Holds ps s) :
    Holds ps (State.resetAlive s q) := by
  unfold State.resetAlive
  dsimp only
  repeat' first
    | with_reducible first
      | assumption | apply Holds.ite | apply State.queRefuse_holds | apply State.setQueue_holds
      | apply State.writeBytes_holds
    | fail_if_no_progress with_reducible apply Holds.upd | intro _ | split | dsimp only

theorem execResetAlive_holds {ps : Kept} {m : Master} {q : BitVec 16} {s : State} (hq : Holds ps s) :
    Done ps (execResetAlive m q s) := by
  unfold execResetAlive
  repeat' first
    | with_reducible first
      | assumption | apply Holds.ite | apply State.noteBy_holds | apply State.resetAlive_holds | apply Done.next
      | apply Done.ite
    | intro _ | dsimp only

theorem State.queueClose_holds {ps : Kept} {s : State} {q : Nat} {x : Queue} (hq : Holds ps s) :
    Holds ps (State.queueClose s q x) := by
  unfold State.queueClose
  repeat' first
    | with_reducible first
      | assumption | apply Holds.ite | apply State.setQueue_holds | apply State.writeBytes_holds
    | intro _ | dsimp only

theorem execQueueDrainEnd_holds {ps : Kept} {q : BitVec 16} {s : State} (hq : Holds ps s) :
    Done ps (execQueueDrainEnd q s) := by
  unfold execQueueDrainEnd
  repeat' first
    | with_reducible first
      | assumption | apply Holds.ite | apply State.queueClose_holds | apply Done.next | apply Done.ite
    | fail_if_no_progress with_reducible apply Holds.upd | intro _ | split | dsimp only

theorem State.sendCredit_holds {ps : Kept} {s : State} {dev qid n : Nat} (hq : Holds ps s) :
    Holds ps (State.sendCredit s dev qid n) := by
  unfold State.sendCredit
  repeat' first
    | with_reducible first
      | assumption | apply Holds.ite | apply State.fabPost_holds | apply State.incFld_holds
    | fail_if_no_progress with_reducible apply Holds.upd | intro _ | split | dsimp only

theorem State.dbTail_holds {ps : Kept} {s : State} {q v : Nat} {x : Queue} (hq : Holds ps s) :
    Holds ps (State.dbTail s q v x) := by
  unfold State.dbTail
  repeat' first
    | with_reducible first
      | assumption | apply Holds.ite | apply State.queRefuse_holds | apply State.setQueue_holds
    | fail_if_no_progress with_reducible apply Holds.upd | intro _ | split | dsimp only

theorem State.dbHead_holds {ps : Kept} {s : State} {q v : Nat} {x : Queue} (hq : Holds ps s) :
    Holds ps (State.dbHead s q v x) := by
  unfold State.dbHead
  dsimp only
  repeat' first
    | with_reducible first
      | assumption | apply Holds.ite | apply State.queRefuse_holds | apply State.sendCredit_holds
      | apply State.setQueue_holds
    | fail_if_no_progress with_reducible apply Holds.upd | intro _ | split | dsimp only

theorem State.doorbell_holds {ps : Kept} {s : State} {q v : Nat} (hq : Holds ps s) :
    Holds ps (State.doorbell s q v) := by
  unfold State.doorbell
  repeat' first
    | with_reducible first
      | assumption | apply Holds.ite | apply State.dbHead_holds | apply State.dbTail_holds | apply State.queRefuse_holds
    | fail_if_no_progress with_reducible apply Holds.upd | intro _ | split | dsimp only

theorem execQueDbTail_holds {ps : Kept} {m : Master} {q : BitVec 16} {v : BitVec 32} {s : State} (hq : Holds ps s) :
    Done ps (execQueDbTail m q v s) := by
  unfold execQueDbTail
  dsimp only
  repeat' first
    | with_reducible first
      | assumption | apply Holds.ite | apply State.dbTail_holds | apply State.noteBy_holds | apply State.queRefuse_holds
      | apply Done.next | apply Done.ite
    | fail_if_no_progress with_reducible apply Holds.upd | intro _ | split | dsimp only

theorem execQueDbHead_holds {ps : Kept} {m : Master} {q : BitVec 16} {v : BitVec 32} {s : State} (hq : Holds ps s) :
    Done ps (execQueDbHead m q v s) := by
  unfold execQueDbHead
  dsimp only
  repeat' first
    | with_reducible first
      | assumption | apply Holds.ite | apply State.dbHead_holds | apply State.noteBy_holds | apply State.queRefuse_holds
      | apply Done.next | apply Done.ite
    | fail_if_no_progress with_reducible apply Holds.upd | intro _ | split | dsimp only

theorem State.qctlWrite_holds {ps : Kept} {s : State} {v : Word} (hq : Holds ps s) :
    Holds ps (State.qctlWrite s v) := by
  unfold State.qctlWrite
  dsimp only
  repeat' first
    | with_reducible first
      | assumption | apply Holds.ite | apply State.queueDisable_holds | apply State.queueEnable_holds
      | apply State.resetAlive_holds
    | fail_if_no_progress with_reducible apply Holds.upd | intro _ | split | dsimp only

theorem State.ctxBaseWrite_holds {ps : Kept} {s : State} {v : Word} (hq : Holds ps s) :
    Holds ps (State.ctxBaseWrite s v) := by
  unfold State.ctxBaseWrite
  repeat' first
    | with_reducible first
      | assumption | apply Holds.ite | apply State.queRefuse_holds | apply State.setReg_holds
    | intro _ | split | dsimp only

end Sys2Proof.Machine
end

