-- ==== Sys2Proof/Laws/KeepGreCtl.lean ====
section
/-! SUPPORT. What the operations of Machine/GreCtl.lean keep. -/
set_option linter.unusedTactic false
set_option linter.unreachableTactic false
set_option linter.unusedVariables false
namespace Sys2Proof.Machine

theorem State.grePay_holds {ps : Kept} {s : State} {b : GreBucket} {flags : Nat} (hq : Holds ps s) :
    Holds ps (State.grePay s b flags) := by
  unfold State.grePay
  repeat' first
    | with_reducible first
      | assumption | apply Holds.ite | apply State.postDone_holds
    | intro _ | split | dsimp only

theorem State.greDrop_holds {ps : Kept} {s : State} {b : GreBucket} (hq : Holds ps s) :
    Holds ps (State.greDrop s b) := by
  unfold State.greDrop
  repeat' first
    | with_reducible first
      | assumption | apply Holds.ite | apply State.setBuckets_holds
    | intro _ | dsimp only

theorem State.greToken_holds {ps : Kept} {s : State} {b : GreBucket} {flags : Nat} (hq : Holds ps s) :
    Holds ps (State.greToken s b flags) := by
  unfold State.greToken
  repeat' first
    | with_reducible first
      | assumption | apply Holds.ite | apply State.greDrop_holds | apply State.grePay_holds
    | intro _ | dsimp only

theorem State.greFinish_holds {ps : Kept} {s : State} {b : GreBucket} {flags : Nat} (hq : Holds ps s) :
    Holds ps (State.greFinish s b flags) := by
  unfold State.greFinish
  repeat' first
    | with_reducible first
      | assumption | apply Holds.ite | apply State.grePay_holds | apply State.greToken_holds | apply State.setBuckets_holds
    | fail_if_no_progress with_reducible apply Holds.upd | intro _ | split | dsimp only

theorem State.greCounted_holds {ps : Kept} {s : State} {b : GreBucket} (hq : Holds ps s) :
    Holds ps (State.greCounted s b) := by
  unfold State.greCounted
  repeat' first
    | with_reducible first
      | assumption | apply Holds.ite | apply State.incFld_holds | apply State.setFld_holds
    | intro _ | dsimp only

theorem State.greDone_holds {ps : Kept} {s : State} {b : GreBucket} {flags : Nat} (hq : Holds ps s) :
    Holds ps (State.greDone s b flags) := by
  unfold State.greDone
  repeat' first
    | with_reducible first
      | assumption | apply Holds.ite | apply State.greCounted_holds | apply State.greToken_holds
    | intro _ | dsimp only

theorem State.greFail_holds {ps : Kept} {s : State} {c : Nat} (hq : Holds ps s) :
    Holds ps (State.greFail s c) := by
  unfold State.greFail
  repeat' first
    | with_reducible first
      | assumption | apply Holds.ite | apply State.greDone_holds | apply State.setBuckets_holds | apply Holds.foldl
      | apply Holds.ite1 | apply Holds.foldl1
    | intro _ | dsimp only

theorem State.greChanError_holds {ps : Kept} {s : State} {c kind link seq : Nat} (hq : Holds ps s) :
    Holds ps (State.greChanError s c kind link seq) := by
  unfold State.greChanError
  dsimp only
  repeat' first
    | with_reducible first
      | assumption | apply Holds.ite | apply State.greFail_holds | apply State.logDeliv_holds | apply State.set1_holds
      | apply State.setFld_holds
    | intro _ | split | dsimp only

theorem State.greQueueError_holds {ps : Kept} {s : State} {q : Nat} (hq : Holds ps s) :
    Holds ps (State.greQueueError s q) := by
  unfold State.greQueueError
  repeat' first
    | with_reducible first
      | assumption | apply Holds.ite | apply State.greChanError_holds
    | fail_if_no_progress with_reducible apply Holds.upd | intro _ | split | refine Holds.pair (by with_reducible assumption) ?_ | dsimp only

theorem State.greAcked_holds {ps : Kept} {s : State} {c seq : Nat} (hq : Holds ps s) :
    Holds ps (State.greAcked s c seq) := by
  unfold State.greAcked
  repeat' first
    | with_reducible first
      | assumption | apply Holds.ite | apply State.setBucket_holds
    | fail_if_no_progress with_reducible apply Holds.upd | intro _ | split | dsimp only

theorem State.greRefuse_holds {ps : Kept} {s : State} (hq : Holds ps s) :
    Holds ps (State.greRefuse s) := by
  unfold State.greRefuse
  repeat' first
    | with_reducible first
      | assumption | apply Holds.ite | apply State.set1_holds
    | intro _ | dsimp only

theorem State.greEnable_holds {ps : Kept} {s : State} {c : Nat} {v : Word} (hq : Holds ps s) :
    Holds ps (State.greEnable s c v) := by
  unfold State.greEnable
  dsimp only
  repeat' first
    | with_reducible first
      | assumption | apply Holds.ite | apply State.greChanError_holds | apply State.greRefuse_holds
      | apply State.setReg_holds
    | fail_if_no_progress with_reducible apply Holds.upd | intro _ | split | dsimp only

theorem State.greDisable_holds {ps : Kept} {s : State} {c : Nat} (hq : Holds ps s) :
    Holds ps (State.greDisable s c) := by
  unfold State.greDisable
  repeat' first
    | with_reducible first
      | assumption | apply Holds.ite | apply State.greFail_holds | apply State.setFld_holds
    | intro _ | dsimp only

theorem State.greCfgWrite_holds {ps : Kept} {s : State} {c : Nat} {v : Word} (hq : Holds ps s) :
    Holds ps (State.greCfgWrite s c v) := by
  unfold State.greCfgWrite
  repeat' first
    | with_reducible first
      | assumption | apply Holds.ite | apply State.greDisable_holds | apply State.greEnable_holds | apply State.setReg_holds
    | intro _ | split | dsimp only

theorem State.greLinkWrite_holds {ps : Kept} {s : State} {c : Nat} {v : Word} (hq : Holds ps s) :
    Holds ps (State.greLinkWrite s c v) := by
  unfold State.greLinkWrite
  repeat' first
    | with_reducible first
      | assumption | apply Holds.ite | apply State.greRefuse_holds | apply State.setReg_holds
    | intro _ | split | dsimp only

theorem State.greInitWrite_holds {ps : Kept} {s : State} {c : Nat} {v : Word} (hq : Holds ps s) :
    Holds ps (State.greInitWrite s c v) := by
  unfold State.greInitWrite
  repeat' first
    | with_reducible first
      | assumption | apply Holds.ite | apply State.greRefuse_holds | apply State.setReg_holds
    | intro _ | split | dsimp only

theorem execGreChanEnable_holds {ps : Kept} {m : Master} {c : Fin 256} {v : BitVec 64} {s : State} (hq : Holds ps s) :
    Done ps (execGreChanEnable m c v s) := by
  unfold execGreChanEnable
  dsimp only
  repeat' first
    | with_reducible first
      | assumption | apply Holds.ite | apply State.greEnable_holds | apply State.noteBy_holds | apply Done.next
      | apply Done.ite
    | intro _ | split | dsimp only

theorem execGreChanDisable_holds {ps : Kept} {m : Master} {c : Fin 256} {v : BitVec 64} {s : State} (hq : Holds ps s) :
    Done ps (execGreChanDisable m c v s) := by
  unfold execGreChanDisable
  dsimp only
  repeat' first
    | with_reducible first
      | assumption | apply Holds.ite | apply State.greDisable_holds | apply State.noteBy_holds | apply Done.next
      | apply Done.ite
    | intro _ | split | dsimp only

end Sys2Proof.Machine
end

