-- ==== Sys2Proof/Laws/KeepPower.lean ====
section
/-! SUPPORT. What the operations of Machine/Power.lean keep. -/
set_option linter.unusedTactic false
set_option linter.unreachableTactic false
set_option linter.unusedVariables false
namespace Sys2Proof.Machine

theorem State.capUpdate_holds {ps : Kept} {s : State} (hq : Holds ps s) :
    Holds ps (State.capUpdate s) := by
  unfold State.capUpdate
  repeat' first
    | with_reducible first
      | assumption | apply Holds.ite | apply State.setFld_holds
    | intro _ | dsimp only

theorem State.pwrTime_holds {ps : Kept} {s : State} {time : Nat} (hq : Holds ps s) :
    Holds ps (State.pwrTime s time) := by
  unfold State.pwrTime
  dsimp only
  repeat' first
    | with_reducible first
      | assumption | apply Holds.ite | apply State.incFld_holds | apply Holds.foldl | apply Holds.ite1 | apply Holds.foldl1
    | fail_if_no_progress with_reducible apply Holds.upd | intro _ | split | dsimp only

theorem State.addReason_holds {ps : Kept} {s : State} {r : Nat} (hq : Holds ps s) :
    Holds ps (State.addReason s r) := by
  unfold State.addReason
  repeat' first
    | with_reducible first
      | assumption | apply Holds.ite | apply State.orFld_holds
    | fail_if_no_progress with_reducible apply Holds.upd | intro _ | dsimp only

theorem State.dropReason_holds {ps : Kept} {s : State} {r : Nat} (hq : Holds ps s) :
    Holds ps (State.dropReason s r) := by
  unfold State.dropReason
  repeat' first
    | with_reducible first
      | assumption | apply Holds.ite
    | fail_if_no_progress with_reducible apply Holds.upd | intro _ | dsimp only

theorem State.levelBreach_holds {ps : Kept} {s : State} (hq : Holds ps s) :
    Holds ps (State.levelBreach s) := by
  unfold State.levelBreach
  dsimp only
  repeat' first
    | with_reducible first
      | assumption | apply Holds.ite | apply State.logDeliv_holds | apply State.set1_holds
    | fail_if_no_progress with_reducible apply Holds.upd | intro _ | split | dsimp only

theorem State.forceFreq_holds {ps : Kept} {s : State} {f : Nat} (hq : Holds ps s) :
    Holds ps (State.forceFreq s f) := by
  unfold State.forceFreq
  repeat' first
    | with_reducible first
      | assumption | apply Holds.ite | apply State.setFld_holds
    | fail_if_no_progress with_reducible apply Holds.upd | intro _ | dsimp only

theorem State.slew_holds {ps : Kept} {s : State} (hq : Holds ps s) :
    Holds ps (State.slew s) := by
  unfold State.slew
  repeat' first
    | with_reducible first
      | assumption | apply Holds.ite | apply State.setRails_holds
    | intro _ | dsimp only

theorem execFrequencyIncreaseApply_holds {ps : Kept} {s : State} (hq : Holds ps s) :
    Done ps (execFrequencyIncreaseApply s) := by
  unfold execFrequencyIncreaseApply
  repeat' first
    | with_reducible first
      | assumption | apply Holds.ite | apply State.forceFreq_holds | apply Done.next | apply Done.ite
    | fail_if_no_progress with_reducible apply Holds.upd | intro _ | split | dsimp only

theorem execPwrControlInterval_holds {ps : Kept} {time : Nat} {s : State} (hq : Holds ps s) :
    Done ps (execPwrControlInterval time s) := by
  unfold execPwrControlInterval
  dsimp only
  repeat' first
    | with_reducible first
      | assumption | apply Holds.ite | apply State.forceFreq_holds | apply State.levelBreach_holds
      | apply State.pwrTime_holds | apply State.setFld_holds | apply Done.next | apply Done.ite
    | fail_if_no_progress with_reducible apply Holds.upd | intro _ | split | dsimp only

theorem State.tileEnergy_holds {ps : Kept} {s : State} {t pj : Nat} (hq : Holds ps s) :
    Holds ps (State.tileEnergy s t pj) := by
  unfold State.tileEnergy
  dsimp only
  repeat' first
    | with_reducible first
      | assumption | apply Holds.ite | apply State.incFld_holds
    | fail_if_no_progress with_reducible apply Holds.upd | intro _ | dsimp only

theorem State.estimate_holds {ps : Kept} {s : State} {p : PwrSample} (hq : Holds ps s) :
    Holds ps (State.estimate s p) := by
  unfold State.estimate
  dsimp only
  repeat' first
    | with_reducible first
      | assumption | apply Holds.ite | apply State.incFld_holds | apply State.tileEnergy_holds | apply Holds.foldl
      | apply Holds.ite1 | apply Holds.foldl1
    | fail_if_no_progress with_reducible apply Holds.upd | intro _ | dsimp only

theorem State.entryTick_holds {ps : Kept} {s : State} (hq : Holds ps s) :
    Holds ps (State.entryTick s) := by
  unfold State.entryTick
  repeat' first
    | with_reducible first
      | assumption | apply Holds.ite | apply State.entryTo_holds
    | fail_if_no_progress with_reducible apply Holds.upd | intro _ | split | dsimp only

theorem execPwrActivityEstimate_holds {ps : Kept} {p : PwrSample} {s : State} (hq : Holds ps s) :
    Done ps (execPwrActivityEstimate p s) := by
  unfold execPwrActivityEstimate
  dsimp only
  repeat' first
    | with_reducible first
      | assumption | apply Holds.ite | apply State.addReason_holds | apply State.entryTick_holds | apply State.estimate_holds
      | apply State.forceFreq_holds | apply State.levelBreach_holds | apply State.pwrTime_holds | apply State.slew_holds
      | apply Done.next | apply Done.ite
    | intro _ | split | dsimp only

theorem execPwrCalibration_holds {ps : Kept} {s : State} (hq : Holds ps s) :
    Done ps (execPwrCalibration s) := by
  unfold execPwrCalibration
  dsimp only
  repeat' first
    | with_reducible first
      | assumption | apply Holds.ite | apply State.logDeliv_holds | apply State.set1_holds | apply State.setFld_holds
      | apply Holds.foldl | apply Holds.ite1 | apply Holds.foldl1 | apply Done.next | apply Done.ite
    | fail_if_no_progress with_reducible apply Holds.upd | intro _ | split | dsimp only

theorem execJunctionStep_holds {ps : Kept} {temps : List Nat} {s : State} (hq : Holds ps s) :
    Done ps (execJunctionStep temps s) := by
  unfold execJunctionStep
  dsimp only
  repeat' first
    | with_reducible first
      | assumption | apply Holds.ite | apply State.addReason_holds | apply State.forceFreq_holds
      | apply State.levelBreach_holds | apply State.logDeliv_holds | apply State.set1_holds | apply State.setFld_holds
      | apply Holds.foldl | apply Holds.ite1 | apply Holds.foldl1 | apply Done.next | apply Done.ite
    | fail_if_no_progress with_reducible apply Holds.upd | intro _ | split | dsimp only

theorem execCoolantSample_holds {ps : Kept} {inlet outlet : Nat} {s : State} (hq : Holds ps s) :
    Done ps (execCoolantSample inlet outlet s) := by
  unfold execCoolantSample
  dsimp only
  repeat' first
    | with_reducible first
      | assumption | apply Holds.ite | apply State.capUpdate_holds | apply State.logDeliv_holds | apply State.setFld_holds
      | apply Done.next | apply Done.ite
    | fail_if_no_progress with_reducible apply Holds.upd | intro _ | split | dsimp only

theorem execDroopTrip_holds {ps : Kept} {die : Fin 4} {supply time : Nat} {s : State} (hq : Holds ps s) :
    Done ps (execDroopTrip die supply time s) := by
  unfold execDroopTrip
  dsimp only
  repeat' first
    | with_reducible first
      | assumption | apply Holds.ite | apply State.addReason_holds | apply State.pwrTime_holds | apply Done.next
      | apply Done.ite
    | fail_if_no_progress with_reducible apply Holds.upd | intro _ | split | dsimp only

theorem execDroopStretchEnd_holds {ps : Kept} {die : Fin 4} {supplies : List Nat} {time : Nat} {s : State} (hq : Holds ps s) :
    Done ps (execDroopStretchEnd die supplies time s) := by
  unfold execDroopStretchEnd
  dsimp only
  repeat' first
    | with_reducible first
      | assumption | apply Holds.ite | apply State.dropReason_holds | apply State.pwrTime_holds | apply Done.next
      | apply Done.ite
    | fail_if_no_progress with_reducible apply Holds.upd | intro _ | split | dsimp only

theorem execPwrBrake_holds {ps : Kept} {time : Nat} {s : State} (hq : Holds ps s) :
    Done ps (execPwrBrake time s) := by
  unfold execPwrBrake
  dsimp only
  repeat' first
    | with_reducible first
      | assumption | apply Holds.ite | apply State.addReason_holds | apply State.forceFreq_holds
      | apply State.levelBreach_holds | apply State.logDeliv_holds | apply State.pwrTime_holds | apply State.set1_holds
      | apply State.takeFresh_holds | apply Done.next | apply Done.ite
    | intro _ | split | dsimp only

theorem execPwrBrakeRelease_holds {ps : Kept} {time : Nat} {s : State} (hq : Holds ps s) :
    Done ps (execPwrBrakeRelease time s) := by
  unfold execPwrBrakeRelease
  dsimp only
  repeat' first
    | with_reducible first
      | assumption | apply Holds.ite | apply State.dropReason_holds | apply State.pwrTime_holds | apply State.setFld_holds
      | apply Done.next | apply Done.ite
    | intro _ | split | dsimp only

theorem State.pwrRefuse_holds {ps : Kept} {s : State} (hq : Holds ps s) :
    Holds ps (State.pwrRefuse s) := by
  unfold State.pwrRefuse
  repeat' first
    | with_reducible first
      | assumption | apply Holds.ite | apply State.set1_holds
    | intro _ | dsimp only

theorem State.pwrCtl_holds {ps : Kept} {s : State} {v : Word} (hq : Holds ps s) :
    Holds ps (State.pwrCtl s v) := by
  unfold State.pwrCtl
  dsimp only
  repeat' first
    | with_reducible first
      | assumption | apply Holds.ite | apply State.capUpdate_holds | apply State.pwrRefuse_holds | apply State.setReg_holds
    | fail_if_no_progress with_reducible apply Holds.upd | intro _ | split | dsimp only

theorem execPwrCtlWrite_holds {ps : Kept} {v : BitVec 64} {s : State} (hq : Holds ps s) :
    Done ps (execPwrCtlWrite v s) := by
  unfold execPwrCtlWrite
  repeat' first
    | with_reducible first
      | assumption | apply Holds.ite | apply State.pwrCtl_holds | apply Done.next | apply Done.ite
    | intro _ | dsimp only

theorem State.pwrHostWrite_holds {ps : Kept} {s : State} {v : Word} (hq : Holds ps s) :
    Holds ps (State.pwrHostWrite s v) := by
  unfold State.pwrHostWrite
  repeat' first
    | with_reducible first
      | assumption | apply Holds.ite | apply State.pwrRefuse_holds | apply State.setFld_holds
    | intro _ | split | dsimp only

theorem State.pwrStateWrite_holds {ps : Kept} {s : State} {v : Word} (hq : Holds ps s) :
    Holds ps (State.pwrStateWrite s v) := by
  unfold State.pwrStateWrite
  dsimp only
  repeat' first
    | with_reducible first
      | assumption | apply Holds.ite | apply State.pwrRefuse_holds | apply State.setFld_holds
    | intro _ | split | dsimp only

theorem State.qenergyWrite_holds {ps : Kept} {s : State} {v : Word} (hq : Holds ps s) :
    Holds ps (State.qenergyWrite s v) := by
  unfold State.qenergyWrite
  repeat' first
    | with_reducible first
      | assumption | apply Holds.ite | apply State.pwrRefuse_holds | apply State.setReg_holds
    | intro _ | split | dsimp only

theorem State.grpCtlWrite_holds {ps : Kept} {s : State} {v : Word} (hq : Holds ps s) :
    Holds ps (State.grpCtlWrite s v) := by
  unfold State.grpCtlWrite
  repeat' first
    | with_reducible first
      | assumption | apply Holds.ite | apply State.pwrRefuse_holds | apply State.setReg_holds
    | intro _ | split | dsimp only

theorem State.grpCfgWrite_holds {ps : Kept} {s : State} {v : Word} (hq : Holds ps s) :
    Holds ps (State.grpCfgWrite s v) := by
  unfold State.grpCfgWrite
  repeat' first
    | with_reducible first
      | assumption | apply Holds.ite | apply State.pwrRefuse_holds | apply State.setReg_holds
    | intro _ | split | dsimp only

theorem State.moveWrite_holds {ps : Kept} {s : State} {w : Nat} {v : Word} (hq : Holds ps s) :
    Holds ps (State.moveWrite s w v) := by
  unfold State.moveWrite
  dsimp only
  repeat' first
    | with_reducible first
      | assumption | apply Holds.ite | apply State.setReg_holds
    | fail_if_no_progress with_reducible apply Holds.upd | intro _ | split | dsimp only

theorem State.ackWrite_holds {ps : Kept} {s : State} {i : Nat} {v : Word} (hq : Holds ps s) :
    Holds ps (State.ackWrite s i v) := by
  unfold State.ackWrite
  dsimp only
  repeat' first
    | with_reducible first
      | assumption | apply Holds.ite | apply State.setReg_holds
    | fail_if_no_progress with_reducible apply Holds.upd | intro _ | dsimp only

theorem State.budgetSend_holds {ps : Kept} {s : State} {dev addr : Nat} {ws : List Nat} {here : State → State} (hq : Holds ps s) (hhere : ∀ x0, Holds ps x0 → Holds ps (here x0)) :
    Holds ps (State.budgetSend s dev addr ws here) := by
  unfold State.budgetSend
  dsimp only
  repeat' first
    | with_reducible first
      | assumption | apply Holds.ite | apply State.fabSend_holds | apply hhere
    | fail_if_no_progress with_reducible apply Holds.upd | intro _ | split | dsimp only

theorem State.budgetReport_holds {ps : Kept} {s : State} {t : Nat} (hq : Holds ps s) :
    Holds ps (State.budgetReport s t) := by
  unfold State.budgetReport
  dsimp only
  repeat' first
    | with_reducible first
      | assumption | apply Holds.ite | apply State.budgetSend_holds | apply State.setReg_holds | apply Holds.foldl
      | apply Holds.ite1 | apply Holds.foldl1
    | intro _ | dsimp only

theorem State.budgetAck_holds {ps : Kept} {s : State} {round : Nat} (hq : Holds ps s) :
    Holds ps (State.budgetAck s round) := by
  unfold State.budgetAck
  dsimp only
  repeat' first
    | with_reducible first
      | assumption | apply Holds.ite | apply State.ackWrite_holds | apply State.budgetSend_holds
    | intro _ | dsimp only

theorem State.applyMove_holds {ps : Kept} {s : State} {m : PwrMove} (hq : Holds ps s) :
    Holds ps (State.applyMove s m) := by
  unfold State.applyMove
  dsimp only
  repeat' first
    | with_reducible first
      | assumption | apply Holds.ite | apply State.budgetAck_holds | apply State.capUpdate_holds | apply State.setFld_holds
    | fail_if_no_progress with_reducible apply Holds.upd | intro _ | dsimp only

theorem State.sendMove_holds {ps : Kept} {s : State} {i cap teff seq kind : Nat} (hq : Holds ps s) :
    Holds ps (State.sendMove s i cap teff seq kind) := by
  unfold State.sendMove
  dsimp only
  repeat' first
    | with_reducible first
      | assumption | apply Holds.ite | apply State.budgetSend_holds | apply State.moveWrite_holds | apply Holds.foldl
      | apply Holds.ite1 | apply Holds.foldl1
    | intro _ | dsimp only

theorem State.roundIncrease_holds {ps : Kept} {s : State} (hq : Holds ps s) :
    Holds ps (State.roundIncrease s) := by
  unfold State.roundIncrease
  dsimp only
  repeat' first
    | with_reducible first
      | assumption | apply Holds.ite | apply State.sendMove_holds | apply Holds.foldl | apply Holds.ite1 | apply Holds.foldl1
    | fail_if_no_progress with_reducible apply Holds.upd | intro _ | split | dsimp only

theorem execBudgetRound_holds {ps : Kept} {s : State} (hq : Holds ps s) :
    Done ps (execBudgetRound s) := by
  unfold execBudgetRound
  dsimp only
  repeat' first
    | with_reducible first
      | assumption | apply Holds.ite | apply State.roundIncrease_holds | apply State.sendMove_holds | apply Holds.foldl
      | apply Holds.ite1 | apply Holds.foldl1 | apply Done.next | apply Done.ite
    | fail_if_no_progress with_reducible apply Holds.upd | intro _ | split | dsimp only

theorem State.moveHeard_holds {ps : Kept} {s : State} (hq : Holds ps s) :
    Holds ps (State.moveHeard s) := by
  unfold State.moveHeard
  repeat' first
    | with_reducible first
      | assumption | apply Holds.ite
    | fail_if_no_progress with_reducible apply Holds.upd | intro _ | dsimp only

theorem execBudgetDecreaseRx_holds {ps : Kept} {s : State} (hq : Holds ps s) :
    Done ps (execBudgetDecreaseRx s) := by
  unfold execBudgetDecreaseRx
  dsimp only
  repeat' first
    | with_reducible first
      | assumption | apply Holds.ite | apply State.applyMove_holds | apply State.moveHeard_holds | apply Done.next
      | apply Done.ite
    | fail_if_no_progress with_reducible apply Holds.upd | intro _ | split | refine Holds.pair (by with_reducible assumption) ?_ | dsimp only

theorem execBudgetIncreaseRx_holds {ps : Kept} {s : State} (hq : Holds ps s) :
    Done ps (execBudgetIncreaseRx s) := by
  unfold execBudgetIncreaseRx
  dsimp only
  repeat' first
    | with_reducible first
      | assumption | apply Holds.ite | apply State.budgetAck_holds | apply State.incFld_holds | apply State.logDeliv_holds
      | apply State.moveHeard_holds | apply State.set1_holds | apply Done.next | apply Done.ite
    | fail_if_no_progress with_reducible apply Holds.upd | intro _ | split | refine Holds.pair (by with_reducible assumption) ?_ | dsimp only

theorem execBudgetHoldRx_holds {ps : Kept} {s : State} (hq : Holds ps s) :
    Done ps (execBudgetHoldRx s) := by
  unfold execBudgetHoldRx
  dsimp only
  repeat' first
    | with_reducible first
      | assumption | apply Holds.ite | apply State.budgetAck_holds | apply State.moveHeard_holds | apply Done.next
      | apply Done.ite
    | intro _ | split | refine Holds.pair (by with_reducible assumption) ?_ | dsimp only

theorem execBudgetAckRx_holds {ps : Kept} {i : Fin 256} {s : State} (hq : Holds ps s) :
    Done ps (execBudgetAckRx i s) := by
  unfold execBudgetAckRx
  dsimp only
  repeat' first
    | with_reducible first
      | assumption | apply Holds.ite | apply State.roundIncrease_holds | apply Done.next | apply Done.ite
    | fail_if_no_progress with_reducible apply Holds.upd | intro _ | split | dsimp only

theorem execBudgetMasterLost_holds {ps : Kept} {s : State} (hq : Holds ps s) :
    Done ps (execBudgetMasterLost s) := by
  unfold execBudgetMasterLost
  dsimp only
  repeat' first
    | with_reducible first
      | assumption | apply Holds.ite | apply State.capUpdate_holds | apply State.logDeliv_holds | apply State.set1_holds
      | apply Done.next | apply Done.ite
    | fail_if_no_progress with_reducible apply Holds.upd | intro _ | split | dsimp only

theorem State.queEnergy_holds {ps : Kept} {s : State} {q : Nat} {bytes : List Nat} (hq : Holds ps s) :
    Holds ps (State.queEnergy s q bytes) := by
  unfold State.queEnergy
  dsimp only
  repeat' first
    | with_reducible first
      | assumption | apply Holds.ite | apply State.devWrite_holds
    | fail_if_no_progress with_reducible apply Holds.upd | intro _ | dsimp only

theorem State.pwrTide_holds {ps : Kept} {s : State} {d : Nat} (hq : Holds ps s) :
    Holds ps (State.pwrTide s d) := by
  unfold State.pwrTide
  dsimp only
  repeat' first
    | with_reducible first
      | assumption | apply Holds.ite | apply State.applyMove_holds | apply State.budgetReport_holds
      | apply State.queEnergy_holds | apply Holds.foldl | apply Holds.ite1 | apply Holds.foldl1
    | fail_if_no_progress with_reducible apply Holds.upd | intro _ | split | dsimp only

theorem execPwrStateEnter_holds {ps : Kept} {wake : Bool} {s : State} (hq : Holds ps s) :
    Done ps (execPwrStateEnter wake s) := by
  unfold execPwrStateEnter
  dsimp only
  repeat' first
    | with_reducible first
      | assumption | apply Holds.ite | apply State.logDeliv_holds | apply State.set1_holds | apply State.setFld_holds
      | apply State.wake_holds | apply Done.next | apply Done.ite
    | fail_if_no_progress with_reducible apply Holds.upd | intro _ | split | dsimp only

theorem execLowPowerEntryComplete_holds {ps : Kept} {s : State} (hq : Holds ps s) :
    Done ps (execLowPowerEntryComplete s) := by
  unfold execLowPowerEntryComplete
  dsimp only
  repeat' first
    | with_reducible first
      | assumption | apply Holds.ite | apply State.askL1_holds | apply State.entryTo_holds | apply State.setFld_holds
      | apply Done.next | apply Done.ite
    | fail_if_no_progress with_reducible apply Holds.upd | intro _ | split | dsimp only

theorem execPowerWake_holds {ps : Kept} {causes : BitVec 9} {detail : BitVec 8} {s : State} (hq : Holds ps s) :
    Done ps (execPowerWake causes detail s) := by
  unfold execPowerWake
  dsimp only
  repeat' first
    | with_reducible first
      | assumption | apply Holds.ite | apply State.wake_holds | apply Done.next | apply Done.ite
    | intro _ | split | dsimp only

theorem execWatchSample_holds {ps : Kept} {w : WatchData} {s : State} (hq : Holds ps s) :
    Done ps (execWatchSample w s) := by
  unfold execWatchSample
  dsimp only
  repeat' first
    | with_reducible first
      | assumption | apply Holds.ite | apply State.wake_holds | apply Done.next | apply Done.ite
    | intro _ | split | dsimp only

end Sys2Proof.Machine
end

