-- ==== Sys2Proof/Laws/KeepMailbox.lean ====
section
/-! SUPPORT. What the operations of Machine/Mailbox.lean keep. -/
set_option linter.unusedTactic false
set_option linter.unreachableTactic false
set_option linter.unusedVariables false
namespace Sys2Proof.Machine

theorem State.flushVector_holds {ps : Kept} {s : State} {v : Nat} (hq : Holds ps s) :
    Holds ps (State.flushVector s v) := by
  unfold State.flushVector
  repeat' first
    | with_reducible first
      | assumption | apply Holds.ite | apply State.sendVector_holds | apply State.setReg_holds
    | intro _ | split | dsimp only

theorem State.flushVectors_holds {ps : Kept} {s : State} (hq : Holds ps s) :
    Holds ps (State.flushVectors s) := by
  unfold State.flushVectors
  repeat' first
    | with_reducible first
      | assumption | apply Holds.ite | apply State.flushVector_holds | apply Holds.foldl | apply Holds.ite1
      | apply Holds.foldl1
    | intro _ | dsimp only

theorem State.msixWrite_holds {ps : Kept} {s : State} {v w : Nat} {x : Word} (hq : Holds ps s) :
    Holds ps (State.msixWrite s v w x) := by
  unfold State.msixWrite
  repeat' first
    | with_reducible first
      | assumption | apply Holds.ite | apply State.flushVector_holds | apply State.setReg_holds
    | intro _ | split | dsimp only

theorem execMsixPendingSend_holds {ps : Kept} {v : Fin 64} {s : State} (hq : Holds ps s) :
    Done ps (execMsixPendingSend v s) := by
  unfold execMsixPendingSend
  repeat' first
    | with_reducible first
      | assumption | apply Holds.ite | apply State.flushVector_holds | apply Done.next | apply Done.ite
    | intro _ | dsimp only

theorem State.ring_holds {ps : Kept} {s : State} {a c : Nat} (hq : Holds ps s) :
    Holds ps (State.ring s a c) := by
  unfold State.ring
  dsimp only
  repeat' first
    | with_reducible first
      | assumption | apply Holds.ite | apply State.setReg_holds | apply State.signal_holds
    | intro _ | split | dsimp only

theorem State.dbMaskWrite_holds {ps : Kept} {s : State} {a : Nat} {v : Word} (hq : Holds ps s) :
    Holds ps (State.dbMaskWrite s a v) := by
  unfold State.dbMaskWrite
  dsimp only
  repeat' first
    | with_reducible first
      | assumption | apply Holds.ite | apply State.setReg_holds | apply State.signal_holds | apply Holds.foldl
      | apply Holds.ite1 | apply Holds.foldl1
    | intro _ | split | dsimp only

theorem State.mbStore_holds {ps : Kept} {s : State} {c o : Nat} {bs : List Byte} {bad : Bool} (h : Holds ps s) :
    Holds ps (s.mbStore c o bs bad) := by
  refine ⟨h.1, fun hc => ?_⟩
  obtain ⟨k0, k1, k2, k3, k4, k5, k6, k7, k8, k9, k10, k11, k12, k13, k14, k15, k16, k17, k18, k19, k20⟩ := h.2 hc
  exact ⟨k0, k1, k2, k3, k4, k5, k6, k7, k8, k9, k10, k11, k12, k13, k14, k15, Store.wf_foldl _ (fun _ _ h => Store.wf_put _ _ _ _ h) k16, k17, Store.wf_foldl _ (fun _ _ h => Store.wf_put _ _ _ _ h) k18, k19, k20⟩

theorem State.mbPut_holds {ps : Kept} {s : State} {c o : Nat} {bs : List Byte} (hq : Holds ps s) :
    Holds ps (State.mbPut s c o bs) := by
  unfold State.mbPut
  repeat' first
    | with_reducible first
      | assumption | apply Holds.ite | apply State.mbStore_holds
    | intro _ | dsimp only

theorem State.mbReply_holds {ps : Kept} {s : State} {c status detail : Nat} {payload : List Byte} (hq : Holds ps s) :
    Holds ps (State.mbReply s c status detail payload) := by
  unfold State.mbReply
  repeat' first
    | with_reducible first
      | assumption | apply Holds.ite | apply State.mbPut_holds
    | intro _ | dsimp only

theorem State.mbClearReply_holds {ps : Kept} {s : State} {c : Nat} (hq : Holds ps s) :
    Holds ps (State.mbClearReply s c) := by
  unfold State.mbClearReply
  repeat' first
    | with_reducible first
      | assumption | apply Holds.ite | apply State.mbPut_holds
    | intro _ | dsimp only

theorem State.mgmtReply_holds {ps : Kept} {s : State} {c dev tag : Nat} {bs : List Byte} (hq : Holds ps s) :
    Holds ps (State.mgmtReply s c dev tag bs) := by
  unfold State.mgmtReply
  repeat' first
    | with_reducible first
      | assumption | apply Holds.ite | apply State.fabPost_holds
    | fail_if_no_progress with_reducible apply Holds.upd | intro _ | dsimp only

theorem State.chDone_holds {ps : Kept} {s : State} {c : Nat} (hq : Holds ps s) :
    Holds ps (State.chDone s c) := by
  unfold State.chDone
  dsimp only
  repeat' first
    | with_reducible first
      | assumption | apply Holds.ite | apply State.mgmtReply_holds | apply State.ring_holds | apply State.setFld_holds
    | fail_if_no_progress with_reducible apply Holds.upd | intro _ | split | dsimp only

theorem State.chSend_holds {ps : Kept} {s : State} {c : Nat} (hq : Holds ps s) :
    Holds ps (State.chSend s c) := by
  unfold State.chSend
  dsimp only
  repeat' first
    | with_reducible first
      | assumption | apply Holds.ite | apply State.capture_holds | apply State.chDone_holds | apply State.incFld_holds
      | apply State.logDev_holds | apply State.mbReply_holds | apply State.ring_holds | apply State.set1_holds
      | apply State.setFld_holds
    | intro _ | split | dsimp only

theorem State.chTake_holds {ps : Kept} {s : State} {c : Nat} (hq : Holds ps s) :
    Holds ps (State.chTake s c) := by
  unfold State.chTake
  repeat' first
    | with_reducible first
      | assumption | apply Holds.ite | apply State.setFld_holds
    | intro _ | split | dsimp only

theorem State.chReply_holds {ps : Kept} {s : State} {c : Nat} (hq : Holds ps s) :
    Holds ps (State.chReply s c) := by
  unfold State.chReply
  repeat' first
    | with_reducible first
      | assumption | apply Holds.ite | apply State.chDone_holds | apply State.mbClearReply_holds | apply State.mbReply_holds
    | fail_if_no_progress with_reducible apply Holds.upd | intro _ | split | dsimp only

theorem State.chRelease_holds {ps : Kept} {s : State} {c : Nat} (hq : Holds ps s) :
    Holds ps (State.chRelease s c) := by
  unfold State.chRelease
  dsimp only
  repeat' first
    | with_reducible first
      | assumption | apply Holds.ite | apply State.setFld_holds
    | fail_if_no_progress with_reducible apply Holds.upd | intro _ | split | dsimp only

theorem State.chCtlWrite_holds {ps : Kept} {s : State} {c : Nat} {v : Word} (hq : Holds ps s) :
    Holds ps (State.chCtlWrite s c v) := by
  unfold State.chCtlWrite
  dsimp only
  repeat' first
    | with_reducible first
      | assumption | apply Holds.ite | apply State.chRelease_holds | apply State.chReply_holds | apply State.chSend_holds
      | apply State.chTake_holds
    | intro _ | split | dsimp only

theorem State.mbWrite_holds {ps : Kept} {s : State} {c o : Nat} {bs : List Byte} {bad : Bool} (hq : Holds ps s) :
    Holds ps (State.mbWrite s c o bs bad) := by
  unfold State.mbWrite
  dsimp only
  repeat' first
    | with_reducible first
      | assumption | apply Holds.ite | apply State.mbStore_holds | apply State.set1_holds
    | intro _ | split | dsimp only

theorem execSend_holds {ps : Kept} {c : Fin 24} {s : State} (hq : Holds ps s) :
    Done ps (execSend c s) := by
  unfold execSend
  repeat' first
    | with_reducible first
      | assumption | apply Holds.ite | apply State.chSend_holds | apply Done.next | apply Done.ite
    | intro _ | dsimp only

theorem execTake_holds {ps : Kept} {c : Fin 24} {s : State} (hq : Holds ps s) :
    Done ps (execTake c s) := by
  unfold execTake
  repeat' first
    | with_reducible first
      | assumption | apply Holds.ite | apply State.chTake_holds | apply Done.next | apply Done.ite
    | intro _ | dsimp only

theorem execReply_holds {ps : Kept} {c : Fin 24} {s : State} (hq : Holds ps s) :
    Done ps (execReply c s) := by
  unfold execReply
  repeat' first
    | with_reducible first
      | assumption | apply Holds.ite | apply State.chReply_holds | apply Done.next | apply Done.ite
    | intro _ | dsimp only

theorem execRelease_holds {ps : Kept} {c : Fin 24} {s : State} (hq : Holds ps s) :
    Done ps (execRelease c s) := by
  unfold execRelease
  repeat' first
    | with_reducible first
      | assumption | apply Holds.ite | apply State.chRelease_holds | apply Done.next | apply Done.ite
    | intro _ | dsimp only

theorem State.chAbort_holds {ps : Kept} {s : State} {c : Nat} (hq : Holds ps s) :
    Holds ps (State.chAbort s c) := by
  unfold State.chAbort
  dsimp only
  repeat' first
    | with_reducible first
      | assumption | apply Holds.ite | apply State.chDone_holds | apply State.incFld_holds | apply State.logDev_holds
      | apply State.mbPut_holds
    | intro _ | split | dsimp only

theorem State.winWrite_holds {ps : Kept} {s : State} {v : Word} (hq : Holds ps s) :
    Holds ps (State.winWrite s v) := by
  unfold State.winWrite
  dsimp only
  repeat' first
    | with_reducible first
      | assumption | apply Holds.ite | apply State.set1_holds | apply State.setReg_holds
    | fail_if_no_progress with_reducible apply Holds.upd | intro _ | split | dsimp only

theorem State.bar2Write_holds {ps : Kept} {s : State} {v : Word} (hq : Holds ps s) :
    Holds ps (State.bar2Write s v) := by
  unfold State.bar2Write
  repeat' first
    | with_reducible first
      | assumption | apply Holds.ite | apply State.set1_holds | apply State.setReg_holds
    | intro _ | split | dsimp only

end Sys2Proof.Machine
end

