-- ==== Sys2Proof/Laws/KeepKey.lean ====
section
/-! SUPPORT. What the operations of Machine/Key.lean keep. -/
set_option linter.unusedTactic false
set_option linter.unreachableTactic false
set_option linter.unusedVariables false
namespace Sys2Proof.Machine

theorem State.setMeas_holds {ps : Kept} {s : State} {i : Nat} {bs : List Byte} (hq : Holds ps s) :
    Holds ps (State.setMeas s i bs) := by
  unfold State.setMeas
  repeat' first
    | with_reducible first
      | assumption | apply Holds.ite | apply State.setReg_holds | apply Holds.foldl | apply Holds.ite1 | apply Holds.foldl1
    | intro _ | dsimp only

theorem State.extend_holds {ps : Kept} {s : State} {i : Nat} {data : List Byte} (hq : Holds ps s) :
    Holds ps (State.extend s i data) := by
  unfold State.extend
  repeat' first
    | with_reducible first
      | assumption | apply Holds.ite | apply State.set1_holds | apply State.setMeas_holds
    | intro _ | split | dsimp only

theorem State.measExt_holds {ps : Kept} {s : State} {i : Nat} (hq : Holds ps s) :
    Holds ps (State.measExt s i) := by
  unfold State.measExt
  repeat' first
    | with_reducible first
      | assumption | apply Holds.ite | apply State.extend_holds
    | intro _ | dsimp only

theorem execMgpMeasExt_holds {ps : Kept} {m : Master} {index : BitVec 3} {s : State} (hq : Holds ps s) :
    Done ps (execMgpMeasExt m index s) := by
  unfold execMgpMeasExt
  repeat' first
    | with_reducible first
      | assumption | apply Holds.ite | apply State.measExt_holds | apply State.noteBy_holds | apply Done.next
      | apply Done.ite
    | intro _ | dsimp only

theorem State.askReset_holds {ps : Kept} {s : State} {kind : Nat} (hq : Holds ps s) :
    Holds ps (State.askReset s kind) := by
  unfold State.askReset
  repeat' first
    | with_reducible first
      | assumption | apply Holds.ite
    | fail_if_no_progress with_reducible apply Holds.upd | intro _ | split | dsimp only

theorem State.trialStop_holds {ps : Kept} {s : State} (hq : Holds ps s) :
    Holds ps (State.trialStop s) := by
  unfold State.trialStop
  repeat' first
    | with_reducible first
      | assumption | apply Holds.ite | apply State.setFld_holds
    | intro _ | dsimp only

theorem execMgpTrialStop_holds {ps : Kept} {m : Master} {s : State} (hq : Holds ps s) :
    Done ps (execMgpTrialStop m s) := by
  unfold execMgpTrialStop
  repeat' first
    | with_reducible first
      | assumption | apply Holds.ite | apply State.noteBy_holds | apply State.trialStop_holds | apply Done.next
      | apply Done.ite
    | intro _ | dsimp only

theorem execMgpTrialExpire_holds {ps : Kept} {s : State} (hq : Holds ps s) :
    Done ps (execMgpTrialExpire s) := by
  unfold execMgpTrialExpire
  repeat' first
    | with_reducible first
      | assumption | apply Holds.ite | apply State.askReset_holds | apply State.set1_holds | apply State.setFld_holds
      | apply Done.next | apply Done.ite
    | intro _ | split | dsimp only

theorem State.wdtKick_holds {ps : Kept} {s : State} (hq : Holds ps s) :
    Holds ps (State.wdtKick s) := by
  unfold State.wdtKick
  repeat' first
    | with_reducible first
      | assumption | apply Holds.ite | apply State.setFld_holds
    | intro _ | dsimp only

theorem execMgpWdtKick_holds {ps : Kept} {m : Master} {s : State} (hq : Holds ps s) :
    Done ps (execMgpWdtKick m s) := by
  unfold execMgpWdtKick
  repeat' first
    | with_reducible first
      | assumption | apply Holds.ite | apply State.noteBy_holds | apply State.wdtKick_holds | apply Done.next
      | apply Done.ite
    | intro _ | dsimp only

theorem execMgpWdtExpire_holds {ps : Kept} {s : State} (hq : Holds ps s) :
    Done ps (execMgpWdtExpire s) := by
  unfold execMgpWdtExpire
  dsimp only
  repeat' first
    | with_reducible first
      | assumption | apply Holds.ite | apply State.askReset_holds | apply State.set1_holds | apply State.setFld_holds
      | apply Done.next | apply Done.ite
    | fail_if_no_progress with_reducible apply Holds.upd | intro _ | split | dsimp only

theorem State.wdtWrite_holds {ps : Kept} {s : State} {v w1 : Word} (hq : Holds ps s) :
    Holds ps (State.wdtWrite s v w1) := by
  unfold State.wdtWrite
  dsimp only
  repeat' first
    | with_reducible first
      | assumption | apply Holds.ite | apply State.set1_holds | apply State.setFld_holds | apply State.wdtKick_holds
    | intro _ | split | dsimp only

theorem State.dcpHbWrite_holds {ps : Kept} {s : State} {d : Nat} {v : Word} (hq : Holds ps s) :
    Holds ps (State.dcpHbWrite s d v) := by
  unfold State.dcpHbWrite
  repeat' first
    | with_reducible first
      | assumption | apply Holds.ite | apply State.set1_holds | apply State.setFld_holds
    | intro _ | split | dsimp only

theorem execDcpHeartbeatCheck_holds {ps : Kept} {die : Fin 4} {s : State} (hq : Holds ps s) :
    Done ps (execDcpHeartbeatCheck die s) := by
  unfold execDcpHeartbeatCheck
  dsimp only
  repeat' first
    | with_reducible first
      | assumption | apply Holds.ite | apply State.askReset_holds | apply State.logDev_holds | apply State.setFld_holds
      | apply Done.next | apply Done.ite
    | fail_if_no_progress with_reducible apply Holds.upd | intro _ | split | dsimp only

theorem execDcpAliveCheck_holds {ps : Kept} {s : State} (hq : Holds ps s) :
    Done ps (execDcpAliveCheck s) := by
  unfold execDcpAliveCheck
  dsimp only
  repeat' first
    | with_reducible first
      | assumption | apply Holds.ite | apply State.chAbort_holds | apply State.logDev_holds | apply Holds.foldl
      | apply Holds.ite1 | apply Holds.foldl1 | apply Done.next | apply Done.ite
    | fail_if_no_progress with_reducible apply Holds.upd | intro _ | split | dsimp only

theorem State.attGo_holds {ps : Kept} {s : State} (hq : Holds ps s) :
    Holds ps (State.attGo s) := by
  unfold State.attGo
  dsimp only
  repeat' first
    | with_reducible first
      | assumption | apply Holds.ite | apply State.fabSend_holds | apply State.set1_holds | apply Holds.foldl
      | apply Holds.ite1 | apply Holds.foldl1
    | fail_if_no_progress with_reducible apply Holds.upd | intro _ | split | dsimp only

theorem execMgpAttGo_holds {ps : Kept} {m : Master} {s : State} (hq : Holds ps s) :
    Done ps (execMgpAttGo m s) := by
  unfold execMgpAttGo
  repeat' first
    | with_reducible first
      | assumption | apply Holds.ite | apply State.attGo_holds | apply State.noteBy_holds | apply Done.next | apply Done.ite
    | intro _ | dsimp only

end Sys2Proof.Machine
end

