-- ==== Sys2Proof/Laws/KeepBus.lean ====
section
/-! SUPPORT. What the operations of Machine/Bus.lean keep. -/
set_option linter.unusedTactic false
set_option linter.unreachableTactic false
set_option linter.unusedVariables false
namespace Sys2Proof.Machine

theorem State.lxeCtl_holds {ps : Kept} {s : State} {t : Nat} {v : Word} (hq : Holds ps s) :
    Holds ps (State.lxeCtl s t v) := by
  unfold State.lxeCtl
  dsimp only
  repeat' first
    | with_reducible first
      | assumption | apply Holds.ite | apply State.set1_holds | apply State.setFld_holds
    | intro _ | split | dsimp only

theorem execLxeCtlWrite_holds {ps : Kept} {m : Master} {t : Fin 144} {v : BitVec 64} {s : State} (hq : Holds ps s) :
    Done ps (execLxeCtlWrite m t v s) := by
  unfold execLxeCtlWrite
  repeat' first
    | with_reducible first
      | assumption | apply Holds.ite | apply State.lxeCtl_holds | apply State.noteBy_holds | apply Done.next | apply Done.ite
    | intro _ | dsimp only

theorem State.replayGo_holds {ps : Kept} {s : State} (hq : Holds ps s) :
    Holds ps (State.replayGo s) := by
  unfold State.replayGo
  dsimp only
  repeat' first
    | with_reducible first
      | assumption | apply Holds.ite | apply State.set1_holds | apply State.setFld_holds
    | fail_if_no_progress with_reducible apply Holds.upd | intro _ | split | dsimp only

theorem execEvtReplayGo_holds {ps : Kept} {s : State} (hq : Holds ps s) :
    Done ps (execEvtReplayGo s) := by
  unfold execEvtReplayGo
  repeat' first
    | with_reducible first
      | assumption | apply Holds.ite | apply State.replayGo_holds | apply Done.next | apply Done.ite
    | intro _ | dsimp only

theorem State.replayEnd_holds {ps : Kept} {s : State} (hq : Holds ps s) :
    Holds ps (State.replayEnd s) := by
  unfold State.replayEnd
  repeat' first
    | with_reducible first
      | assumption | apply Holds.ite | apply State.logDev_holds | apply State.setFld_holds
    | intro _ | split | dsimp only

theorem execEvtReplayStop_holds {ps : Kept} {s : State} (hq : Holds ps s) :
    Done ps (execEvtReplayStop s) := by
  unfold execEvtReplayStop
  repeat' first
    | with_reducible first
      | assumption | apply Holds.ite | apply State.replayEnd_holds | apply Done.next | apply Done.ite
    | intro _ | dsimp only

theorem State.rngRead_holds {ps : Kept} {s : State} (hq : Holds ps s) :
    Holds ps (State.rngRead s).1 := by
  unfold State.rngRead
  dsimp only
  repeat' first
    | with_reducible first
      | assumption | apply Holds.ite | apply State.capture_holds | apply State.incFld_holds | apply State.takeFresh_holds
      | apply Holds.ite1 | apply Holds.foldl1
    | fail_if_no_progress with_reducible apply Holds.upd | intro _ | split | dsimp only

theorem execEvtRngRead_holds {ps : Kept} {s : State} (hq : Holds ps s) :
    Done ps (execEvtRngRead s) := by
  unfold execEvtRngRead
  repeat' first
    | with_reducible first
      | assumption | apply Holds.ite | apply State.rngRead_holds | apply Done.next | apply Done.ite
    | intro _ | dsimp only

theorem State.regRead_holds {ps : Kept} {s : State} {a : Nat} {m : Word} (hq : Holds ps s) :
    Holds ps (State.regRead s a m).1 := by
  unfold State.regRead
  dsimp only
  repeat' first
    | with_reducible first
      | assumption | apply Holds.ite | apply State.rngRead_holds | apply State.setReg_holds | apply Holds.ite1
      | apply Holds.foldl1
    | fail_if_no_progress with_reducible apply Holds.upd | intro _ | split | dsimp only

theorem State.plainWrite_holds {ps : Kept} {s : State} {a : Nat} {w m : Word} (hq : Holds ps s) :
    Holds ps (State.plainWrite s a w m) := by
  unfold State.plainWrite
  dsimp only
  repeat' first
    | with_reducible first
      | assumption | apply Holds.ite | apply State.setReg_holds
    | fail_if_no_progress with_reducible apply Holds.upd | intro _ | split | dsimp only

theorem State.evtRefuse_holds {ps : Kept} {s : State} (hq : Holds ps s) :
    Holds ps (State.evtRefuse s) := by
  unfold State.evtRefuse
  repeat' first
    | with_reducible first
      | assumption | apply Holds.ite | apply State.set1_holds
    | intro _ | dsimp only

theorem State.tideCtlWrite_holds {ps : Kept} {s : State} {a : Nat} {v w m : Word} (hq : Holds ps s) :
    Holds ps (State.tideCtlWrite s a v w m) := by
  unfold State.tideCtlWrite
  dsimp only
  repeat' first
    | with_reducible first
      | assumption | apply Holds.ite | apply State.plainWrite_holds | apply State.tideEnable_holds
      | apply State.tideRole_holds
    | intro _ | split | dsimp only

theorem State.tsqCtlWrite_holds {ps : Kept} {s : State} {t a : Nat} {w m : Word} (hq : Holds ps s) :
    Holds ps (State.tsqCtlWrite s t a w m) := by
  unfold State.tsqCtlWrite
  dsimp only
  repeat' first
    | with_reducible first
      | assumption | apply Holds.ite | apply State.haltMask_holds | apply State.plainWrite_holds
      | apply State.resumeMask_holds | apply State.setFld_holds | apply State.start_holds | apply Holds.foldl
      | apply Holds.ite1 | apply Holds.foldl1
    | intro _ | split | dsimp only

theorem State.sfuShadow_holds {ps : Kept} {s : State} {t o : Nat} {w m : Word} (hq : Holds ps s) :
    Holds ps (State.sfuShadow s t o w m) := by
  unfold State.sfuShadow
  dsimp only
  repeat' first
    | with_reducible first
      | assumption | apply Holds.ite | apply State.setSfuByte_holds | apply Holds.foldl | apply Holds.ite1
      | apply Holds.foldl1
    | intro _ | split | dsimp only

theorem State.tileRegWrite_holds {ps : Kept} {s : State} {t o a : Nat} {w m : Word} (hq : Holds ps s) :
    Holds ps (State.tileRegWrite s t o a w m) := by
  unfold State.tileRegWrite
  dsimp only
  repeat' first
    | with_reducible first
      | assumption | apply Holds.ite | apply State.ftqCtl_holds | apply State.lxeCtl_holds | apply State.mxaCtl_holds
      | apply State.plainWrite_holds | apply State.sfuCtl_holds | apply State.sfuShadow_holds
      | apply State.sfuSwapWrite_holds | apply State.sregWrite_holds | apply State.tokenWrite_holds
      | apply State.tsqCtlWrite_holds
    | fail_if_no_progress with_reducible apply Holds.upd | intro _ | split | dsimp only

theorem State.mbxWrite_holds {ps : Kept} {s : State} {a : Nat} {v w m : Word} {bad : Bool} (hq : Holds ps s) :
    Holds ps (State.mbxWrite s a v w m bad) := by
  unfold State.mbxWrite
  dsimp only
  repeat' first
    | with_reducible first
      | assumption | apply Holds.ite | apply State.bar2Write_holds | apply State.chCtlWrite_holds
      | apply State.dbMaskWrite_holds | apply State.mbWrite_holds | apply State.msixWrite_holds
      | apply State.plainWrite_holds | apply State.winWrite_holds
    | fail_if_no_progress with_reducible apply Holds.upd | intro _ | split | refine Holds.pair (by with_reducible assumption) ?_ | dsimp only

theorem State.evtWrite_holds {ps : Kept} {s : State} {a : Nat} {v w m : Word} (hq : Holds ps s) :
    Holds ps (State.evtWrite s a v w m) := by
  unfold State.evtWrite
  dsimp only
  repeat' first
    | with_reducible first
      | assumption | apply Holds.ite | apply State.auditRdWrite_holds | apply State.capCtlWrite_holds
      | apply State.evtCtlWrite_holds | apply State.evtRdWrite_holds | apply State.evtRefuse_holds
      | apply State.plainWrite_holds | apply State.replayEnd_holds | apply State.replayGo_holds | apply State.setReg_holds
      | apply State.swCommit_holds
    | intro _ | split | dsimp only

theorem State.tideRegWrite_holds {ps : Kept} {s : State} {a : Nat} {v w m : Word} (hq : Holds ps s) :
    Holds ps (State.tideRegWrite s a v w m) := by
  unfold State.tideRegWrite
  repeat' first
    | with_reducible first
      | assumption | apply Holds.ite | apply State.plainWrite_holds | apply State.tideCtlWrite_holds
      | apply State.tideLeadWrite_holds | apply State.tideLoad_holds | apply State.tidePeriodWrite_holds
    | intro _ | split | dsimp only

theorem State.fabRegWrite_holds {ps : Kept} {s : State} {a o : Nat} {v w m : Word} (hq : Holds ps s) :
    Holds ps (State.fabRegWrite s a o v w m) := by
  unfold State.fabRegWrite
  repeat' first
    | with_reducible first
      | assumption | apply Holds.ite | apply State.fabIdWrite_holds | apply State.mcrcFeed_holds
      | apply State.plainWrite_holds | apply State.portCfg_holds | apply State.setMcrc_holds
    | intro _ | split | dsimp only

theorem State.queRegWrite_holds {ps : Kept} {s : State} {a o : Nat} {v w m : Word} (hq : Holds ps s) :
    Holds ps (State.queRegWrite s a o v w m) := by
  unfold State.queRegWrite
  repeat' first
    | with_reducible first
      | assumption | apply Holds.ite | apply State.ctxBaseWrite_holds | apply State.doorbell_holds
      | apply State.plainWrite_holds | apply State.qctlWrite_holds
    | intro _ | split | dsimp only

theorem State.greRegWrite_holds {ps : Kept} {s : State} {a o : Nat} {v w m : Word} (hq : Holds ps s) :
    Holds ps (State.greRegWrite s a o v w m) := by
  unfold State.greRegWrite
  repeat' first
    | with_reducible first
      | assumption | apply Holds.ite | apply State.greCfgWrite_holds | apply State.greInitWrite_holds
      | apply State.greLinkWrite_holds | apply State.plainWrite_holds
    | intro _ | split | dsimp only

theorem State.pwrRegWrite_holds {ps : Kept} {s : State} {a o : Nat} {v w m : Word} (hq : Holds ps s) :
    Holds ps (State.pwrRegWrite s a o v w m) := by
  unfold State.pwrRegWrite
  repeat' first
    | with_reducible first
      | assumption | apply Holds.ite | apply State.ackWrite_holds | apply State.grpCfgWrite_holds
      | apply State.grpCtlWrite_holds | apply State.moveWrite_holds | apply State.plainWrite_holds | apply State.pwrCtl_holds
      | apply State.pwrHostWrite_holds | apply State.pwrStateWrite_holds | apply State.qenergyWrite_holds
    | intro _ | split | dsimp only

theorem State.mgpRegWrite_holds {ps : Kept} {s : State} {a : Nat} {v w m : Word} (hq : Holds ps s) :
    Holds ps (State.mgpRegWrite s a v w m) := by
  unfold State.mgpRegWrite
  dsimp only
  repeat' first
    | with_reducible first
      | assumption | apply Holds.ite | apply State.attGo_holds | apply State.measExt_holds | apply State.plainWrite_holds
      | apply State.trialStop_holds | apply State.wdtWrite_holds
    | intro _ | split | dsimp only

theorem State.devRegWrite_holds {ps : Kept} {s : State} {a : Nat} {w m : Word} {bad : Bool} (hq : Holds ps s) :
    Holds ps (State.devRegWrite s a w m bad) := by
  unfold State.devRegWrite
  dsimp only
  repeat' first
    | with_reducible first
      | assumption | apply Holds.ite | apply State.dcpHbWrite_holds | apply State.evtWrite_holds
      | apply State.fabRegWrite_holds | apply State.greRegWrite_holds | apply State.mbxWrite_holds
      | apply State.memScrubWrite_holds | apply State.mgpRegWrite_holds | apply State.plainWrite_holds
      | apply State.pwrRegWrite_holds | apply State.queRegWrite_holds | apply State.tideRegWrite_holds
    | fail_if_no_progress with_reducible apply Holds.upd | intro _ | split | dsimp only

theorem State.regWrite_holds {ps : Kept} {s : State} {a : Nat} {w m : Word} {bad : Bool} (hq : Holds ps s) :
    Holds ps (State.regWrite s a w m bad) := by
  unfold State.regWrite
  repeat' first
    | with_reducible first
      | assumption | apply Holds.ite | apply State.devRegWrite_holds | apply State.tileRegWrite_holds
    | fail_if_no_progress with_reducible apply Holds.upd | intro _ | split | dsimp only

theorem State.partRead_holds {ps : Kept} {s : State} {q : Req} {a n : Nat} (hq : Holds ps s) :
    Holds ps (State.partRead s q a n).1 := by
  unfold State.partRead
  dsimp only
  repeat' first
    | with_reducible first
      | assumption | apply Holds.ite | apply State.noteReads_holds | apply State.regRead_holds | apply State.unmapped_holds
      | apply Holds.foldl | apply Holds.ite1 | apply Holds.foldl1
    | fail_if_no_progress with_reducible apply Holds.upd | intro _ | split | refine Holds.pair (by with_reducible assumption) ?_ | dsimp only

theorem State.busRead_holds {ps : Kept} {s : State} {q : Req} {a n : Nat} (hq : Holds ps s) :
    Holds ps (State.busRead s q a n).1 := by
  unfold State.busRead
  dsimp only
  repeat' first
    | with_reducible first
      | assumption | apply Holds.ite | apply State.partRead_holds | apply Holds.foldl | apply Holds.ite1 | apply Holds.foldl1
    | intro _ | dsimp only

theorem State.storeMixed_holds {ps : Kept} {s : State} {q : Req} {a : Nat} {bs : List (Byte × Bool)} (hq : Holds ps s) :
    Holds ps (State.storeMixed s q a bs) := by
  unfold State.storeMixed
  dsimp only
  repeat' first
    | with_reducible first
      | assumption | apply Holds.ite | apply State.writeBytes_holds | apply Holds.foldl | apply Holds.ite1
      | apply Holds.foldl1
    | intro _ | dsimp only

theorem State.partWrite_holds {ps : Kept} {s : State} {q : Req} {a : Nat} {bs : List (Byte × Bool)} (hq : Holds ps s) :
    Holds ps (State.partWrite s q a bs).1 := by
  unfold State.partWrite
  dsimp only
  repeat' first
    | with_reducible first
      | assumption | apply Holds.ite | apply State.noteRegWrite_holds | apply State.regWrite_holds
      | apply State.storeMixed_holds | apply State.unmapped_holds | apply Holds.foldl | apply Holds.ite1 | apply Holds.foldl1
    | fail_if_no_progress with_reducible apply Holds.upd | intro _ | split | dsimp only

theorem State.busWrite_holds {ps : Kept} {s : State} {q : Req} {a : Nat} {bs : List (Byte × Bool)} (hq : Holds ps s) :
    Holds ps (State.busWrite s q a bs).1 := by
  unfold State.busWrite
  dsimp only
  repeat' first
    | with_reducible first
      | assumption | apply Holds.ite | apply State.partWrite_holds | apply Holds.foldl | apply Holds.ite1
      | apply Holds.foldl1
    | intro _ | dsimp only

theorem State.busPut_holds {ps : Kept} {s : State} {q : Req} {a : Nat} {bs : List Byte} (hq : Holds ps s) :
    Holds ps (State.busPut s q a bs).1 := by
  unfold State.busPut
  repeat' first
    | with_reducible first
      | assumption | apply Holds.ite | apply State.busWrite_holds | apply Holds.ite1 | apply Holds.foldl1
    | intro _ | dsimp only

theorem execRegisterWrite_holds {ps : Kept} {m : Master} {addr : BitVec 48} {data : List Byte} {time : Nat} {s : State} (hq : Holds ps s) :
    Done ps (execRegisterWrite m addr data time s) := by
  unfold execRegisterWrite
  repeat' first
    | with_reducible first
      | assumption | apply Holds.ite | apply State.busPut_holds | apply State.tideNow_holds | apply Done.next
      | apply Done.ite
    | intro _ | split | dsimp only

theorem execMbxWinWrite_holds {ps : Kept} {bar2 : Bool} {v : BitVec 64} {s : State} (hq : Holds ps s) :
    Done ps (execMbxWinWrite bar2 v s) := by
  unfold execMbxWinWrite
  repeat' first
    | with_reducible first
      | assumption | apply Holds.ite | apply State.bar2Write_holds | apply State.winWrite_holds | apply Done.next
      | apply Done.ite
    | intro _ | split | dsimp only

end Sys2Proof.Machine
end

