-- ==== Sys2Proof/Laws/KeepLayout.lean ====
section
/-! SUPPORT. What the operations of Machine/Layout.lean keep. -/
set_option linter.unusedTactic false
set_option linter.unreachableTactic false
set_option linter.unusedVariables false
namespace Sys2Proof.Machine

theorem execLxCopy_holds {ps : Kept} {i : Iss} {a : PostArgs} {s : State} (hq : Holds ps s) :
    Done ps (execLxCopy i a s) := by
  unfold execLxCopy
  repeat' first
    | with_reducible first
      | assumption | apply Holds.ite | apply State.issueFenced_holds | apply State.postBody_holds | apply Done.next
      | apply Done.ite
    | intro _ | dsimp only

theorem execLxCvt_holds {ps : Kept} {i : Iss} {a : PostArgs} {s : State} (hq : Holds ps s) :
    Done ps (execLxCvt i a s) := by
  unfold execLxCvt
  repeat' first
    | with_reducible first
      | assumption | apply Holds.ite | apply State.issueFenced_holds | apply State.postBody_holds | apply Done.next
      | apply Done.ite
    | intro _ | dsimp only

theorem execLxWin_holds {ps : Kept} {i : Iss} {a : PostArgs} {s : State} (hq : Holds ps s) :
    Done ps (execLxWin i a s) := by
  unfold execLxWin
  repeat' first
    | with_reducible first
      | assumption | apply Holds.ite | apply State.issueFenced_holds | apply State.postBody_holds | apply Done.next
      | apply Done.ite
    | intro _ | dsimp only

theorem execLxPrune_holds {ps : Kept} {i : Iss} {a : PostArgs} {s : State} (hq : Holds ps s) :
    Done ps (execLxPrune i a s) := by
  unfold execLxPrune
  repeat' first
    | with_reducible first
      | assumption | apply Holds.ite | apply State.issueFenced_holds | apply State.postBody_holds | apply Done.next
      | apply Done.ite
    | intro _ | dsimp only

theorem execLxGather_holds {ps : Kept} {i : Iss} {a : PostArgs} {s : State} (hq : Holds ps s) :
    Done ps (execLxGather i a s) := by
  unfold execLxGather
  repeat' first
    | with_reducible first
      | assumption | apply Holds.ite | apply State.issueFenced_holds | apply State.postBody_holds | apply Done.next
      | apply Done.ite
    | intro _ | dsimp only

theorem execLxScat_holds {ps : Kept} {i : Iss} {a : PostArgs} {s : State} (hq : Holds ps s) :
    Done ps (execLxScat i a s) := by
  unfold execLxScat
  repeat' first
    | with_reducible first
      | assumption | apply Holds.ite | apply State.issueFenced_holds | apply State.postBody_holds | apply Done.next
      | apply Done.ite
    | intro _ | dsimp only

theorem execLxFp64s_holds {ps : Kept} {i : Iss} {a : PostArgs} {s : State} (hq : Holds ps s) :
    Done ps (execLxFp64s i a s) := by
  unfold execLxFp64s
  repeat' first
    | with_reducible first
      | assumption | apply Holds.ite | apply State.issueFenced_holds | apply State.postBody_holds | apply Done.next
      | apply Done.ite
    | intro _ | dsimp only

theorem execLxFill_holds {ps : Kept} {i : Iss} {a : PostArgs} {s : State} (hq : Holds ps s) :
    Done ps (execLxFill i a s) := by
  unfold execLxFill
  repeat' first
    | with_reducible first
      | assumption | apply Holds.ite | apply State.issueFenced_holds | apply State.postBody_holds | apply Done.next
      | apply Done.ite
    | intro _ | dsimp only

theorem State.accAt_holds {ps : Kept} {s : State} {q : Req} {aop ety a : Nat} {bs : List (Byte × Bool)} (hq : Holds ps s) :
    Holds ps (State.accAt s q aop ety a bs).1 := by
  unfold State.accAt
  dsimp only
  repeat' first
    | with_reducible first
      | assumption | apply Holds.ite | apply State.rmwBytes_holds | apply State.unmapped_holds | apply Holds.ite1
      | apply Holds.foldl1
    | intro _ | split | dsimp only

theorem State.setLxRuns_holds {ps : Kept} {s : State} {t : Nat} {u : List LxeRun} (h : Holds ps s) : Holds ps (s.setLxRuns t u) := by
  refine ⟨h.1, fun hc => ?_⟩
  obtain ⟨k0, k1, k2, k3, k4, k5, k6, k7, k8, k9, k10, k11, k12, k13, k14, k15, k16, k17, k18, k19, k20⟩ := h.2 hc
  exact ⟨k0, k1, k2, k3, k4, k5, k6, k7, k8, k9, k10, k11, k12, k13, k14, Store.wf_put _ _ _ _ k15, k16, k17, k18, k19, k20⟩

theorem State.setLxRun_holds {ps : Kept} {s : State} {t : Nat} {r : LxeRun} (hq : Holds ps s) :
    Holds ps (State.setLxRun s t r) := by
  unfold State.setLxRun
  repeat' first
    | with_reducible first
      | assumption | apply Holds.ite | apply State.setLxRuns_holds
    | intro _ | split | dsimp only | rw [id_eq]

theorem State.lxRead_holds {ps : Kept} {s : State} {t : Nat} {r : LxeRun} {rs : List (Nat × Nat × Nat)} (hq : Holds ps s) :
    Holds ps (State.lxRead s t r rs).1 := by
  unfold State.lxRead
  dsimp only
  repeat' first
    | with_reducible first
      | assumption | apply Holds.ite | apply State.busRead_holds | apply State.fabSend_holds | apply Holds.foldl
      | apply Holds.ite1 | apply Holds.foldl1
    | fail_if_no_progress with_reducible apply Holds.upd | intro _ | split | dsimp only | rw [id_eq]

theorem State.lxAccBits_holds {ps : Kept} {s : State} {t fl : Nat} (hq : Holds ps s) :
    Holds ps (State.lxAccBits s t fl) := by
  unfold State.lxAccBits
  repeat' first
    | with_reducible first
      | assumption | apply Holds.ite | apply State.orFld_holds
    | intro _ | split | dsimp only

theorem State.lxWrites_holds {ps : Kept} {s : State} {t : Nat} {r : LxeRun} {ws : List LxWrite} (hq : Holds ps s) :
    Holds ps (State.lxWrites s t r ws).1 := by
  unfold State.lxWrites
  dsimp only
  repeat' first
    | with_reducible first
      | assumption | apply Holds.ite | apply State.accAt_holds | apply State.busWrite_holds | apply State.fabSend_holds
      | apply Holds.foldl | apply Holds.ite1 | apply Holds.foldl1
    | fail_if_no_progress with_reducible apply Holds.upd | intro _ | split | dsimp only | rw [id_eq]

theorem State.lxIndexEv_holds {ps : Kept} {s : State} {t op token : Nat} {idx : List (Nat × Nat)} (hq : Holds ps s) :
    Holds ps (State.lxIndexEv s t op token idx) := by
  unfold State.lxIndexEv
  dsimp only
  repeat' first
    | with_reducible first
      | assumption | apply Holds.ite | apply State.incFld_holds | apply State.logTile_holds | apply State.set1_holds
      | apply State.setFld_holds
    | fail_if_no_progress with_reducible apply Holds.upd | intro _ | split | dsimp only

theorem State.lxForm_holds {ps : Kept} {s : State} {t : Nat} {r : LxeRun} {op token : Nat} (hq : Holds ps s) :
    Holds ps (State.lxForm s t r op token) := by
  unfold State.lxForm
  dsimp only
  repeat' first
    | with_reducible first
      | assumption | apply Holds.ite | apply State.censusCvts_holds | apply State.incFld_holds | apply State.logTile_holds
      | apply State.lxAccBits_holds | apply State.lxIndexEv_holds | apply State.lxWrites_holds | apply State.orFld_holds
      | apply State.set1_holds | apply State.setLxRun_holds
    | fail_if_no_progress with_reducible apply Holds.upd | intro _ | split | dsimp only

theorem State.lxAdvance_holds {ps : Kept} {s : State} {t : Nat} {r : LxeRun} {op token : Nat} (hq : Holds ps s) :
    Holds ps (State.lxAdvance s t r op token) := by
  unfold State.lxAdvance
  dsimp only
  repeat' first
    | with_reducible first
      | assumption | apply Holds.ite | apply State.lxForm_holds | apply State.lxRead_holds | apply State.setLxRun_holds
    | fail_if_no_progress with_reducible apply Holds.upd | intro _ | split | dsimp only

theorem State.lxAnswerRead_holds {ps : Kept} {s : State} {t id k a n : Nat} {bs : List (Byte × Bool)} {err : Bool} (hq : Holds ps s) :
    Holds ps (State.lxAnswerRead s t id k a n bs err) := by
  unfold State.lxAnswerRead
  dsimp only
  repeat' first
    | with_reducible first
      | assumption | apply Holds.ite | apply State.lxAdvance_holds
    | fail_if_no_progress with_reducible apply Holds.upd | intro _ | split | refine Holds.pair (by with_reducible assumption) ?_ | dsimp only | rw [id_eq]

theorem State.lxAnswerWrite_holds {ps : Kept} {s : State} {t id a : Nat} {err : Bool} (hq : Holds ps s) :
    Holds ps (State.lxAnswerWrite s t id a err) := by
  unfold State.lxAnswerWrite
  dsimp only
  repeat' first
    | with_reducible first
      | assumption | apply Holds.ite | apply State.setLxRun_holds
    | fail_if_no_progress with_reducible apply Holds.upd | intro _ | split | dsimp only | rw [id_eq]

theorem State.lxReject_holds {ps : Kept} {s : State} {t op token reason : Nat} (hq : Holds ps s) :
    Holds ps (State.lxReject s t op token reason) := by
  unfold State.lxReject
  dsimp only
  repeat' first
    | with_reducible first
      | assumption | apply Holds.ite | apply State.incFld_holds | apply State.logTile_holds | apply State.set1_holds
      | apply State.setFld_holds
    | intro _ | dsimp only

theorem execLxeCommandStart_holds {ps : Kept} {t : Fin 144} {ac : Nat} {upset : Upset} {s : State} (hq : Holds ps s) :
    Done ps (execLxeCommandStart t ac upset s) := by
  unfold execLxeCommandStart
  dsimp only
  repeat' first
    | with_reducible first
      | assumption | apply Holds.ite | apply State.advance_holds | apply State.lxAdvance_holds | apply State.lxRead_holds
      | apply State.lxReject_holds | apply State.set1_holds | apply State.setLxRuns_holds | apply State.setTile_holds
      | apply State.upset_holds | apply Done.next | apply Done.ite
    | fail_if_no_progress with_reducible apply Holds.upd | intro _ | split | refine Holds.pair (by with_reducible assumption) ?_ | dsimp only | rw [id_eq]

theorem State.remoteInc_holds {ps : Kept} {s : State} {t k n flags : Nat} (hq : Holds ps s) :
    Holds ps (State.remoteInc s t k n flags) := by
  unfold State.remoteInc
  repeat' first
    | with_reducible first
      | assumption | apply Holds.ite | apply State.tokUpd_holds
    | intro _ | split | dsimp only

theorem State.sendInc_holds {ps : Kept} {s : State} {unit vc dev tile k flags : Nat} (hq : Holds ps s) :
    Holds ps (State.sendInc s unit vc dev tile k flags) := by
  unfold State.sendInc
  repeat' first
    | with_reducible first
      | assumption | apply Holds.ite | apply State.fabSend_holds | apply State.remoteInc_holds
    | fail_if_no_progress with_reducible apply Holds.upd | intro _ | split | dsimp only

theorem execLxeCommandComplete_holds {ps : Kept} {t : Fin 144} {ac stallTm : Nat} {s : State} (hq : Holds ps s) :
    Done ps (execLxeCommandComplete t ac stallTm s) := by
  unfold execLxeCommandComplete
  dsimp only
  repeat' first
    | with_reducible first
      | assumption | apply Holds.ite | apply State.advance_holds | apply State.incFld_holds | apply State.logTile_holds
      | apply State.produce_holds | apply State.sendInc_holds | apply State.set1_holds | apply State.setFld_holds
      | apply State.setLxRuns_holds | apply Done.next | apply Done.ite
    | fail_if_no_progress with_reducible apply Holds.upd | intro _ | split | refine Holds.pair (by with_reducible assumption) ?_ | dsimp only | rw [id_eq]

end Sys2Proof.Machine
end

