-- ==== Sys2Proof/Laws/KeepQueEng.lean ====
section
/-! SUPPORT. What the operations of Machine/QueEng.lean keep. -/
set_option linter.unusedTactic false
set_option linter.unreachableTactic false
set_option linter.unusedVariables false
namespace Sys2Proof.Machine

theorem execQPost_holds {ps : Kept} {i : Iss} {a : PostArgs} {s : State} (hq : Holds ps s) :
    Done ps (execQPost i a s) := by
  unfold execQPost
  repeat' first
    | with_reducible first
      | assumption | apply Holds.ite | apply State.issueFenced_holds | apply State.postBody_holds | apply Done.next
      | apply Done.ite
    | intro _ | dsimp only

theorem State.noteMoved_holds {ps : Kept} {s : State} {q fab near deep : Nat} (hq : Holds ps s) :
    Holds ps (State.noteMoved s q fab near deep) := by
  unfold State.noteMoved
  dsimp only
  repeat' first
    | with_reducible first
      | assumption | apply Holds.ite
    | fail_if_no_progress with_reducible apply Holds.upd | intro _ | dsimp only

theorem State.noteTouched_holds {ps : Kept} {s : State} {q a n : Nat} (hq : Holds ps s) :
    Holds ps (State.noteTouched s q a n) := by
  unfold State.noteTouched
  repeat' first
    | with_reducible first
      | assumption | apply Holds.ite | apply State.noteMoved_holds
    | fail_if_no_progress with_reducible apply Holds.upd | intro _ | split | dsimp only

theorem State.queSource_holds {ps : Kept} {s : State} {q : Nat} {d : QueDesc} (hq : Holds ps s) :
    Holds ps (State.queSource s q d).1 := by
  unfold State.queSource
  dsimp only
  repeat' first
    | with_reducible first
      | assumption | apply Holds.ite | apply State.busRead_holds | apply State.noteTouched_holds | apply Holds.foldl
      | apply Holds.ite1 | apply Holds.foldl1
    | intro _ | split | dsimp only

theorem State.queTake_holds {ps : Kept} {s : State} {q : Nat} {x : Queue} (hq : Holds ps s) : Opt ps (State.queTake s q x) := by
  unfold State.queTake
  extract_lets idx a words d s1
  have h1 : Holds ps s1 := State.noteReads_holds hq
  clear_value s1 d
  with_reducible apply Opt.ite
  · intro _
    split
    · exact Opt.some (State.setQueue_holds h1)
    · with_reducible apply Opt.ite
      · intro _
        exact Opt.some (State.setQueue_holds h1)
      · intro _
        exact Opt.some (State.setQueue_holds (State.queSource_holds h1))
  · intro _
    split
    · with_reducible apply Opt.ite
      · intro _
        exact Opt.some (State.setQueue_holds hq)
      · intro _
        exact Opt.none
    · exact Opt.none

theorem State.queFill_holds {ps : Kept} {n x : Nat} {s : State} (hq : Holds ps s) : Holds ps (State.queFill n s x) := by
  induction n generalizing s with
  | zero => exact hq
  | succ n ih =>
    unfold State.queFill
    split
    · exact hq
    · split
      · exact hq
      · split
        · exact ih (State.queTake_holds hq _ ‹_›)
        · exact hq

theorem State.queTurn_holds {ps : Kept} {s : State} {q : Nat} (hq : Holds ps s) :
    Holds ps (State.queTurn s q).1 := by
  unfold State.queTurn
  dsimp only
  repeat' first
    | with_reducible first
      | assumption | apply Holds.ite | apply State.fabSend_holds | apply State.incFld_holds | apply State.noteMoved_holds
      | apply State.queFill_holds | apply State.setQueue_holds | apply Holds.ite1 | apply Holds.foldl1
    | fail_if_no_progress with_reducible apply Holds.upd | intro _ | split | dsimp only

theorem execQueuePacketSend_holds {ps : Kept} {upset : Upset} {s : State} (hq : Holds ps s) :
    Done ps (execQueuePacketSend upset s) := by
  unfold execQueuePacketSend
  dsimp only
  repeat' first
    | with_reducible first
      | assumption | apply Holds.ite | apply State.queTurn_holds | apply State.upset_holds | apply Holds.foldl
      | apply Holds.ite1 | apply Holds.foldl1 | apply Done.next | apply Done.ite
    | fail_if_no_progress with_reducible apply Holds.upd | intro _ | split | dsimp only

theorem State.queFail_holds {ps : Kept} {s : State} {q : Nat} {x : Queue} {d : QueDesc} {code : Nat} (hq : Holds ps s) :
    Holds ps (State.queFail s q x d code) := by
  unfold State.queFail
  dsimp only
  repeat' first
    | with_reducible first
      | assumption | apply Holds.ite | apply State.greQueueError_holds | apply State.logDev_holds | apply State.set1_holds
      | apply State.setQueue_holds
    | fail_if_no_progress with_reducible apply Holds.upd | intro _ | dsimp only

theorem State.queGoBack_holds {ps : Kept} {s : State} {q : Nat} {x : Queue} {code : Nat} (hq : Holds ps s) :
    Holds ps (State.queGoBack s q x code) := by
  unfold State.queGoBack
  dsimp only
  repeat' first
    | with_reducible first
      | assumption | apply Holds.ite | apply State.incFld_holds | apply State.queFail_holds | apply State.setQueue_holds
    | fail_if_no_progress with_reducible apply Holds.upd | intro _ | split | dsimp only

theorem State.queAnswer_holds {ps : Kept} {s : State} {q idx tries k : Nat} {a : QueAns} (hq : Holds ps s) :
    Holds ps (State.queAnswer s q idx tries k a) := by
  unfold State.queAnswer
  dsimp only
  repeat' first
    | with_reducible first
      | assumption | apply Holds.ite | apply State.busWrite_holds | apply State.noteTouched_holds | apply State.queFail_holds
      | apply State.queGoBack_holds | apply State.setQueue_holds
    | fail_if_no_progress with_reducible apply Holds.upd | intro _ | split | dsimp only

theorem State.queRetire_holds {ps : Kept} {s : State} {q : Nat} {x : Queue} {d : QueDesc} (hq : Holds ps s) :
    Holds ps (State.queRetire s q x d) := by
  unfold State.queRetire
  dsimp only
  repeat' first
    | with_reducible first
      | assumption | apply Holds.ite | apply State.busPut_holds | apply State.greAcked_holds | apply State.incFld_holds
      | apply State.postDone_holds | apply State.sendInc_holds | apply State.setQueue_holds
    | fail_if_no_progress with_reducible apply Holds.upd | intro _ | split | refine Holds.pair (by with_reducible assumption) ?_ | dsimp only

theorem execQueueDescComplete_holds {ps : Kept} {q : BitVec 16} {s : State} (hq : Holds ps s) :
    Done ps (execQueueDescComplete q s) := by
  unfold execQueueDescComplete
  repeat' first
    | with_reducible first
      | assumption | apply Holds.ite | apply State.queRetire_holds | apply Done.next | apply Done.ite
    | fail_if_no_progress with_reducible apply Holds.upd | intro _ | split | dsimp only

end Sys2Proof.Machine
end

