-- ==== Sys2Proof/Laws/KeepHostIf.lean ====
section
/-! SUPPORT. What the operations of Machine/HostIf.lean keep. -/
set_option linter.unusedTactic false
set_option linter.unreachableTactic false
set_option linter.unusedVariables false
namespace Sys2Proof.Machine

theorem State.unsupported_holds {ps : Kept} {s : State} {write : Bool} {bar off : Nat} (hq : Holds ps s) :
    Holds ps (State.unsupported s write bar off) := by
  unfold State.unsupported
  repeat' first
    | with_reducible first
      | assumption | apply Holds.ite
    | fail_if_no_progress with_reducible apply Holds.upd | intro _ | dsimp only

theorem State.hostErr_holds {ps : Kept} {s : State} {bar addr kind : Nat} (hq : Holds ps s) :
    Holds ps (State.hostErr s bar addr kind) := by
  unfold State.hostErr
  repeat' first
    | with_reducible first
      | assumption | apply Holds.ite | apply State.incFld_holds | apply State.logDev_holds | apply State.oncePerTide_holds
      | apply State.set1_holds
    | intro _ | dsimp only

theorem State.hostData_holds {ps : Kept} {s : State} {bar addr : Nat} {bs : List (Byte × Bool)} (hq : Holds ps s) :
    Holds ps (State.hostData s bar addr bs) := by
  unfold State.hostData
  dsimp only
  repeat' first
    | with_reducible first
      | assumption | apply Holds.ite | apply State.logDev_holds | apply State.oncePerTide_holds
    | fail_if_no_progress with_reducible apply Holds.upd | intro _ | split | dsimp only

theorem State.hostReadErr_holds {ps : Kept} {s : State} {bar addr n : Nat} (hq : Holds ps s) :
    Holds ps (State.hostReadErr s bar addr n) := by
  unfold State.hostReadErr
  repeat' first
    | with_reducible first
      | assumption | apply Holds.ite | apply State.hostData_holds | apply State.hostErr_holds
    | intro _ | dsimp only

theorem execHostBarRead_holds {ps : Kept} {bar2 : Bool} {off n : Nat} {upset : Upset} {s : State} (hq : Holds ps s) :
    Done ps (execHostBarRead bar2 off n upset s) := by
  unfold execHostBarRead
  dsimp only
  repeat' first
    | with_reducible first
      | assumption | apply Holds.ite | apply State.busRead_holds | apply State.fabSend_holds | apply State.hostData_holds
      | apply State.hostReadErr_holds | apply State.unsupported_holds | apply State.upset_holds | apply State.wakeHost_holds
      | apply Done.next | apply Done.ite
    | fail_if_no_progress with_reducible apply Holds.upd | intro _ | split | dsimp only

theorem execHostBarWrite_holds {ps : Kept} {bar2 : Bool} {off : Nat} {data : List Byte} {poison : Bool} {s : State} (hq : Holds ps s) :
    Done ps (execHostBarWrite bar2 off data poison s) := by
  unfold execHostBarWrite
  dsimp only
  repeat' first
    | with_reducible first
      | assumption | apply Holds.ite | apply State.busWrite_holds | apply State.capture_holds | apply State.fabSend_holds
      | apply State.hostErr_holds | apply State.unsupported_holds | apply State.wakeHost_holds | apply Done.next
      | apply Done.ite
    | fail_if_no_progress with_reducible apply Holds.upd | intro _ | split | dsimp only

theorem execHostLinkTraining_holds {ps : Kept} {width rate : Nat} {flit : Bool} {s : State} (hq : Holds ps s) :
    Done ps (execHostLinkTraining width rate flit s) := by
  unfold execHostLinkTraining
  dsimp only
  repeat' first
    | with_reducible first
      | assumption | apply Holds.ite | apply State.logDev_holds | apply Done.next | apply Done.ite
    | fail_if_no_progress with_reducible apply Holds.upd | intro _ | split | dsimp only

theorem execPcieConfigWrite_holds {ps : Kept} {w : CfgWrite} {s : State} (hq : Holds ps s) :
    Done ps (execPcieConfigWrite w s) := by
  unfold execPcieConfigWrite
  repeat' first
    | with_reducible first
      | assumption | apply Holds.ite | apply State.askL1_holds | apply State.flushVectors_holds | apply Done.next
      | apply Done.ite
    | fail_if_no_progress with_reducible apply Holds.upd | intro _ | split | dsimp only

theorem execLinkFailure_holds {ps : Kept} {l : LinkId} {s : State} (hq : Holds ps s) :
    Done ps (execLinkFailure l s) := by
  unfold execLinkFailure
  repeat' first
    | with_reducible first
      | assumption | apply Holds.ite | apply State.linkDown_holds | apply Done.next | apply Done.ite
    | intro _ | split | dsimp only

end Sys2Proof.Machine
end

