-- ==== Sys2Proof/Laws/KeepPackets.lean ====
section
/-! SUPPORT. What the operations of Machine/Packets.lean keep. -/
set_option linter.unusedTactic false
set_option linter.unreachableTactic false
set_option linter.unusedVariables false
namespace Sys2Proof.Machine

theorem State.ackRepeat_holds {ps : Kept} {s : State} {p : FabPkt} (hq : Holds ps s) :
    Holds ps (State.ackRepeat s p) := by
  unfold State.ackRepeat
  repeat' first
    | with_reducible first
      | assumption | apply Holds.ite | apply State.fabPost_holds
    | fail_if_no_progress with_reducible apply Holds.upd | intro _ | dsimp only

theorem State.skipAnswer_holds {ps : Kept} {s : State} {p : FabPkt} {skip : Nat} (hq : Holds ps s) :
    Holds ps (State.skipAnswer s p skip) := by
  unfold State.skipAnswer
  repeat' first
    | with_reducible first
      | assumption | apply Holds.ite | apply State.ackRepeat_holds | apply State.fabAnswer_holds
    | intro _ | split | dsimp only

theorem State.recvDone_holds {ps : Kept} {s : State} {q : Nat} {x : Queue} {r : QueRx} {p : FabPkt} {good : Bool} (hq : Holds ps s) :
    Holds ps (State.recvDone s q x r p good) := by
  unfold State.recvDone
  dsimp only
  repeat' first
    | with_reducible first
      | assumption | apply Holds.ite | apply State.busPut_holds | apply State.incFld_holds | apply State.logDev_holds
      | apply State.noteTouched_holds | apply State.produce_holds | apply State.setQueue_holds
    | fail_if_no_progress with_reducible apply Holds.upd | intro _ | split | dsimp only

theorem State.recvApply_holds {ps : Kept} {s : State} {q : Nat} {x : Queue} {r : QueRx} {p : FabPkt} {f : State → Queue → FabPkt → State × Nat} (hq : Holds ps s) (hf : ∀ x0 x1 x2, Holds ps x0 → Holds ps (f x0 x1 x2).1) :
    Holds ps (State.recvApply s q x r p f) := by
  unfold State.recvApply
  dsimp only
  repeat' first
    | with_reducible first
      | assumption | apply Holds.ite | apply State.fabAnswer_holds | apply State.recvDone_holds | apply State.setQueue_holds
      | apply hf
    | fail_if_no_progress with_reducible apply Holds.upd | intro _ | split | dsimp only | rw [id_eq]

theorem State.recvReject_holds {ps : Kept} {s : State} {q : Nat} {x : Queue} {p : FabPkt} {code : Nat} (hq : Holds ps s) :
    Holds ps (State.recvReject s q x p code) := by
  unfold State.recvReject
  repeat' first
    | with_reducible first
      | assumption | apply Holds.ite | apply State.incFld_holds | apply State.logDev_holds | apply State.set1_holds
      | apply State.setQueue_holds
    | fail_if_no_progress with_reducible apply Holds.upd | intro _ | dsimp only

theorem State.recvE2E_holds {ps : Kept} {s : State} {p : FabPkt} {f : State → Queue → FabPkt → State × Nat} (hq : Holds ps s) (hf : ∀ x0 x1 x2, Holds ps x0 → Holds ps (f x0 x1 x2).1) :
    Holds ps (State.recvE2E s p f) := by
  unfold State.recvE2E
  dsimp only
  repeat' first
    | with_reducible first
      | assumption | apply Holds.ite | apply State.ackRepeat_holds | apply State.fabAnswer_holds | apply State.incFld_holds
      | apply State.logDev_holds | apply State.recvApply_holds | apply State.recvReject_holds | apply State.setQueue_holds
      | apply State.skipAnswer_holds | apply hf
    | fail_if_no_progress with_reducible apply Holds.upd | intro _ | split | dsimp only

theorem State.pktRead_holds {ps : Kept} {s : State} {p : FabPkt} (hq : Holds ps s) :
    Holds ps (State.pktRead s p) := by
  unfold State.pktRead
  dsimp only
  repeat' first
    | with_reducible first
      | assumption | apply Holds.ite | apply State.busRead_holds | apply State.fabAnswer_holds | apply State.fabPost_holds
    | intro _ | split | dsimp only

theorem State.pktStore_holds {ps : Kept} {s : State} {p : FabPkt} (hq : Holds ps s) :
    Holds ps (State.pktStore s p).1 := by
  unfold State.pktStore
  dsimp only
  repeat' first
    | with_reducible first
      | assumption | apply Holds.ite | apply State.busWrite_holds | apply Holds.ite1 | apply Holds.foldl1
    | intro _ | dsimp only

theorem State.pktSacc_holds {ps : Kept} {s : State} {p : FabPkt} (hq : Holds ps s) :
    Holds ps (State.pktSacc s p).1 := by
  unfold State.pktSacc
  dsimp only
  repeat' first
    | with_reducible first
      | assumption | apply Holds.ite | apply State.accAt_holds | apply State.storeMixed_holds | apply State.unmapped_holds
      | apply Holds.foldl | apply Holds.ite1 | apply Holds.foldl1
    | intro _ | split | dsimp only

theorem State.pktAtomic_holds {ps : Kept} {s : State} {p : FabPkt} (hq : Holds ps s) :
    Holds ps (State.pktAtomic s p) := by
  unfold State.pktAtomic
  dsimp only
  repeat' first
    | with_reducible first
      | assumption | apply Holds.ite | apply State.fabAnswer_holds | apply State.fabPost_holds | apply State.rmwBytes_holds
      | apply State.unmapped_holds
    | intro _ | split | dsimp only

theorem State.pktToken_holds {ps : Kept} {s : State} {p : FabPkt} (hq : Holds ps s) :
    Holds ps (State.pktToken s p) := by
  unfold State.pktToken
  dsimp only
  repeat' first
    | with_reducible first
      | assumption | apply Holds.ite | apply State.fabAnswer_holds | apply State.remoteInc_holds
    | intro _ | dsimp only

theorem State.msgStore_holds {ps : Kept} {s : State} {x : Queue} {p : FabPkt} (hq : Holds ps s) :
    Holds ps (State.msgStore s x p).1 := by
  unfold State.msgStore
  dsimp only
  repeat' first
    | with_reducible first
      | assumption | apply Holds.ite | apply State.busWrite_holds | apply State.fabSend_holds | apply State.noteTouched_holds
      | apply Holds.ite1 | apply Holds.foldl1
    | fail_if_no_progress with_reducible apply Holds.upd | intro _ | split | dsimp only

theorem execRead_holds {ps : Kept} {l : RxId} {vc : BitVec 3} {upset : Upset} {s : State} (hq : Holds ps s) :
    Done ps (execRead l vc upset s) := by
  unfold execRead
  repeat' first
    | with_reducible first
      | assumption | apply Holds.ite | apply State.pktRead_holds | apply State.takeLocal_holds | apply State.upset_holds
      | apply Done.next | apply Done.ite
    | intro _ | dsimp only

theorem execWrite_holds {ps : Kept} {l : RxId} {vc : BitVec 3} {s : State} (hq : Holds ps s) :
    Done ps (execWrite l vc s) := by
  unfold execWrite
  dsimp only
  repeat' first
    | with_reducible first
      | assumption | apply Holds.ite | apply State.fabAnswer_holds | apply State.notePoisonRx_holds
      | apply State.noteTouched_holds | apply State.pktStore_holds | apply State.recvE2E_holds | apply State.takeLocal_holds
      | apply Done.next | apply Done.ite
    | intro _ | split | dsimp only

theorem execAtomic_holds {ps : Kept} {l : RxId} {vc : BitVec 3} {upset : Upset} {s : State} (hq : Holds ps s) :
    Done ps (execAtomic l vc upset s) := by
  unfold execAtomic
  repeat' first
    | with_reducible first
      | assumption | apply Holds.ite | apply State.pktAtomic_holds | apply State.takeLocal_holds | apply State.upset_holds
      | apply Done.next | apply Done.ite
    | intro _ | dsimp only

theorem execSacc_holds {ps : Kept} {l : RxId} {vc : BitVec 3} {upset : Upset} {s : State} (hq : Holds ps s) :
    Done ps (execSacc l vc upset s) := by
  unfold execSacc
  dsimp only
  repeat' first
    | with_reducible first
      | assumption | apply Holds.ite | apply State.fabAnswer_holds | apply State.notePoisonRx_holds
      | apply State.noteTouched_holds | apply State.pktSacc_holds | apply State.recvE2E_holds | apply State.takeLocal_holds
      | apply State.upset_holds | apply Done.next | apply Done.ite
    | intro _ | split | dsimp only

theorem execTokenInc_holds {ps : Kept} {l : RxId} {vc : BitVec 3} {s : State} (hq : Holds ps s) :
    Done ps (execTokenInc l vc s) := by
  unfold execTokenInc
  repeat' first
    | with_reducible first
      | assumption | apply Holds.ite | apply State.pktToken_holds | apply State.takeLocal_holds | apply Done.next
      | apply Done.ite
    | intro _ | dsimp only

theorem execMsg_holds {ps : Kept} {l : RxId} {vc : BitVec 3} {s : State} (hq : Holds ps s) :
    Done ps (execMsg l vc s) := by
  unfold execMsg
  repeat' first
    | with_reducible first
      | assumption | apply Holds.ite | apply State.msgStore_holds | apply State.notePoisonRx_holds
      | apply State.recvE2E_holds | apply State.takeLocal_holds | apply Done.next | apply Done.ite
    | intro _ | dsimp only

theorem execCredit_holds {ps : Kept} {l : RxId} {vc : BitVec 3} {s : State} (hq : Holds ps s) :
    Done ps (execCredit l vc s) := by
  unfold execCredit
  repeat' first
    | with_reducible first
      | assumption | apply Holds.ite | apply State.setQueue_holds | apply State.takeLocal_holds | apply Done.next
      | apply Done.ite
    | fail_if_no_progress with_reducible apply Holds.upd | intro _ | split | dsimp only

theorem State.deliver_holds {ps : Kept} {s : State} {cl : Client} {a : QueAns} (hq : Holds ps s) :
    Holds ps (State.deliver s cl a) := by
  unfold State.deliver
  dsimp only
  repeat' first
    | with_reducible first
      | assumption | apply Holds.ite | apply State.hostData_holds | apply State.hostErr_holds | apply State.hostReadErr_holds
      | apply State.lxAnswerRead_holds | apply State.lxAnswerWrite_holds | apply State.queAnswer_holds
    | fail_if_no_progress with_reducible apply Holds.upd | intro _ | split | dsimp only | rw [id_eq]

theorem State.pktAnswer_holds {ps : Kept} {s : State} {p : FabPkt} {a : QueAns} (hq : Holds ps s) :
    Holds ps (State.pktAnswer s p a) := by
  unfold State.pktAnswer
  repeat' first
    | with_reducible first
      | assumption | apply Holds.ite | apply State.deliver_holds | apply State.dropReq_holds | apply State.lateRsp_holds
    | fail_if_no_progress with_reducible apply Holds.upd | intro _ | split | dsimp only

theorem execRdata_holds {ps : Kept} {l : RxId} {vc : BitVec 3} {s : State} (hq : Holds ps s) :
    Done ps (execRdata l vc s) := by
  unfold execRdata
  repeat' first
    | with_reducible first
      | assumption | apply Holds.ite | apply State.notePoisonRx_holds | apply State.pktAnswer_holds
      | apply State.takeLocal_holds | apply Done.next | apply Done.ite
    | intro _ | dsimp only

theorem execAdata_holds {ps : Kept} {l : RxId} {vc : BitVec 3} {s : State} (hq : Holds ps s) :
    Done ps (execAdata l vc s) := by
  unfold execAdata
  repeat' first
    | with_reducible first
      | assumption | apply Holds.ite | apply State.notePoisonRx_holds | apply State.pktAnswer_holds
      | apply State.takeLocal_holds | apply Done.next | apply Done.ite
    | intro _ | dsimp only

theorem execAck_holds {ps : Kept} {l : RxId} {vc : BitVec 3} {s : State} (hq : Holds ps s) :
    Done ps (execAck l vc s) := by
  unfold execAck
  repeat' first
    | with_reducible first
      | assumption | apply Holds.ite | apply State.pktAnswer_holds | apply State.takeLocal_holds | apply Done.next
      | apply Done.ite
    | intro _ | dsimp only

theorem execNak_holds {ps : Kept} {l : RxId} {vc : BitVec 3} {s : State} (hq : Holds ps s) :
    Done ps (execNak l vc s) := by
  unfold execNak
  repeat' first
    | with_reducible first
      | assumption | apply Holds.ite | apply State.incFld_holds | apply State.pktAnswer_holds | apply State.set1_holds
      | apply State.takeLocal_holds | apply Done.next | apply Done.ite
    | intro _ | dsimp only

theorem execFabReqTimeout_holds {ps : Kept} {tag : BitVec 32} {s : State} (hq : Holds ps s) :
    Done ps (execFabReqTimeout tag s) := by
  unfold execFabReqTimeout
  dsimp only
  repeat' first
    | with_reducible first
      | assumption | apply Holds.ite | apply State.deliver_holds | apply State.dropReq_holds | apply State.incFld_holds
      | apply State.logDev_holds | apply State.oncePerTide_holds | apply State.set1_holds | apply Done.next | apply Done.ite
    | fail_if_no_progress with_reducible apply Holds.upd | intro _ | split | dsimp only

theorem Holds.updProxy {ps : Kept} {s : State} {c : Nat} {v : Nat × Nat} (h : Holds ps s) :
    Holds ps { s with proxy := Store.put (fun _ => (0, 0)) s.proxy c v } := by
  refine ⟨h.1, fun hc => ?_⟩
  obtain ⟨k0, k1, k2, k3, k4, k5, k6, k7, k8, k9, k10, k11, k12, k13, k14, k15, k16, k17, k18, k19, k20⟩ := h.2 hc
  exact ⟨k0, k1, k2, k3, k4, k5, k6, k7, k8, k9, k10, k11, k12, k13, k14, k15, k16, Store.wf_put _ _ _ _ k17, k18, k19, k20⟩

theorem State.proxyTake_holds {ps : Kept} {s : State} {c : Nat} {p : FabPkt} (hq : Holds ps s) :
    Holds ps (s.proxyTake c p) := by
  unfold State.proxyTake
  exact Holds.ite (fun _ => State.mgmtReply_holds hq) (fun _ => State.chSend_holds (Holds.updProxy (State.mbStore_holds hq)))

theorem execMgmt_holds {ps : Kept} {l : RxId} {vc : BitVec 3} {s : State} (hq : Holds ps s) :
    Done ps (execMgmt l vc s) := by
  unfold execMgmt
  dsimp only
  repeat' first
    | with_reducible first
      | assumption | apply Holds.ite | apply State.notePoisonRx_holds | apply State.proxyTake_holds
      | apply State.takeLocal_holds | apply Done.next | apply Done.ite
    | fail_if_no_progress with_reducible apply Holds.upd | intro _ | split | dsimp only

end Sys2Proof.Machine
end

