-- ==== Sys2Proof/Laws/KeepGre.lean ====
section
/-! SUPPORT. What the operations of Machine/Gre.lean keep. -/
set_option linter.unusedTactic false
set_option linter.unreachableTactic false
set_option linter.unusedVariables false
namespace Sys2Proof.Machine

theorem State.greNoteReads_holds {ps : Kept} {s : State} {b : GreBucket} {i : Nat} {rr : Bool} (hq : Holds ps s) :
    Holds ps (State.greNoteReads s b i rr) := by
  unfold State.greNoteReads
  dsimp only
  repeat' first
    | with_reducible first
      | assumption | apply Holds.ite | apply State.noteReads_holds
    | intro _ | split | dsimp only

theorem State.greSendAll_holds {ps : Kept} {s : State} {b : GreBucket} {xs : List GreSend} (hq : Holds ps s) :
    Holds ps (State.greSendAll s b xs).1 := by
  unfold State.greSendAll
  dsimp only
  repeat' first
    | with_reducible first
      | assumption | apply Holds.ite | apply State.incFld_holds | apply State.setQueue_holds | apply Holds.foldl
      | apply Holds.ite1 | apply Holds.foldl1
    | fail_if_no_progress with_reducible apply Holds.upd | intro _ | split | dsimp only

theorem State.greBegin_holds {ps : Kept} {s : State} {b : GreBucket} {recs : List (GreRec × Nat)} (hq : Holds ps s) :
    Holds ps (State.greBegin s b recs) := by
  unfold State.greBegin
  dsimp only
  repeat' first
    | with_reducible first
      | assumption | apply Holds.ite | apply State.grePoison_holds | apply State.greSendAll_holds
      | apply State.setBucket_holds | apply Holds.foldl | apply Holds.ite1 | apply Holds.foldl1
    | fail_if_no_progress with_reducible apply Holds.upd | intro _ | dsimp only

theorem execGrPost_holds {ps : Kept} {i : Iss} {a : PostArgs} {s : State} (hq : Holds ps s) :
    Done ps (execGrPost i a s) := by
  unfold execGrPost
  repeat' first
    | with_reducible first
      | assumption | apply Holds.ite | apply State.issueFenced_holds | apply State.postBody_holds | apply Done.next
      | apply Done.ite
    | intro _ | dsimp only

theorem execGreDeadline_holds {ps : Kept} {c : Fin 256} {s : State} (hq : Holds ps s) :
    Done ps (execGreDeadline c s) := by
  unfold execGreDeadline
  repeat' first
    | with_reducible first
      | assumption | apply Holds.ite | apply State.greLate_holds | apply Holds.foldl | apply Holds.ite1 | apply Holds.foldl1
      | apply Done.next | apply Done.ite
    | intro _ | dsimp only

theorem State.greOutcome_holds {ps : Kept} {s : State} {b : GreBucket} {o : Nat} (hq : Holds ps s) :
    Holds ps (State.greOutcome s b o) := by
  unfold State.greOutcome
  dsimp only
  repeat' first
    | with_reducible first
      | assumption | apply Holds.ite | apply State.busPut_holds | apply State.greFinish_holds | apply State.logDeliv_holds
      | apply State.setBucket_holds
    | fail_if_no_progress with_reducible apply Holds.upd | intro _ | split | dsimp only

theorem execGreLateResolved_holds {ps : Kept} {c : Fin 256} {upset : Upset} {s : State} (hq : Holds ps s) :
    Done ps (execGreLateResolved c upset s) := by
  unfold execGreLateResolved
  dsimp only
  repeat' first
    | with_reducible first
      | assumption | apply Holds.ite | apply State.busPut_holds | apply State.busRead_holds | apply State.busWrite_holds
      | apply State.greOutcome_holds | apply State.incFld_holds | apply State.noteReads_holds | apply State.set1_holds
      | apply State.upset_holds | apply Done.next | apply Done.ite
    | fail_if_no_progress with_reducible apply Holds.upd | intro _ | split | dsimp only

theorem State.greCarryIn_holds {ps : Kept} {s : State} {b : GreBucket} (hq : Holds ps s) :
    Holds ps (State.greCarryIn s b).1 := by
  unfold State.greCarryIn
  dsimp only
  repeat' first
    | with_reducible first
      | assumption | apply Holds.ite | apply State.busPut_holds | apply State.grePoison_holds | apply State.incFld_holds
      | apply State.logDeliv_holds | apply State.noteReads_holds | apply State.set1_holds | apply Holds.ite1
      | apply Holds.foldl1
    | fail_if_no_progress with_reducible apply Holds.upd | intro _ | split | dsimp only

theorem execGreBucketStart_holds {ps : Kept} {c : Fin 256} {upset : Upset} {s : State} (hq : Holds ps s) :
    Done ps (execGreBucketStart c upset s) := by
  unfold execGreBucketStart
  dsimp only
  repeat' first
    | with_reducible first
      | assumption | apply Holds.ite | apply State.greBegin_holds | apply State.greCarryIn_holds
      | apply State.greNoteReads_holds | apply State.upset_holds | apply Holds.foldl | apply Holds.ite1 | apply Holds.foldl1
      | apply Done.next | apply Done.ite
    | fail_if_no_progress with_reducible apply Holds.upd | intro _ | split | dsimp only

theorem State.greMismatch_holds {ps : Kept} {s : State} {b : GreBucket} {link field : Nat} (hq : Holds ps s) :
    Holds ps (State.greMismatch s b link field) := by
  unfold State.greMismatch
  repeat' first
    | with_reducible first
      | assumption | apply Holds.ite | apply State.greChanError_holds | apply State.logDeliv_holds | apply State.set1_holds
    | intro _ | dsimp only

theorem State.greApply_holds {ps : Kept} {s : State} {g : GrePlace} {b : GreBucket} {link phase : Nat} {rs : List (GreRec × Bool × List Nat)} (hq : Holds ps s) :
    Holds ps (State.greApply s g b link phase rs) := by
  unfold State.greApply
  dsimp only
  repeat' first
    | with_reducible first
      | assumption | apply Holds.ite | apply State.greDrop_holds | apply State.grePoison_holds | apply State.greSendAll_holds
      | apply State.setBucket_holds | apply Holds.foldl | apply Holds.ite1 | apply Holds.foldl1
    | fail_if_no_progress with_reducible apply Holds.upd | intro _ | split | dsimp only

theorem execGreMessageRx_holds {ps : Kept} {c : Fin 256} {link : Fin 5} {s : State} (hq : Holds ps s) :
    Done ps (execGreMessageRx c link s) := by
  unfold execGreMessageRx
  dsimp only
  repeat' first
    | with_reducible first
      | assumption | apply Holds.ite | apply State.busRead_holds | apply State.dbHead_holds | apply State.greApply_holds
      | apply State.greMismatch_holds | apply State.grePoison_holds | apply State.noteReads_holds | apply Done.next
      | apply Done.ite
    | fail_if_no_progress with_reducible apply Holds.upd | intro _ | split | dsimp only

theorem execGreRerun_holds {ps : Kept} {c : Fin 256} {upset : Upset} {s : State} (hq : Holds ps s) :
    Done ps (execGreRerun c upset s) := by
  unfold execGreRerun
  dsimp only
  repeat' first
    | with_reducible first
      | assumption | apply Holds.ite | apply State.greBegin_holds | apply State.greNoteReads_holds | apply State.incFld_holds
      | apply State.logDeliv_holds | apply State.set1_holds | apply State.upset_holds | apply Holds.foldl | apply Holds.ite1
      | apply Holds.foldl1 | apply Done.next | apply Done.ite
    | fail_if_no_progress with_reducible apply Holds.upd | intro _ | split | dsimp only

theorem execGreBucketComplete_holds {ps : Kept} {c : Fin 256} {s : State} (hq : Holds ps s) :
    Done ps (execGreBucketComplete c s) := by
  unfold execGreBucketComplete
  dsimp only
  repeat' first
    | with_reducible first
      | assumption | apply Holds.ite | apply State.busPut_holds | apply State.greCounted_holds | apply State.greFinish_holds
      | apply State.incFld_holds | apply State.logDeliv_holds | apply State.set1_holds | apply State.setBuckets_holds
      | apply Done.next | apply Done.ite
    | fail_if_no_progress with_reducible apply Holds.upd | intro _ | split | dsimp only

theorem execGreStall_holds {ps : Kept} {c : Fin 256} {s : State} (hq : Holds ps s) :
    Done ps (execGreStall c s) := by
  unfold execGreStall
  dsimp only
  repeat' first
    | with_reducible first
      | assumption | apply Holds.ite | apply State.greChanError_holds | apply State.logDeliv_holds | apply State.set1_holds
      | apply Done.next | apply Done.ite
    | fail_if_no_progress with_reducible apply Holds.upd | intro _ | split | dsimp only

end Sys2Proof.Machine
end

