-- ==== Sys2Proof/Laws/KeepDelivery.lean ====
section
/-! SUPPORT. What the operations of Machine/Delivery.lean keep. -/
set_option linter.unusedTactic false
set_option linter.unreachableTactic false
set_option linter.unusedVariables false
namespace Sys2Proof.Machine

theorem State.tileTide_holds {ps : Kept} {s : State} {t : Nat} (hq : Holds ps s) :
    Holds ps (State.tileTide s t) := by
  unfold State.tileTide
  repeat' first
    | with_reducible first
      | assumption | apply Holds.ite | apply State.countEv_holds | apply State.setStream_holds | apply Holds.foldl
      | apply Holds.ite1 | apply Holds.foldl1
    | fail_if_no_progress with_reducible apply Holds.upd | intro _ | split | dsimp only

theorem State.greTide_holds {ps : Kept} {s : State} {d : Nat} (hq : Holds ps s) :
    Holds ps (State.greTide s d) := by
  unfold State.greTide
  dsimp only
  repeat' first
    | with_reducible first
      | assumption | apply Holds.ite
    | fail_if_no_progress with_reducible apply Holds.upd | intro _ | split | dsimp only

theorem State.deliverTide_holds {ps : Kept} {s : State} {d : Nat} (hq : Holds ps s) :
    Holds ps (State.deliverTide s d) := by
  unfold State.deliverTide
  dsimp only
  repeat' first
    | with_reducible first
      | assumption | apply Holds.ite | apply State.flushVectors_holds | apply State.greTide_holds | apply State.pwrTide_holds
      | apply State.tileTide_holds | apply Holds.foldl | apply Holds.ite1 | apply Holds.foldl1
    | fail_if_no_progress with_reducible apply Holds.upd | intro _ | dsimp only

theorem Holds.updCensus {ps : Kept} {s : State} {f : Nat × Nat → Bool} (h : Holds ps s) :
    Holds ps { s with census := s.census.filter f } := by
  refine ⟨h.1, fun hc => ?_⟩
  obtain ⟨k0, k1, k2, k3, k4, k5, k6, k7, k8, k9, k10, k11, k12, k13, k14, k15, k16, k17, k18, k19, k20⟩ := h.2 hc
  exact ⟨k0, k1, k2, k3, k4, k5, k6, k7, k8, k9, k10, k11, k12, k13, k14, k15, k16, k17, k18, k19, Store.wf_filter _ _ _ k20⟩

theorem State.censusSnap_holds {ps : Kept} {s : State} {t stamp : Nat} (hq : Holds ps s) :
    Holds ps (s.censusSnap t stamp) := by
  unfold State.censusSnap
  exact Holds.updCensus (Holds.foldl (fun s f h => State.setFld_holds (State.setFld_holds (State.setFld_holds h)))
    (State.setFld_holds hq))

theorem State.deliverTides_holds {ps : Kept} {s : State} {first last : Nat} (hq : Holds ps s) :
    Holds ps (State.deliverTides s first last) := by
  unfold State.deliverTides
  dsimp only
  repeat' first
    | with_reducible first
      | assumption | apply Holds.ite | apply State.censusSnap_holds | apply State.deliverTide_holds | apply Holds.foldl
      | apply Holds.ite1 | apply Holds.foldl1
    | intro _ | dsimp only

theorem execTideDelivery_holds {ps : Kept} {time : Nat} {s : State} (hq : Holds ps s) :
    Done ps (execTideDelivery time s) := by
  unfold execTideDelivery
  dsimp only
  repeat' first
    | with_reducible first
      | assumption | apply Holds.ite | apply State.deliverTides_holds | apply State.tideNow_holds | apply Done.next
      | apply Done.ite
    | fail_if_no_progress with_reducible apply Holds.upd | intro _ | split | dsimp only

end Sys2Proof.Machine
end

