-- ==== Sys2Proof/Laws/KeepStreamEvt.lean ====
section
/-! SUPPORT. What the operations of Machine/StreamEvt.lean keep. -/
set_option linter.unusedTactic false
set_option linter.unreachableTactic false
set_option linter.unusedVariables false
namespace Sys2Proof.Machine

theorem fencedBody_holds {ps : Kept} {c : Instr} {r : Iss × (State → State)} (h : fencedBody c = some r) {s : State}
    (hq : Holds ps s) : Holds ps (r.2 s) := by
  unfold fencedBody at h
  split at h
  all_goals first
    | contradiction
    | (simp only [Option.some.injEq] at h
       subst h
       dsimp only
       first
         | with_reducible exact State.tokWaitBody_holds hq
         | with_reducible exact State.frameOpenBody_holds hq
         | with_reducible exact State.postBody_holds hq
         | with_reducible exact State.qPostBody_holds hq
         | with_reducible exact State.grPostBody_holds hq)

theorem execFenceDrainEnd_holds {ps : Kept} {p : StreamAt} {s : State} (hq : Holds ps s) :
    Done ps (execFenceDrainEnd p s) := by
  unfold execFenceDrainEnd
  dsimp only
  repeat' first
    | with_reducible first
      | assumption | apply Holds.ite | apply State.advance_holds | apply State.countIssue_holds | apply fencedBody_holds
      | apply State.haltNow_holds | apply State.setStream_holds | apply Done.next | apply Done.ite
    | fail_if_no_progress with_reducible apply Holds.upd | intro _ | split | refine Holds.pair (by with_reducible assumption) ?_ | dsimp only

theorem execQueueSpaceFree_holds {ps : Kept} {p : StreamAt} {s : State} (hq : Holds ps s) :
    Done ps (execQueueSpaceFree p s) := by
  unfold execQueueSpaceFree
  have h0 : Holds ps (s.advance p.t p.ac) := State.advance_holds hq
  extract_lets s0
  with_reducible apply Done.ite
  · intro _
    exact Done.next hq
  · intro _
    split
    · obtain ⟨c, _, hc⟩ := Option.bind_eq_some_iff.mp ‹_›
      refine Done.next (Holds.ite (fun _ => h0) (fun _ => fencedBody_holds hc h0))
    · exact Done.next h0

end Sys2Proof.Machine
end

