-- ==== Sys2Proof/Laws/KeepBoot.lean ====
section
/-! SUPPORT. What the operations of Machine/Boot.lean keep. -/
set_option linter.unusedTactic false
set_option linter.unreachableTactic false
set_option linter.unusedVariables false
namespace Sys2Proof.Machine

theorem State.flashErase_holds {ps : Kept} {s : State} {o n : Nat} (h : Holds ps s) : Holds ps (s.flashErase o n) := by
  refine ⟨h.1, fun hc => ?_⟩
  obtain ⟨k0, k1, k2, k3, k4, k5, k6, k7, k8, k9, k10, k11, k12, k13, k14, k15, k16, k17, k18, k19, k20⟩ := h.2 hc
  exact ⟨k0, k1, k2, k3, k4, k5, k6, k7, k8, k9, k10, k11, k12, k13, k14, k15, k16, k17, k18, Store.wf_filter _ _ _ k19, k20⟩

theorem State.flashProgram_holds {ps : Kept} {s : State} {o : Nat} {bs : List Byte} (h : Holds ps s) :
    Holds ps (s.flashProgram o bs) := by
  refine ⟨h.1, fun hc => ?_⟩
  obtain ⟨k0, k1, k2, k3, k4, k5, k6, k7, k8, k9, k10, k11, k12, k13, k14, k15, k16, k17, k18, k19, k20⟩ := h.2 hc
  exact ⟨k0, k1, k2, k3, k4, k5, k6, k7, k8, k9, k10, k11, k12, k13, k14, k15, k16, k17, k18, Store.wf_foldl _ (fun _ _ h => Store.wf_put _ _ _ _ h) k19, k20⟩

theorem State.flashSector_holds {ps : Kept} {s : State} {o : Nat} {bs : List Byte} (hq : Holds ps s) :
    Holds ps (State.flashSector s o bs) := by
  unfold State.flashSector
  repeat' first
    | with_reducible first
      | assumption | apply Holds.ite | apply State.flashErase_holds | apply State.flashProgram_holds
    | intro _ | dsimp only

theorem State.bootWrite_holds {ps : Kept} {s : State} {r : BootRec} (hq : Holds ps s) :
    Holds ps (State.bootWrite s r) := by
  unfold State.bootWrite
  dsimp only
  repeat' first
    | with_reducible first
      | assumption | apply Holds.ite | apply State.flashSector_holds
    | fail_if_no_progress with_reducible apply Holds.upd | intro _ | split | dsimp only

theorem State.loadTileMap_holds {ps : Kept} {s : State} (hq : Holds ps s) :
    Holds ps (State.loadTileMap s) := by
  unfold State.loadTileMap
  dsimp only
  repeat' first
    | with_reducible first
      | assumption | apply Holds.ite | apply State.setFld_holds | apply Holds.foldl | apply Holds.ite1 | apply Holds.foldl1
    | intro _ | split | dsimp only

theorem State.loadVf_holds {ps : Kept} {s : State} (hq : Holds ps s) :
    Holds ps (State.loadVf s) := by
  unfold State.loadVf
  repeat' first
    | with_reducible first
      | assumption | apply Holds.ite | apply State.setFld_holds | apply Holds.foldl | apply Holds.ite1 | apply Holds.foldl1
    | intro _ | dsimp only

theorem State.settWrite_holds {ps : Kept} {s : State} {i ver seq : Nat} {pwr mem scrub : Nat} (hq : Holds ps s) :
    Holds ps (State.settWrite s i ver seq pwr mem scrub) := by
  unfold State.settWrite
  dsimp only
  repeat' first
    | with_reducible first
      | assumption | apply Holds.ite | apply State.flashSector_holds
    | intro _ | dsimp only

theorem State.bootSlots_holds {ps : Kept} {s : State} {slot : Nat} (hq : Holds ps s) :
    Holds ps (State.bootSlots s slot).1 := by
  unfold State.bootSlots
  dsimp only
  repeat' first
    | with_reducible first
      | assumption | apply Holds.ite | apply State.bootWrite_holds | apply Holds.ite1 | apply Holds.foldl1
    | fail_if_no_progress with_reducible apply Holds.upd | intro _ | split | dsimp only

theorem State.romMeasure_holds {ps : Kept} {s : State} {slot : Option Nat} (hq : Holds ps s) :
    Holds ps (State.romMeasure s slot) := by
  unfold State.romMeasure
  dsimp only
  repeat' first
    | with_reducible first
      | assumption | apply Holds.ite | apply State.setMeas_holds | apply Holds.foldl | apply Holds.ite1 | apply Holds.foldl1
    | fail_if_no_progress with_reducible apply Holds.upd | intro _ | split | dsimp only

theorem State.romRelease_holds {ps : Kept} {s : State} {k : Nat} (hq : Holds ps s) :
    Holds ps (State.romRelease s k) := by
  unfold State.romRelease
  dsimp only
  repeat' first
    | with_reducible first
      | assumption | apply Holds.ite | apply State.set1_holds | apply State.setFld_holds
    | fail_if_no_progress with_reducible apply Holds.upd | intro _ | split | dsimp only | rw [id_eq]

theorem State.romBoot_holds {ps : Kept} {s : State} (hq : Holds ps s) :
    Holds ps (State.romBoot s) := by
  unfold State.romBoot
  dsimp only
  repeat' first
    | with_reducible first
      | assumption | apply Holds.ite | apply State.bootSlots_holds | apply State.bootWrite_holds
      | apply State.romMeasure_holds | apply State.romRelease_holds | apply State.setFld_holds | apply State.setReg_holds
    | fail_if_no_progress with_reducible apply Holds.upd | intro _ | split | dsimp only

theorem State.roomFor_holds {ps : Kept} {s : State} {src : Nat} (hq : Holds ps s) :
    Holds ps (State.roomFor s src) := by
  unfold State.roomFor
  dsimp only
  repeat' first
    | with_reducible first
      | assumption | apply Holds.ite | apply State.acceptRec_holds
    | fail_if_no_progress with_reducible apply Holds.upd | intro _ | split | dsimp only

theorem State.fwLog_holds {ps : Kept} {s : State} {src code : Nat} {host : Bool} {detail : List (Nat × Nat)} (hq : Holds ps s) :
    Holds ps (State.fwLog s src code host detail) := by
  unfold State.fwLog
  dsimp only
  repeat' first
    | with_reducible first
      | assumption | apply Holds.ite | apply State.arise_holds | apply State.noteTrigger_holds | apply State.roomFor_holds
      | apply State.signal_holds
    | intro _ | split | dsimp only

theorem State.resetDone_holds {ps : Kept} {s : State} {kind where' : Nat} (hq : Holds ps s) :
    Holds ps (State.resetDone s kind where') := by
  unfold State.resetDone
  repeat' first
    | with_reducible first
      | assumption | apply Holds.ite | apply State.logDev_holds | apply State.roomFor_holds | apply State.set1_holds
      | apply State.setFld_holds
    | intro _ | dsimp only

end Sys2Proof.Machine
end

