-- ==== Sys2Proof/Laws/KeepJobs.lean ====
section
/-! SUPPORT. What the operations of Machine/Jobs.lean keep. -/
set_option linter.unusedTactic false
set_option linter.unreachableTactic false
set_option linter.unusedVariables false
namespace Sys2Proof.Machine

theorem State.fwReply_holds {ps : Kept} {s : State} {c status detail : Nat} {payload : List Byte} (hq : Holds ps s) :
    Holds ps (State.fwReply s c status detail payload) := by
  unfold State.fwReply
  repeat' first
    | with_reducible first
      | assumption | apply Holds.ite | apply State.chDone_holds | apply State.mbReply_holds
    | intro _ | dsimp only

theorem State.fwOk_holds {ps : Kept} {s : State} {c : Nat} (hq : Holds ps s) :
    Holds ps (State.fwOk s c) := by
  unfold State.fwOk
  repeat' first
    | with_reducible first
      | assumption | apply Holds.ite | apply State.fwReply_holds
    | intro _ | dsimp only

theorem State.fwInvalid_holds {ps : Kept} {s : State} {c detail : Nat} (hq : Holds ps s) :
    Holds ps (State.fwInvalid s c detail) := by
  unfold State.fwInvalid
  repeat' first
    | with_reducible first
      | assumption | apply Holds.ite | apply State.fwReply_holds
    | intro _ | dsimp only

theorem State.fwCmd_holds {ps : Kept} {s : State} {c : Fin 24} {cmd : Nat} {body : State → State} (hq : Holds ps s) (hbody : ∀ x0, Holds ps x0 → Holds ps (body x0)) :
    Holds ps (State.fwCmd s c cmd body) := by
  unfold State.fwCmd
  repeat' first
    | with_reducible first
      | assumption | apply Holds.ite | apply State.fwInvalid_holds | apply State.fwReply_holds | apply hbody
    | intro _ | split | dsimp only

theorem State.fwImages_holds {ps : Kept} {s : State} {ok : Nat → Bool} {err : Field} {xs : List RegImage} (hq : Holds ps s) :
    Opt ps (State.fwImages s ok err xs) := by
  unfold State.fwImages
  dsimp only
  repeat' first
    | with_reducible first
      | assumption | apply Holds.ite | apply State.busPut_holds | apply State.set1_holds | apply State.setFld_holds
      | apply Holds.foldl | apply Holds.ite1 | apply Holds.foldl1 | apply Opt.some | exact Opt.none | apply Opt.ite
    | intro _ | split | dsimp only

theorem State.fwConfig_holds {ps : Kept} {s : State} {c : Nat} {ok : Nat → Bool} {err : Field} {xs : List RegImage} (hq : Holds ps s) :
    Holds ps (State.fwConfig s c ok err xs) := by
  unfold State.fwConfig
  repeat' first
    | with_reducible first
      | assumption | apply Holds.ite | apply State.fwImages_holds | apply State.fwInvalid_holds | apply State.fwOk_holds
    | fail_if_no_progress with_reducible apply Holds.upd | intro _ | split | dsimp only | refine Opt.get (by with_reducible assumption) ?_

theorem execChanConfig_holds {ps : Kept} {c : Fin 24} {images : List RegImage} {s : State} (hq : Holds ps s) :
    Done ps (execChanConfig c images s) := by
  unfold execChanConfig
  repeat' first
    | with_reducible first
      | assumption | apply Holds.ite | apply State.fwCmd_holds | apply State.fwConfig_holds | apply Done.next
      | apply Done.ite
    | intro _ | dsimp only

theorem execTideConfig_holds {ps : Kept} {c : Fin 24} {images : List RegImage} {time : Nat} {s : State} (hq : Holds ps s) :
    Done ps (execTideConfig c images time s) := by
  unfold execTideConfig
  repeat' first
    | with_reducible first
      | assumption | apply Holds.ite | apply State.fwCmd_holds | apply State.fwConfig_holds | apply State.tideNow_holds
      | apply Done.next | apply Done.ite
    | intro _ | dsimp only

theorem execFabricConfig_holds {ps : Kept} {c : Fin 24} {images : List RegImage} {s : State} (hq : Holds ps s) :
    Done ps (execFabricConfig c images s) := by
  unfold execFabricConfig
  repeat' first
    | with_reducible first
      | assumption | apply Holds.ite | apply State.fwCmd_holds | apply State.fwConfig_holds | apply Done.next
      | apply Done.ite
    | intro _ | dsimp only

theorem execBudgetConfig_holds {ps : Kept} {c : Fin 24} {images : List RegImage} {s : State} (hq : Holds ps s) :
    Done ps (execBudgetConfig c images s) := by
  unfold execBudgetConfig
  repeat' first
    | with_reducible first
      | assumption | apply Holds.ite | apply State.fwCmd_holds | apply State.fwConfig_holds | apply Done.next
      | apply Done.ite
    | intro _ | dsimp only

theorem execQueryInfo_holds {ps : Kept} {c : Fin 24} {s : State} (hq : Holds ps s) :
    Done ps (execQueryInfo c s) := by
  unfold execQueryInfo
  dsimp only
  repeat' first
    | with_reducible first
      | assumption | apply Holds.ite | apply State.fwCmd_holds | apply State.fwReply_holds | apply Done.next | apply Done.ite
    | intro _ | split | dsimp only

theorem execQueryEvents_holds {ps : Kept} {c : Fin 24} {pos : BitVec 32} {n : Nat} {s : State} (hq : Holds ps s) :
    Done ps (execQueryEvents c pos n s) := by
  unfold execQueryEvents
  dsimp only
  repeat' first
    | with_reducible first
      | assumption | apply Holds.ite | apply State.busRead_holds | apply State.fwCmd_holds | apply State.fwInvalid_holds
      | apply State.fwReply_holds | apply Holds.foldl | apply Holds.ite1 | apply Holds.foldl1 | apply Done.next
      | apply Done.ite
    | intro _ | split | dsimp only

theorem execQueryState_holds {ps : Kept} {c : Fin 24} {s : State} (hq : Holds ps s) :
    Done ps (execQueryState c s) := by
  unfold execQueryState
  repeat' first
    | with_reducible first
      | assumption | apply Holds.ite | apply State.fwCmd_holds | apply State.fwReply_holds | apply Done.next | apply Done.ite
    | intro _ | dsimp only

theorem execAlloc_holds {ps : Kept} {c : Fin 24} {region : Fin 3} {size : Nat} {place : Option Nat} {s : State} (hq : Holds ps s) :
    Done ps (execAlloc c region size place s) := by
  unfold execAlloc
  dsimp only
  repeat' first
    | with_reducible first
      | assumption | apply Holds.ite | apply State.fwCmd_holds | apply State.fwInvalid_holds | apply State.fwReply_holds
      | apply Done.next | apply Done.ite
    | fail_if_no_progress with_reducible apply Holds.upd | intro _ | split | dsimp only

theorem execFree_holds {ps : Kept} {c : Fin 24} {handle : BitVec 32} {s : State} (hq : Holds ps s) :
    Done ps (execFree c handle s) := by
  unfold execFree
  repeat' first
    | with_reducible first
      | assumption | apply Holds.ite | apply State.fwCmd_holds | apply State.fwInvalid_holds | apply State.fwOk_holds
      | apply Done.next | apply Done.ite
    | fail_if_no_progress with_reducible apply Holds.upd | intro _ | split | dsimp only

theorem execTensorCreate_holds {ps : Kept} {c : Fin 24} {image window : List (BitVec 64)} {dest : BitVec 64} {s : State} (hq : Holds ps s) :
    Done ps (execTensorCreate c image window dest s) := by
  unfold execTensorCreate
  dsimp only
  repeat' first
    | with_reducible first
      | assumption | apply Holds.ite | apply State.busPut_holds | apply State.fabSend_holds | apply State.fwCmd_holds
      | apply State.fwInvalid_holds | apply State.fwOk_holds | apply Holds.foldl | apply Holds.ite1 | apply Holds.foldl1
      | apply Done.next | apply Done.ite
    | fail_if_no_progress with_reducible apply Holds.upd | intro _ | split | dsimp only

theorem State.jobTile_holds {ps : Kept} {s : State} {j : JobTile} (hq : Holds ps s) :
    Opt ps (State.jobTile s j) := by
  unfold State.jobTile
  dsimp only
  repeat' first
    | with_reducible first
      | assumption | apply Holds.ite | apply State.busPut_holds | apply State.start_holds | apply Holds.foldl
      | apply Holds.ite1 | apply Holds.foldl1 | apply Opt.some | exact Opt.none | apply Opt.ite
    | intro _ | split | dsimp only

theorem execJobStart_holds {ps : Kept} {c : Fin 24} {tiles : List JobTile} {s : State} (hq : Holds ps s) :
    Done ps (execJobStart c tiles s) := by
  unfold execJobStart
  refine Done.next (State.fwCmd_holds hq (fun s h => ?_))
  have ho := Opt.foldl (l := tiles) (fun s x h => State.jobTile_holds (j := x) h) (Opt.some h)
  split
  · exact State.fwOk_holds (ho _ ‹_›)
  · exact State.fwInvalid_holds h

theorem Holds.updLxe {ps : Kept} {s : State} {f : Nat × List LxeRun → Bool} {v : FabUnit}
    {w : List (Nat × Nat × BitVec 32 × Bool)} (h : Holds ps s) :
    Holds ps { s with lxe := s.lxe.filter f, linkFly := w, fab := v } := by
  refine ⟨h.1, fun hc => ?_⟩
  obtain ⟨k0, k1, k2, k3, k4, k5, k6, k7, k8, k9, k10, k11, k12, k13, k14, k15, k16, k17, k18, k19, k20⟩ := h.2 hc
  exact ⟨k0, k1, k2, k3, k4, k5, k6, k7, k8, k9, k10, k11, k12, k13, k14, Store.wf_filter _ _ _ k15, k16, k17, k18, k19, k20⟩

theorem State.stopTile_holds {ps : Kept} {s : State} {t : Nat} (hq : Holds ps s) : Holds ps (s.stopTile t) := by
  unfold State.stopTile
  dsimp only
  refine Holds.updLxe (State.setSpeRun_holds (State.setMxau_holds (Holds.foldl (fun s e h => State.setEng_holds h)
    (State.setTile_holds (Holds.foldl (fun s st h => State.setStState_holds (State.setStream_holds h)) hq)))))

theorem State.clearTile_holds {ps : Kept} {s : State} {t : Nat} (h : Holds ps s) : Holds ps (s.clearTile t) := by
  unfold State.clearTile
  dsimp only
  apply State.setTile_holds
  refine ⟨h.1, fun hc => ?_⟩
  obtain ⟨k0, k1, k2, k3, k4, k5, k6, k7, k8, k9, k10, k11, k12, k13, k14, k15, k16, k17, k18, k19, k20⟩ := h.2 hc
  exact ⟨Store.wf_filter _ _ _ k0, k1, k2, k3, Store.wf_filter _ _ _ k4, Store.wf_filter _ _ _ k5, Store.wf_filter _ _ _ k6, Store.wf_filter _ _ _ k7, Store.wf_filter _ _ _ k8, Store.wf_filter _ _ _ k9, Store.wf_filter _ _ _ k10, Store.wf_filter _ _ _ k11, Store.wf_filter _ _ _ k12, Store.wf_filter _ _ _ k13, Store.wf_filter _ _ _ k14, Store.wf_filter _ _ _ k15, k16, k17, k18, k19, Store.wf_filter _ _ _ k20⟩

theorem State.stopJob_holds {ps : Kept} {s : State} (hq : Holds ps s) :
    Holds ps (State.stopJob s) := by
  unfold State.stopJob
  dsimp only
  repeat' first
    | with_reducible first
      | assumption | apply Holds.ite | apply State.queueClose_holds | apply State.setFld_holds | apply State.setQueue_holds
      | apply State.stopTile_holds | apply Holds.foldl | apply Holds.ite1 | apply Holds.foldl1
    | fail_if_no_progress with_reducible apply Holds.upd | intro _ | split | dsimp only

theorem State.diesDown_holds {ps : Kept} {s : State} (hq : Holds ps s) :
    Holds ps (State.diesDown s) := by
  unfold State.diesDown
  repeat' first
    | with_reducible first
      | assumption | apply Holds.ite | apply State.clearTile_holds | apply State.setRails_holds | apply State.stopTile_holds
      | apply Holds.foldl | apply Holds.ite1 | apply Holds.foldl1
    | intro _ | dsimp only

theorem State.clearJob_holds {ps : Kept} {s : State} (hq : Holds ps s) :
    Holds ps (State.clearJob s) := by
  unfold State.clearJob
  dsimp only
  repeat' first
    | with_reducible first
      | assumption | apply Holds.ite | apply State.clearTile_holds | apply Holds.foldl | apply Holds.ite1
      | apply Holds.foldl1 | apply Holds.updRegs
    | fail_if_no_progress with_reducible apply Holds.upd | intro _ | dsimp only

theorem execJobReset_holds {ps : Kept} {c : Fin 24} {s : State} (hq : Holds ps s) :
    Done ps (execJobReset c s) := by
  unfold execJobReset
  repeat' first
    | with_reducible first
      | assumption | apply Holds.ite | apply State.fwCmd_holds | apply State.fwReply_holds | apply State.stopJob_holds
      | apply Done.next | apply Done.ite
    | fail_if_no_progress with_reducible apply Holds.upd | intro _ | split | dsimp only

theorem execJobResetComplete_holds {ps : Kept} {s : State} (hq : Holds ps s) :
    Done ps (execJobResetComplete s) := by
  unfold execJobResetComplete
  dsimp only
  repeat' first
    | with_reducible first
      | assumption | apply Holds.ite | apply State.clearJob_holds | apply State.fwOk_holds | apply State.resetDone_holds
      | apply Done.next | apply Done.ite
    | fail_if_no_progress with_reducible apply Holds.upd | intro _ | split | dsimp only

theorem execTileReset_holds {ps : Kept} {c : Fin 24} {t : BitVec 8} {s : State} (hq : Holds ps s) :
    Done ps (execTileReset c t s) := by
  unfold execTileReset
  repeat' first
    | with_reducible first
      | assumption | apply Holds.ite | apply State.clearTile_holds | apply State.fwCmd_holds | apply State.fwInvalid_holds
      | apply State.fwOk_holds | apply State.fwReply_holds | apply State.resetDone_holds | apply State.stopTile_holds
      | apply Done.next | apply Done.ite
    | intro _ | split | dsimp only

theorem State.portReset_holds {ps : Kept} {s : State} {p h : Nat} (hq : Holds ps s) :
    Holds ps (State.portReset s p h) := by
  unfold State.portReset
  dsimp only
  repeat' first
    | with_reducible first
      | assumption | apply Holds.ite | apply State.linkLost_holds | apply State.linkReset_holds | apply State.portClear_holds
    | intro _ | split | dsimp only

theorem execPortReset_holds {ps : Kept} {c : Fin 24} {port : BitVec 8} {half : Bool} {s : State} (hq : Holds ps s) :
    Done ps (execPortReset c port half s) := by
  unfold execPortReset
  repeat' first
    | with_reducible first
      | assumption | apply Holds.ite | apply State.fwCmd_holds | apply State.fwInvalid_holds | apply State.fwOk_holds
      | apply State.portReset_holds | apply State.resetDone_holds | apply Done.next | apply Done.ite
    | intro _ | split | dsimp only

theorem execQueueConfig_holds {ps : Kept} {c : Fin 24} {q : BitVec 16} {image : List (BitVec 64)} {cmd : BitVec 2} {s : State} (hq : Holds ps s) :
    Done ps (execQueueConfig c q image cmd s) := by
  unfold execQueueConfig
  dsimp only
  repeat' first
    | with_reducible first
      | assumption | apply Holds.ite | apply State.busPut_holds | apply State.fwCmd_holds | apply State.fwInvalid_holds
      | apply State.fwOk_holds | apply State.qctlWrite_holds | apply State.set1_holds | apply State.setFld_holds
      | apply Done.next | apply Done.ite
    | intro _ | split | dsimp only

theorem execFwUpdateBegin_holds {ps : Kept} {c : Fin 24} {s : State} (hq : Holds ps s) :
    Done ps (execFwUpdateBegin c s) := by
  unfold execFwUpdateBegin
  dsimp only
  repeat' first
    | with_reducible first
      | assumption | apply Holds.ite | apply State.bootWrite_holds | apply State.flashErase_holds | apply State.fwCmd_holds
      | apply State.fwInvalid_holds | apply State.fwOk_holds | apply State.fwReply_holds | apply Done.next | apply Done.ite
    | fail_if_no_progress with_reducible apply Holds.upd | intro _ | split | dsimp only

theorem State.fwBlock_holds {ps : Kept} {s : State} {u : FwUpd} {src i : Nat} (hq : Holds ps s) :
    Holds ps (State.fwBlock s u src i).1 := by
  unfold State.fwBlock
  dsimp only
  repeat' first
    | with_reducible first
      | assumption | apply Holds.ite | apply State.busRead_holds | apply State.flashProgram_holds | apply Holds.ite1
      | apply Holds.foldl1
    | fail_if_no_progress with_reducible apply Holds.upd | intro _ | split | dsimp only

theorem execFwUpdateData_holds {ps : Kept} {c : Fin 24} {s : State} (hq : Holds ps s) :
    Done ps (execFwUpdateData c s) := by
  unfold execFwUpdateData
  dsimp only
  repeat' first
    | with_reducible first
      | assumption | apply Holds.ite | apply State.fwBlock_holds | apply State.fwCmd_holds | apply State.fwInvalid_holds
      | apply State.fwOk_holds | apply State.fwReply_holds | apply Holds.foldl | apply Holds.ite1 | apply Holds.foldl1
      | apply Done.next | apply Done.ite
    | fail_if_no_progress with_reducible apply Holds.upd | intro _ | split | dsimp only

theorem execFwUpdateCommit_holds {ps : Kept} {c : Fin 24} {s : State} (hq : Holds ps s) :
    Done ps (execFwUpdateCommit c s) := by
  unfold execFwUpdateCommit
  dsimp only
  repeat' first
    | with_reducible first
      | assumption | apply Holds.ite | apply State.bootWrite_holds | apply State.fwCmd_holds | apply State.fwInvalid_holds
      | apply State.fwOk_holds | apply State.fwReply_holds | apply Done.next | apply Done.ite
    | fail_if_no_progress with_reducible apply Holds.upd | intro _ | split | dsimp only

theorem execHealthConfirm_holds {ps : Kept} {c : Fin 24} {s : State} (hq : Holds ps s) :
    Done ps (execHealthConfirm c s) := by
  unfold execHealthConfirm
  dsimp only
  repeat' first
    | with_reducible first
      | assumption | apply Holds.ite | apply State.bootWrite_holds | apply State.fwCmd_holds | apply State.fwInvalid_holds
      | apply State.fwLog_holds | apply State.fwOk_holds | apply State.trialStop_holds | apply Done.next | apply Done.ite
    | fail_if_no_progress with_reducible apply Holds.upd | intro _ | split | dsimp only

theorem execAttest_holds {ps : Kept} {c : Fin 24} {s : State} (hq : Holds ps s) :
    Done ps (execAttest c s) := by
  unfold execAttest
  dsimp only
  repeat' first
    | with_reducible first
      | assumption | apply Holds.ite | apply State.attGo_holds | apply State.fwCmd_holds | apply State.fwInvalid_holds
      | apply State.fwReply_holds | apply State.setReg_holds | apply Holds.foldl | apply Holds.ite1 | apply Holds.foldl1
      | apply Done.next | apply Done.ite
    | fail_if_no_progress with_reducible apply Holds.upd | intro _ | split | dsimp only

theorem execAttestReportDone_holds {ps : Kept} {late : Bool} {s : State} (hq : Holds ps s) :
    Done ps (execAttestReportDone late s) := by
  unfold execAttestReportDone
  dsimp only
  repeat' first
    | with_reducible first
      | assumption | apply Holds.ite | apply State.busPut_holds | apply State.fwInvalid_holds | apply State.fwReply_holds
      | apply State.incFld_holds | apply State.set1_holds | apply State.setFld_holds | apply Done.next | apply Done.ite
    | fail_if_no_progress with_reducible apply Holds.upd | intro _ | split | dsimp only

theorem execPowerLimit_holds {ps : Kept} {c : Fin 24} {cap fmax : BitVec 16} {s : State} (hq : Holds ps s) :
    Done ps (execPowerLimit c cap fmax s) := by
  unfold execPowerLimit
  dsimp only
  repeat' first
    | with_reducible first
      | assumption | apply Holds.ite | apply State.fwCmd_holds | apply State.fwInvalid_holds | apply State.fwOk_holds
      | apply State.pwrCtl_holds | apply State.setFld_holds | apply Done.next | apply Done.ite
    | intro _ | split | dsimp only

theorem execSettingsSave_holds {ps : Kept} {c : Fin 24} {s : State} (hq : Holds ps s) :
    Done ps (execSettingsSave c s) := by
  unfold execSettingsSave
  dsimp only
  repeat' first
    | with_reducible first
      | assumption | apply Holds.ite | apply State.fwCmd_holds | apply State.fwOk_holds | apply State.settWrite_holds
      | apply Done.next | apply Done.ite
    | fail_if_no_progress with_reducible apply Holds.upd | intro _ | split | dsimp only

theorem execFactoryRead_holds {ps : Kept} {c : Fin 24} {s : State} (hq : Holds ps s) :
    Done ps (execFactoryRead c s) := by
  unfold execFactoryRead
  dsimp only
  repeat' first
    | with_reducible first
      | assumption | apply Holds.ite | apply State.fwCmd_holds | apply State.fwInvalid_holds | apply State.fwReply_holds
      | apply Done.next | apply Done.ite
    | intro _ | split | dsimp only

theorem execWarmReset_holds {ps : Kept} {c : Fin 24} {s : State} (hq : Holds ps s) :
    Done ps (execWarmReset c s) := by
  unfold execWarmReset
  repeat' first
    | with_reducible first
      | assumption | apply Holds.ite | apply State.askReset_holds | apply State.fwCmd_holds | apply State.fwOk_holds
      | apply Done.next | apply Done.ite
    | intro _ | dsimp only

theorem execMgpRestart_holds {ps : Kept} {c : Fin 24} {s : State} (hq : Holds ps s) :
    Done ps (execMgpRestart c s) := by
  unfold execMgpRestart
  repeat' first
    | with_reducible first
      | assumption | apply Holds.ite | apply State.askReset_holds | apply State.fwCmd_holds | apply State.fwOk_holds
      | apply Done.next | apply Done.ite
    | intro _ | dsimp only

end Sys2Proof.Machine
end

