-- ==== Sys2Proof/Laws/KeepResets.lean ====
section
/-! SUPPORT. What the operations of Machine/Resets.lean keep. -/
set_option linter.unusedTactic false
set_option linter.unreachableTactic false
set_option linter.unusedVariables false
namespace Sys2Proof.Machine

theorem State.deriveKey_holds {ps : Kept} {s : State} (hq : Holds ps s) :
    Holds ps (State.deriveKey s) := by
  unfold State.deriveKey
  repeat' first
    | with_reducible first
      | assumption | apply Holds.ite | apply State.setReg_holds | apply Holds.foldl | apply Holds.ite1 | apply Holds.foldl1
    | intro _ | dsimp only

theorem State.reset_holds {c : Prop} : Holds ⟨State.reset.pending, c⟩ State.reset := by
  refine ⟨rfl, fun _ => ?_⟩
  unfold State.canonical
  refine ⟨rfl, rfl, rfl, rfl, rfl, rfl, rfl, rfl, rfl, rfl, rfl, rfl, rfl, rfl, rfl, rfl, rfl, rfl, rfl, rfl, rfl⟩

theorem State.outside_holds {ps : Kept} {new old : State} (h : Holds ⟨new.pending, ps.canon⟩ new) (ho : Holds ps old) :
    Holds ps (new.outside old) := by
  refine ⟨ho.1, fun hc => ?_⟩
  obtain ⟨k0, k1, k2, k3, k4, k5, k6, k7, k8, k9, k10, k11, k12, k13, k14, k15, k16, k17, k18, k19, k20⟩ := h.2 hc
  obtain ⟨j0, j1, j2, j3, j4, j5, j6, j7, j8, j9, j10, j11, j12, j13, j14, j15, j16, j17, j18, j19, j20⟩ := ho.2 hc
  exact ⟨k0, k1, k2, k3, k4, k5, k6, k7, k8, k9, k10, k11, k12, k13, k14, k15, k16, k17, k18, j19, k20⟩

theorem State.coldReset_holds {ps : Kept} {s : State} (hq : Holds ps s) : Holds ps (State.coldReset s) := by
  unfold State.coldReset
  have h := State.deriveKey_holds (State.outside_holds State.reset_holds hq)
  exact State.romBoot_holds (Holds.upd h)

theorem execColdReset_holds {ps : Kept} {s : State} (hq : Holds ps s) :
    Done ps (execColdReset s) := by
  unfold execColdReset
  repeat' first
    | with_reducible first
      | assumption | apply Holds.ite | apply State.coldReset_holds | apply Done.next | apply Done.ite
    | intro _ | split | dsimp only

theorem execThermalTrip_holds {ps : Kept} {die : Fin 4} {sensor : Fin 16} {temp : Nat} {s : State} (hq : Holds ps s) :
    Done ps (execThermalTrip die sensor temp s) := by
  unfold execThermalTrip
  dsimp only
  repeat' first
    | with_reducible first
      | assumption | apply Holds.ite | apply State.diesDown_holds | apply Done.next | apply Done.ite
    | fail_if_no_progress with_reducible apply Holds.upd | intro _ | split | dsimp only

theorem State.setCap_holds {ps : Kept} {s : State} {cap : Nat} (hq : Holds ps s) :
    Holds ps (State.setCap s cap) := by
  unfold State.setCap
  dsimp only
  repeat' first
    | with_reducible first
      | assumption | apply Holds.ite | apply State.capUpdate_holds | apply State.setFld_holds
    | fail_if_no_progress with_reducible apply Holds.upd | intro _ | split | dsimp only

theorem State.abortAll_holds {ps : Kept} {s : State} (hq : Holds ps s) :
    Holds ps (State.abortAll s) := by
  unfold State.abortAll
  dsimp only
  repeat' first
    | with_reducible first
      | assumption | apply Holds.ite | apply State.chAbort_holds | apply State.mbPut_holds | apply State.setFld_holds
      | apply Holds.foldl | apply Holds.ite1 | apply Holds.foldl1
    | intro _ | split | dsimp only

theorem State.warmClear_holds {ps : Kept} {s : State} {kind : Nat} (hq : Holds ps s) : Holds ps (State.warmClear s kind) := by
  unfold State.warmClear
  have h0 : Holds ps (if s.fld F.TIDE_CTL_ROLE = 0 then s else s.tideRole 0) :=
    Holds.ite (fun _ => hq) (fun _ => State.tideRole_holds hq)
  have hr := fun hc => (State.reset_holds (c := ps.canon)).2 hc
  dsimp only
  repeat' first
    | with_reducible apply State.abortAll_holds
    | with_reducible apply State.deriveKey_holds
    | with_reducible apply State.capUpdate_holds
    | with_reducible apply State.setFld_holds
    | fail_if_no_progress with_reducible apply Holds.upd
    | (refine ⟨h0.1, fun hc => ?_⟩
       obtain ⟨k0, k1, k2, k3, k4, k5, k6, k7, k8, k9, k10, k11, k12, k13, k14, k15, k16, k17, k18, k19, k20⟩ := h0.2 hc
       obtain ⟨j0, j1, j2, j3, j4, j5, j6, j7, j8, j9, j10, j11, j12, j13, j14, j15, j16, j17, j18, j19, j20⟩ := hr hc
       exact ⟨Store.wf_filter _ _ _ k0, k1, k2, j3, j4, j5, j6, j7, j8, j9, j10, j11, j12, j13, j14, j15, k16, k17, k18, k19, j20⟩)

theorem execWarmResetStart_holds {ps : Kept} {s : State} (hq : Holds ps s) :
    Done ps (execWarmResetStart s) := by
  unfold execWarmResetStart
  repeat' first
    | with_reducible first
      | assumption | apply Holds.ite | apply State.romBoot_holds | apply State.warmClear_holds | apply Done.next
      | apply Done.ite
    | fail_if_no_progress with_reducible apply Holds.upd | intro _ | split | dsimp only

theorem execFlr_holds {ps : Kept} {s : State} (hq : Holds ps s) :
    Done ps (execFlr s) := by
  unfold execFlr
  repeat' first
    | with_reducible first
      | assumption | apply Holds.ite | apply State.askReset_holds | apply Done.next | apply Done.ite
    | intro _ | dsimp only

theorem State.mgpClear_holds {ps : Kept} {s : State} (hq : Holds ps s) :
    Holds ps (State.mgpClear s) := by
  unfold State.mgpClear
  dsimp only
  repeat' first
    | with_reducible first
      | assumption | apply Holds.ite | apply State.chAbort_holds | apply State.reset_holds | apply State.setFld_holds
      | apply State.setReg_holds | apply Holds.foldl | apply Holds.ite1 | apply Holds.foldl1
    | fail_if_no_progress with_reducible apply Holds.upd | intro _ | split | dsimp only

theorem execMgpRestartStart_holds {ps : Kept} {s : State} (hq : Holds ps s) :
    Done ps (execMgpRestartStart s) := by
  unfold execMgpRestartStart
  dsimp only
  repeat' first
    | with_reducible first
      | assumption | apply Holds.ite | apply State.mgpClear_holds | apply State.romBoot_holds | apply Done.next
      | apply Done.ite
    | fail_if_no_progress with_reducible apply Holds.upd | intro _ | split | dsimp only

theorem State.badField_holds {ps : Kept} {s : State} {copy k : Nat} (hq : Holds ps s) :
    Holds ps (State.badField s copy k) := by
  unfold State.badField
  repeat' first
    | with_reducible first
      | assumption | apply Holds.ite | apply State.fwLog_holds
    | intro _ | dsimp only

theorem State.settField_holds {ps : Kept} {s : State} {copy k : Nat} {f : Field} {img a b : Nat} (hq : Holds ps s) :
    Holds ps (State.settField s copy k f img a b) := by
  unfold State.settField
  dsimp only
  repeat' first
    | with_reducible first
      | assumption | apply Holds.ite | apply State.badField_holds | apply State.setCap_holds | apply State.setFld_holds
    | intro _ | split | dsimp only

theorem State.settApply_holds {ps : Kept} {s : State} {i : Nat} (hq : Holds ps s) :
    Holds ps (State.settApply s i) := by
  unfold State.settApply
  dsimp only
  repeat' first
    | with_reducible first
      | assumption | apply Holds.ite | apply State.badField_holds | apply State.memScrubWrite_holds
      | apply State.plainWrite_holds | apply State.settField_holds
    | fail_if_no_progress with_reducible apply Holds.upd | intro _ | split | dsimp only

theorem State.takeSettings_holds {ps : Kept} {s : State} {apply : Bool} (hq : Holds ps s) :
    Holds ps (State.takeSettings s apply) := by
  unfold State.takeSettings
  dsimp only
  repeat' first
    | with_reducible first
      | assumption | apply Holds.ite | apply State.extend_holds | apply State.fwLog_holds | apply State.settApply_holds
      | apply State.settWrite_holds
    | fail_if_no_progress with_reducible apply Holds.upd | intro _ | split | dsimp only

theorem State.logStart_holds {ps : Kept} {s : State} (hq : Holds ps s) :
    Holds ps (State.logStart s) := by
  unfold State.logStart
  dsimp only
  repeat' first
    | with_reducible first
      | assumption | apply Holds.ite | apply State.fwLog_holds
    | fail_if_no_progress with_reducible apply Holds.upd | intro _ | split | refine Holds.pair (by with_reducible assumption) ?_ | dsimp only

theorem State.warmDone_holds {ps : Kept} {s : State} (hq : Holds ps s) :
    Holds ps (State.warmDone s) := by
  unfold State.warmDone
  dsimp only
  repeat' first
    | with_reducible first
      | assumption | apply Holds.ite | apply State.ringWrite_holds | apply Holds.foldl | apply Holds.ite1
      | apply Holds.foldl1
    | fail_if_no_progress with_reducible apply Holds.upd | intro _ | split | dsimp only

theorem State.firstRails_holds {ps : Kept} {s : State} (hq : Holds ps s) :
    Holds ps (State.firstRails s) := by
  unfold State.firstRails
  repeat' first
    | with_reducible first
      | assumption | apply Holds.ite | apply State.setRails_holds
    | intro _ | split | dsimp only

theorem State.takeFactory_holds {ps : Kept} {s : State} {bad : Nat} (hq : Holds ps s) :
    Holds ps (State.takeFactory s bad) := by
  unfold State.takeFactory
  repeat' first
    | with_reducible first
      | assumption | apply Holds.ite | apply State.diesDown_holds | apply State.firstRails_holds | apply State.fwLog_holds
      | apply State.loadTileMap_holds | apply State.loadVf_holds
    | fail_if_no_progress with_reducible apply Holds.upd | intro _ | split | dsimp only

theorem execFirmwareStart_holds {ps : Kept} {s : State} (hq : Holds ps s) :
    Done ps (execFirmwareStart s) := by
  unfold execFirmwareStart
  dsimp only
  repeat' first
    | with_reducible first
      | assumption | apply Holds.ite | apply State.fwLog_holds | apply State.logStart_holds | apply State.resetDone_holds
      | apply State.set1_holds | apply State.takeFactory_holds | apply State.takeSettings_holds | apply State.warmDone_holds
      | apply Done.next | apply Done.ite
    | fail_if_no_progress with_reducible apply Holds.upd | intro _ | split | dsimp only

end Sys2Proof.Machine
end

