-- ==== Sys2Proof/Laws/KeepModule.lean ====
section
/-! SUPPORT. What the operations of Machine/Module.lean keep. -/
set_option linter.unusedTactic false
set_option linter.unreachableTactic false
set_option linter.unusedVariables false
namespace Sys2Proof.Machine

theorem State.powerDown_holds {ps : Kept} {s : State} (hq : Holds ps s) :
    Holds ps (State.powerDown s) := by
  unfold State.powerDown
  dsimp only
  repeat' first
    | with_reducible first
      | assumption | apply Holds.ite | apply State.outside_holds | apply State.reset_holds
    | fail_if_no_progress with_reducible apply Holds.upd | intro _ | dsimp only

theorem State.powerUp_holds {ps : Kept} {s : State} {failed : Option Nat} (hq : Holds ps s) :
    Holds ps (State.powerUp s failed) := by
  unfold State.powerUp
  repeat' first
    | with_reducible first
      | assumption | apply Holds.ite
    | fail_if_no_progress with_reducible apply Holds.upd | intro _ | split | dsimp only

theorem execStandbyUp_holds {ps : Kept} {s : State} (hq : Holds ps s) :
    Done ps (execStandbyUp s) := by
  unfold execStandbyUp
  repeat' first
    | with_reducible first
      | assumption | apply Holds.ite | apply Done.next | apply Done.ite
    | fail_if_no_progress with_reducible apply Holds.upd | intro _ | dsimp only

theorem execPwrEnAssert_holds {ps : Kept} {lowMs : Nat} {failed : Option (BitVec 8)} {s : State} (hq : Holds ps s) :
    Done ps (execPwrEnAssert lowMs failed s) := by
  unfold execPwrEnAssert
  dsimp only
  repeat' first
    | with_reducible first
      | assumption | apply Holds.ite | apply State.powerUp_holds | apply Done.next | apply Done.ite
    | fail_if_no_progress with_reducible apply Holds.upd | intro _ | split | dsimp only

theorem execPwrEnDeassert_holds {ps : Kept} {s : State} (hq : Holds ps s) :
    Done ps (execPwrEnDeassert s) := by
  unfold execPwrEnDeassert
  repeat' first
    | with_reducible first
      | assumption | apply Holds.ite | apply State.powerDown_holds | apply Done.next | apply Done.ite
    | intro _ | split | dsimp only

theorem execInputUndervoltage_holds {ps : Kept} {s : State} (hq : Holds ps s) :
    Done ps (execInputUndervoltage s) := by
  unfold execInputUndervoltage
  repeat' first
    | with_reducible first
      | assumption | apply Holds.ite | apply State.powerDown_holds | apply Done.next | apply Done.ite
    | intro _ | dsimp only

theorem execModWake_holds {ps : Kept} {s : State} (hq : Holds ps s) :
    Done ps (execModWake s) := by
  unfold execModWake
  repeat' first
    | with_reducible first
      | assumption | apply Holds.ite | apply State.wake_holds | apply Done.next | apply Done.ite
    | intro _ | split | dsimp only

theorem State.smbAnswer_holds {ps : Kept} {s : State} {a : Option (List Byte)} (hq : Holds ps s) :
    Holds ps (State.smbAnswer s a) := by
  unfold State.smbAnswer
  repeat' first
    | with_reducible first
      | assumption | apply Holds.ite
    | fail_if_no_progress with_reducible apply Holds.upd | intro _ | dsimp only

theorem State.smbNack_holds {ps : Kept} {s : State} (hq : Holds ps s) :
    Holds ps (State.smbNack s) := by
  unfold State.smbNack
  repeat' first
    | with_reducible first
      | assumption | apply Holds.ite | apply State.smbAnswer_holds
    | intro _ | dsimp only

theorem execSmbAlertResponse_holds {ps : Kept} {s : State} (hq : Holds ps s) :
    Done ps (execSmbAlertResponse s) := by
  unfold execSmbAlertResponse
  repeat' first
    | with_reducible first
      | assumption | apply Holds.ite | apply State.smbAnswer_holds | apply State.smbNack_holds | apply Done.next
      | apply Done.ite
    | intro _ | split | dsimp only

theorem State.smbMail_holds {ps : Kept} {s : State} {pec : Bool} {ch : BitVec 8} {body : Nat → State} (hq : Holds ps s) (hbody : ∀ x0, Holds ps (body x0)) :
    Holds ps (State.smbMail s pec ch body) := by
  unfold State.smbMail
  repeat' first
    | with_reducible first
      | assumption | apply Holds.ite | apply State.smbNack_holds | apply State.wake_holds | apply hbody
    | intro _ | split | dsimp only

theorem execMbWrite_holds {ps : Kept} {pec : Bool} {ch : BitVec 8} {off : BitVec 16} {data : List Byte} {s : State} (hq : Holds ps s) :
    Done ps (execMbWrite pec ch off data s) := by
  unfold execMbWrite
  repeat' first
    | with_reducible first
      | assumption | apply Holds.ite | apply State.mbWrite_holds | apply State.smbAnswer_holds | apply State.smbMail_holds
      | apply State.smbNack_holds | apply Done.next | apply Done.ite
    | intro _ | split | dsimp only

theorem execMbCtlSend_holds {ps : Kept} {pec : Bool} {ch : BitVec 8} {s : State} (hq : Holds ps s) :
    Done ps (execMbCtlSend pec ch s) := by
  unfold execMbCtlSend
  repeat' first
    | with_reducible first
      | assumption | apply Holds.ite | apply State.chSend_holds | apply State.smbAnswer_holds | apply State.smbMail_holds
      | apply Done.next | apply Done.ite
    | intro _ | dsimp only

theorem execMbCtlRelease_holds {ps : Kept} {pec : Bool} {ch : BitVec 8} {s : State} (hq : Holds ps s) :
    Done ps (execMbCtlRelease pec ch s) := by
  unfold execMbCtlRelease
  repeat' first
    | with_reducible first
      | assumption | apply Holds.ite | apply State.chRelease_holds | apply State.smbAnswer_holds | apply State.smbMail_holds
      | apply Done.next | apply Done.ite
    | intro _ | dsimp only

theorem execMbRead_holds {ps : Kept} {pec : Bool} {ch : BitVec 8} {off : BitVec 16} {n : Nat} {s : State} (hq : Holds ps s) :
    Done ps (execMbRead pec ch off n s) := by
  unfold execMbRead
  repeat' first
    | with_reducible first
      | assumption | apply Holds.ite | apply State.smbAnswer_holds | apply State.smbMail_holds | apply State.smbNack_holds
      | apply Done.next | apply Done.ite
    | intro _ | split | dsimp only

theorem execMbStatus_holds {ps : Kept} {pec : Bool} {ch : BitVec 8} {s : State} (hq : Holds ps s) :
    Done ps (execMbStatus pec ch s) := by
  unfold execMbStatus
  repeat' first
    | with_reducible first
      | assumption | apply Holds.ite | apply State.smbAnswer_holds | apply State.smbMail_holds | apply Done.next
      | apply Done.ite
    | intro _ | dsimp only

theorem State.smbFlash_holds {ps : Kept} {s : State} {pec ok cross : Bool} {addr : Nat} {body : State → State} (hq : Holds ps s) (hbody : ∀ x0, Holds ps x0 → Holds ps (body x0)) :
    Holds ps (State.smbFlash s pec ok cross addr body) := by
  unfold State.smbFlash
  repeat' first
    | with_reducible first
      | assumption | apply Holds.ite | apply State.smbAnswer_holds | apply State.smbNack_holds | apply hbody
    | fail_if_no_progress with_reducible apply Holds.upd | intro _ | split | dsimp only

theorem execFlErase_holds {ps : Kept} {pec : Bool} {addr : BitVec 32} {s : State} (hq : Holds ps s) :
    Done ps (execFlErase pec addr s) := by
  unfold execFlErase
  repeat' first
    | with_reducible first
      | assumption | apply Holds.ite | apply State.smbAnswer_holds | apply State.smbFlash_holds | apply Done.next
      | apply Done.ite
    | fail_if_no_progress with_reducible apply Holds.upd | intro _ | dsimp only

theorem execFlWrite_holds {ps : Kept} {pec : Bool} {addr : BitVec 32} {data : List Byte} {s : State} (hq : Holds ps s) :
    Done ps (execFlWrite pec addr data s) := by
  unfold execFlWrite
  repeat' first
    | with_reducible first
      | assumption | apply Holds.ite | apply State.smbAnswer_holds | apply State.smbFlash_holds | apply Done.next
      | apply Done.ite
    | fail_if_no_progress with_reducible apply Holds.upd | intro _ | dsimp only

theorem execFlRead_holds {ps : Kept} {pec : Bool} {addr : BitVec 32} {n : Nat} {s : State} (hq : Holds ps s) :
    Done ps (execFlRead pec addr n s) := by
  unfold execFlRead
  repeat' first
    | with_reducible first
      | assumption | apply Holds.ite | apply State.smbAnswer_holds | apply State.smbFlash_holds | apply Done.next
      | apply Done.ite
    | intro _ | dsimp only

theorem execFlStatus_holds {ps : Kept} {pec : Bool} {s : State} (hq : Holds ps s) :
    Done ps (execFlStatus pec s) := by
  unfold execFlStatus
  repeat' first
    | with_reducible first
      | assumption | apply Holds.ite | apply State.smbAnswer_holds | apply State.smbNack_holds | apply Done.next
      | apply Done.ite
    | intro _ | split | dsimp only

theorem Holds.updFlash {ps : Kept} {s : State} {β : Type} {l : List β} {a : β → Nat} {b : β → Byte} (h : Holds ps s) :
    Holds ps { s with flash := l.foldl (fun m k => Store.put (fun _ => 0xFF) m (a k) (b k)) s.flash } := by
  refine ⟨h.1, fun hc => ?_⟩
  obtain ⟨k0, k1, k2, k3, k4, k5, k6, k7, k8, k9, k10, k11, k12, k13, k14, k15, k16, k17, k18, k19, k20⟩ := h.2 hc
  exact ⟨k0, k1, k2, k3, k4, k5, k6, k7, k8, k9, k10, k11, k12, k13, k14, k15, k16, k17, k18, Store.wf_foldl _ (fun _ _ h => Store.wf_put _ _ _ _ h) k19, k20⟩

theorem execFlashOpComplete_holds {ps : Kept} {verifyErr : Bool} {s : State} (hq : Holds ps s) :
    Done ps (execFlashOpComplete verifyErr s) := by
  have hf := State.takeFresh_holds hq
  unfold execFlashOpComplete
  dsimp only
  repeat' first
    | with_reducible first
      | assumption
      | apply Done.next
      | apply Done.ite
      | apply Holds.ite
      | apply State.powerUp_holds
      | apply State.flashErase_holds
      | apply State.flashProgram_holds
      | apply Holds.updFlash
    | fail_if_no_progress with_reducible apply Holds.upd
    | intro _
    | split

end Sys2Proof.Machine
end

