-- ==== Sys2Proof/Laws/KeepReplay.lean ====
section
/-! SUPPORT. What the operations of Machine/Replay.lean keep. -/
set_option linter.unusedTactic false
set_option linter.unreachableTactic false
set_option linter.unusedVariables false
namespace Sys2Proof.Machine

theorem State.repInject_holds {ps : Kept} {s : State} {r : RepRec} (hq : Holds ps s) :
    Holds ps (State.repInject s r) := by
  unfold State.repInject
  dsimp only
  repeat' first
    | with_reducible first
      | assumption | apply Holds.ite | apply State.busWrite_holds | apply State.chSend_holds | apply State.incFld_holds
      | apply State.loopBack_holds | apply State.mbWrite_holds | apply State.repCompare_holds | apply State.repMatch_holds
    | fail_if_no_progress with_reducible apply Holds.upd | intro _ | split | dsimp only

theorem State.repInjects_holds {ps : Kept} {k pos : Nat} {s : State} (hq : Holds ps s) :
    Holds ps (State.repInjects k pos s).1 := by
  induction k generalizing s pos with
  | zero => exact hq
  | succ k ih =>
    unfold State.repInjects
    split
    · exact hq
    · dsimp only
      split
      · exact hq
      · exact ih (State.repInject_holds hq)

theorem execReplayTide_holds {ps : Kept} {time : Nat} {stuck : Bool} {s : State} (hq : Holds ps s) :
    Done ps (execReplayTide time stuck s) := by
  unfold execReplayTide
  dsimp only
  repeat' first
    | with_reducible first
      | assumption | apply Holds.ite | apply State.deliverTides_holds | apply State.repInjects_holds
      | apply State.replayEnd_holds | apply State.setFld_holds | apply State.tideNow_holds | apply Done.next | apply Done.ite
    | fail_if_no_progress with_reducible apply Holds.upd | intro _ | split | dsimp only

end Sys2Proof.Machine
end

