-- ==== Sys2Proof/Laws/Streams.lean ====
section
/-! SUPPORT. A stream's status register field by field, and how a stream goes on after an instruction (R57, R62, R70). -/
namespace Sys2Proof.Machine

variable (s : State) (t st : Nat)

/-- The fields of a stream's status register lie apart. -/
theorem status_state_pc (v : Nat) : (s.setFld (F.TSQ_STREAM_STATUS_PC t st) v).stState t st = s.stState t st :=
  State.fld_setFld_apart s _ _ _ (by simp [F.TSQ_STREAM_STATUS_PC]) (by simp [F.TSQ_STREAM_STATUS_PC, F.TSQ_STREAM_STATUS_STATE])

theorem status_state_depth (v : Nat) : (s.setFld (F.TSQ_STREAM_STATUS_LOOP_DEPTH t st) v).stState t st = s.stState t st :=
  State.fld_setFld_apart s _ _ _ (by simp [F.TSQ_STREAM_STATUS_LOOP_DEPTH])
    (by simp [F.TSQ_STREAM_STATUS_LOOP_DEPTH, F.TSQ_STREAM_STATUS_STATE])

theorem status_depth_pc (v : Nat) : (s.setFld (F.TSQ_STREAM_STATUS_PC t st) v).fld (F.TSQ_STREAM_STATUS_LOOP_DEPTH t st)
    = s.fld (F.TSQ_STREAM_STATUS_LOOP_DEPTH t st) :=
  State.fld_setFld_apart s _ _ _ (by simp [F.TSQ_STREAM_STATUS_PC])
    (by simp [F.TSQ_STREAM_STATUS_PC, F.TSQ_STREAM_STATUS_LOOP_DEPTH])

theorem stState_setStState (v : Nat) (h : v < 16) : (s.setStState t st v).stState t st = v := by
  rw [State.stState, State.setStState, State.fld_setFld_same _ _ _ (by simp [F.TSQ_STREAM_STATUS_STATE])]
  exact Nat.mod_eq_of_lt h

theorem stState_setStream (h : StreamHid) (a b : Nat) : (s.setStream a b h).stState t st = s.stState t st := rfl

theorem stream_setFld (f : Field) (v : Nat) : (s.setFld f v).stream t st = s.stream t st := rfl

theorem fld_setStream (h : StreamHid) (a b : Nat) (f : Field) : (s.setStream a b h).fld f = s.fld f := rfl

theorem setLoops_stream (ls : List LoopLevel) : (s.setLoops t st ls).stream t st = { s.stream t st with loops := ls } := by
  rw [State.setLoops, stream_setFld, State.stream_setStream]

theorem drained_setFld (f : Field) (v : Nat) : (s.setFld f v).drained t st = s.drained t st := rfl

theorem brkCount_setFld (f : Field) (v : Nat) (h : f.addr = R.TSQ_STREAM_STATUS t st) :
    (s.setFld f v).fld (F.TSQ_STREAM_BRK_COUNT_COUNT t st) = s.fld (F.TSQ_STREAM_BRK_COUNT_COUNT t st) := by
  refine State.fld_setFld_ne s _ _ _ ?_
  rw [h]
  simp only [F.TSQ_STREAM_BRK_COUNT_COUNT, R.TSQ_STREAM_BRK_COUNT, R.TSQ_STREAM_STATUS]
  omega

theorem logTile_drained (a code : Nat) (host : Bool) (d : List (Nat × Nat)) (x y : Nat) :
    (s.logTile a code host d).drained x y = s.drained x y := by
  have h := (OnlyChanges.refl (s := s) (parts := [.evt, .host]) (touch := logReg)).logTile (a := a) (code := code) (host := host) (d := d) (by simp) (by simp) (fun _ h => h)
  have k : (s.logTile a code host d).tiles = s.tiles := h.2.1 .tiles (by simp)
  unfold State.drained State.tile
  rw [k]

theorem haltNow_state (v : Nat) (h : v < 16) : (s.haltNow t st v).stState t st = (if v ≤ haltCTL then stHALTED else stHALTEDERR)
    ∧ (s.haltNow t st v).fld (F.TSQ_STREAM_STATUS_HALT_REASON t st) = v := by
  constructor
  · rw [State.haltNow, State.stState, State.fld_setFld_apart _ _ _ _ (by simp [F.TSQ_STREAM_STATUS_HALT_REASON])
      (by simp [F.TSQ_STREAM_STATUS_HALT_REASON, F.TSQ_STREAM_STATUS_STATE]), ← State.stState, stState_setStState]
    split <;> decide
  · rw [State.haltNow, State.fld_setFld_same _ _ _ (by simp [F.TSQ_STREAM_STATUS_HALT_REASON])]
    exact Nat.mod_eq_of_lt h

theorem setStream_tiles (a b : Nat) (h : StreamHid) : (s.setStream a b h).tiles = s.tiles := rfl

theorem drained_congr {s u : State} {t st : Nat} (h : u.tiles = s.tiles) : u.drained t st = s.drained t st := by
  unfold State.drained State.tile
  rw [h]

/-- A stream goes on at `q` with the loops `ls`: RUN, or stopped by PC_RANGE. -/
def goneOn (s : State) (t st : Nat) (ls : List LoopLevel) (q : Nat) : State := ((s.setStState t st stRUN).setLoops t st ls).setPc t st q

/-- Within 6 MiB: what stands after it. -/
theorem goneOn_run {s : State} {t st q : Nat} (ls : List LoopLevel) (hq : q < 0x600000) :
    (goneOn s t st ls q).stState t st = stRUN ∧ (goneOn s t st ls q).stream t st = { s.stream t st with loops := ls }
      ∧ (goneOn s t st ls q).pc t st = q ∧ (goneOn s t st ls q).fld (F.TSQ_STREAM_STATUS_LOOP_DEPTH t st) = ls.length % 2 ^ 3
      ∧ (goneOn s t st ls q).fld (F.TSQ_STREAM_BRK_COUNT_COUNT t st) = s.fld (F.TSQ_STREAM_BRK_COUNT_COUNT t st) := by
  have e : goneOn s t st ls q = ((s.setStState t st stRUN).setLoops t st ls).setFld (F.TSQ_STREAM_STATUS_PC t st) q := by
    simp [goneOn, State.setPc, hq]
  rw [e]
  refine ⟨?_, ?_, ?_, ?_, ?_⟩
  · rw [status_state_pc, State.setLoops, status_state_depth, stState_setStream, stState_setStState _ _ _ _ (by decide)]
  · rw [stream_setFld, setLoops_stream, State.setStState, stream_setFld]
  · rw [State.pc, State.fld_setFld_same _ _ _ (by simp [F.TSQ_STREAM_STATUS_PC])]
    exact Nat.mod_eq_of_lt (by simp [F.TSQ_STREAM_STATUS_PC]; omega)
  · rw [status_depth_pc, State.setLoops, State.fld_setFld_same _ _ _ (by simp [F.TSQ_STREAM_STATUS_LOOP_DEPTH])]
    rfl
  · rw [brkCount_setFld _ _ _ _ _ rfl, State.setLoops, brkCount_setFld _ _ _ _ _ rfl, fld_setStream, State.setStState,
      brkCount_setFld _ _ _ _ _ rfl]

/-- Beyond 6 MiB, with nothing in flight: halted with PC_RANGE. -/
theorem goneOn_range {s : State} {t st q : Nat} (ls : List LoopLevel) (hq : 0x600000 ≤ q) (hd : s.drained t st = true) :
    (goneOn s t st ls q).stState t st = stHALTEDERR
      ∧ (goneOn s t st ls q).fld (F.TSQ_STREAM_STATUS_HALT_REASON t st) = haltPCRANGE := by
  unfold goneOn
  generalize hu : (s.setStState t st stRUN).setLoops t st ls = u
  have hd' : ((u.setFld (F.TSQ_STREAM_STATUS_PC t st) q).logTile t 0x0205 true [(1, st)]).drained t st = true := by
    rw [← hd, ← hu, logTile_drained, drained_setFld]
    exact drained_congr (by rw [State.setLoops, State.setFld_tiles, setStream_tiles, State.setStState, State.setFld_tiles])
  have e : u.setPc t st q
      = ((u.setFld (F.TSQ_STREAM_STATUS_PC t st) q).logTile t 0x0205 true [(1, st)]).haltNow t st haltPCRANGE := by
    rw [State.setPc, if_neg (Nat.not_lt.2 hq), State.haltDrain, if_pos hd']
  rw [e]
  exact haltNow_state _ _ _ _ (by decide)

/-- The stream as an instruction done now leaves it to the next: held from the next ac. -/
def sinceNow (s : State) (t st : Nat) : State := s.setStream t st { s.stream t st with since := (s.tile t).ac + 1 }

theorem sinceNow_stream {s : State} {t st : Nat} :
    (sinceNow s t st).stream t st = { s.stream t st with since := (s.tile t).ac + 1 } := State.stream_setStream ..

/-- A retired instruction's stream goes on (R70), with the loop stack it had. -/
theorem retire_goesOn (p : Nat) : GoesOn s (s.retire t st p) t st p (s.stream t st).loops := by
  unfold GoesOn
  refine ⟨fun hq hb => ?_, fun hq hd => ?_⟩
  · obtain ⟨h1, h2⟩ := hb
    generalize hr : loopBack (s.stream t st).loops p = r at *
    obtain ⟨e1, e2, e3, e4, e5⟩ := goneOn_run (s := sinceNow s t st) (t := t) (st := st) r.2 hq
    have hret : s.retire t st p = goneOn (sinceNow s t st) t st r.2 r.1 := by
      have k : (goneOn (sinceNow s t st) t st r.2 r.1).fld (F.TSQ_STREAM_BRK_COUNT_COUNT t st) = 0 := e5.trans h1
      have k2 : ((goneOn (sinceNow s t st) t st r.2 r.1).stream t st).step = false := by
        rw [e2, sinceNow_stream]
        exact h2
      unfold State.retire
      simp only [hr]
      exact (if_neg (not_not_intro e1)).trans
        ((if_neg (fun h => h.1 k)).trans (if_neg (by rw [← Bool.not_eq_true] at k2; exact k2)))
    rw [hret]
    exact ⟨e1, e3, by rw [e2], e4⟩
  · have hk := (OnlyChanges.refl (s := s) (parts := [.strm, .evt, .host]) (touch := streamReg t st)).retire (a := t) (st := st)
      (p := p) (by simp) (by simp) (by simp) (fun _ h => h)
    rw [drained_congr (hk.2.1 .tiles (by simp))] at hd
    generalize hr : loopBack (s.stream t st).loops p = r at *
    have k := goneOn_range (s := sinceNow s t st) r.2 hq ((drained_congr (setStream_tiles _ _ _ _)).trans hd)
    have hret : s.retire t st p = goneOn (sinceNow s t st) t st r.2 r.1 := by
      unfold State.retire
      simp only [hr]
      change (if (goneOn (sinceNow s t st) t st r.2 r.1).stState t st ≠ stRUN then goneOn (sinceNow s t st) t st r.2 r.1
        else _) = _
      rw [if_pos (by rw [k.1]; decide)]
    rw [hret]
    exact k

end Sys2Proof.Machine
end

