-- ==== Sys2Proof/WellFormed.lean ====
section
/-! DEFINITION. Which commands a sender can form: the operands that are lists or numbers have the shape the manual gives them
(how many sensors, steps and dies; payload and poison mask of one packet; a transfer of at least one byte). A command that is
not well formed is no command of the table; what registers refuse (a value out of range) is well formed and refused by its
meaning. -/
namespace Sys2Proof

/-- A request at a tier controller moves at least one byte (R279). -/
def TierReq.wellFormed (r : TierReq) : Bool := if r.write then decide (0 < r.data.length) else decide (0 < r.n)

/-- A packet's payload has at most 4,096 bytes, and its poison mask one bit per 8-byte word where PM is set (R301, R302). -/
def FabPkt.wellFormed (p : FabPkt) : Bool :=
  decide (p.payload.length ≤ 4096) && (if p.pm then p.mask.length == (p.payload.length + 7) / 8 else p.mask.isEmpty)

/-- What arrives on a link: any symbol, or a packet of that form. -/
def LinkUnit.wellFormed : LinkUnit → Bool
  | .packet p _ _ => p.wellFormed
  | .symbol _ => true

/-- One figure for each of four dies, and the counts R372 names by tile and die. -/
def PwrSample.wellFormed (p : PwrSample) : Bool :=
  p.dies.length == 4 && p.temps.length == 4 && p.bytes.length == 4 && p.bytes.all (fun x => x.length == 4)
    && p.tiles.all (fun x => x.2.length == 7)

/-- At most one start PC and one CFG word for a stream (R415). -/
def JobTile.wellFormed (x : JobTile) : Bool :=
  decide (x.pcs.map (fun p => p.1)).Nodup && decide (x.cfgs.map (fun p => p.1)).Nodup

/-- The command can be formed. -/
def Instr.wellFormed : Instr → Bool
  | .tideMarkRx .. => true
  | .tideJump .. => true
  | .pendingTideTake .. => true
  | .tideDelivery .. => true
  | .missWindowClose .. => true
  | .masterMarkEmit .. => true
  | .masterTideTake .. => true
  | .echoSend .. => true
  | .tideEchoRx .. => true
  | .linkDelayMeasure .. => true
  | .tideCtlEnable .. => true
  | .tideCtlRole .. => true
  | .tidePeriodWrite .. => true
  | .tideLeadWrite .. => true
  | .tideLoad .. => true
  | .tsqCtlStart .. => true
  | .tsqCtlHalt .. => true
  | .tsqCtlResume .. => true
  | .tsqCtlUnfreeze .. => true
  | .tsqTokenWrite .. => true
  | .tsqSregWrite .. => true
  | .fenceDrainEnd .. => true
  | .streamBreak .. => true
  | .tokenWaitSatisfied .. => true
  | .frameWaitEnd .. => true
  | .queueSpaceFree .. => true
  | .comparatorFire .. => true
  | .tokenTimeout .. => true
  | .vectorWriteback .. => true
  | .illegalInsn .. => true
  | .sAdd .. => true
  | .sSub .. => true
  | .sMul .. => true
  | .sMad .. => true
  | .sAnd .. => true
  | .sOr .. => true
  | .sXor .. => true
  | .sShl .. => true
  | .sShr .. => true
  | .sSra .. => true
  | .sMin .. => true
  | .sMax .. => true
  | .sMinu .. => true
  | .sMaxu .. => true
  | .sCeq .. => true
  | .sClt .. => true
  | .sCltu .. => true
  | .sIns .. => true
  | .nop .. => true
  | .halt .. => true
  | .loop .. => true
  | .skipZ .. => true
  | .skipNz .. => true
  | .lidx .. => true
  | .tokWait .. => true
  | .tokSet .. => true
  | .tokClr .. => true
  | .tokRead .. => true
  | .frameOpen .. => true
  | .frameOpenA .. => true
  | .frameClose .. => true
  | .frameStat .. => true
  | .ctrRead .. => true
  | .ctrClr .. => true
  | .ctrTide .. => true
  | .ctrCyc .. => true
  | .cmpSet .. => true
  | .cmpArm .. => true
  | .mma .. => true
  | .mmaLoads .. => true
  | .mmaEw .. => true
  | .mmaMp .. => true
  | .mxaCommandStart .. => true
  | .mxaPacketDelivery .. => true
  | .mxaCommandComplete .. => true
  | .mxaEpisodeEnd .. => true
  | .mxaCtlWrite .. => true
  | .vmov .. => true
  | .vand .. => true
  | .vor .. => true
  | .vxor .. => true
  | .vnot .. => true
  | .vshl .. => true
  | .vshr .. => true
  | .vmset .. => true
  | .vmand .. => true
  | .vmor .. => true
  | .vmnot .. => true
  | .vadd .. => true
  | .vsub .. => true
  | .vmul .. => true
  | .vmin .. => true
  | .vmax .. => true
  | .vfma .. => true
  | .vcmp .. => true
  | .vcvt .. => true
  | .vbcast .. => true
  | .vmovS .. => true
  | .vsetvl .. => true
  | .vstatS .. => true
  | .vperm .. => true
  | .vshuf .. => true
  | .vredSum .. => true
  | .vredProd .. => true
  | .vredMax .. => true
  | .vredMin .. => true
  | .vargMax .. => true
  | .vargMin .. => true
  | .vscanSum .. => true
  | .vscanProd .. => true
  | .vscanMax .. => true
  | .vscanMin .. => true
  | .vscanLr .. => true
  | .vld .. => true
  | .vst .. => true
  | .vgather .. => true
  | .vscatter .. => true
  | .vgatherN .. => true
  | .vscatterN .. => true
  | .detachedComplete .. => true
  | .ftqPop .. => true
  | .ftqDrop .. => true
  | .ftqCtlWrite .. => true
  | .tileLinkArrival .. => true
  | .vsf .. => true
  | .vsfU .. => true
  | .vsfFuse .. => true
  | .vnormRms .. => true
  | .vnormMv .. => true
  | .vsmaxP1 .. => true
  | .vsmaxP2 .. => true
  | .vsfArm .. => true
  | .sfuSwapArm .. => true
  | .sfuSwapDisarm .. => true
  | .sfuSwap .. => true
  | .spMm .. => true
  | .spSpgemm .. => true
  | .spMerge .. => true
  | .spHarrow .. => true
  | .spSort .. => true
  | .speCommandStart .. => true
  | .speCommandComplete .. => true
  | .lxCopy .. => true
  | .lxCvt .. => true
  | .lxWin .. => true
  | .lxPrune .. => true
  | .lxGather .. => true
  | .lxScat .. => true
  | .lxFp64s .. => true
  | .lxFill .. => true
  | .lxeCommandStart .. => true
  | .lxeCommandComplete .. => true
  | .lxeCtlWrite .. => true
  | .tierRequest r => r.wellFormed
  | .memScrubStep .. => true
  | .memScrubLag .. => true
  | .memScrubWrite .. => true
  | .fabPortCfgWrite .. => true
  | .linkTrainingComplete .. => true
  | .linkPacketRx _ u _ _ => u.wellFormed
  | .linkAcknowledge .. => true
  | .linkReplayRequest .. => true
  | .creditReturn .. => true
  | .packetForward .. => true
  | .read .. => true
  | .write .. => true
  | .atomic .. => true
  | .sacc .. => true
  | .tokenInc .. => true
  | .msg .. => true
  | .credit .. => true
  | .rdata .. => true
  | .adata .. => true
  | .ack .. => true
  | .nak .. => true
  | .mgmt .. => true
  | .fabReqTimeout .. => true
  | .fabIdWrite .. => true
  | .fabMcrcData8 .. => true
  | .fabMcrcData16 .. => true
  | .fabMcrcData32 .. => true
  | .fabMcrcInit .. => true
  | .fabMcrcValueWrite .. => true
  | .qPost .. => true
  | .queDbTail .. => true
  | .queDbHead .. => true
  | .queueEnable .. => true
  | .queueDisable .. => true
  | .resetAlive .. => true
  | .queueDrainEnd .. => true
  | .queuePacketSend .. => true
  | .queueDescComplete .. => true
  | .grPost .. => true
  | .greBucketStart .. => true
  | .greDeadline .. => true
  | .greLateResolved .. => true
  | .greMessageRx .. => true
  | .greRerun .. => true
  | .greBucketComplete .. => true
  | .greStall .. => true
  | .greChanEnable .. => true
  | .greChanDisable .. => true
  | .pwrActivityEstimate p => p.wellFormed
  | .pwrControlInterval .. => true
  | .frequencyIncreaseApply => true
  | .pwrCalibration => true
  | .junctionStep temps => temps.length == 64
  | .thermalTrip .. => true
  | .coolantSample .. => true
  | .droopTrip .. => true
  | .droopStretchEnd .. => true
  | .pwrBrake .. => true
  | .pwrCtlWrite .. => true
  | .budgetRound => true
  | .budgetDecreaseRx => true
  | .budgetIncreaseRx => true
  | .budgetHoldRx => true
  | .budgetAckRx .. => true
  | .budgetMasterLost => true
  | .pwrStateEnter .. => true
  | .watchSample .. => true
  | .powerWake causes _ => causes != 0
  | .hostLinkTraining width rate _ => [1, 2, 4, 8, 16].contains width && decide (1 ≤ rate) && decide (rate ≤ 7)
  | .hostBarRead _ _ n _ => decide (0 < n) && decide (n ≤ 4096)
  | .hostBarWrite _ _ data _ => decide (0 < data.length) && decide (data.length ≤ 4096)
  | .msixPendingSend .. => true
  | .send .. => true
  | .take .. => true
  | .reply .. => true
  | .release .. => true
  | .queryInfo .. => true
  | .queryEvents .. => true
  | .queryState .. => true
  | .alloc .. => true
  | .free .. => true
  | .tensorCreate .. => true
  | .jobStart _ tiles => tiles.all (fun x => x.wellFormed) && decide (tiles.map (fun x => x.t)).Nodup
  | .jobReset .. => true
  | .jobResetComplete => true
  | .tileReset .. => true
  | .queueConfig .. => true
  | .chanConfig .. => true
  | .tideConfig .. => true
  | .fabricConfig .. => true
  | .portReset .. => true
  | .fwUpdateBegin .. => true
  | .fwUpdateData .. => true
  | .fwUpdateCommit .. => true
  | .healthConfirm .. => true
  | .attest .. => true
  | .powerLimit .. => true
  | .budgetConfig .. => true
  | .settingsSave .. => true
  | .factoryRead .. => true
  | .warmReset .. => true
  | .mgpRestart .. => true
  | .coldReset => true
  | .flr => true
  | .warmResetStart => true
  | .mgpRestartStart => true
  | .firmwareStart => true
  | .mgpTrialExpire => true
  | .mgpTrialStop .. => true
  | .mgpMeasExt .. => true
  | .mgpAttGo .. => true
  | .attestReportDone .. => true
  | .eventAccept sameNs => decide (1 ≤ sameNs)
  | .evtSwCommit => true
  | .evtCtlWrite .. => true
  | .evtRdWrite .. => true
  | .auditAccept sameNs => decide (1 ≤ sameNs)
  | .evtAuditRdWrite .. => true
  | .evtCapEnable .. => true
  | .captureFreeze => true
  | .evtRngRead => true
  | .evtReplayGo => true
  | .evtReplayStop => true
  | .replayTide .. => true
  | .mgpWdtExpire => true
  | .mgpWdtKick .. => true
  | .dcpHeartbeatCheck .. => true
  | .dcpAliveCheck => true
  | .mbxWinWrite .. => true
  | .registerWrite _ _ data _ => decide (0 < data.length)
  | .standbyUp => true
  | .pwrEnAssert .. => true
  | .pwrEnDeassert => true
  | .inputUndervoltage => true
  | .modWake => true
  | .smbAlertResponse => true
  | .mbWrite _ _ _ data => decide (data.length ≤ 255)
  | .mbCtlSend .. => true
  | .mbCtlRelease .. => true
  | .mbRead .. => true
  | .mbStatus .. => true
  | .flErase .. => true
  | .flWrite _ _ data => decide (data.length ≤ 255)
  | .flRead .. => true
  | .flStatus .. => true
  | .flashOpComplete .. => true
  | .linkFailure .. => true
  | .pwrBrakeRelease .. => true
  | .pcieConfigWrite .. => true
  | .lowPowerEntryComplete => true

end Sys2Proof
end

