-- ==== Sys2Proof/Tests/Slice0.lean ====
section
/-! SUPPORT. Small tests: an ill-formed term for each check of WellFormed, results worked out by hand from the spec, and for every
statement states and operands that meet the hypotheses of its clauses. -/
namespace Sys2Proof.Tests
open Sys2Proof Sys2Proof.Machine

/-! ## States the witnesses are built on -/

/-- The first and the last stream of the device. -/
def iA : Iss := { t := 0, st := 0, tag := 0, ac := 0 }
def iZ : Iss := { t := 143, st := 7, tag := 0xFF, ac := 0 }

/-- The state after reset with that stream in a state. -/
def atA (n : Nat) : State := State.reset.setFld (F.TSQ_STREAM_STATUS_STATE 0 0) n
def atZ (n : Nat) : State := State.reset.setFld (F.TSQ_STREAM_STATUS_STATE 143 7) n

/-- Something of the first stream still in flight, due in ac 9. -/
def busyA (s : State) : State := s.setTile 0 { s.tile 0 with vev := [⟨9, 3, 0, 0, 0, 0, .status 1⟩] }

/-- What the first stream holds, changed. -/
def hidA (s : State) (f : StreamHid → StreamHid) : State := s.setStream 0 0 (f (s.stream 0 0))

/-- A loop body that ends 8 bytes on. -/
def shortLoop : LoopLevel := { first := 0, last := 8, left := 0, index := 0 }

theorem issuesA : Issues (atA stRUN) iA := ⟨by decide, by decide⟩
theorem issuesZ : Issues (atZ stRUN) iZ := ⟨by decide, by decide⟩

/-! ## The block as a whole -/

theorem witness_StepCarriesOutFrontCommand :
    ({ State.reset with pending := [.nop iA] }).pending = .nop iA :: [] ∧ State.reset.pending = [] := ⟨rfl, rfl⟩

theorem witness_StoresStayCanonical :
    let s : State := { atA stRUN with pending := [.standbyUp, .nop iA] }
    s.canonical ∧ ∃ t, Sys2Proof.Machine.step s = .next t := by
  refine ⟨?_, _, rfl⟩
  unfold State.canonical
  decide

theorem witness_QueueIsCarriedOutInOrder :
    let s : State := { State.reset with pending := [.standbyUp, .evtReplayStop] }
    s.pending = .standbyUp :: [.evtReplayStop]
      ∧ ∃ t, Sys2Proof.Machine.exec .standbyUp { s with pending := [.evtReplayStop] } = .next t := ⟨rfl, _, rfl⟩

/-! ## Streams -/

theorem witness_ScalarResults :
    (∃ f, scalarRule (.sAdd iA ⟨31, 0, 1, true, 0xFFFFFFF⟩) = some (iA, ⟨31, 0, 1, true, 0xFFFFFFF⟩, f))
      ∧ (∃ f, scalarRule (.sIns iZ ⟨0, 2, 0, false, 0⟩) = some (iZ, ⟨0, 2, 0, false, 0⟩, f)) ∧ (2 : BitVec 5).toNat ≤ 2
      ∧ Issues (atA stRUN) iA ∧ Issues (atZ stRUN) iZ := ⟨⟨_, rfl⟩, ⟨_, rfl⟩, by decide, issuesA, issuesZ⟩

/-- A stream with a register other than 0, and one in a loop. -/
theorem witness_ControlFlow :
    let s := atA stRUN
    let r := (atA stRUN).setReg (R.TSQ_SREG 0 0 31) 1
    let l := hidA (atA stRUN) (fun h => { h with loops := [shortLoop, shortLoop, shortLoop] })
    Issues s iA ∧ Issues r iA ∧ Issues l iA ∧ s.sreg 0 0 31 = 0 ∧ r.sreg 0 0 31 ≠ 0
      ∧ withinBody (s.stream 0 0).loops (8 + 8 * 0xFFFFFF) ∧ withinBody (l.stream 0 0).loops (0 + 8 + 8 * 0)
      ∧ (s.stream 0 0).loops.length < 4 ∧ (l.stream 0 0).loops.length < 4 ∧ withinBody (s.stream 0 0).loops (8 + 8 * 0x3FFF) := by
  refine ⟨issuesA, ⟨by decide, by decide⟩, ⟨by decide, by decide⟩, by decide, by decide, ?_, ?_, by decide, by decide, ?_⟩
  · intro l h; simp [atA, State.reset, State.stream, State.setFld, State.setReg, Store.get, StreamHid.init] at h
  · intro l h
    have : (hidA (atA stRUN) (fun h => { h with loops := [shortLoop, shortLoop, shortLoop] })).stream 0 0
      = { StreamHid.init with loops := [shortLoop, shortLoop, shortLoop] } := by decide
    rw [this] at h
    simp [shortLoop] at h
    subst h; decide
  · intro l h; simp [atA, State.reset, State.stream, State.setFld, State.setReg, Store.get, StreamHid.init] at h

theorem witness_LoopRunsItsBodyCountTimes : 0 < 1 ∧ 0 < 1 ∧ (0 : Nat) < 1 ∧ 16383 - 1 < 16383 := by decide

theorem witness_StreamStops :
    let four := [shortLoop, shortLoop, shortLoop, shortLoop]
    let l := hidA (atA stRUN) (fun h => { h with loops := four })
    let wide : LoopLevel := { first := 0, last := 16, left := 0, index := 0 }
    let w := hidA (atA stRUN) (fun h => { h with loops := [wide, wide, wide, wide] })
    let r := l.setReg (R.TSQ_SREG 0 0 31) 1
    Issues l iA ∧ Issues w iA ∧ Issues r iA ∧ 2 < (3 : BitVec 5).toNat ∧ 7 < (8 : BitVec 4).toNat ∧ 3 < (4 : BitVec 4).toNat
      ∧ (1 : BitVec 14) ≠ 0 ∧ ¬withinBody (l.stream 0 0).loops (0 + 8 + 8 * 1) ∧ (w.stream 0 0).loops.length = 4
      ∧ withinBody (w.stream 0 0).loops (0 + 8 + 8 * 1) ∧ l.sreg 0 0 31 = 0 ∧ r.sreg 0 0 31 ≠ 0
      ∧ ¬withinBody (r.stream 0 0).loops (0 + 8 + 8 * 1) := by
  refine ⟨⟨by decide, by decide⟩, ⟨by decide, by decide⟩, ⟨by decide, by decide⟩, by decide, by decide, by decide, by decide, ?_,
    by decide, ?_, by decide, by decide, ?_⟩
  · intro h; exact absurd (h shortLoop (by decide)) (by decide)
  · intro l h
    have : l = { first := 0, last := 16, left := 0, index := 0 } := by
      have h' := h.symm
      revert h'
      have : (hidA (atA stRUN) (fun h => { h with loops := [⟨0, 16, 0, 0⟩, ⟨0, 16, 0, 0⟩, ⟨0, 16, 0, 0⟩, ⟨0, 16, 0, 0⟩] })).stream 0 0
        = { StreamHid.init with loops := [⟨0, 16, 0, 0⟩, ⟨0, 16, 0, 0⟩, ⟨0, 16, 0, 0⟩, ⟨0, 16, 0, 0⟩] } := by decide
      rw [this]; intro h'; simpa using h'
    subst this; decide
  · intro h; exact absurd (h shortLoop (by decide)) (by decide)

/-- TOK.WAIT with a count of exactly N, one short, behind a lower stream that takes the one, and with something in flight. -/
theorem witness_TokenInstructions :
    let a : TokArgs := ⟨31, 0, 0xFFF, 1⟩
    let one := (atA stRUN).setFld (F.TSQ_TOKEN_COUNT 0 0xFFF) 1
    let low := hidA ((one.setFld (F.TSQ_STREAM_STATUS_STATE 0 0) stWAITTOKEN).setFld (F.TSQ_STREAM_STATUS_WAIT_TOKEN 0 0) 0xFFF)
      (fun h => { h with waitN := 1 })
    Issues one iA ∧ (one.advance 0 0).drained 0 0 = true ∧ a.n.toNat ≤ countMet (one.advance 0 0) 0 0xFFF 0
      ∧ lowerWaits (one.advance 0 0) 0 0xFFF 0 = []
      ∧ countMet ((atA stRUN).advance 0 0) 0 0xFFF 0 < a.n.toNat ∧ Issues (busyA (atA stRUN)) iA
      ∧ ((busyA (atA stRUN)).advance 0 0).drained 0 0 = false
      ∧ lowerWaits low 0 0xFFF 1 = [1] ∧ countMet low 0 0xFFF 1 < a.n.toNat :=
  ⟨⟨by decide, by decide⟩, by decide, by decide, by decide, by decide, ⟨by decide, by decide⟩, by decide, by decide, by decide⟩

theorem witness_TokenUpdatesApplyInOrder :
    ∀ u ∈ [TokUpd.sub 4095 1, .clr 4095, .put 4095 65535 255, .inc 4095 1 255 0], u.tok < 4096 ∧ match u with
      | .sub _ _ => True
      | .clr _ => True
      | .put _ c f => c < 65536 ∧ f < 256
      | .inc _ _ f _ => f < 256 := by
  intro u h
  simp at h
  obtain rfl | rfl | rfl | rfl := h <;> simp [TokUpd.tok]

theorem witness_TokenWaitEvents :
    let w := hidA (atA stWAITTOKEN) (fun h => { h with waitN := 1, waitSd := 31, waitTides := 1 })
    let one := w.setFld (F.TSQ_TOKEN_COUNT 0 0) 1
    let tmo := w.setFld (F.TSQ_STREAM_CFG_WAIT_TMO 0 0) 1
    one.stState 0 0 = stWAITTOKEN ∧ (one.advance 0 0).stState 0 0 = stWAITTOKEN
      ∧ ((one.advance 0 0).stream 0 0).waitN ≤ countMet (one.advance 0 0) 0 0 0 ∧ lowerWaits (one.advance 0 0) 0 0 0 = []
      ∧ (w.advance 0 0).stState 0 0 = stWAITTOKEN ∧ countMet (w.advance 0 0) 0 0 0 < ((w.advance 0 0).stream 0 0).waitN
      ∧ tmo.stState 0 0 = stWAITTOKEN ∧ tmo.fld (F.TSQ_STREAM_CFG_WAIT_TMO 0 0) ≠ 0
      ∧ tmo.fld (F.TSQ_STREAM_CFG_WAIT_TMO 0 0) ≤ (tmo.stream 0 0).waitTides ∧ (tmo.stream 0 0).waitFired = false
      ∧ ((tmo.advance 0 0).evt.waiting.filter (fun q => q.1 == 0)).isEmpty = true
      ∧ (tmo.advance 0 0).evt.lostSrc.contains 0 = false := by decide

/-- A frame opened late at its very tide, one opened a tide early, and one to close. -/
theorem witness_FrameInstructions :
    let s := atA stRUN
    let o := s.setFld (F.TSQ_STREAM_FRAME_OPEN 0 0) 1
    Issues s iA ∧ s.fld (F.TSQ_STREAM_FRAME_OPEN 0 0) = 0 ∧ s.drained 0 0 = true
      ∧ min (frameNumber (s.sreg 0 0 0) 0 + s.fld (F.TSQ_STREAM_SLIP_SLIP 0 0)) (2 ^ 48 - 1) ≤ (s.tile 0).seen
      ∧ (s.tile 0).seen < min (frameNumber (s.sreg 0 0 0) 1 + s.fld (F.TSQ_STREAM_SLIP_SLIP 0 0)) (2 ^ 48 - 1)
      ∧ Issues o iA ∧ o.fld (F.TSQ_STREAM_FRAME_OPEN 0 0) = 1 :=
  ⟨issuesA, by decide, by decide, by decide, by decide, ⟨by decide, by decide⟩, by decide⟩

theorem witness_FrameWaitEnds :
    let s := atA stWAITFRAME
    let e := s.setFld (F.TSQ_STREAM_FRAME_TARGET 0 0) 1
    s.stState 0 0 = stWAITFRAME ∧ s.fld (F.TSQ_STREAM_FRAME_TARGET 0 0) ≤ (s.tile 0).seen ∧ e.stState 0 0 = stWAITFRAME
      ∧ (e.tile 0).seen < e.fld (F.TSQ_STREAM_FRAME_TARGET 0 0) := by decide

theorem witness_CounterInstructions : Issues (atA stRUN) iA ∧ (7 : BitVec 4).toNat ≤ 7 ∧ (3 : BitVec 4).toNat ≤ 3 :=
  ⟨issuesA, by decide, by decide⟩

/-- Comparator 3 of tile 143 armed at a count that its source just reaches, and at one it does not. -/
theorem witness_ComparatorFires :
    let s := ((State.reset.setFld (F.TSQ_CMP_CTL_ARMED 143 3) 1).setFld (F.TSQ_CMP_CTL_COND 143 3) 1).setFld (F.TSQ_CMP_CTL_FREEZE 143 3) 1
    let q := s.setFld (F.TSQ_CMP_VALUE_VALUE 143 3) 1
    let b := (s.setFld (F.TSQ_CMP_CTL_BRK_STREAMS 143 3) 0x80).setFld (F.TSQ_STREAM_STATUS_STATE 143 7) stRUN
    (s.fld (F.TSQ_CMP_CTL_ARMED 143 3) = 1 ∧ s.fld (F.TSQ_CMP_VALUE_VALUE 143 3) ≤ comparatorSource s 143 3)
      ∧ ¬(q.fld (F.TSQ_CMP_VALUE_VALUE 143 3) ≤ comparatorSource q 143 3)
      ∧ (b.fld (F.TSQ_CMP_CTL_BRK_STREAMS 143 3)).testBit 7 = true ∧ b.stState 143 7 = stRUN
      ∧ b.fld (F.TSQ_CMP_CTL_FREEZE 143 3) = 1
      ∧ (b.setFld (F.TSQ_STREAM_STATUS_STATE 143 7) stWAITQUEUE).stState 143 7 = stWAITQUEUE
      ∧ (let f := b.setFld (F.TSQ_STREAM_STATUS_STATE 143 7) stFENCE
        let d := f.setStream 143 7 { f.stream 143 7 with drain := some (.insn (.nop iZ)) }
        d.stState 143 7 = stFENCE ∧ (d.stream 143 7).drain = some (.insn (.nop iZ))) := by decide

/-- Stream 7 of tile 143 may start as it stands after reset; bound to VXE 3 it may not. -/
theorem witness_StreamStart :
    let s := State.reset
    let b := s.setFld (F.TSQ_STREAM_CFG_VXE 143 7) 3
    (0x80 : BitVec 8).toNat.testBit 7 = true ∧ stoppedStream s 143 7 ∧ s.fld (F.TSQ_STREAM_START_PC 143 7) % 8 = 0
      ∧ s.fld (F.TSQ_STREAM_START_PC 143 7) < 0x600000 ∧ s.fld (F.TSQ_STREAM_CFG_VXE 143 7) ≠ 3
      ∧ (∀ o, o < 8 → s.fld (F.TSQ_STREAM_CFG_VXE 143 o) = 0) ∧ stoppedStream b 143 7 ∧ b.fld (F.TSQ_STREAM_CFG_VXE 143 7) = 3
      ∧ diesPowered s ∧ diesPowered b ∧ ¬diesPowered { s with mod := { s.mod with tripped := true } } := by
  unfold stoppedStream diesPowered
  decide

theorem witness_StreamControl :
    (atA stRUN).stState 0 0 = stRUN ∧ stoppedStream State.reset 0 0 ∧ (atA stBREAK).stState 0 0 = stBREAK
      ∧ ((atA stBREAK).stream 0 0).broken = none
      ∧ ((hidA (atA stBREAK) (fun h => { h with broken := some stWAITFRAME })).stream 0 0).broken = some stWAITFRAME
      ∧ State.reset.stState 0 0 ≠ stBREAK ∧ ¬(stoppedStream (atA stRUN) 0 0 ∨ (atA stRUN).stState 0 0 = stBREAK) := by
  unfold stoppedStream
  decide

/-- Streams in a drain: to halt with the last reason code, to a TOK.WAIT whose count suffices, to break; and one not drained. -/
theorem witness_DrainsEnd :
    let f := atA stFENCE
    let h := hidA f (fun h => { h with drain := some (.halt 15) })
    let w := hidA f (fun h => { h with drain := some (.insn (.tokWait iA ⟨0, 0, 0, 0⟩)) })
    let b := hidA f (fun h => { h with drain := some (.brk brkTAG) })
    (0 : BitVec 16).toNat ≤ countMet (w.advance 0 0) 0 0 0 ∧ lowerWaits (w.advance 0 0) 0 0 0 = [] ∧ h.stState 0 0 = stFENCE ∧ h.drained 0 0 = true ∧ (h.stream 0 0).drain = some (.halt 15) ∧ w.stState 0 0 = stFENCE
      ∧ (w.stream 0 0).drain = some (.insn (.tokWait iA ⟨0, 0, 0, 0⟩))
      ∧ (b.stream 0 0).drain = some (.brk brkTAG) ∧ (busyA f).stState 0 0 = stFENCE ∧ (busyA f).drained 0 0 = false := by decide

/-- A matrix command with its descriptors in the last bytes of tile memory, a full queue, and something in flight. -/
theorem witness_CommandsArePosted :
    let a : PostArgs := ⟨1, false, 0, 0⟩
    let s := (atA stRUN).setReg (R.TSQ_SREG 0 0 1) 0x5FFF40
    let e : QCmd := { c := .mma iA a, desc := [], bad := [], ac := 0 }
    let f := s.setTile 0 { s.tile 0 with mxaQ := List.replicate 16 e }
    postRule (.mma iA a) = some (iA, a, .mxa, 3, false) ∧ postRule (.spMm iA a) = some (iA, a, .spe, 3, true)
      ∧ postRule (.qPost iA a) = some (iA, a, .post, 3, false) ∧ (s.tile 0).postQ.length < EngQueue.post.cap
      ∧ s.drained 0 0 = true ∧ (s.tile 0).mxaQ.length < 16 ∧ (s.sreg 0 0 1).toNat % 64 = 0
      ∧ (s.sreg 0 0 1).toNat + 64 * 3 ≤ 0x600000 ∧ 16 ≤ (f.tile 0).mxaQ.length ∧ f.drained 0 0 = true
      ∧ (busyA s).drained 0 0 = false ∧ Issues s iA ∧ Issues f iA ∧ Issues (busyA s) iA :=
  ⟨rfl, rfl, rfl, by decide, by decide, by decide, by decide, by decide, by decide, by decide, by decide, ⟨by decide, by decide⟩,
    ⟨by decide, by decide⟩, ⟨by decide, by decide⟩⟩

theorem witness_QueueWaitEnds :
    let a : PostArgs := ⟨1, false, 0, 0⟩
    let c : Instr := .lxFill iA a
    let s := hidA ((atA stWAITQUEUE).setReg (R.TSQ_SREG 0 0 1) 0x5FFF80) (fun h => { h with waitInsn := some c })
    let e : QCmd := { c := c, desc := [], bad := [], ac := 0 }
    let f := s.setTile 0 { s.tile 0 with lxeQ := List.replicate 32 e }
    postRule c = some (iA, a, .lxe, 2, false) ∧ s.stState 0 0 = stWAITQUEUE ∧ (s.stream 0 0).waitInsn = some c
      ∧ (s.tile 0).lxeQ.length < 32 ∧ NoBreak s 0 0 ∧ (s.sreg 0 0 1).toNat % 64 = 0 ∧ (s.sreg 0 0 1).toNat + 64 * 2 ≤ 0x600000
      ∧ f.stState 0 0 = stWAITQUEUE ∧ (f.stream 0 0).waitInsn = some c ∧ 32 ≤ (f.tile 0).lxeQ.length :=
  ⟨rfl, by decide, by decide, by decide, ⟨by decide, by decide⟩, by decide, by decide, by decide, by decide, by decide⟩

/-! ## The tide unit -/

/-- An enabled unit locked to marks at a count of 1. -/
def locked : State :=
  let s := ((State.reset.setFld F.TIDE_CTL_ENABLE 1).setFld F.TIDE_STATUS_STATE tdLOCKED).setFld F.TIDE_COUNT_COUNT 1
  s.setTide { s.tide with locked := true }

/-- The same with an accepted tide still to take. -/
def pending (p : PendTide) : State := locked.setTide { locked.tide with pend := [p] }

/-- A master whose next instant is at 0. -/
def master : State :=
  let s := (State.reset.setFld F.TIDE_CTL_ENABLE 1).setFld F.TIDE_STATUS_STATE tdMASTER
  s.setTide { s.tide with masterNext := some 0 }

theorem witness_TidesAreTaken :
    let b := (locked.setFld F.TIDE_CTL_ROLE 2).setTide { locked.tide with bMiss := 2 }
    captureOff (pending ⟨2, 0, false, 0⟩) ∧ (pending ⟨2, 0, false, 0⟩).tide.pend = ⟨2, 0, false, 0⟩ :: []
      ∧ (pending ⟨2, 0, false, 0⟩).fld F.TIDE_COUNT_COUNT < 2 ∧ 2 = (pending ⟨2, 0, false, 0⟩).fld F.TIDE_COUNT_COUNT + 1
      ∧ (pending ⟨1, 0, false, 0⟩).tide.pend = ⟨1, 0, false, 0⟩ :: [] ∧ 1 ≤ (pending ⟨1, 0, false, 0⟩).fld F.TIDE_COUNT_COUNT
      ∧ (pending ⟨2, 0, true, 0⟩).tide.pend = ⟨2, 0, true, 0⟩ :: [] ∧ (pending ⟨2, 0, true, 0⟩).fld F.TIDE_COUNT_COUNT < 2
      ∧ master.tide.masterNext = some 0 ∧ master.fld F.TIDE_STATUS_STATE = tdMASTER ∧ captureOff master
      ∧ locked.fld F.TIDE_CTL_ENABLE = 1 ∧ locked.tide.locked = true ∧ locked.fld F.TIDE_STATUS_STATE ≠ tdUNSYNC
      ∧ locked.fld F.TIDE_STATUS_STATE ≠ tdDEPOSED ∧ locked.fld F.TIDE_STATUS_STATE ≠ tdMASTER ∧ locked.tide.held = false
      ∧ locked.tide.pend = [] ∧ locked.tide.flyNext + tideWindow locked ≤ max locked.tide.now (250 * 4000)
      ∧ locked.fld F.TIDE_CTL_COAST_EN = 1 ∧ locked.fld F.TIDE_CTL_ROLE ≠ 2 ∧ captureOff locked
      ∧ b.fld F.TIDE_CTL_ROLE = 2 ∧ b.tide.masterSeen = false ∧ b.tide.bMiss = 2 ∧ b.tide.locked = true
      ∧ b.fld F.TIDE_STATUS_STATE = tdLOCKED ∧ b.fld F.TIDE_CTL_ENABLE = 1 ∧ captureOff b := by
  unfold captureOff tideWindow
  decide

/-- The same units run; a window that had a gapped mark, a held count, and a unit in Retention. -/
theorem witness_TidesAreTaken_windows :
    let g := locked.setTide { locked.tide with gapHere := true }
    let h := locked.setTide { locked.tide with held := true }
    tideRuns (pending ⟨2, 0, false, 0⟩) ∧ tideRuns (pending ⟨2, 0, true, 0⟩) ∧ tideRuns master ∧ tideRuns locked
      ∧ locked.tide.gapHere = false ∧ g.tide.gapHere = true ∧ g.tide.held = false ∧ g.tide.pend = []
      ∧ g.fld F.TIDE_CTL_COAST_EN = 1 ∧ h.tide.held = true ∧ (pending ⟨2, 0, false, 0⟩).tide.locked = true
      ∧ (pending ⟨1, 0, true, 0⟩).tide.pend = ⟨1, 0, true, 0⟩ :: [] ∧ 1 ≤ (pending ⟨1, 0, true, 0⟩).fld F.TIDE_COUNT_COUNT
      ∧ (locked.setFld F.PWR_STATE_CUR 3).fld F.PWR_STATE_CUR = 3 := by
  unfold tideRuns
  decide

set_option maxRecDepth 20000 in
/-- A mark of tide 2 (or 1) of source 0 and epoch 0 at port 0, and one with a wrong check value. -/
theorem witness_TideMarksAreJudged :
    let s := (locked.setFld (F.TIDE_LINK_VALID 0) 1).setFld F.TIDE_TREE_UP_A_EN 1
    let m (n : Nat) : TideSym := ⟨0, mkSymbol n 0 0 8 0 1, 0⟩
    s.fld F.TIDE_CTL_ENABLE = 1 ∧ s.fld F.PWR_STATE_CUR ≠ 3 ∧ (symFields (m 2).bits).check = crc8 (m 2).bits.toNat ∧ (symFields (m 2).bits).typ = 0
      ∧ (symFields (m 2).bits).hop ≤ 8 ∧ (symFields (m 2).bits).tide ≠ 0 ∧ s.fld (F.TIDE_LINK_VALID 0) = 1
      ∧ (symFields (m 2).bits).source = s.fld F.TIDE_IDS_MASTER_ID ∧ 0 = s.fld F.TIDE_TREE_UP_A ∧ s.fld F.TIDE_TREE_UP_A_EN = 1
      ∧ s.fld F.TIDE_STATUS_STATE ≠ tdMASTER ∧ judged s ≠ 0 ∧ (symFields (m 2).bits).epoch = s.fld F.TIDE_STATUS_EPOCH
      ∧ (symFields (m 2).bits).source = s.fld F.TIDE_STATUS_SOURCE ∧ s.fld (F.TIDE_LINK_DELAY 0) < 250 * (symFields (m 2).bits).ttt
      ∧ (symFields (m 2).bits).tide = judged s + 1 ∧ (symFields (m 1).bits).tide ≤ judged s
      ∧ (symFields (m 1).bits).check = crc8 (m 1).bits.toNat ∧ (symFields 1).check ≠ crc8 (1 : BitVec 112).toNat := by decide

set_option maxRecDepth 20000 in
theorem witness_TideSymbolsAndSkew :
    let e := (locked.setFld F.TIDE_CTL_ECHO_EVERY 1).setTide { locked.tide with sinceEcho := 1, instants := [(1, 1, 0)] }
    let v := e.setFld (F.TIDE_LINK_VALID 15) 1
    let b := mkSymbol 1 0 0 0 1 0
    master.tide.masterNext = some 0 ∧ master.fld F.TIDE_STATUS_STATE = tdMASTER
      ∧ 0 ≤ max master.tide.now 0 + 10000 * master.fld F.TIDE_LEAD_LEAD ∧ master.tide.emitted ≠ master.fld F.TIDE_COUNT_COUNT + 1
      ∧ e.tide.instants = (1, 1, 0) :: [] ∧ master.fld F.PWR_STATE_CUR ≠ 3 ∧ e.fld F.PWR_STATE_CUR ≠ 3 ∧ e.fld F.TIDE_CTL_ENABLE = 1 ∧ e.fld F.TIDE_CTL_ECHO_EVERY ≠ 0
      ∧ e.fld F.TIDE_CTL_ECHO_EVERY ≤ e.tide.sinceEcho ∧ (2 * (2 ^ 24 - 1) - 0) / 2 < 2 ^ 24
      ∧ v.fld F.TIDE_CTL_ENABLE = 1 ∧ (symFields b).check = crc8 b.toNat ∧ (symFields b).typ = 1 ∧ v.fld (F.TIDE_LINK_VALID 15) = 1
      ∧ v.tide.instants.find? (fun p => decide (p.1 ≤ (symFields b).tide) && decide ((symFields b).tide ≤ p.2.1)) = some (1, 1, 0) := by
  decide

theorem witness_TidePeriodWrite :
    locked.fld F.TIDE_CTL_ENABLE = 1 ∧ State.reset.fld F.TIDE_CTL_ENABLE = 0 ∧ 2000 ≤ (2000 : BitVec 64).toNat % 2 ^ 27
      ∧ (100000000 : BitVec 64).toNat % 2 ^ 27 ≤ 100000000 ∧ captureOff master ∧ master.tide.masterNext = some 0
      ∧ master.fld F.TIDE_STATUS_STATE = tdMASTER ∧ tideRuns master := by
  unfold captureOff tideRuns
  decide

theorem witness_TideConfiguration :
    let lead (v : BitVec 64) := v.toNat % 2 ^ 11
    let window (v : BitVec 64) := v.toNat / 2 ^ 16 % 2 ^ 11
    let fits (v : BitVec 64) := 200 ≤ lead v ∧ lead v ≤ 1600 ∧ 10 ≤ window v ∧ window v ≤ 1600
      ∧ 2 * (lead v + window v) ≤ State.reset.fld F.TIDE_PERIOD_PERIOD
    let r := State.reset.setFld F.TIDE_CTL_ROLE 1
    let ready := State.reset.setFld F.FAB_ID_VALID 1
    fits (200 + 10 * 65536) ∧ fits (1600 + 1600 * 65536) ∧ ¬fits (199 + 10 * 65536) ∧ ¬fits (1601 + 10 * 65536)
      ∧ r.fld F.TIDE_CTL_ROLE = 1 ∧ r.fld F.TIDE_CTL_ENABLE = 0 ∧ r.fld F.TIDE_COUNT_COUNT ≤ 0 ∧ State.reset.fld F.TIDE_CTL_ROLE ≠ 1
      ∧ State.reset.fld F.TIDE_CTL_ENABLE = 0 ∧ (State.reset.tideCfgOk = true ∨ ready.tideCfgOk = true)
      ∧ (State.reset.setFld F.TIDE_LEAD_LEAD 0).tideCfgOk = false
      ∧ locked.fld F.TIDE_CTL_ENABLE = 1 ∧ locked.fld F.TIDE_STATUS_STATE ≠ tdMASTER ∧ locked.tide.locked = true
      ∧ master.fld F.TIDE_CTL_ENABLE = 1 ∧ master.fld F.TIDE_STATUS_STATE = tdMASTER ∧ r.tide.deposed = false
      ∧ (r.setTide { r.tide with deposed := true }).tide.deposed = true := by decide

theorem witness_TidesAreDelivered :
    let s := locked.setTide { locked.tide with deliv := [⟨1, 1, 0⟩] }
    s.tide.deliv = ⟨1, 1, 0⟩ :: [] ∧ 1 ≤ 1 ∧ s.fld F.PWR_QENERGY_EN = 0 ∧ s.fld F.PWR_CTL_BUDGET_EN = 0 := by decide

/-! ## Vector engines -/

/-- The first stream, which owns engine 0, and the last, which owns engine 1 of tile 143. -/
def vA : State := (atA stRUN).setFld (F.TSQ_STREAM_CFG_VXE 0 0) 1
def vZ : State := (atZ stRUN).setFld (F.TSQ_STREAM_CFG_VXE 143 7) 2

theorem vectorIssuesA : VectorIssues vA iA 0 := ⟨⟨by decide, by decide⟩, by decide⟩
theorem vectorIssuesZ : VectorIssues vZ iZ 1 := ⟨⟨by decide, by decide⟩, by decide⟩

/-- Operands of type 0 and of the last type. -/
def vArgs (ty : BitVec 4) (x : BitVec 10) : VArgs := ⟨0, 0, 0, 0, 0, false, false, ty, x⟩

theorem witness_VectorElementwise :
    (∃ f, vecRule (.vadd iA (vArgs 6 0)) = some (iA, vArgs 6 0, 8, true, 2, f))
      ∧ (∃ f, vecRule (.vfma iZ (vArgs 3 0)) = some (iZ, vArgs 3 0, 5, true, 3, f)) ∧ VectorIssues vA iA 0 ∧ VectorIssues vZ iZ 1 :=
  ⟨⟨_, rfl⟩, ⟨_, rfl⟩, vectorIssuesA, vectorIssuesZ⟩

/-- A NaN of each floating-point type in turn: the largest pattern. -/
theorem witness_VectorCompare :
    VectorIssues vZ iZ 1 ∧ (6 : BitVec 4).toNat ≤ 6 ∧ (∃ f, fmtOf 5 = some f ∧ (f.decode 0x7FC00000).isNan = true) ∧ 3 ≤ 3 ∧ 6 ≤ 6 :=
  ⟨vectorIssuesZ, by decide, ⟨_, rfl, by decide⟩, by decide, by decide⟩

theorem witness_VectorMasks :
    VectorIssues vA iA 0 ∧ (0 : BitVec 10).toNat % 4 = 0 ∧ (1 : BitVec 10).toNat % 4 = 1 ∧ (2 : BitVec 10).toNat % 4 = 2 :=
  ⟨vectorIssuesA, by decide, by decide, by decide⟩

theorem witness_VectorTransfersAndPermutations :
    let none' := vA.setFld (F.VXE_VL_VL 0 0) 0
    VectorIssues vA iA 0 ∧ (5 : BitVec 4).toNat ≤ 6 ∧ (255 : BitVec 10).toNat < elementCount vA 0 0 32
      ∧ elementCount vA 0 0 32 ≤ (256 : BitVec 10).toNat ∧ (7 : BitVec 10).toNat % 16 < 8
      ∧ VectorIssues none' iA 0 ∧ (1 : BitVec 10).toNat % 16 = 1 ∧ elementCount none' 0 0 32 = 0 :=
  ⟨vectorIssuesA, by decide, by decide, by decide, by decide, ⟨⟨by decide, by decide⟩, by decide⟩, by decide, by decide⟩

/-- FP32 to a type of code 0 to 15, RNE or RZ: some pair converts, and some pair converts as MX. -/
theorem witness_VectorConvert :
    VectorIssues vA iA 0 ∧ cvtPair 5 4 = true ∧ (0x10 : BitVec 10).toNat / 16 % 4 ≤ 1
      ∧ ((List.range 16).any (fun d => cvtPair 5 d && mxPair 5 d)) = true := ⟨vectorIssuesA, by decide, by decide, by decide⟩

/-- With VL 256 element 0 is active; with VL 0 none is. -/
theorem witness_VectorReductions :
    let none' := vA.setFld (F.VXE_VL_VL 0 0) 0
    VectorIssues vA iA 0 ∧ VectorIssues none' iA 0 ∧ activeElement vA 0 0 0 false 32 255 = true
      ∧ elementCount none' 0 0 32 = 0 :=
  ⟨vectorIssuesA, ⟨⟨by decide, by decide⟩, by decide⟩, by decide, by decide⟩

theorem witness_VectorScans :
    VectorIssues vA iA 0 ∧ 2 ≤ (2 : BitVec 4).toNat ∧ (5 : BitVec 4).toNat ≤ 5 ∧ (0 : BitVec 10).getLsbD 4 = false
      ∧ 255 < elementCount vA 0 0 32 ∧ 255 < 8192 / 32 := ⟨vectorIssuesA, by decide, by decide, by decide, by decide, by decide⟩

theorem witness_VectorNorms :
    VectorIssues vA iA 0 ∧ 3 ≤ (3 : BitVec 4).toNat ∧ (5 : BitVec 4).toNat ≤ 5 ∧ (3 : BitVec 4).toNat ≠ 4
      ∧ (0 : BitVec 10).getLsbD 0 = false ∧ (0 : BitVec 10).getLsbD 1 = false ∧ (1 : BitVec 10).getLsbD 0 = true :=
  ⟨vectorIssuesA, by decide, by decide, by decide, by decide, by decide, by decide⟩

theorem witness_VectorMemory : VectorIssues vA iA 0 ∧ VectorIssues vZ iZ 1 ∧ (6 : BitVec 4).toNat ≤ 6 :=
  ⟨vectorIssuesA, vectorIssuesZ, by decide⟩

/-- An engine with nothing detached, one with a gather and one with a scatter. -/
theorem witness_DetachedInstructionsComplete :
    let d (g : Bool) : DetIns := ⟨g, 0, 32, [(0, 0, 0, false)], [], [1], true, true, 0, 0, 0⟩
    let s (g : Bool) := State.reset.setEng 143 1 { State.reset.eng 143 1 with det := [d g] }
    (State.reset.eng 143 1).det = [] ∧ ((s true).eng 143 1).det = d true :: [] ∧ ((s false).eng 143 1).det = d false :: [] := by decide

/-- A tile in ac 0 with one event due in ac 1. -/
def inFlight (op : VOp) : State := State.reset.setTile 143 { State.reset.tile 143 with vev := [⟨1, 3, 0, 1, 7, 0, op⟩] }

/-- One event of each kind; element 255 of 32 bits, mask bit 1,023. -/
theorem witness_InFlightOpsLand :
    let r : ScanRec := ⟨0, 5, [(0, 0, false)], 1, [true], 1, false, 0, true, true, false, false, 1, 14, 0⟩
    let load : VOp := .load 0 32 [(0, some 0x5FFFFC, false)] [] 15
    let link : State := { State.reset with linkFly := [(143, 1, 5, false)] }
    let four := link.setEng 143 1 { link.eng 143 1 with link := List.replicate 4 (0, false) }
    ((inFlight (.wbV 63 32 [⟨255, 2 ^ 32 - 1, true⟩])).tile 143).vev = [⟨1, 3, 0, 1, 7, 0, .wbV 63 32 [⟨255, 2 ^ 32 - 1, true⟩]⟩]
      ∧ ((inFlight load).tile 143).tokPend = [] ∧ ((inFlight load).tile 143).tokNext = []
      ∧ ((inFlight load).tile 143).postQ = [] ∧ ((inFlight load).sfuu 143).arms = [] ∧ ((inFlight load).tile 143).ac < 1
      ∧ 32 * (255 + 1) ≤ 8192 ∧ 2 ^ 32 - 1 < 2 ^ 32 ∧ ([⟨255, 0, true⟩] : List VEl).map (fun x => x.i) = [255]
      ∧ ((inFlight (.wbM 15 [(1023, true, false)])).tile 143).vev = [⟨1, 3, 0, 1, 7, 0, .wbM 15 [(1023, true, false)]⟩]
      ∧ ((inFlight (.status (2 ^ 14 - 1))).tile 143).vev = [⟨1, 3, 0, 1, 7, 0, .status (2 ^ 14 - 1)⟩] ∧ 2 ^ 14 - 1 < 2 ^ 14
      ∧ ((inFlight (.carry 1 0 false)).tile 143).vev = [⟨1, 3, 0, 1, 7, 0, .carry 1 0 false⟩]
      ∧ ((inFlight load).tile 143).vev = [⟨1, 3, 0, 1, 7, 0, load⟩] ∧ 1 < 15
      ∧ ((inFlight (.store 32 [(0x5FFFFC, 1, false)])).tile 143).vev = [⟨1, 3, 0, 1, 7, 0, .store 32 [(0x5FFFFC, 1, false)]⟩]
      ∧ ((inFlight (.scan r)).tile 143).vev = [⟨1, 3, 0, 1, 7, 0, .scan r⟩] ∧ r.lin = false ∧ r.lout = false
      ∧ 1 + 1 < r.issue + r.lat ∧ 0 < r.n ∧ r.ps.length = r.n ∧ r.act.length = r.n
      ∧ link.linkFly.find? (fun y => y.1 == 143 && y.2.1 == 1) = some (143, 1, 5, false) ∧ (link.eng 143 1).link.length < 4
      ∧ four.linkFly.find? (fun y => y.1 == 143 && y.2.1 == 1) = some (143, 1, 5, false) ∧ 4 ≤ (four.eng 143 1).link.length := by
  decide

/-- A bank whose packet of four bytes entered in the ac before, one of more than a pop's 1 KiB, and empty banks. -/
theorem witness_FinishedTileQueue :
    let f := (vA.setTile 0 { vA.tile 0 with ac := 1 }).setFld (F.FTQ_STATUS_BANK0 0) 2
    let s := (f.setFtqBank 0 0 ⟨[(0, false)], 0, 0⟩).setFld (F.FTQ_BANK_LEN 0 0) 4
    VectorIssues s iA 0 ∧ bankReadable s 0 0 0 ∧ 0 = (s.tile 0).nextPkt % 2
      ∧ s.fld (F.FTQ_BANK_LEN 0 0) ≤ s.fld (F.FTQ_BANK_POS 0 0) + min 1024 (4 - 0)
      ∧ 0 + min 1024 (1028 - 0) < (s.setFld (F.FTQ_BANK_LEN 0 0) 1028).fld (F.FTQ_BANK_LEN 0 0) ∧ VectorIssues vA iA 0 ∧ ¬bankReadable vA 0 0 0 ∧ ¬bankReadable vA 0 0 1 ∧ State.reset.fld (F.FTQ_STATUS_BANK0 143) = 0
      ∧ State.reset.fld (F.FTQ_STATUS_BANK1 143) = 0 ∧ (2 : BitVec 64).toNat % 4 ≠ 3 ∧ ¬((3 : BitVec 64).toNat % 4 ≠ 3) := by
  exact ⟨⟨⟨by decide, by decide⟩, by decide⟩, ⟨by decide, by decide, rfl⟩, by decide, by decide, by decide, vectorIssuesA,
    fun h => absurd h.1 (by decide), fun h => absurd h.1 (by decide), by decide, by decide, by decide, by decide⟩

theorem witness_SpecialFunctions :
    VectorIssues vA iA 0 ∧ 3 ≤ (3 : BitVec 4).toNat ∧ (5 : BitVec 4).toNat ≤ 5 ∧ (14 : BitVec 10).toNat % 64 ≤ 14
      ∧ (14 : BitVec 10).getLsbD 7 = false ∧ (14 : BitVec 10).getLsbD 6 = false ∧ (0x40 : BitVec 10).getLsbD 6 = true
      ∧ (0x8E : BitVec 10).getLsbD 7 = true ∧ (0x8E : BitVec 10).toNat % 64 ≤ 14 ∧ popsWords vA 0 0 [] 0 := by
  exact ⟨vectorIssuesA, by decide, by decide, by decide, by decide, by decide, by decide, by decide, by decide,
    Or.inr ⟨fun h => absurd h.1 (by decide), fun h => absurd h.1 (by decide), rfl, rfl⟩⟩

/-- Two arguments, 1 and 1.5, whose results the table of some function gives. -/
theorem witness_SpecialFunctions_order :
    let x := 0x3F800000
    let y := 0x3FC00000
    (fmtFP32.decode x).isNan = false ∧ (fmtFP32.decode y).isNan = false
      ∧ ((List.range 13).any (fun code => sfuLive code x && sfuLive code y && sfuDirection code x == sfuDirection code y)) = true
      ∧ x / 2 ^ 31 = y / 2 ^ 31 ∧ fpOrd x ≤ fpOrd y := by decide

/-- A swap armed for one of a token that has it, and one armed for a token that does not; an arm of each engine left to its ac's end. -/
theorem witness_TableBankSwap :
    let s := State.reset.setFld (F.SFU_STATUS_ARMED 143) 1
    let two : State := { State.reset with
      sfu := Store.put (fun _ => SfuUnit.init) State.reset.sfu 143 { SfuUnit.init with arms := [(1, 4095, 1), (0, 0, 0)] } }
    let r := s.setFld (F.TSQ_TOKEN_COUNT 143 (s.sfuu 143).tok) 1
    (two.sfuu 143).arms = [(1, 4095, 1), (0, 0, 0)] ∧ (two.tile 143).ac < 1 ∧ (two.tile 143).vev = [] ∧ (two.tile 143).tokPend = []
      ∧ (two.tile 143).tokNext = [] ∧ (two.tile 143).postQ = [] ∧ (s.sfuu 143).since ≤ (s.tile 143).ac
      ∧ VectorIssues vA iA 0 ∧ (2 ^ 32 : BitVec 64).getLsbD 33 = false ∧ r.fld (F.SFU_STATUS_ARMED 143) = 1
      ∧ max 1 (r.sfuu 143).n ≤ r.fld (F.TSQ_TOKEN_COUNT 143 (r.sfuu 143).tok)
      ∧ ¬(max 1 (s.sfuu 143).n ≤ s.fld (F.TSQ_TOKEN_COUNT 143 (s.sfuu 143).tok)) :=
  ⟨by decide, by decide, by decide, by decide, by decide, by decide, by decide, vectorIssuesA, by decide, by decide, by decide,
    by decide⟩

theorem witness_VectorNeedsEngine :
    vectorClass (.vmov iZ (vArgs 0 0)) = some iZ ∧ Issues (atZ stRUN) iZ ∧ (atZ stRUN).vxeOf 143 7 = none :=
  ⟨rfl, issuesZ, by decide⟩

/-! ## The engines of a tile -/

/-- A descriptor block of 64-bit words, and a descriptor of one access at an address. -/
def block (ws : List Nat) : List Byte := ws.flatMap (leBytes 8)
def oneAccess (base ety rank : Nat) : List Nat := [base, 1, 1, 1, 1, 1, 1, ety + 2 ^ 8 * rank]

/-- A command queued in ac 0 at a tile that is in ac 1. -/
def queuedCmd (c : Instr) (ws : List Nat) : QCmd := { c := c, desc := block ws, bad := List.replicate 64 false, ac := 0 }
def tileAt1 (f : TileHid → TileHid) : State := State.reset.setTile 0 (f { State.reset.tile 0 with ac := 1 })

def pArgs : PostArgs := ⟨1, true, 4095, 0⟩

/-- An INT8 product of one row, one column and depth 1, whose operands are the last bytes of the tile; the same with M = 0, and with
an output that no integer product has. -/
def mmaWords (m out : Nat) : List Nat :=
  [m + 2 ^ 32, 1 + 7 * 2 ^ 24 + 7 * 2 ^ 28 + out * 2 ^ 32, 0, 0, 0, 0, 0, 0] ++ oneAccess 0x020000600000 7 0 ++ oneAccess 0x020000600000 7 0

set_option maxRecDepth 20000 in
theorem witness_MatrixCommandStarts :
    let near (ws : List Nat) : List Nat := ws.map (fun x => if x = 0x020000600000 then 0x0200005FFFFF else x)
    let c (m out : Nat) : QCmd := queuedCmd (.mma iA pArgs) (near (mmaWords m out))
    let s (m out : Nat) := tileAt1 (fun h => { h with mxaQ := [c m out] })
    let d (m out : Nat) := mxDesc 0 pArgs (c m out)
    ((s 1 3).tile 0).mxaQ = c 1 3 :: [] ∧ mxaArgs (c 1 3).c = some (0, pArgs) ∧ (c 1 3).ac < ((s 1 3).tile 0).ac
      ∧ (State.reset.tile 0).ac ≤ (c 1 3).ac
      ∧ State.reset.mxReasons 0 (d 1 0) = 1 :: [] ∧ State.reset.mxReasons 0 (d 0 3) = [] ∧ (d 0 3).zeroWork = true
      ∧ State.reset.mxReasons 0 (d 1 3) = [] ∧ (d 1 3).zeroWork = false ∧ (d 1 3).path = some (false, 2) ∧ (d 1 3).use = false
      ∧ (d 1 3).cont = false ∧ (d 1 3).mch = 0 ∧ (d 1 3).m ≤ 2048 ∧ (d 1 3).n ≤ 32 := by decide

/-- A command with a packet left and one with none. -/
theorem witness_MatrixCommandsComplete :
    let w (p : List MxaPkt) : State :=
      State.reset.setMxau 143 { State.reset.mxau 143 with run := [⟨0, true, 0, 0, p, (0, 0), false, 0, 0⟩] }
    let k : MxaPkt := ⟨[(0, false)], 8, 0, []⟩
    let f := (w [k]).setFld (F.FTQ_STATUS_BANK0 143) 2
    ((w [k]).mxau 143).run = [] ++ ⟨0, true, 0, 0, k :: [], (0, 0), false, 0, 0⟩ :: [] ∧ (w [k]).fld (fFtqBank 143 0) < 2
      ∧ 2 ≤ f.fld (fFtqBank 143 0) ∧ ((w []).mxau 143).run = ⟨0, true, 0, 0, [], (0, 0), false, 0, 0⟩ :: [] ∧ 0x3F < 0x40
      ∧ (State.reset.tile 143).mxaQ = []
      ∧ ((State.reset.setTile 143 { State.reset.tile 143 with mxaQ := [queuedCmd .standbyUp []] }).tile 143).mxaQ ≠ []
      ∧ (16 ≤ 16 ∧ 16 % 4 = 0 ∧ 128 ≤ 128 ∧ 128 % 4 = 0) ∧ ¬(16 ≤ 15) ∧ ¬(129 ≤ 128) ∧ ¬(18 % 4 = 0) := by decide

/-- Sorts of one entry at the tile's end, of none, and of a misplaced one; a claiming command with and without its claim. -/
def sortWords (base n : Nat) : List Nat := [base, 0x020000000000, n, 0, 0, 0, 0, 0]

set_option maxRecDepth 20000 in
theorem witness_SparseCommands :
    let sort (base n : Nat) : QCmd := queuedCmd (.spSort iA pArgs) (sortWords base n)
    let mm : QCmd := queuedCmd (.spMm iA pArgs) []
    let s := tileAt1 (fun h => { h with speQ := [sort 0x0200005FFFF0 1] })
    let m := tileAt1 (fun h => { h with speQ := [mm] })
    let cl := tileAt1 (fun h => { h with speQ := [mm], mxaQ := [mm] })
    let r : SpeRun := ⟨0x44, true, 0, 0, false, [(0x0200005FFFFF, [(1, false)])]⟩
    (s.tile 0).speQ = sort 0x0200005FFFF0 1 :: [] ∧ speArgs (.spSort iA pArgs) = some (0x44, pArgs) ∧ s.speRun 0 = none
      ∧ (sort 0x0200005FFFF0 1).ac < (s.tile 0).ac ∧ (m.tile 0).speQ = mm :: [] ∧ speArgs (.spMm iA pArgs) = some (0x40, pArgs)
      ∧ (m.tile 0).mxaQ = [] ∧ (cl.tile 0).mxaQ = mm :: [] ∧ sortReasons 0 (sort 0x020000600000 1) = 3 :: []
      ∧ sortReasons 0 (sort 0x0200005FFFF0 0) = [] ∧ (sort 0x0200005FFFF0 0).bits 2 0 32 = 0
      ∧ sortReasons 0 (sort 0x0200005FFFF0 1) = [] ∧ (sort 0x0200005FFFF0 1).bits 2 0 32 ≠ 0
      ∧ (sort 0x0200005FFFF0 1).bits 2 32 32 = 0 ∧ (State.reset.setSpeRun 143 (some r)).speRun 143 = some r ∧ r.claim = false := by decide

/-- A claiming command under way whose array has nothing left to deliver, and one whose array has a packet left. -/
theorem witness_SparseCommands_claims :
    let r : SpeRun := ⟨0x40, true, 4095, 0, true, []⟩
    let m (p : List MxaPkt) : MxaRun := ⟨0x40, true, 4095, 0, p, (0, 0), false, 2, 3⟩
    let s (p : List MxaPkt) : State :=
      (State.reset.setSpeRun 143 (some r)).setMxau 143 { State.reset.mxau 143 with run := [m p] }
    (s []).speRun 143 = some r ∧ ((s []).mxau 143).run = m [] :: [] ∧ (m []).op = r.op ∧ (m []).pkts = []
      ∧ ((s [⟨[(0, false)], 8, 0, []⟩]).mxau 143).run = m [⟨[(0, false)], 8, 0, []⟩] :: [] ∧ (m [⟨[(0, false)], 8, 0, []⟩]).pkts ≠ []
      ∧ populated 0x0200005FFFFF = true := by decide

/-- A fill of the near tier's last byte and a copy from it; a fill of nothing, and one of a type that is none. -/
def fillWords (ety n : Nat) : List Nat := [0, 0, 0, 0, 0xFF, 0, 0, 0] ++ [0x00861C467FFF, n, 1, 1, 1, 1, 1, ety + 2 ^ 8]
def copyWords : List Nat := [0, 0, 0, 0, 0, 0, 0, 0] ++ oneAccess 0x00861C467FFF 0x10 0 ++ oneAccess 0 0x10 0

set_option maxRecDepth 20000 in
theorem witness_LayoutCommands :
    let f (ety n : Nat) : QCmd := queuedCmd (.lxFill iA pArgs) (fillWords ety n)
    let c : QCmd := queuedCmd (.lxCopy iA pArgs) copyWords
    let s := tileAt1 (fun h => { h with lxeQ := [f 0x10 1] })
    (s.tile 0).lxeQ = f 0x10 1 :: [] ∧ lxArgs (f 0x10 1).c = some (7, pArgs) ∧ (f 0x10 1).ac < (s.tile 0).ac ∧ s.lxRuns 0 = []
      ∧ (State.reset.lxReasons 0 (f 0x11 1) 7).head? = some 1 ∧ State.reset.lxReasons 0 (f 0x10 0) 7 = [] ∧ (f 0x10 0).lxZero 7 = true
      ∧ State.reset.lxReasons 0 (f 0x10 1) 7 = [] ∧ (f 0x10 1).lxZero 7 = false
      ∧ ((f 0x10 1).pat 1).addrs = [0x00861C467FFF] ∧ populated 0x00861C467FFF = true ∧ lxArgs c.c = some (0, pArgs)
      ∧ State.reset.lxReasons 0 c 0 = [] ∧ c.lxZero 0 = false ∧ c.lxStaged 0 = false ∧ (c.pat 1).addrs = [0x00861C467FFF]
      ∧ (c.pat 2).addrs = [0] ∧ State.reset.fld F.FAB_ID_ID = 0 ∧ (512 + 1024 ≤ 1536 ∧ 1024 ≤ 1024) ∧ ¬(513 + 1024 ≤ 1536) := by
  decide

theorem witness_LayoutCommands_completion :
    let r : LxeRun := ⟨0, queuedCmd (.lxFill iA pArgs) (fillWords 0x10 1), 2, false, [], 0, 0, 0, 0, 0, 0⟩
    let s := State.reset.setLxRuns 143 [r]
    s.lxRuns 143 = r :: [] ∧ r.stage = 2 ∧ r.acks = 0 ∧ r.errs = 0 ∧ lxArgs r.c.c = some (7, pArgs) ∧ r.c.bits 1 12 1 = 0 := by decide

theorem witness_localUnits : localUnits State.reset ((queuedCmd (.lxCopy iA pArgs) copyWords).pat 1) 1 := by
  have h : ((queuedCmd (.lxCopy iA pArgs) copyWords).pat 1).addrs = [0x00861C467FFF] := by decide
  intro x hx
  rw [h] at hx
  obtain rfl := List.mem_singleton.mp hx
  decide

/-! ## Memory and the fabric -/

/-- The last byte of the near tier written, a whole ECC word of it, the byte after it, both at once, and an empty write. -/
theorem witness_TierRequests :
    let z := 0x00861C467FFF
    inMemory z 1 ∧ 2 ≤ tierOf z ∧ ¬(inMemory (z + 1) 1) ∧ wordsOf (z - 7) 8 = [z - 7] ∧ granule (z - 7) = 8 ∧ inMemory (z - 7) 8
      ∧ ¬(inMemory 0 0) ∧ edgeOf z = z + 1 ∧ inTier z = true ∧ inTier (z + 1) = false ∧ z + 2 ≤ edgeOf (z + 1)
      ∧ z + 1 + 1 ≤ edgeOf (z + 1) := by
  unfold inMemory
  decide

theorem witness_Scrubbing :
    let on := State.reset.setFld F.MEM_CTL_SCRUB_NEAR_EN 1
    let off := State.reset.setFld F.MEM_CTL_SCRUB_TILE_EN 0
    let last := on.setFld F.MEM_SCRUB_POS_NEAR_OFFSET (0x00861C468000 - 8)
    let a := on.scrubAt 0 0
    let lag := State.reset.setFld F.MEM_CTL_SCRUB_TILE_EN 1
    let fits (v : Nat) := 1 ≤ v % 2 ^ 14 ∧ v % 2 ^ 14 ≤ 8760 ∧ 1 ≤ v / 2 ^ 16 % 2 ^ 14 ∧ v / 2 ^ 16 % 2 ^ 14 ≤ 8760
      ∧ 10 ≤ v / 2 ^ 32 % 2 ^ 16 ∧ v / 2 ^ 32 % 2 ^ 16 ≤ 60000
    on.fld F.MEM_CTL_SCRUB_NEAR_EN = 1 ∧ off.fld F.MEM_CTL_SCRUB_TILE_EN ≠ 1 ∧ last.scrubAt 0 0 + 8 = 0x00861C468000
      ∧ wordBase a = a ∧ populated a = true ∧ on.tag a = .clean ∧ on.tag a ≠ .marked
      ∧ (on.setFld F.MEM_CTL_CE_WB_EN 1).fld F.MEM_CTL_CE_WB_EN = 1 ∧ (on.setFld F.MEM_CTL_CE_WB_EN 0).fld F.MEM_CTL_CE_WB_EN = 0
      ∧ (lag.fld F.MEM_CTL_SCRUB_TILE_EN = 1 ∧ 2 * lag.fld F.MEM_SCRUB_TILE_MS < 2 * lag.fld F.MEM_SCRUB_TILE_MS + 1)
      ∧ ¬(2 * lag.fld F.MEM_SCRUB_TILE_MS < 2 * lag.fld F.MEM_SCRUB_TILE_MS) ∧ fits (8760 + 2 ^ 16 + 60000 * 2 ^ 32)
      ∧ ¬fits (8761 + 2 ^ 16 + 60000 * 2 ^ 32) ∧ ¬fits (1 + 2 ^ 16 + 9 * 2 ^ 32) := by decide

/-- Link 31 in a state, with what it holds. -/
def link31 (n : Nat) (k : Link) : State := (State.reset.setLink 31 k).setFld (fLinkState 31) n

set_option maxRecDepth 20000 in
/-- A packet in sequence at the largest sequence number, one already received, one with a bad CRC and one beyond; a replay request for
a new packet and the one after REPLAY_MAX; a port's configuration taken and refused. -/
theorem witness_LinkLayer :
    let k : Link := { Link.init with rxNext := 2 ^ 32 - 1 }
    let s := link31 lkUP k
    let top := max 1 (s.fld (F.FAB_PORT_CFG_REPLAY_MAX 15))
    let again := link31 lkUP { Link.init with again := (0, top) }
    let t0 := (link31 lkTRAINING Link.init).setFld (F.TIDE_LINK_VALID 15) 1
    let t : State := { t0 with fw := { t0.fw with held := false } }
    let watch := s.setFld F.PWR_STATE_CUR 2
    let auto := again.setFld (F.FAB_PORT_CFG_AUTO_RETRAIN 15) 1
    let cfg (s : State) (v : Nat) : Prop := v / 8 % 4 = 3
      ∨ (s.fld (F.FAB_PORT_CFG_EN 15) = 1 ∧ v / 2 % 16 ≠ (s.reg (R.FAB_PORT_CFG 15)).toNat / 2 % 16)
    let on := s.setFld (F.FAB_PORT_CFG_EN 15) 1
    captureOff s ∧ s.fld (fLinkState 31) = lkUP ∧ (fecMark (s.fld (F.FAB_PORT_CFG_FEC 15)) 0 0).1 = false
      ∧ (2 ^ 32 - 1 = (s.link 31).rxNext) ∧ seqAhead (2 ^ 32 - 2) (s.link 31).rxNext = false ∧ seqAhead 0 (s.link 31).rxNext = true
      ∧ (BitVec.ofNat 32 (FabPkt.blank.linkCrc + 1)).toNat ≠ FabPkt.blank.linkCrc
      ∧ 1 ≤ top ∧ top < (if (again.link 31).again.1 = 0 then (again.link 31).again.2 + 1 else 1) ∧ (s.link 31).wait = []
      ∧ (s.fld F.PWR_STATE_CUR ≠ 2 ∧ s.pwr.entering ≠ some 2) ∧ watch.fld F.PWR_STATE_CUR = 2 ∧ watch.fld (fLinkState 31) = lkUP
      ∧ auto.fld (F.FAB_PORT_CFG_AUTO_RETRAIN 15) = 1 ∧ auto.fw.jobWait = none
      ∧ (again.setFld (F.FAB_PORT_CFG_AUTO_RETRAIN 15) 0).fld (F.FAB_PORT_CFG_AUTO_RETRAIN 15) = 0
      ∧ t0.fw.held = true ∧ t.fw.held = false
      ∧ t.fld (fLinkState 31) = lkTRAINING ∧ t.fld (F.TIDE_LINK_VALID 15) = 1 ∧ cfg s 0x18 ∧ ¬cfg s 0x11 ∧ s.fld (F.FAB_PORT_CFG_EN 15) = 0
      ∧ on.fld (F.FAB_PORT_CFG_EN 15) = 1 ∧ cfg on ((on.reg (R.FAB_PORT_CFG 15)).toNat ^^^ 2) ∧ ¬cfg on ((on.reg (R.FAB_PORT_CFG 15)).toNat - 1) := by
  unfold captureOff
  decide

/-- A packet at the front of virtual channel 7 of link 31, or of the device's own packets, of a device whose FAB_ID is 5. -/
def arrived (l : Nat) (p : FabPkt) : State :=
  let s := (State.reset.setFld F.FAB_ID_ID 5).setFld F.FAB_ID_VALID 1
  s.setLink l { Link.init with rx := [{ FabPkt.blank with vc := 0 }, p] }

def pkt (opc : Nat) : FabPkt := { FabPkt.blank with opc := BitVec.ofNat 8 opc, vc := 7, dst := 5 }

/-- A queue with nothing in it, in a state. -/
def queueIn (state : Nat) (recv : Bool) : Queue :=
  { ctxOf (fun _ => 0) with log2 := 1, recv := recv, state := state }

set_option maxRecDepth 20000 in
theorem witness_FabricPackets :
    let p (o : Nat) : FabPkt := { pkt o with payload := [1], len := 1, sub := 0x1A, addr := 0x00861C467FFE }
    let s := arrived 31 (p opWRITE)
    let f : FabPkt := { pkt opREAD with dst := 6 }
    let w := arrived 31 f
    let r := (((w.setFld (F.FAB_ROUTE_VALID 6) 1).setFld (F.FAB_ROUTE_PORT 6) 15).setFld (fLinkState 30) lkUP)
    let q := (arrived 32 (pkt opMSG)).setQueue 0 (some (queueIn quDRAINING true))
    let c := (arrived 31 (pkt opCREDIT)).setQueue 0 (some (queueIn quACTIVE false))
    let a : State := { arrived 31 (pkt opACK) with fab := { (arrived 31 (pkt opACK)).fab with reqs := [⟨0, 0, 0, 0, .none⟩] } }
    let m : FabPkt := { pkt opMGMT with opnd := 20, payload := List.replicate 16 0 }
    captureOff s ∧ s.fld F.EVT_STATUS_REPLAY_RUN = 0 ∧ s.rxFront 31 7 = some (p opWRITE) ∧ s.isLocal (p opWRITE) = true
      ∧ (p opWRITE).opc.toNat = opWRITE ∧ (p opWRITE).e2e = false ∧ inMemory (p opWRITE).addr.toNat (p opWRITE).payload.length
      ∧ inMemory (p opREAD).addr.toNat (p opREAD).len.toNat ∧ (p opATOMIC).sub.toNat % 16 ≤ 10
      ∧ (0x00861C467FF8 : Nat) % 8 = 0 ∧ inMemory 0x00861C467FF8 8
      ∧ q.rxFront 32 7 = some (pkt opMSG) ∧ q.queue 0 = some (queueIn quDRAINING true) ∧ c.queue 0 = some (queueIn quACTIVE false)
      ∧ c.rxFront 31 7 = some (pkt opCREDIT) ∧ a.reqOf 0 = some ⟨0, 0, 0, 0, .none⟩ ∧ (arrived 31 (pkt opACK)).reqOf 0 = none
      ∧ m.opnd.toNat % 32 = 20 ∧ m.opnd.toNat / 32 % 2 = 0 ∧ 16 ≤ m.payload.length ∧ (m.payload.getD 1 0).toNat < 128
      ∧ (arrived 31 m).fld (F.MBX_CH_STATUS_STATE 20) = chIDLE ∧ (arrived 31 m).rxFront 31 7 = some m
      ∧ w.rxFront 31 7 = some f ∧ w.isLocal f = false ∧ r.routeOf 6 = some 30 ∧ f.hops.toNat + 1 ≤ max 1 (r.fld F.FAB_CTL_HOP_MAX)
      ∧ (r.setFld F.FAB_CTL_HOP_MAX 0).fld F.FAB_CTL_HOP_MAX < 2 ∧ max 1 ((r.setFld F.FAB_CTL_HOP_MAX 0).fld F.FAB_CTL_HOP_MAX) < 1 + 1 := by
  unfold captureOff inMemory
  decide

set_option maxRecDepth 20000 in
theorem witness_FabricIdentityAndCheck :
    let s := (State.reset.setQueue 65535 (some (queueIn quACTIVE false)))
    let r (c : Client) : State := { State.reset with fab := { State.reset.fab with reqs := [⟨7, 0, 0, opWRITE, c⟩] } }
    let d : QueDesc := QueDesc.new 0 [1] false
    let q := (r (.queue 1024 0 0 0)).setQueue 1024 (some { queueIn quACTIVE false with infl := [{ d with w := [5] }] })
    s.anyActive = true ∧ ¬(State.reset.anyActive = true ∨ State.reset.fab.reqs ≠ []) ∧ (r .none).reqOf 7 = some ⟨7, 0, 0, opWRITE, .none⟩
      ∧ q.reqOf 7 = some ⟨7, 0, 0, opWRITE, .queue 1024 0 0 0⟩ ∧ ((q.queue 1024).map (fun x => x.infl.map (fun y =>
        (y.idx == 0 && y.tries == 0 && !y.done, y.e2e x)))) = some [(true, false)] ∧ q.greOfQueue 1024 = none
      ∧ State.reset.reqOf 7 = none := by decide

/-! ## Queues and the gradient exchange -/

/-- The device with a queue. -/
def withQueue (q : Nat) (x : Queue) : State := (State.reset.setQueue q (some x)).setFld F.FAB_ID_VALID 1

set_option maxRecDepth 20000 in
/-- Contexts of ring size 2^16, 2^1 and 2^0; queues in each state; doorbells at the ring's size and beyond; descriptors answered and
not answered, with a token and without. -/
theorem witness_HardwareQueues_commands :
    let ctx (n : Nat) : State := { State.reset with mem := [(6, BitVec.ofNat 8 n)] }
    let w (s : State) : Nat := s.num (s.ctxAddr 0) 8 / 2 ^ 48 % 32
    let x := queueIn quACTIVE false
    let d (w0 w1 ans : Nat) : QueDesc := { QueDesc.new 0 [w0, w1] false with ans := ans }
    let apart (d : QueDesc) : Prop := d.bits 0 14 1 = 1 → d.bits 1 48 16 ≠ State.reset.fld F.FAB_ID_ID
    State.reset.queue 65535 = none ∧ (1 ≤ w (ctx 16) ∧ w (ctx 16) ≤ 16) ∧ (1 ≤ w (ctx 1) ∧ w (ctx 1) ≤ 16)
      ∧ ¬(1 ≤ w State.reset ∧ w State.reset ≤ 16) ∧ (withQueue 65535 x).queue 65535 = some x
      ∧ (withQueue 0 (queueIn quDRAINING true)).queue 0 = some (queueIn quDRAINING true) ∧ (queueIn quDRAINING true).infl = []
      ∧ (idxDiff 2 x.head ≤ 2 ^ x.log2 ∧ idxDiff x.tail x.head ≤ idxDiff 2 x.head) ∧ ¬(idxDiff 3 x.head ≤ 2 ^ x.log2)
      ∧ (let r := { queueIn quACTIVE true with tail := 1 }
        captureOff (withQueue 0 r) ∧ (withQueue 0 r).fld F.EVT_STATUS_REPLAY_RUN = 0 ∧ 0 < idxDiff 1 r.head
          ∧ idxDiff 1 r.head ≤ idxDiff r.tail r.head ∧ (withQueue 0 r).fld F.FAB_ID_VALID = 1 ∧ idxDiff r.tail r.head < idxDiff 2 r.head
          ∧ idxDiff 0 r.head = 0)
      ∧ (d 5 0 0).done = false ∧ (d 5 0 1).done = true ∧ inMemory (x.slot (d 5 0 1).idx + 192) 64 ∧ apart (d 5 0 1)
      ∧ (d 5 0 1).gre = none ∧ (d 5 0 1).bits 0 15 1 = 0 ∧ apart (d (5 + 2 ^ 14 + 2 ^ 15) (143 * 2 ^ 12 + 2 ^ 48) 1)
      ∧ (d (5 + 2 ^ 14 + 2 ^ 15) (143 * 2 ^ 12 + 2 ^ 48) 1).bits 0 15 1 = 1
      ∧ (d (5 + 2 ^ 14 + 2 ^ 15) (143 * 2 ^ 12 + 2 ^ 48) 1).bits 1 12 8 < 144 := by
  unfold captureOff inMemory
  decide

/-- A command in a tile's post queue since ac 0, its descriptor of 64-bit words. -/
def posted (c : Instr) (ws : List Nat) (f : State → State) : State :=
  let s := f State.reset
  s.setTile 143 { s.tile 143 with postQ := [{ c := c, desc := block ws, bad := List.replicate ws.length false, ac := 0 }] }

/-- A Q.POST to queue 1024. -/
def qArgs : PostArgs := ⟨1, true, 4095, BitVec.ofNat 26 (1024 * 2 ^ 10)⟩

set_option maxRecDepth 20000 in
/-- Q.POST of a descriptor of zeros to an ACTIVE queue, to a full one, to none, and one with a reserved KIND. -/
theorem witness_HardwareQueues_posts :
    let x := queueIn quACTIVE false
    let ws (k : Nat) : List Nat := k :: List.replicate 23 0
    let s (k : Nat) (x : Queue) : State := posted (.qPost iZ qArgs) (ws k) (fun s => s.setQueue 1024 (some x))
    let none' := posted (.qPost iZ qArgs) (ws 0) id
    (s 0 x).queue 1024 = some x ∧ (1024 ≤ 1024 ∧ x.state = quACTIVE ∧ x.recv = false) ∧ none'.queue 1024 = none
      ∧ qArgs.x.toNat / 2 ^ 10 % 2 ^ 16 = 1024 ∧ ((s 0 x).tile 143).postQ.map (fun c => (c.desc.length, c.ac)) = [(192, 0)]
      ∧ idxDiff x.tail x.head < 2 ^ x.log2 ∧ 2 ^ x.log2 ≤ idxDiff 2 x.head
      ∧ (QueDesc.new x.tail (ws 0) false).reject x = none ∧ (QueDesc.new x.tail (ws 6) false).reject x = some 3
      ∧ ((s 0 x).tile 143).ac < 1 := by decide

set_option maxRecDepth 20000 in
/-- A TOKEN_INC to send. -/
theorem witness_HardwareQueues_sending :
    let x := queueIn quACTIVE false
    let tok : QueDesc := QueDesc.new 0 [5] false
    let t := (withQueue 1024 { x with tail := 1, infl := [tok] }).setFld F.QUE_CTL_EN 1
    captureOff t ∧ t.fld F.EVT_STATUS_REPLAY_RUN = 0 ∧ t.fld F.QUE_CTL_EN = 1 ∧ t.queOrder = 1024 :: [] ∧ State.reset.queOrder = []
      ∧ t.queue 1024 = some { x with tail := 1, infl := [tok] }
      ∧ ({ x with tail := 1, infl := [tok] } : Queue).sender = some tok ∧ tok.e2e x = false ∧ t.canSend (quePacket x tok tok.sent) = true
      ∧ t.fld F.FAB_ID_VALID = 1 := by
  unfold captureOff
  decide

set_option maxRecDepth 20000 in
/-- A message of one byte that just fits its buffer, in the ring's last free slot. -/
theorem witness_HardwareQueues_receiving :
    let x : Queue := { queueIn quACTIVE true with tail := 1, bsize := 1, buf := 5 * 2 ^ 48 + 0x1000, tokEn := true, tile := 143 }
    let p : FabPkt := { pkt opMSG with first := true, last := true, opnd2 := 1, payload := [0xFF]
                                       crc := BitVec.ofNat 64 (crc64 0 [0xFF]) }
    let s := (arrived 32 p).setQueue 0 (some x)
    let buf := x.buffer x.tail
    let e := x.entry x.tail
    captureOff s ∧ s.fld F.EVT_STATUS_REPLAY_RUN = 0 ∧ s.rxFront 32 7 = some p ∧ p.opc.toNat = opMSG ∧ p.pm = false
      ∧ s.queue p.qid.toNat = some x ∧ x.opn = false ∧ p.alive.toNat = x.alive ∧ p.opnd2.toNat = p.payload.length
      ∧ p.payload.length < 2 ^ 32 ∧ p.payload.length ≤ x.bsize ∧ x.tokEn = true ∧ x.tile < 144 ∧ crc64 0 p.payload = p.crc.toNat ∧ idxDiff x.tail x.head < 2 ^ x.log2
      ∧ buf / 2 ^ 48 = s.fld F.FAB_ID_ID ∧ inMemory (buf % 2 ^ 48) 1 ∧ inMemory e 64 ∧ e + 64 ≤ buf % 2 ^ 48 := by
  unfold captureOff inMemory
  decide

/-- A bucket of a channel: one element of FP32, its areas 0x1000 bytes apart, `f` what else it is. -/
def bucket (f : GreBucket → GreBucket) : GreBucket :=
  f { chan := 255, seq := 0, ord := 0, tile := 143, token := 4095, te := true
      d := [0x1000, 0x2000, 1, 0, 0, 0x3000, 0x4000, 0x5000, 0x6000], ready := true, missed := false, late := false, outc := 0
      started := false, carryIn := false, pass := 0, reran := [], blks := [], fins := [], unacked := 0, quiet := 0, pois := false
      carryBad := false, done := none, paid := false }

/-- The device with that bucket on channel 255, which is enabled with one participant. -/
def withBucket (f : GreBucket → GreBucket) : State :=
  let s := ((State.reset.setFld (F.GRE_CHAN_STATE_STATE 255) 1).setFld (F.GRE_CHAN_CFG_P 255) 1).setFld F.GRE_CTL_EN 1
  { s with gre := { buckets := [bucket f], ord := 1 } }

def finalBlk (ovf : Bool) (i : Nat) : GreBlk :=
  { sum := { greZeros i 0 false 1 with els := [1], ovf := ovf }, kids := [], mid := true, fin := true, rx := [] }

set_option maxRecDepth 20000 in
theorem witness_GradientExchange_channels :
    let s := State.reset.setFld (F.GRE_CHAN_LINK_QBASE 255) 1022
    let q := s.fld (F.GRE_CHAN_LINK_QBASE 255)
    let legal (n links : Nat) : Bool :=
      let p := n / 2 ^ 16 % 2 ^ 15
      let pos := n / 2 ^ 32 % 2 ^ 15
      decide (n / 2 % 4 ≠ 3 ∧ 1 ≤ p ∧ p ≤ 16384 ∧ pos < p ∧ n / 2 ^ 5 % 8 ≤ 4) && decide (n / 2 % 4 = 1 → 2 ≤ s.fld (F.GRE_CHAN_LINK_P_IN 255))
        && decide (q % 2 = 0 ∧ q + 2 * links ≤ 1024) && decide (n / 2 ^ 4 % 2 ≠ 1)
        && decide (pos = 0 → n / 2 ^ 48 % 2 ^ 16 = s.fld F.FAB_ID_ID)
    legal (1 + 2 ^ 16) 1 = true ∧ legal (1 + 16384 * 2 ^ 16 + 16383 * 2 ^ 32) 1 = true ∧ legal (1 + 16385 * 2 ^ 16) 1 = false
      ∧ legal (1 + 1 * 2 + 2 * 2 ^ 16) 2 = false ∧ (s.setFld (F.GRE_CHAN_CFG_EN 255) 1).fld (F.GRE_CHAN_CFG_EN 255) = 1
      ∧ s.fld (F.GRE_CHAN_CFG_EN 255) ≠ 1 ∧ s.queue (q + 0) = none
      ∧ (s.setQueue 1023 (some (queueIn quERROR true))).queue (q + 1) = some (queueIn quERROR true) ∧ 1 < 2 * 1 := by decide

set_option maxRecDepth 20000 in
/-- GR.POST: accepted, not ready at its deadline, of nothing, and without the engine. -/
theorem witness_GradientExchange_posts :
    let a : PostArgs := ⟨1, true, 0, BitVec.ofNat 26 (255 * 2 ^ 18)⟩
    let words (n ready dead : Nat) : List Nat :=
      [0x1000, 0x2000, n, dead, ready * 2 ^ 12, 0x3000, 0x4000, 0x5000, 0x6000] ++ List.replicate 7 0
    let s (n ready dead : Nat) : State := posted (.grPost iZ a) (words n ready dead) (fun s =>
      (s.setFld (F.GRE_CHAN_STATE_STATE 255) 1).setFld F.GRE_CTL_EN 1)
    let b (n ready dead : Nat) : GreBucket := namedBucket (s n ready dead) 143 a (words n ready dead)
    let off := (s 1 0 0).setFld F.GRE_CTL_EN 0
    ((s 1 0 0).tile 143).postQ.map (fun c => (c.ac, c.poisoned, (List.range 16).map (fun k => c.word k))) = [(0, false, words 1 0 0)]
      ∧ (b 1 0 0).chan = 255 ∧ (s 1 0 0).greReason (b 1 0 0) false = none ∧ (b 1 0 0).count ≠ 0
      ∧ (s 0 0 0).greReason (b 0 0 0) false = none
      ∧ (b 0 0 0).count = 0 ∧ (b 1 0 0).readyN ≤ (s 1 0 0).fld (F.TSQ_TOKEN_COUNT 143 (b 1 0 0).readyTok) ∧ (b 1 1 1).deadline ≠ 0
      ∧ (let t := (s 1 1 1).setTide { (s 1 1 1).tide with delivered := 1 }
        (b 1 1 1).deadline ≤ t.tide.delivered ∧ decide ((b 1 1 1).readyN ≤ t.fld (F.TSQ_TOKEN_COUNT 143 (b 1 1 1).readyTok)) = false)
      ∧ off.greReason (b 1 0 0) false = some 1 := by decide

set_option maxRecDepth 20000 in
/-- A bucket that may start, without carry, with its carry and with another's; a late one; one whose block overflowed. -/
theorem witness_GradientExchange_buckets :
    let s := withBucket id
    let b := bucket id
    let carry (n : Nat) : State :=
      let t := (withBucket id).setFld (F.GRE_CHAN_CFG_POLICY 255) 1
      { t with mem := [(0x6000, BitVec.ofNat 8 n), (0x6007, 0x80)] }
    let l := fun (x : GreBucket) => { x with missed := true, late := true }
    let e := fun (x : GreBucket) => { l x with done := some 0 }
    let o := fun (x : GreBucket) => { x with started := true, blks := [finalBlk true 0] }
    let late (f : GreBucket → GreBucket) : Option GreBucket := (withBucket f).greUnresolved 255
    (s.bucketsOf 255).find? (fun b => !b.started) = some b ∧ s.greMayStart b = true ∧ (s.carryHead b).2 = false
      ∧ ¬(s.fld (F.GRE_CHAN_CFG_POLICY 255) = 1)
      ∧ ((carry 1).fld (F.GRE_CHAN_CFG_POLICY 255) = 1 ∧ b.late = false ∧ ((carry 1).carryHead b).1 / 2 ^ 63 % 2 = 1)
      ∧ (((carry 1).carryHead b).1 % 2 ^ 26 = b.count ∧ ((carry 1).carryHead b).1 / 2 ^ 26 % 4 = b.sfmt)
      ∧ ((carry 2).carryHead b).1 / 2 ^ 63 % 2 = 1 ∧ ((carry 2).carryHead b).1 % 2 ^ 26 ≠ b.count ∧ (carry 2).greMayStart b = true
      ∧ inMemory b.carryA 64
      ∧ (let w := withBucket (fun x => { x with ready := false }); (w.bucketsOf 255).find? (fun b => !b.started) ≠ none
        ∧ w.greMayStart (bucket (fun x => { x with ready := false })) = false)
      ∧ late l = some (bucket l) ∧ late id = none ∧ late e = some (bucket e) ∧ (bucket e).done = some 0 ∧ (bucket l).done = none
      ∧ inMemory b.statA 8 ∧ greOverlap [(b.src, 4), (b.carryA, 68), (b.statA, 8)] = false ∧ b.tile < 144 ∧ inMemory b.src (b.count * greBytes b.sfmt)
      ∧ inMemory b.carryA (64 + b.count * greBytes b.sfmt) ∧ b.src + b.count * greBytes b.sfmt ≤ b.carryA
      ∧ ((withBucket o).bucketsOf 255).find? (fun b => b.passDone && !b.toRerun.isEmpty) = some (bucket o)
      ∧ (bucket o).toRerun[0]? = some 0 ∧ ((bucket o).blks.map (fun y => y.sum))[0]? = some (finalBlk true 0).sum
      ∧ (s.bucketsOf 255).find? (fun b => b.passDone && !b.toRerun.isEmpty) = none := by
  unfold inMemory
  decide

set_option maxRecDepth 20000 in
/-- A bucket complete but for its writes, and one with a message unacknowledged; one without progress for STALL_TIDES tides. -/
theorem witness_GradientExchange_ends :
    let done := fun (x : GreBucket) => { x with started := true, blks := [finalBlk false 0], quiet := 1 }
    let wait := fun (x : GreBucket) => { done x with unacked := 1 }
    let s := withBucket done
    let lim (n : Nat) := s.setFld F.GRE_CTL_STALL_TIDES n
    let stalled (s : State) : Option GreBucket :=
      let l := s.fld F.GRE_CTL_STALL_TIDES
      (s.bucketsOf 255).find? (fun b => b.started && l != 0 && decide (l ≤ b.quiet))
    let areas := [(0x2000, 4), (0x3000, 2), (0x4000, 0), (0x5000, 32), (0x6000, 0)]
    (∀ b ∈ s.gre.buckets, b.tile < 144) ∧ s.bucketsOf 255 = bucket done :: [] ∧ (bucket done).mayComplete (s.grePlace 255) = true
      ∧ (bucket (fun x => { done x with late := true, missed := true })).mayComplete (s.grePlace 255) = true
      ∧ (withBucket wait).bucketsOf 255 = [bucket wait] ∧ (bucket wait).mayComplete (s.grePlace 255) = false
      ∧ (bucket done).finals.map (fun f => f.els.length) = [1] ∧ (∀ x ∈ areas, x.2 = 0 ∨ inMemory x.1 x.2) ∧ greOverlap areas = false
      ∧ stalled (lim 1) ≠ none ∧ stalled (lim 2) = none ∧ stalled (lim 0) = none := by
  unfold inMemory
  decide

/-- A record of zeros, and what the 8,208 zero bytes of a message read as. -/
def zeroRec : GreRec := { greZeros 0 0 false 0 with maxe := 0 }

theorem leNat_zeros : ∀ n, leNat (List.replicate n 0) = 0
  | 0 => rfl
  | n + 1 => by rw [List.replicate_succ, leNat, leNat_zeros n]; rfl

theorem greRecords_zeros : greRecords 5 (List.replicate 8208 (0, false)) = [(zeroRec, false, [])] := by
  have any0 : ∀ n, (List.replicate n ((0 : Byte), false)).any (fun b => b.2) = false := fun n => by cases n <;> simp
  have parse : GreRec.parse (List.replicate 8208 (0, false)) = (zeroRec, false, []) := by
    simp only [GreRec.parse, List.drop_replicate, List.take_replicate, List.map_replicate, leNat_zeros, any0, bitsOf]
    rw [List.map_const', List.length_range, List.filter_eq_nil_iff.mpr (fun _ _ => Bool.false_ne_true)]
    rfl
  have h : (List.replicate 8208 ((0 : Byte), false)).isEmpty = false := rfl
  have e : (List.replicate (8208 - 8208) ((0 : Byte), false)).isEmpty = true := rfl
  simp only [greRecords, h, List.take_replicate, List.drop_replicate, e, Nat.min_self, parse, if_true]
  rfl

/-- Participant 0 of a ring of two, its bucket started, with a message of `len` bytes in the ring of link 0. -/
def ringOfTwo (error len phase : Nat) : State :=
  let blk (i : Nat) : GreBlk := { sum := greZeros i 0 false 1, kids := [], mid := false, fin := false, rx := [] }
  let s := (withBucket (fun x => { x with started := true, blks := (List.range 8).map blk })).setFld (F.GRE_CHAN_CFG_P 255) 2
  let q := s.setQueue 1 (some { queueIn quACTIVE true with tail := 1 })
  let byte (n : Nat) : Byte := BitVec.ofNat 8 n
  { q with mem := [(6, byte error), (8, byte len), (9, byte (len / 256)), (20, 1), (23, byte (4 * phase)), (33, 0x10)] }

def ringMessage (s : State) : List (GreRec × Bool × List Nat) :=
  let s1 := s.noteReads (s.own srcGRE) 0 64
  greRecords 5 (s1.busRead (s1.own srcGRE) (s.num 32 8 % 2 ^ 48) (s.num 8 8 % 2 ^ 32)).2.1

set_option maxRecDepth 100000 in
/-- A message taken, one for another pass, one of a wrong length, one that waits and one with ERROR. -/
theorem witness_GradientExchange_messages :
    let s := ringOfTwo 0 8208 0
    let b : Option GreBucket := (s.bucketsOf 255).head?
    let q := s.fld (F.GRE_CHAN_LINK_QBASE 255) + 2 * 0 + 1
    let x : Queue := { queueIn quACTIVE true with tail := 1 }
    q = 1 ∧ s.queue q = some x ∧ s.fld (F.GRE_CHAN_STATE_STATE 255) = 1 ∧ x.head ≠ x.tail ∧ x.head < 2 ^ 32 ∧ x.tail < 2 ^ 32
      ∧ s.fld F.EVT_CAP_CTL_EN = 0 ∧ s.fld F.EVT_STATUS_REPLAY_RUN = 0 ∧ x.entry x.head = 0
      ∧ (ringOfTwo 1 8208 0).num 0 8 / 2 ^ 48 % 2 = 1 ∧ s.num 0 8 / 2 ^ 48 % 2 = 0
      ∧ greExpected (s.grePlace 255) 0 0 (s.bucketsOf 255) = b ∧ greExpected (s.grePlace 255) 0 2 (s.bucketsOf 255) = none
      ∧ (b.bind (fun b => greDiffers (s.grePlace 255) b 0 0 (s.num 16 8) 8208 [(zeroRec, false, [])])) = none
      ∧ (b.bind (fun b => greDiffers (s.grePlace 255) b 0 0 (s.num 16 8 + 1) 8208 [(zeroRec, false, [])])) = some 0
      ∧ (b.bind (fun b => b.place 0)) = some 0 ∧ (b.bind (fun b => b.blks[0]?)).isSome = true := by decide +kernel

set_option maxRecDepth 100000 in
theorem ringMessage_zeros : ringMessage (ringOfTwo 0 8208 0) = [(zeroRec, false, [])] := by
  have h : (((ringOfTwo 0 8208 0).noteReads ((ringOfTwo 0 8208 0).own srcGRE) 0 64).busRead
      (((ringOfTwo 0 8208 0).noteReads ((ringOfTwo 0 8208 0).own srcGRE) 0 64).own srcGRE)
      ((ringOfTwo 0 8208 0).num 32 8 % 2 ^ 48) ((ringOfTwo 0 8208 0).num 8 8 % 2 ^ 32)).2.1
      = List.replicate 8208 (0, false) := by decide +kernel
  exact (congrArg (greRecords 5) h).trans greRecords_zeros

/-! ## Power -/

set_option maxRecDepth 20000 in
/-- All steps allowed and none; a step whose voltage the rails hold and one they miss; a supply below the droop threshold, at it and above
it; 255 calm ac and 256; temperatures about the limits; PWR_CTL at the ends of its ranges. -/
theorem witness_PowerThrottling :
    let s := State.reset
    let brake := s.setFld F.PWR_HOST_BRAKE 1
    let f (v lo w : Nat) : Nat := v / 2 ^ lo % 2 ^ w
    let legal (v : Nat) : Bool := decide (¬(f v 0 1 = 1 ∧ f v 1 1 = 1) ∧ 900 ≤ f v 16 12 ∧ f v 16 12 ≤ 2800 ∧ 10 ≤ f v 32 7
      ∧ f v 32 7 ≤ 100) && decide (70 ≤ f v 40 8 ∧ f v 40 8 ≤ 105 ∧ 15 ≤ f v 48 8 ∧ f v 48 8 ≤ 50 ∧ 25 ≤ f v 56 8 ∧ f v 56 8 ≤ 70)
    let v (cap mv tj ci co b : Nat) : Nat := b + cap * 2 ^ 16 + mv * 2 ^ 32 + tj * 2 ^ 40 + ci * 2 ^ 48 + co * 2 ^ 56
    s.pwr.entering = none ∧ ({ s.pwr with pend := some 3300 } : PwrUnit).pend = some 3300 ∧ s.pwr.pend = none ∧ 16384 ≠ 0
      ∧ s.pwr.crit = false ∧ 110 ≤ [20, 110].foldl max 0
      ∧ s.pwr.cool = 0 ∧ 100 * max (51 - s.fld F.PWR_CTL_COOL_IN_MAX) (0 - s.fld F.PWR_CTL_COOL_OUT_MAX) ≠ 0
      ∧ brake.fld F.PWR_HOST_BRAKE = 1 ∧ ¬(s.fld F.PWR_HOST_BRAKE = 1) ∧ s.pwr.fmaxOn = false ∧ 120 ≤ 120 ∧ 119 < 120
      ∧ legal (v 900 10 70 15 25 0) = true ∧ legal (v 2800 100 105 50 70 2) = true ∧ legal (v 899 10 70 15 25 0) = false
      ∧ legal (v 2801 10 70 15 25 0) = false ∧ legal (v 900 10 70 15 25 3) = false ∧ legal (v 900 10 106 15 25 0) = false := by decide

/-- A device whose table asks 900 mV of die 3 at 3.3 GHz, its rails at `mv`; die 3 stretched with `calm` ac behind it. -/
def powered (mv calm : Nat) : State :=
  let s := State.reset.setFld (F.PWR_VF_MV 3 84) 900
  { s with pwr := { s.pwr with rails := [mv, mv, mv, mv], stretch := 8, calm := [0, 0, 0, calm], pend := some 3300 } }

set_option maxRecDepth 20000 in
theorem witness_PowerThrottling_rails :
    let reached (s : State) : Bool := (List.range 4).all (fun d => decide (s.fld (F.PWR_VF_MV d ((3300 - 1200) / 25)) ≤ s.pwr.rails.getD d 0))
    let s := (powered 900 0).setFld F.PWR_STATUS_FREQ 3300
    let at' := s.fld (F.PWR_VF_MV 3 ((s.fld F.PWR_STATUS_FREQ - 1200) / 25)) - s.fld F.PWR_CTL_DROOP_MV
    reached (powered 900 0) = true ∧ reached (powered 899 0) = false ∧ (powered 900 0).pwr.pend = some 3300
      ∧ 0 < at' ∧ at' - 1 < at' ∧ at' ≤ at' ∧ s.pwr.stretch.testBit 3 = true ∧ ¬(s.pwr.stretch.testBit 0 = true)
      ∧ s.pwr.calm.length = 4 ∧ (powered 900 255).pwr.calm.getD 3 0 + 0 < 256
      ∧ (∀ x ∈ [at' + 1], at' < x) ∧ 256 ≤ (powered 900 255).pwr.calm.getD 3 0 + [at' + 1].length
      ∧ [at' + 1, at'] = [at' + 1] ++ [at'] := by decide

/-- The currents of dies without a rail keep their limits; where an MMA costs energy at all, enough of them in 1 µs exceed a limit. -/
theorem witness_PowerThrottling_current (h : 0 < Config.eventPj 0) (leak : Nat) :
    (¬∃ d, d < 4 ∧ State.reset.pwr.rails.getD d 0 ≠ 0) ∧ ((powered 900 0).pwr.rails.getD 3 0 - 10) ≠ 0
      ∧ (powered 900 0).ilimit 3 * 1000 * ((powered 900 0).pwr.rails.getD 3 0 - 10) * 16384
        < (weigh Config.eventPj [10 ^ 12] + leak) * (powered 900 0).fld (F.PWR_CAL_K 3) := by
  have hi : (powered 900 0).ilimit 3 * 1000 * ((powered 900 0).pwr.rails.getD 3 0 - 10) * 16384 < 10 ^ 12 * 16384 := by decide
  have hk : (powered 900 0).fld (F.PWR_CAL_K 3) = 16384 := by decide
  refine ⟨by decide, by decide, lt_of_lt_of_le hi ?_⟩
  rw [hk]
  refine Nat.mul_le_mul_right _ ?_
  have : weigh Config.eventPj [10 ^ 12] = 10 ^ 12 * Config.eventPj 0 := by simp [weigh]
  rw [this]
  exact le_trans (Nat.le_mul_of_pos_right _ h) (Nat.le_add_right _ _)

theorem witness_highestStep : highestStep (fun _ => true) 3300 ∧ highestStep (fun _ => false) 1200 :=
  ⟨.inl ⟨84, by decide, rfl, rfl, fun j h h' => absurd h' (by omega)⟩, .inr ⟨fun _ _ => rfl, rfl⟩⟩

/-- A member with a move of kind 0 (decrease), 1 (increase) or 2 (hold) for tide 1 written to it, at a tide. -/
def member (kind now : Nat) : State :=
  let s := ((State.reset.setFld F.FAB_ID_VALID 1).setReg (R.PWR_GRP_MOVE 0) 1).setReg (R.PWR_GRP_MOVE 1) (BitVec.ofNat 64 (900 + kind * 2 ^ 16))
  { s with pwr := { s.pwr with moveNew := true }, tide := { s.tide with delivered := now } }

/-- The master of a group of two, whose members report at tide 0: member 0 with slack, member 1 with an overrun; at tide 2. -/
def groupMaster : State :=
  let s := ((State.reset.setFld F.PWR_GRP_CTL_IS_MASTER 1).setFld F.FAB_ID_VALID 1).setFld F.PWR_GRP_CTL_MOVE_MAX 100
  let t := (s.setFld F.PWR_GRP_CFG_MEMBERS 2).setFld F.PWR_GRP_BUDGET_BUDGET 4000
  let m (s : State) (i w1 w2 : Nat) : State :=
    ((((s.setFld (F.PWR_GRP_MEMBER_VALID i) 1).setFld (F.PWR_GRP_MEMBER_DEVICE_ID i) (i + 1)).setReg (R.PWR_GRP_INBOX i 0) 1).setReg
      (R.PWR_GRP_INBOX i 1) (BitVec.ofNat 64 w1)).setReg (R.PWR_GRP_INBOX i 2) (BitVec.ofNat 64 w2)
  let u := m (m t 0 (2 ^ 32 - 1) (2000 + 2000 * 2 ^ 16)) 1 (1 * 2 ^ 32) (2000 + 2000 * 2 ^ 16)
  { u with tide := { u.tide with delivered := 3 } }

set_option maxRecDepth 20000 in
theorem witness_PowerBudgetsAndStates_moves :
    let w (s : State) (k : Nat) : Nat := (s.reg (R.PWR_GRP_MOVE k)).toNat
    let up (s : State) : Prop := w s 1 / 2 ^ 16 % 2 = 1
    let hold (s : State) : Prop := w s 1 / 2 ^ 17 % 2 = 1
    let d := member 0
    let i := member 1
    let h := member 2 0
    captureOff (d 0) ∧ (d 0).fld F.EVT_STATUS_REPLAY_RUN = 0 ∧ (d 0).fld F.FAB_ID_VALID = 1 ∧ (d 0).pwr.moveNew = true ∧ ¬up (d 0)
      ∧ ¬hold (d 0) ∧ 0 < w (d 0) 0 % 2 ^ 48 ∧ w (d 1) 0 % 2 ^ 48 ≤ 1 ∧ up (i 0) ∧ ¬hold (i 0) ∧ (i 1).tide.delivered = w (i 1) 0 % 2 ^ 48
      ∧ w (i 2) 0 % 2 ^ 48 < (i 2).tide.delivered ∧ hold h ∧ ¬up h ∧ State.reset.pwr.moveNew = false := by
  unfold captureOff
  decide

set_option maxRecDepth 20000 in
/-- A round in which member 0 gives to member 1; acknowledgements of it by its last donor, by another member, and late. -/
theorem witness_PowerBudgetsAndStates_rounds :
    let s := groupMaster
    let all := s.members
    let mv := roundMoves (s.fld F.PWR_GRP_BUDGET_BUDGET) (s.fld F.TIDE_PERIOD_PERIOD) (s.fld F.PWR_GRP_CFG_SLACK_LO)
      (s.fld F.PWR_GRP_CFG_SLACK_HI) (s.fld F.PWR_GRP_CTL_MOVE_MAX) all
      (all.filter (fun m => m.tide == some 1 && decide (s.pwr.lastTeff < 1)))
    let r : PwrRound := ⟨1, 5, [0], [(1, 2100)], false, [1]⟩
    let a (r : PwrRound) (n : Nat) : State :=
      let t := s.setFld (F.PWR_GRP_ACK_ROUND 0) n
      { t with pwr := { t.pwr with ackNew := [0], round := some r } }
    let lost : State := { State.reset.setFld F.PWR_CTL_BUDGET_EN 1 with pwr := { State.reset.pwr with quiet := 65535 } }
    captureOff s ∧ s.fld F.PWR_GRP_CTL_IS_MASTER = 1 ∧ s.pwr.round = none ∧ 2 ≤ s.tide.delivered ∧ s.pwr.roundAt ≠ s.tide.delivered
      ∧ mv.1 ≠ [] ∧ mv.2 ≠ []
      ∧ s.fld (F.PWR_GRP_MEMBER_DEVICE_ID 0) ≠ s.fld F.FAB_ID_ID ∧ 0 ∈ (a r 1).pwr.ackNew ∧ (a r 1).pwr.round = some r
      ∧ (a r 1).fld (F.PWR_GRP_ACK_ROUND 0) = r.seq ∧ r.sent = false ∧ r.dec.erase 0 = [] ∧ ({ r with dec := [0, 2] } : PwrRound).dec.erase 0 ≠ []
      ∧ (a r 2).fld (F.PWR_GRP_ACK_ROUND 0) ≠ r.seq ∧ State.reset.pwr.ackNew = [] ∧ ({ r with sent := true } : PwrRound).sent = true
      ∧ lost.fld F.PWR_CTL_BUDGET_EN = 1 ∧ lost.pwr.lost = false ∧ max 1 (lost.fld F.PWR_GRP_CTL_MASTER_TMO) ≤ lost.pwr.quiet := by
  unfold captureOff
  decide

set_option maxRecDepth 100000 in
/-- Entries that begin and one refused; states to wake from with the causes that wake them, and samples at their thresholds. -/
theorem witness_PowerBudgetsAndStates_states :
    let n (k : Nat) : State := State.reset.setFld F.PWR_STATE_NEXT k
    let e (k : Nat) : State := { State.reset with pwr := { State.reset.pwr with entering := some k } }
    let c (k : Nat) : State := State.reset.setFld F.PWR_STATE_CUR k
    let w : WatchData := ⟨0, 0, 0, 0⟩
    let hot (s : State) : Nat := s.fld F.PWR_WATCH_THR_JUNC_HI
    let asleep : State := { c 3 with pwr := { (c 3).pwr with steps := 5 } }
    let bell := (((c 2).setFld F.PWR_WATCH_THR_DB_EN 1).setReg (R.MBX_DB 5) 1).setReg (R.MBX_DB_MASK 5) 0
    (n 0).fld F.PWR_STATE_NEXT = 0 ∧ (n 1).fld F.PWR_STATE_NEXT = 1 ∧ (n 3).fld F.PWR_STATE_NEXT = 3 ∧ (n 1).entryRefusal 1 false = 0
      ∧ (n 3).entryRefusal 3 false = 0 ∧ (n 3).entryRefusal 3 true ≠ 0 ∧ (e 2).pwr.entering = some 2 ∧ (e 3).pwr.entering = some 3
      ∧ (e 2).pwr.steps < 2 ∧ (e 3).pwr.steps < 2 ∧ asleep.pwr.entering = none ∧ asleep.pwr.steps = 5 ∧ 2 ≤ asleep.pwr.steps
      ∧ (bell.fld F.PWR_WATCH_THR_DB_EN = 1 ∧ 5 < 6 ∧ bell.reg (R.MBX_DB 5) &&& ~~~ bell.reg (R.MBX_DB_MASK 5) ≠ 0)
      ∧ ¬(∃ a, a < 6 ∧ (c 2).reg (R.MBX_DB a) &&& ~~~ (c 2).reg (R.MBX_DB_MASK a) ≠ 0)
      ∧ State.reset.pwr.entering = none ∧ (0x100 : BitVec 9).toNat &&& 0x1C0 ≠ 0 ∧ (0x3F : BitVec 9).toNat &&& 0x1C0 = 0
      ∧ (c 3).fld F.PWR_STATE_CUR = 3 ∧ (c 2).fld F.PWR_STATE_CUR = 2 ∧ (c 0).fld F.PWR_STATE_CUR = 0 ∧ hot (c 2) ≤ hot (c 2)
      ∧ (let s := ((c 2).setFld F.PWR_WATCH_THR_JUNC_HI 1).setFld F.PWR_WATCH_THR_COOL_HI 1
        ¬(s.fld F.PWR_WATCH_THR_JUNC_HI ≤ w.junc) ∧ ¬(s.fld F.PWR_WATCH_THR_COOL_HI ≤ w.cool) ∧ s.fld F.PWR_WATCH_THR_HB_PORTS = 0
          ∧ ((s.setFld F.PWR_WATCH_THR_HB_PORTS 0x8000).fld F.PWR_WATCH_THR_HB_PORTS).testBit 15 = true ∧ w.ports.getLsbD 15 = false) := by
  decide

/-! ## The host, the mailboxes, resets and firmware -/

set_option maxRecDepth 20000 in
/-- BAR2 at the near tier's last byte, at the hole after it, beyond its size and at another device; a closed function; a warm reset that
waits; a sleeping device; links that retrain and that do not. -/
theorem witness_HostAndMailboxes_host :
    let s := State.reset
    let far := ((s.setReg R.MBX_BAR2 0x0001000000000000).setFld F.FAB_ID_VALID 1)
    let z := 0x00861C467FFF
    let big : State := { s with host := { s.host with bar2Log2 := 48 } }
    let pba := (s.setReg R.MBX_PBA 0x8000000000000001).setReg (R.MBX_MSIX 63 1) 0
    let on : State := { pba with host := { pba.host with busMaster := true } }
    let warm : State := { s with fw := { s.fw with sched := [2] } }
    let watch := big.setFld F.PWR_STATE_CUR 2
    captureOff s ∧ s.fld F.EVT_STATUS_REPLAY_RUN = 0 ∧ ({ s with host := { s.host with d3hot := true } } : State).barOpen = false
      ∧ s.barOpen = true ∧ big.barAddr true z 1 = some z ∧ big.hereAt z = true ∧ inMemory (z % 2 ^ 48) 1
      ∧ big.barAddr true (z + 1) 1 = some (z + 1) ∧ populated ((z + 1) % 2 ^ 48) = false ∧ isRegs ((z + 1) % 2 ^ 48) = false
      ∧ s.barAddr true (2 ^ s.host.bar2Log2) 1 = none ∧ s.barAddr false 0x4000000 1 = none
      ∧ far.barAddr true 0 4096 = some 0x0001000000000000 ∧ far.hereAt 0x0001000000000000 = false ∧ far.fld F.FAB_ID_VALID = 1
      ∧ (on.reg R.MBX_PBA).getLsbD 63 = true ∧ on.host.busMaster = true ∧ (on.reg (R.MBX_MSIX 63 1)).toNat / 2 ^ 32 % 2 = 0
      ∧ 63 ∉ on.host.sentTide ∧ (s.reg R.MBX_PBA).getLsbD 63 = false ∧ 15 < 16 ∧ (link31 lkUP Link.init).fld (fLinkState 31) = lkUP
      ∧ State.reset.fld (fLinkState 31) ≠ lkUP ∧ warm.barOpen = true ∧ 2 ∈ warm.fw.sched ∧ ¬(2 ∈ s.fw.sched)
      ∧ (watch.barOpen = true ∧ 2 ≤ watch.fld F.PWR_STATE_CUR ∧ watch.pwr.entering = none ∧ watch.barAddr true z 1 = some z
        ∧ watch.hereAt z = true) ∧ s.fld F.PWR_STATE_CUR < 2 ∧ s.pwr.entering = none ∧ s.fld (F.FAB_PORT_CFG_AUTO_RETRAIN 15) = 1
      ∧ (s.setFld (F.FAB_PORT_CFG_AUTO_RETRAIN 15) 0).fld (F.FAB_PORT_CFG_AUTO_RETRAIN 15) = 0 ∧ s.fw.jobWait = none := by
  unfold captureOff inMemory
  decide

/-- Channel `c` in a state, its request of a command with LEN bytes of payload `bs`; firmware is ready. -/
def channel (c : Fin 24) (st cmd len : Nat) (bs : List Byte) : State :=
  ((State.reset.setFld F.MBX_HOST_FW_READY 1).setFld (F.MBX_CH_STATUS_STATE c) st).mbPut c 0
    (leBytes 4 (cmd + len * 2 ^ 16) ++ List.replicate 12 0 ++ bs)

/-- The same with firmware having taken it. -/
def request (c : Fin 24) (cmd len : Nat) (bs : List Byte) : State := channel c chTAKEN cmd len bs

set_option maxRecDepth 20000 in
theorem witness_HostAndMailboxes_channels :
    let st (s : State) : Nat := s.fld (F.MBX_CH_STATUS_STATE 23)
    let secret (s : State) (c : Nat) : Prop := s.mbCmd c / 2 ^ 15 % 2 = 1 ∧ s.fld (F.MBX_CH_STATUS_SECURE c) = 0
    captureOff (channel 23 chDONE 0 0 []) ∧ st (channel 23 chDONE 0 0 []) = chDONE ∧ st (channel 23 chIDLE 0 0 []) = chIDLE
      ∧ st (channel 23 chPENDING 0 0 []) = chPENDING ∧ st (channel 23 chTAKEN 0 0 []) = chTAKEN
      ∧ (channel 22 chIDLE 0x8001 0 []).fld (F.MBX_CH_STATUS_STATE 22) = chIDLE ∧ secret (channel 22 chIDLE 0x8001 0 []) 22
      ∧ ¬secret (channel 22 chIDLE 0x7FFF 0 []) 22 ∧ ¬secret (channel 23 chIDLE 0x8001 0 []) 23 := by
  unfold captureOff
  decide

set_option maxRecDepth 20000 in
/-- Requests taken: clean of 0 and of 1,008 bytes, of 1,009 bytes, poisoned, of a wrong CRC, and one that needs the factory record. -/
theorem witness_MailboxCommands_requests :
    let s := request 0 0x0001 0 []
    let bad := s.mbStore 0 0x10 [0] true
    let crc := s.mbPut 0 3 [8]
    let fac : State := { request 0 0x0010 0 [] with fw := { State.reset.fw with facBad := true } }
    mailboxRow (.queryInfo 0) = some (0, 0x0001) ∧ captureOff s ∧ takenBy s 0 1 ∧ cleanRequest s 0 ∧ sound s 0 1 ∧ ¬takenBy s 0 2
      ∧ ¬takenBy (channel 0 chPENDING 1 0 []) 0 1 ∧ cleanRequest (request 23 0x0001 1008 []) 23 ∧ ¬cleanRequest (request 0 0x0001 1009 []) 0
      ∧ ¬cleanRequest (bad.mbPut 0 2 [1]) 0 ∧ crc.mbCrcEn 0 = true ∧ crc32c (crc.mbPayload 0) = crc.mbCrc 0
      ∧ crc32c ((crc.mbPut 0 8 [1]).mbPayload 0) ≠ (crc.mbPut 0 8 [1]).mbCrc 0 ∧ fac.fw.facBad = true ∧ facFree 0x0010 = false
      ∧ takenBy fac 0 0x0010 ∧ fwKnows ((request 0 0x7777 0 []).mbCmd 0) = false ∧ fwKnows ((request 0 2 0 []).mbCmd 0) = true := by
  unfold captureOff sound takenBy cleanRequest
  decide

set_option maxRecDepth 20000 in
/-- Arguments at the ends of their ranges: records, allocations, tensors, jobs. -/
theorem witness_MailboxCommands_jobs :
    let s := (request 0 0x0002 0 []).setFld F.EVT_WR_WR 31
    let m := min 31 (idxDiff (s.fld F.EVT_WR_WR) 0)
    let slot (k : Nat) : Nat := s.fld F.EVT_RING_BASE_BASE + 32 * ((0 + k) % 2 ^ s.fld F.EVT_CTL_LOG2)
    let owner (n : Nat) : State := { s with fw := { s.fw with allocs := [(1, 0, n)], handle := 1 } }
    let image : List (BitVec 64) := [0, 1, 1, 1, 1, 1, 1, 0x100000000]
    let go : JobTile := ⟨143, [(7, 0x5FFFF8)], [], 0x80⟩
    let stop : JobTile := ⟨143, [(7, 4)], [], 0x80⟩
    captureOff s ∧ ¬(31 < 31 ∨ idxDiff 31 0 < idxDiff 31 0) ∧ idxDiff 31 0 < idxDiff 32 0 ∧ m = 31 ∧ (∀ k, k < m → inMemory (slot k) 32)
      ∧ s.placeOk 0 0x00861C467FFF 1 = true ∧ s.placeOk 0 0x00861C467FFF 2 = false ∧ (∃ x ∈ (owner 2).fw.allocs, x.1 = 1)
      ∧ ¬(∃ x ∈ s.fw.allocs, x.1 = 1) ∧ image.length = 8 ∧ (owner 2).tensorCheck (tensorCmd image []) false = 0
      ∧ (owner 1).tensorCheck (tensorCmd image []) false = 1 ∧ (0x00861C467FC0 : Nat) / 2 ^ 48 = s.fld F.FAB_ID_ID ∧ inMemory 0x00861C467FC0 64
      ∧ (s.jobTile go).isSome = true ∧ (s.jobTile stop).isSome = false ∧ s.startable 143 7 = true ∧ go.mask.toNat.testBit 7 = true
      ∧ s.fw.jobWait = none ∧ ({ s.fw with jobWait := some 0 } : FwUnit).jobWait ≠ none ∧ s.fw.handle = 0 := by
  unfold captureOff inMemory
  decide

set_option maxRecDepth 20000 in
/-- Queue contexts, ports and updates: arguments at the ends of their ranges. -/
theorem witness_MailboxCommands_queues :
    let s := request 0 0x0030 0 []
    let image : List (BitVec 64) := [0x0010000000000000, 0, 0, 0, 0, 0, 0, 0]
    let upd (n : Nat) : State := request 1 0x8001 4 (leBytes 4 n)
    image.length = 8 ∧ inMemory (s.ctxAddr 65535) 64 ∧ s.queue 65535 = none ∧ 1 ≤ (image.getD 0 0).toNat / 2 ^ 48 % 32
      ∧ (image.getD 0 0).toNat / 2 ^ 48 % 32 ≤ 16 ∧ s.fld (F.FAB_PORT_CFG_SPLIT 15) = 0 ∧ (upd 447).mbArg 1 0 4 = 447
      ∧ (upd 448).mbArg 1 0 4 = 448 ∧ (upd 1).bootRec.trial ≠ trRUNNING := by
  unfold inMemory
  decide

/-- Blocks `first` to `first + n - 1` from `src` fit an update of one block whose block 0 is programmed. -/
def fitsUpdate (first n src : Nat) : Prop :=
  1 ≤ n ∧ n ≤ 64 ∧ first + n - 1 ≤ 1 ∧ (∀ k, k < n → first + k ∉ [0]) ∧ (first ≠ 0 → 0 ∈ [0]) ∧ populated src = true
    ∧ populated (src + 0x10000 * n - 1) = true

set_option maxRecDepth 20000 in
theorem witness_MailboxCommands_updates :
    let data : State := request 1 0x8002 16 (leBytes 8 0 ++ leBytes 4 1 ++ leBytes 4 1)
    fitsUpdate 1 1 0 ∧ ¬fitsUpdate 2 1 0 ∧ ¬fitsUpdate 0 1 0 ∧ inMemory 0 0x10000 ∧ data.mbArg 1 0 8 = 0 ∧ data.mbArg 1 8 4 = 1
      ∧ data.mbArg 1 12 4 = 1 ∧ tierOf 0 ≠ 3 ∧ (∀ i, i ≤ 1 → i ∈ [1, 0]) ∧ ¬(∀ i, i ≤ 1 → i ∈ [0]) :=
  ⟨by unfold fitsUpdate; decide, by unfold fitsUpdate; decide, by unfold fitsUpdate; decide, by unfold inMemory; decide, by decide⟩

set_option maxRecDepth 20000 in
/-- Attestation, limits and the factory record: arguments at the ends of their ranges. -/
theorem witness_MailboxCommands_limits :
    let s := State.reset
    let att (len dest : Nat) : State := request 1 0x8010 len (List.replicate 64 0 ++ leBytes 8 dest)
    let fac (o n : Nat) : State := request 1 0x8030 8 (leBytes 4 o ++ leBytes 4 n)
    let bad (p f : Nat) : Bool := decide ((p ≠ 0 ∧ (p < 900 ∨ 2800 < p)) ∨ (f ≠ 0 ∧ (f < 1200 ∨ 3300 < f ∨ f % 25 ≠ 0)))
    (att 72 64).mbLen 1 = 72 ∧ (att 72 64).mbArg 1 64 8 = 64 ∧ (att 72 65).mbArg 1 64 8 % 64 ≠ 0 ∧ (att 72 0).fw.attWait = none
      ∧ bad 0 0 = false ∧ bad 900 1200 = false ∧ bad 2800 3300 = false ∧ bad 899 0 = true ∧ bad 2801 0 = true ∧ bad 0 1210 = true
      ∧ powerSettings s ∧ (fac 11811 1008).mbArg 1 0 4 + (fac 11811 1008).mbArg 1 4 4 ≤ 12819 ∧ 12819 < 11812 + 1008
      ∧ ¬(5 ∈ s.fw.sched) ∧ (s.bootRec.trial ≠ trRUNNING) ∧ roomy s ∧ s.gre.buckets = [] ∧ s.fld (F.MBX_CH_STATUS_TX_AGENT 0) ≠ 6 := by
  unfold powerSettings roomy
  decide

set_option maxRecDepth 20000 in
/-- Images written and refused; a job reset that waits and one that ends. -/
theorem witness_MailboxCommands_images :
    let s := request 0 0x0032 0 []
    let ok := inRanges [(R.TIDE_CTL, R.TIDE_CTL + 0x1000)]
    let lead : RegImage := ⟨BitVec.ofNat 48 R.TIDE_LEAD, 200 + 10 * 65536⟩
    let w (i : RegImage) : Bool := ((s.tideNow 0).fwImages ok F.TIDE_STATUS_CFG_ERR [i]).isSome
    let wait : State := { s with fw := { s.fw with jobWait := some 0 } }
    let opn : State := { wait with fw := { wait.fw with jobTags := [0] }, fab := { wait.fab with reqs := [⟨0, 0, 0, 0, .none⟩] } }
    takenBy s 0 0x0032 ∧ sound s 0 0x0032 ∧ w lead = true ∧ w ⟨0, 0⟩ = false ∧ w { lead with val := 0 } = false
      ∧ (s.fwImages (inRanges [(R.GRE_CHAN_CFG 0, R.GRE_CHAN_CFG 256)]) F.GRE_STATUS_CFG_ERR []).isSome = true
      ∧ wait.fw.jobWait = some 0 ∧ ¬(∃ r ∈ wait.fab.reqs, r.tag ∈ wait.fw.jobTags) ∧ (∃ r ∈ opn.fab.reqs, r.tag ∈ opn.fw.jobTags) := by
  unfold takenBy sound cleanRequest
  decide

/-! A firmware image in slot 1: header, table of four components, one payload block of four bytes 0xFF and zeros. Header and payload
leave the CRC register 0. Whether the signature is valid is free. -/

def imageHead : List Byte :=
  leBytes 8 0x157465A43 ++ leBytes 8 0 ++ leBytes 8 1 ++ leBytes 8 0xFFFFFFFF00000004 ++ List.replicate 32 0
    ++ [1, 2, 3, 4].flatMap (fun t => leBytes 8 t ++ leBytes 8 (78 * 2 ^ 32)) ++ List.replicate 896 0 ++ leBytes 8 0xBE628C25FFFFFFFF

def imageBlock : List Byte := leBytes 4 0xFFFFFFFF ++ List.replicate 65532 0

def imageList : List Byte := (imageHead ++ List.replicate 64504 0) ++ imageBlock

def withImage : State := { State.reset with flash := imageList.zipIdx.map (fun b => (0x2000000 + b.2, b.1)) }

theorem imageByte (k : Nat) : withImage.flashByte (0x2000000 + k) = (imageList[k]?).getD 0xFF := by
  have h : ∀ (l : List Byte) (n k : Nat), n ≤ k →
      Store.get (fun _ => (0xFF : Byte)) ((l.zipIdx n).map (fun b => (0x2000000 + b.2, b.1))) (0x2000000 + k) = (l[k - n]?).getD 0xFF := by
    intro l
    induction l with
    | nil => intro n k _; rfl
    | cons b l ih =>
      intro n k hk
      simp only [List.zipIdx_cons, List.map_cons, Store.get]
      by_cases e : n = k
      · subst e; simp
      · rw [if_neg (by omega), ih (n + 1) k (by omega), show k - n = (k - (n + 1)) + 1 by omega, List.getElem?_cons_succ]
  exact h _ 0 k (Nat.zero_le k)

theorem imageList_front : (imageHead ++ List.replicate 64504 (0 : Byte)).length = 0x10000 := by
  rw [List.length_append, List.length_replicate, show imageHead.length = 1032 by decide +kernel]

theorem imageList_length : imageList.length = 0x20000 := by
  rw [imageList, List.length_append, imageList_front, imageBlock, List.length_append, List.length_replicate]
  rfl

theorem imageBytes (o n : Nat) (h : o + n ≤ 0x20000) : withImage.flashBytes (0x2000000 + o) n = (imageList.drop o).take n := by
  refine List.ext_getElem? (fun k => ?_)
  unfold State.flashBytes
  rw [List.getElem?_map, List.getElem?_take]
  by_cases hk : k < n
  · rw [List.getElem?_range hk, Option.map_some, Nat.add_assoc, imageByte, if_pos hk, List.getElem?_drop,
      List.getElem?_eq_getElem (by rw [imageList_length]; omega)]
    rfl
  · rw [List.getElem?_eq_none (by simp; omega), if_neg hk]; rfl

theorem crcRun_append (c : Nat) (xs ys : List Byte) : crcRun c (xs ++ ys) = crcRun (crcRun c xs) ys := List.foldl_append ..

theorem crcRun_zeros : ∀ n, crcRun 0 (List.replicate n 0) = 0
  | 0 => rfl
  | n + 1 => by rw [List.replicate_succ]; exact crcRun_zeros n

theorem imageBlock_crc : crc32c imageBlock = 0xFFFFFFFF := by
  rw [crc32c, imageBlock, crcRun_append, show crcRun 0xFFFFFFFF (leBytes 4 0xFFFFFFFF) = 0 by decide, crcRun_zeros]
  rfl

set_option maxRecDepth 20000 in
theorem imageHead_crc : crc32c (imageList.take 0x1C ++ List.replicate 4 0 ++ (imageList.drop 0x20).take 0xFE0) = 0xFFFFFFFF := by
  have h : imageList.take 0x1C ++ List.replicate 4 0 ++ (imageList.drop 0x20).take 0xFE0
      = (imageHead.take 0x1C ++ List.replicate 4 0 ++ (imageHead.drop 0x20).take 0x60) ++ List.replicate 224 0 ++ List.replicate 224 0
        ++ List.replicate 224 0 ++ List.replicate 224 0 ++ leBytes 8 0xBE628C25FFFFFFFF ++ List.replicate 3064 0 := by decide +kernel
  have z1 : crcRun 0x24c365e0 (List.replicate 224 0) = 0x9fb3f7c2 := by decide +kernel
  have z2 : crcRun 0x9fb3f7c2 (List.replicate 224 0) = 0x9d37fc2c := by decide +kernel
  have z3 : crcRun 0x9d37fc2c (List.replicate 224 0) = 0x199fb65d := by decide +kernel
  have z4 : crcRun 0x199fb65d (List.replicate 224 0) = 0x801bfb5d := by decide +kernel
  have a : crcRun 0xFFFFFFFF (imageHead.take 0x1C ++ List.replicate 4 0 ++ (imageHead.drop 0x20).take 0x60) = 0x24c365e0 := by
    decide +kernel
  have b : crcRun 0x801bfb5d (leBytes 8 0xBE628C25FFFFFFFF) = 0 := by decide +kernel
  rw [crc32c, h]
  iterate 6 rw [crcRun_append]
  rw [a, z1, z2, z3, z4, b, crcRun_zeros]
  rfl

theorem imageField (o n : Nat) (ho : o + n ≤ 0x20000) : withImage.img 1 o n = leNat ((imageList.drop o).take n) := by
  unfold State.img State.flashNum
  rw [show slotBase 1 = 0x2000000 from rfl, imageBytes o n ho]

theorem imageBlocks : withImage.img 1 0x10 4 = 1 := by rw [imageField _ _ (by decide)]; decide +kernel

theorem imageHead_ok : withImage.imgHead 1 0 = 0 := by
  have a : withImage.img 1 0 4 = 0x57465A43 := by rw [imageField _ _ (by decide)]; decide +kernel
  have b : withImage.img 1 4 2 = 1 := by rw [imageField _ _ (by decide)]; decide +kernel
  have c : withImage.img 1 0x1C 4 = 0xFFFFFFFF := by rw [imageField _ _ (by decide)]; decide +kernel
  have d : withImage.img 1 6 1 = 0 := by rw [imageField _ _ (by decide)]; decide +kernel
  have e : withImage.flashBytes (slotBase 1) 0x1C = imageList.take 0x1C := by
    rw [show slotBase 1 = 0x2000000 + 0 from rfl, imageBytes 0 0x1C (by decide), List.drop_zero]
  have f : withImage.flashBytes (slotBase 1 + 0x20) 0xFE0 = (imageList.drop 0x20).take 0xFE0 := by
    rw [show slotBase 1 = 0x2000000 from rfl, imageBytes 0x20 0xFE0 (by decide)]
  unfold State.imgHead
  simp only [a, b, c, d, e, f, imageBlocks, imageHead_crc, Nat.not_lt_zero]
  decide

theorem imageTable_ok : withImage.imgTable 1 = true := by
  unfold State.imgTable
  simp (disch := decide) only [List.range, List.range.loop, List.all, List.filter, imageField, Nat.add_zero, Nat.mul_zero]
  decide +kernel

theorem imageBlock_ok : withImage.imgBlockOk 1 1 = true := by
  have e : withImage.flashBytes (slotBase 1 + 0x10000 * 1) 0x10000 = imageBlock := by
    rw [show slotBase 1 + 0x10000 * 1 = 0x2000000 + 0x10000 from rfl, imageBytes 0x10000 0x10000 (by decide), imageList,
      List.drop_left' imageList_front, List.take_of_length_le]
    rw [imageBlock, List.length_append, List.length_replicate]; decide
  unfold State.imgBlockOk
  rw [e, imageBlock_crc, imageField _ _ (by decide)]
  decide +kernel

theorem imgCheck_ok (s : State) (k floor : Nat) (head : s.imgHead k floor = 0) (blocks : s.img k 0x10 4 = 1)
    (block : s.imgBlockOk k 1 = true) (table : s.imgTable k = true)
    (h : Config.sigValid (s.img k 6 1) (leNat (s.imgDigest k)) (s.flashBytes (slotBase k + 0x1000) 4627) = true) :
    s.imgCheck k floor = (0, 0) := by
  unfold State.imgCheck
  rw [head, blocks]
  simp [h, table, show List.range 1 = [0] from rfl, block]

/-- The image is valid if its signature is. -/
theorem witness_validImage (h : Config.sigValid (withImage.img 1 6 1) (leNat (withImage.imgDigest 1))
    (withImage.flashBytes (slotBase 1 + 0x1000) 4627) = true) : withImage.imgCheck 1 0 = (0, 0) :=
  imgCheck_ok _ _ _ imageHead_ok imageBlocks imageBlock_ok imageTable_ok h

/-- The factory record is good if its signature is: spare tiles 36 to 39 of each die, every other field as erased. -/
def withFactory : State :=
  { State.reset with flash := (List.range 16).map (fun k => (0x20040 + k, BitVec.ofNat 8 (36 + k % 4))) }

set_option maxRecDepth 20000 in
theorem witness_factoryRecord (h : Config.sigValid 2 (leNat (sha3 (withFactory.flashBytes 0x20000 0x2000)))
    (withFactory.flashBytes 0x22000 4627) = true) : withFactory.facCheck = 0 := by
  have a : ¬(withFactory.flashNum 0x20004 2 < withFactory.fw.facMin) := by decide +kernel
  have b : (List.range 4).any (fun d => (List.range 4).any (fun j =>
      decide (40 ≤ withFactory.spare d j) || (List.range j).any (fun i => withFactory.spare d i == withFactory.spare d j))) = false := by
    decide +kernel
  have c : (List.range 4).any (fun d => (List.range 86).any (fun i => withFactory.facVf d i == 0)) = false := by decide +kernel
  generalize withFactory = s at h a b c ⊢
  unfold State.facCheck
  rw [h, b, c, if_neg a]
  rfl

set_option maxRecDepth 20000 in
/-- A boot control record on trial, one pending, one without; settings saved; the resets each asked for. -/
theorem witness_ResetsAndFirmware :
    let r (t : Nat) : BootRec := ⟨1, t, 0, 0, 0, 0⟩
    let b (t : Nat) : State := State.reset.bootWrite (r t)
    let f (g : FwUnit → FwUnit) : State := { State.reset with fw := g State.reset.fw }
    let off : State := { State.reset with mod := { State.reset.mod with tripped := true } }
    (b trRUNNING).bootRec = r trRUNNING ∧ (b trRUNNING).fld F.MGP_BOOT_SLOT = 0 ∧ (b trPENDING).bootRec.trial = trPENDING
      ∧ firstSlot (r trPENDING) = 0 ∧ firstSlot (r trRUNNING) = 1 ∧ firstSlot State.reset.bootRec = 0
      ∧ (State.reset.imgCheck 0 0).1 ≠ 0 ∧ (State.reset.imgCheck 1 0).1 ≠ 0 ∧ State.reset.mod.good = true ∧ State.reset.mod.tripped = false
      ∧ ¬(off.mod.tripped = false) ∧ (f (fun w => { w with sched := [4, 2] })).fw.sched.find? (fun k => k == 2 || k == 3) = some 2
      ∧ (f (fun w => { w with sched := [4] })).fw.sched.find? (fun k => k == 2 || k == 3) = none ∧ State.reset.fw.kind ≠ 1
      ∧ (f (fun w => { w with sched := [5], kind := 2 })).fw.kind ≠ 0 ∧ 5 ∈ (f (fun w => { w with sched := [5], kind := 2 })).fw.sched
      ∧ State.reset.fld F.EVT_STATUS_REPLAY_RUN = 0 ∧ (f (fun w => { w with sched := [4] })).fw.kind = 0
      ∧ (f (fun w => { w with released := true })).fw.released = true ∧ State.reset.fld F.MBX_HOST_FW_READY = 0
      ∧ (channel 23 chPENDING 0 0 []).fld (F.MBX_CH_STATUS_RX_AGENT 23) ≠ 0 ∧ (channel 23 chPENDING 0 0 []).fld (F.MBX_CH_STATUS_TX_AGENT 23) ≠ 6
      ∧ State.reset.fw.alive.length = 4 := by decide +kernel

set_option maxRecDepth 20000 in
theorem witness_ResetsAndFirmware_settings :
    let s := State.reset.settWrite 1 0 0 (900 * 2 ^ 16) 0 0
    s.settCopy = some 1 ∧ s.settImage 1 0 = some (900 * 2 ^ 16) ∧ s.fw.kind ≠ 4 := by decide +kernel

set_option maxRecDepth 20000 in
/-- A report under way to this device and to another, done and with a write unanswered; timers armed; heartbeats that stand still. -/
theorem witness_ResetsAndFirmware_supervision :
    let a (dest acks : Nat) : State := { State.reset with fw := { State.reset.fw with att := some ⟨[0], dest, acks, false⟩, attWait := some 23 } }
    let go (d : Nat) : State := State.reset.setReg R.MGP_ATT_DEST (BitVec.ofNat 64 d)
    let hb : State := { State.reset.setFld (F.DCP_HB_EN 3) 1 with fw := { State.reset.fw with held := false } }
    let armed (t : Nat) : State := { State.reset.setFld F.MGP_TRIAL_ARMED 1 with tide := { State.reset.tide with now := t } }
    let left (s : State) : Nat := 120000 - (s.tide.now - s.fw.trialAt) / 4000000
    (a 0x00861C467FFF 0).fw.att = some ⟨[0], 0x00861C467FFF, 0, false⟩ ∧ inMemory 0x00861C467FFF 1 ∧ (a 0 1).fw.att = some ⟨[0], 0, 1, false⟩
      ∧ 0x00861C467FFF / 2 ^ 48 = State.reset.fld F.FAB_ID_ID ∧ (2 ^ 48 : Nat) / 2 ^ 48 ≠ State.reset.fld F.FAB_ID_ID
      ∧ State.reset.fw.att = none ∧ State.reset.fw.attWait = none ∧ (a 0 0).fw.attWait = some 23
      ∧ State.reset.fld F.MGP_ATT_CTL_BUSY = 0 ∧ (State.reset.setFld F.MGP_ATT_CTL_BUSY 1).fld F.MGP_ATT_CTL_BUSY = 1
      ∧ (go 64).reg R.MGP_ATT_DEST = 64 ∧ (1 : BitVec 3).toNat < 2 ∧ 2 ≤ (2 : BitVec 3).toNat
      ∧ (State.reset.setFld F.MGP_TRIAL_ARMED 1).fld F.MGP_TRIAL_ARMED = 1 ∧ (State.reset.setFld F.MGP_WDT_EN 1).fld F.MGP_WDT_EN = 1
      ∧ left (armed 480000000000) = 0 ∧ left (armed 479999999999) ≠ 0 ∧ State.reset.fw.released = false ∧ hb.fw.held = false
      ∧ State.reset.fw.kind = 0 ∧ hb.fld (F.DCP_HB_EN 3) = 1 ∧ hb.fld F.MGP_HB_COUNT = hb.fw.hb.getD 3 0
      ∧ (hb.setFld F.MGP_HB_COUNT 1).fld F.MGP_HB_COUNT ≠ hb.fw.hb.getD 3 0 ∧ (hb.setFld (F.DCP_HB_EN 3) 0).fld (F.DCP_HB_EN 3) = 0 := by
  unfold inMemory
  decide +kernel

/-! ## The event unit, registers, the module -/

/-- A record of a source and a code. -/
def rec' (src code : Nat) : BitVec 256 := BitVec.ofNat 256 (src * 2 ^ 48 + code * 2 ^ 64)

def withRecords (s : State) : State := { s with evt := { s.evt with waiting := [(1, rec' 1 2), (1, rec' 1 1), (0, rec' 0 9)] } }

set_option maxRecDepth 20000 in
/-- Three records of which two are of the same ns: the second goes first. The ring on and empty, full with and without STOP_FULL. -/
theorem witness_EventUnit_records :
    let s := (withRecords State.reset).setFld F.EVT_CTL_EN 1
    let full := s.setFld F.EVT_WR_WR (2 ^ s.fld F.EVT_CTL_LOG2)
    let stop := full.setFld F.EVT_CTL_STOP_FULL 1
    let near := s.evt.waiting.take (max 2 1)
    let p := (1, rec' 1 1)
    let place (s : State) : Nat := s.fld F.EVT_RING_BASE_BASE + 32 * (s.fld F.EVT_WR_WR % 2 ^ s.fld F.EVT_CTL_LOG2)
    let pre (n : Nat) : State := { State.reset with evt := { (withRecords State.reset).evt with pre := List.replicate n 0 } }
    near = [(1, rec' 1 2)] ++ p :: [] ∧ recCode p.2 < recCode (rec' 1 2) ∧ (s.fld F.EVT_CTL_EN = 1 ∧ s.evt.warm = false)
      ∧ idxDiff (s.fld F.EVT_WR_WR) (s.fld F.EVT_RD_RD) ≠ 2 ^ s.fld F.EVT_CTL_LOG2 ∧ inMemory (place s) 32
      ∧ idxDiff (full.fld F.EVT_WR_WR) (full.fld F.EVT_RD_RD) = 2 ^ full.fld F.EVT_CTL_LOG2 ∧ full.fld F.EVT_CTL_STOP_FULL = 0
      ∧ inMemory (place full) 32 ∧ stop.fld F.EVT_CTL_STOP_FULL = 1 ∧ (pre 63).fld F.EVT_CTL_EN ≠ 1 ∧ (pre 63).evt.pre.length < 64
      ∧ 64 ≤ (pre 64).evt.pre.length ∧ State.reset.evt.waiting = [] := by
  unfold inMemory
  decide

set_option maxRecDepth 20000 in
theorem witness_EventUnit_registers :
    let s := State.reset
    let on := s.setFld F.EVT_CTL_EN 1
    let wr := s.setFld F.EVT_WR_WR 1
    let log2 (v : Nat) : Nat := v / 2 ^ 16 % 32
    let a : AuditRec := ⟨143, 0, 7, 0, 0, 0, 0⟩
    let aud (n : Nat) : State := ({ s with evt := { s.evt with audit := [{ a with st := 6 }, a] } }).setFld F.EVT_AUDIT_WR_WR n
    let size := 2 ^ s.fld F.EVT_AUDIT_LOG2
    ¬(log2 (10 * 2 ^ 16) < 10) ∧ ¬(24 < log2 (24 * 2 ^ 16)) ∧ log2 (9 * 2 ^ 16) < 10 ∧ 24 < log2 (25 * 2 ^ 16)
      ∧ ¬(on.fld F.EVT_CTL_EN = 0 ∧ 1 % 2 = 1) ∧ (s.fld F.EVT_CTL_EN = 0 ∧ 1 % 2 = 1) ∧ s.evt.pre.length ≤ 2 ^ 10
      ∧ idxDiff 1 (wr.fld F.EVT_RD_RD) ≤ idxDiff (wr.fld F.EVT_WR_WR) (wr.fld F.EVT_RD_RD)
      ∧ idxDiff (wr.fld F.EVT_WR_WR) (wr.fld F.EVT_RD_RD) < idxDiff 2 (wr.fld F.EVT_RD_RD)
      ∧ (s.fld F.EVT_CAP_CTL_EN = 0 ∧ (0x100 : BitVec 64).getLsbD 8 = true) ∧ ¬((0x000 : BitVec 64).getLsbD 8 = true)
      ∧ (aud 0).evt.audit.take (max 2 1) = [] ++ { a with st := 6 } :: [a] ∧ a.before { a with st := 6 } = false ∧ a.t < 144
      ∧ idxDiff ((aud 0).fld F.EVT_AUDIT_WR_WR) ((aud 0).fld F.EVT_AUDIT_RD_RD) ≠ size
      ∧ idxDiff ((aud size).fld F.EVT_AUDIT_WR_WR) ((aud size).fld F.EVT_AUDIT_RD_RD) = size
      ∧ inMemory ((aud 0).fld F.EVT_AUDIT_BASE + 32 * 0) 32 ∧ (4 : Nat) ≤ ((List.replicate 4 (0, rec' 0 0)).filter (fun p => p.1 == 0)).length := by
  unfold inMemory
  decide

set_option maxRecDepth 20000 in
/-- A trigger that is due and one that is not; entropy captured and not; a quiet device and what is not quiet; a record to inject. -/
theorem witness_EventUnit_capture :
    let cap := ((State.reset.setFld F.EVT_CAP_CTL_EN 1).setFld F.EVT_CAP_CTL_CLASSES 4).setFld F.EVT_CAP_SIZE_SIZE 32
    let t (s : State) : State := { s with evt := { s.evt with trig := some 0 } }
    let rep := State.reset.setFld F.EVT_STATUS_REPLAY_RUN 1
    let quiet := (State.reset.setFld F.FAB_ID_VALID 1).setFld F.EVT_REPLAY_SIZE_SIZE 64
    let six : State := { quiet with mem := [(6, 6)] }
    ((t cap).fld F.EVT_CAP_STATUS_FROZEN = 0 ∧ (t cap).fld F.EVT_CAP_CTL_EN = 1
        ∧ 0 + (t cap).fld F.EVT_CAP_CTL_TRIG_DELAY ≤ (t cap).tide.delivered)
      ∧ ¬((t State.reset).fld F.EVT_CAP_CTL_EN = 1) ∧ State.reset.evt.trig = none ∧ rep.fld F.EVT_STATUS_REPLAY_RUN = 1 ∧ rep.rep.rng = []
      ∧ State.reset.fld F.EVT_STATUS_REPLAY_RUN = 0 ∧ ¬(State.reset.fld F.EVT_CAP_CTL_EN = 1)
      ∧ (cap.fld F.EVT_CAP_CTL_CLASSES).testBit 2 = true ∧ cap.fld F.EVT_CAP_STATUS_FULL = 0 ∧ cap.fld F.EVT_CAP_CTL_MODE = 0
      ∧ cap.fld F.EVT_CAP_WR_WR % cap.fld F.EVT_CAP_SIZE_SIZE + 32 ≤ cap.fld F.EVT_CAP_SIZE_SIZE
      ∧ inMemory (cap.fld F.EVT_CAP_BASE_BASE + 0) 32 ∧ quiet.fld F.FAB_ID_VALID = 1 ∧ quiet.fld F.TIDE_CTL_ENABLE = 0
      ∧ six.repClass (six.fld F.EVT_REPLAY_START_POS) = 6 ∧ (∀ p, p < 16 → six.fld (F.FAB_PORT_CFG_EN p) = 0) := by
  unfold inMemory
  decide

set_option maxRecDepth 20000 in
/-- A tide to replay with an entropy value after it, one with nothing after it, and the end. -/
theorem witness_EventUnit_replay :
    let run := ((State.reset.setFld F.EVT_STATUS_REPLAY_RUN 1).setFld F.EVT_REPLAY_SIZE_SIZE 64).setFld F.EVT_REPLAY_END_POS 64
    let one : State := { run with mem := [(22, 6)] }
    let two : State := { run with mem := [(22, 2), (24, 8), (54, 6)] }
    run.fld F.EVT_REPLAY_POS_POS < run.fld F.EVT_REPLAY_END_POS ∧ (one.repRec 0).kind ≠ 2 ∧ (one.repRec (one.repRec 0).next).cls = 6
      ∧ (two.repRec 0).next = 16 ∧ (two.repRec 16).cls = 2 ∧ (two.repRec 0).kind ≠ 2 ∧ 16 < run.fld F.EVT_REPLAY_END_POS
      ∧ (two.repRec (two.repRec 16).next).cls = 6 ∧ State.reset.fld F.EVT_REPLAY_END_POS ≤ State.reset.fld F.EVT_REPLAY_POS_POS
      ∧ run.fld F.PWR_QENERGY_EN = 0 ∧ run.fld F.PWR_CTL_BUDGET_EN = 0 := by decide

set_option maxRecDepth 20000 in
/-- A register written whole, in its upper lane and in shapes register space does not take; windows; the rails. -/
theorem witness_RegistersAndModule_registers :
    let s := State.reset
    let last := R.VXE_CENSUS_CTL 143
    let m (f : ModUnit → ModUnit) : ModUnit := f s.mod
    isRegs 0 = false ∧ (rowAt R.MEM_CTL).isSome = true ∧ R.MEM_CTL ≠ R.MEM_SCRUB ∧ (R.MEM_CTL + 4) - (R.MEM_CTL + 4) % 8 = R.MEM_CTL
      ∧ (rowAt last).isSome = true ∧ (rowAt (R.EVT_SW 3)).isSome = true ∧ s.anyStreamOut = false ∧ regShape R.MEM_CTL 1 = false
      ∧ regionOf R.MEM_CTL = .devRegs ∧ R.MEM_CTL + 1 ≤ 0x038010000000 ∧ regionOf 0x030047FFFFFF = .tileRegs
      ∧ regShape 0x030047FFFFFF 1 = false ∧ isRegs 0x030000000000 = true ∧ isRegs 0x02F000000000 = false ∧ isRegs 0x38000000000 = true
      ∧ (2 ^ 37 : Nat) % 2 ^ s.host.bar2Log2 = 0 ∧ (2 ^ 36 : Nat) % 2 ^ s.host.bar2Log2 ≠ 0
      ∧ ((m (fun x => { x with en := false })).standby = true ∧ (m (fun x => { x with en := false })).en = false)
      ∧ ((m (fun x => { x with tripped := true })).tripped = true ∧ 99 < 100) ∧ ¬(s.mod.tripped = true ∧ 99 < 100)
      ∧ (m (fun x => { x with flashOp := some (.erase 0) })).flashOp ≠ none ∧ s.mod.flashOp = none ∧ s.mod.en = true := by decide

set_option maxRecDepth 20000 in
theorem witness_RegistersAndModule_plain :
    plainRegister State.reset R.MEM_CTL ∧ plainRegister State.reset (R.EVT_SW 3) ∧ plainRegister State.reset (R.VXE_CENSUS_CTL 143) := by
  refine ⟨.inl ⟨?_, by decide⟩, .inr (.inl ⟨3, by decide, rfl⟩), .inr (.inr ⟨143, by decide, by decide, by decide, by decide⟩)⟩
  unfold blockReg
  decide

set_option maxRecDepth 20000 in
/-- The SMBus: rails up and down, asleep, channels at the ends of 21 to 23, lengths 240 and 241. -/
theorem witness_RegistersAndModule_smbus :
    let s := State.reset
    let sleep := s.setFld F.PWR_STATE_CUR 3
    let down : State := { s with mod := { s.mod with en := false, good := false } }
    smbRow (.mbStatus true 23) = some (true, 23) ∧ s.mod.good = true ∧ s.mod.tripped = false ∧ down.mod.good = false
      ∧ sleep.fld F.PWR_STATE_CUR = 3 ∧ s.fld F.PWR_STATE_CUR ≠ 3 ∧ (20 : BitVec 8).toNat < 21 ∧ 23 < (24 : BitVec 8).toNat
      ∧ (channel 23 chIDLE 0 0 []).fld (F.MBX_CH_STATUS_STATE 23) = chIDLE ∧ (channel 21 chDONE 0 0 []).fld (F.MBX_CH_STATUS_STATE 21) = chDONE
      ∧ (0x3FF : BitVec 16).toNat < 0x400 ∧ (List.replicate 240 (0 : Byte)).length ≤ 240 ∧ 240 < (List.replicate 241 (0 : Byte)).length
      ∧ (sleep.fld F.PWR_STATE_CUR ≥ 2) ∧ down.mod.en = false := by decide

/-- The flash: open and closed, the ends of what is barred, a page's end, lengths, an operation at its end. -/
theorem witness_RegistersAndModule_flash :
    let s := State.reset
    let barred (a : Nat) : Prop := (0x20000 ≤ a ∧ a < 0x60000) ∨ 0x4000000 ≤ a
    (s.setFld F.MGP_BOOT_ROM_STATUS 2).fld F.MGP_BOOT_ROM_STATUS = 2
      ∧ ¬(s.mod.en = false ∨ s.fld F.MGP_BOOT_ROM_STATUS = 2) ∧ barred 0x20000 ∧ barred 0x5FFFF ∧ ¬barred 0x60000 ∧ ¬barred 0x1FFFF
      ∧ ¬barred 0x3FFFFFF ∧ barred 0x4000000 ∧ flashRow (.flWrite true 0xFF [0]) = some (true, 0xFF, true, true)
      ∧ flashRow (.flWrite true 0xFF [0, 0]) = some (true, 0xFF, true, false) ∧ flashRow (.flRead true 0 237) = some (true, 0, false, true)
      ∧ ({ s.mod with flashOp := some (.program 0x3FFFFFF [0]) } : ModUnit).flashOp = some (.program 0x3FFFFFF [0]) := by decide

/-! ## Ill-formed commands, one for each check of WellFormed -/

def tierReq (write : Bool) (n : Nat) (data : List Byte) : TierReq := ⟨0, 0, write, 0, n, data, false, []⟩
def jobT (pcs : List (Fin 8 × BitVec 23)) (cfgs : List (Fin 8 × BitVec 64)) : JobTile := ⟨0, pcs, cfgs, 0⟩

theorem test_illFormed_requests :
    (Instr.tierRequest (tierReq false 0 [0])).wellFormed = false ∧ (Instr.tierRequest (tierReq true 1 [])).wellFormed = false
      ∧ (Instr.linkPacketRx 0 (.packet { FabPkt.blank with payload := List.replicate 4097 0 } 0 0) 0 0).wellFormed = false
      ∧ (Instr.linkPacketRx 0 (.packet { FabPkt.blank with pm := true, payload := [0] } 0 0) 0 0).wellFormed = false
      ∧ (Instr.linkPacketRx 0 (.packet { FabPkt.blank with mask := [true] } 0 0) 0 0).wellFormed = false
      ∧ (Instr.hostBarRead false 0 0 []).wellFormed = false ∧ (Instr.hostBarRead false 0 4097 []).wellFormed = false
      ∧ (Instr.hostBarWrite false 0 [] false).wellFormed = false
      ∧ (Instr.hostBarWrite false 0 (List.replicate 4097 0) false).wellFormed = false
      ∧ (Instr.registerWrite ⟨0, 0⟩ 0 [] 0).wellFormed = false ∧ (Instr.hostLinkTraining 3 1 false).wellFormed = false
      ∧ (Instr.hostLinkTraining 1 0 true).wellFormed = false ∧ (Instr.hostLinkTraining 1 8 true).wellFormed = false := by decide +kernel

set_option maxRecDepth 20000 in
theorem test_illFormed_power :
    let q := [[0, 0, 0, 0], [0, 0, 0, 0], [0, 0, 0, 0], [0, 0, 0, 0]]
    let z := [0, 0, 0, 0]
    (Instr.pwrActivityEstimate ⟨[(0, List.replicate 6 0)], q, z, z, 0, 0, 0⟩).wellFormed = false
      ∧ (Instr.pwrActivityEstimate ⟨[], q.tail, z, z, 0, 0, 0⟩).wellFormed = false
      ∧ (Instr.pwrActivityEstimate ⟨[], [0] :: q.tail, z, z, 0, 0, 0⟩).wellFormed = false
      ∧ (Instr.pwrActivityEstimate ⟨[], q, [0, 0, 0], z, 0, 0, 0⟩).wellFormed = false
      ∧ (Instr.pwrActivityEstimate ⟨[], q, z, [0, 0, 0], 0, 0, 0⟩).wellFormed = false
      ∧ (Instr.pwrActivityEstimate ⟨[(0, List.replicate 7 0)], q, z, z, 0, 0, 0⟩).wellFormed = true
      ∧ (Instr.junctionStep (List.replicate 63 0)).wellFormed = false ∧ (Instr.powerWake 0 0).wellFormed = false := by decide

set_option maxRecDepth 20000 in
theorem test_illFormed_others :
    (Instr.jobStart 0 [jobT [(0, 0), (0, 8)] []]).wellFormed = false ∧ (Instr.jobStart 0 [jobT [] [(0, 0), (0, 8)]]).wellFormed = false
      ∧ (Instr.jobStart 0 [jobT [] [], jobT [] []]).wellFormed = false ∧ (Instr.eventAccept 0).wellFormed = false
      ∧ (Instr.auditAccept 0).wellFormed = false ∧ (Instr.mbWrite true 21 0 (List.replicate 256 0)).wellFormed = false
      ∧ (Instr.flWrite true 0 (List.replicate 256 0)).wellFormed = false := by decide

/-! ## Results from outside the model -/

/-- No row of the table has bits. -/
theorem test_decode_none : decodeTableWord 64 0 = none ∧ decodeTableWord 0 0 = none := ⟨rfl, rfl⟩

set_option maxRecDepth 20000 in
/-- The digits 1 to 9 under the published check values of CRC-32C and of the CRC-64 of polynomial 0x42F0E1EBA9EA3693. -/
theorem test_crc :
    crc32c [0x31, 0x32, 0x33, 0x34, 0x35, 0x36, 0x37, 0x38, 0x39] = 0xE3069283
      ∧ crc64 0 [0x31, 0x32, 0x33, 0x34, 0x35, 0x36, 0x37, 0x38, 0x39] = 0x6C40DF5F0B497347 := by decide

/-- SHA3-512 of the empty string, its first eight bytes (FIPS 202). -/
theorem test_sha3_empty : (sha3 []).take 8 = [0xA6, 0x9F, 0x73, 0xCC, 0xA2, 0x3A, 0x9A, 0xC5] := by decide +kernel

/-- S.ADD wraps at 2^64 (R66): all ones and 1. -/
theorem test_sAdd_wraps :
    let s := (atA stRUN).setReg (R.TSQ_SREG 0 0 1) 0xFFFFFFFFFFFFFFFF
    ∃ u, Sys2Proof.Machine.exec (.sAdd iA ⟨2, 1, 0, true, 1⟩) s = .next u ∧ u.sreg 0 0 2 = 0 := ⟨_, rfl, by decide⟩

/-- The FP32 pattern of 3 (IEEE 754). -/
theorem test_fp32_three : (fmtOf 5).map (fun f => f.encode (f.round false (.fin false 3 0)).1) = some 0x40400000 := by decide

/-- The command at the front of the queue is taken and the rest stay, first in, first out; an empty queue idles. -/
theorem test_step :
    (∃ u, Sys2Proof.Machine.step { State.reset with pending := [.standbyUp, .modWake] } = .next u ∧ u.pending = [.modWake])
      ∧ Sys2Proof.Machine.step State.reset = .next State.reset := ⟨⟨_, rfl, rfl⟩, rfl⟩

/-- A write of FAB_ID on a quiet device (R310): the ID and VALID. -/
theorem test_fabId :
    ∃ u, Sys2Proof.Machine.exec (.fabIdWrite 0x1FFFF) State.reset = .next u ∧ u.fld F.FAB_ID_ID = 0xFFFF ∧ u.fld F.FAB_ID_VALID = 1 :=
  ⟨_, rfl, by decide, by decide⟩

/-- A SEND to a free channel leaves it PENDING (R411). -/
theorem test_send :
    ∃ u, Sys2Proof.Machine.exec (.send 0) State.reset = .next u ∧ u.fld (F.MBX_CH_STATUS_STATE 0) = chPENDING := ⟨_, rfl, by decide⟩

end Sys2Proof.Tests
end

section
/-! SUPPORT. What a vector instruction that issues does beside its own work (R58, R85, R90, R143): what stands through a frame, the
records of the log, a stream that goes on, the issue's counting, and the plan of what lands. -/
namespace Sys2Proof.Machine

/-! ## Reads through a frame -/

section
variable {parts : List Part} {touch : Nat → Prop} {s u : State} (h : OnlyChanges parts touch s u)
include h

theorem OnlyChanges.fld_eq {f : Field} (hf : ¬ touch f.addr) : u.fld f = s.fld f := by
  simp only [State.fld, h.2.2 _ hf]

theorem OnlyChanges.tile_eq (hp : Part.tiles ∉ parts) (t : Nat) : u.tile t = s.tile t := by
  simp only [State.tile, show u.tiles = s.tiles from h.2.1 .tiles hp]

theorem OnlyChanges.stream_eq (hp : Part.strm ∉ parts) (t st : Nat) : u.stream t st = s.stream t st := by
  simp only [State.stream, show u.strm = s.strm from h.2.1 .strm hp]

theorem OnlyChanges.vreg_eq (hp : Part.vregs ∉ parts) (t e v : Nat) : u.vreg t e v = s.vreg t e v := by
  simp only [State.vreg, show u.vregs = s.vregs from h.2.1 .vregs hp]

theorem OnlyChanges.mreg_eq (hp : Part.mregs ∉ parts) (t e m : Nat) : u.mreg t e m = s.mreg t e m := by
  simp only [State.mreg, show u.mregs = s.mregs from h.2.1 .mregs hp]

theorem OnlyChanges.ftqBank_eq (hp : Part.ftq ∉ parts) (t b : Nat) : u.ftqBank t b = s.ftqBank t b := by
  simp only [State.ftqBank, show u.ftq = s.ftq from h.2.1 .ftq hp]

theorem OnlyChanges.mxau_eq (hp : Part.mxa ∉ parts) (t : Nat) : u.mxau t = s.mxau t := by
  simp only [State.mxau, show u.mxa = s.mxa from h.2.1 .mxa hp]

theorem OnlyChanges.setEng {a e : Nat} {r : EngHid} (hp : Part.engs ∈ parts) : OnlyChanges parts touch s (u.setEng a e r) :=
  h.upd rfl rfl (fun p n => by cases p <;> first | rfl | exact absurd hp n)

theorem OnlyChanges.setFtqBank {a b : Nat} {k : FtqBank} (hp : Part.ftq ∈ parts) :
    OnlyChanges parts touch s (u.setFtqBank a b k) :=
  h.upd rfl rfl (fun p n => by cases p <;> first | rfl | exact absurd hp n)

end

theorem State.fld_incFld_same (s : State) (f : Field) (n : Nat) (h : f.lo + f.width ≤ 64) :
    (s.incFld f n).fld f = satAdd f.width (s.fld f) n := by
  rw [State.incFld, State.fld_setFld_same _ _ _ h]
  exact Nat.mod_eq_of_lt (by unfold satAdd; have := Nat.two_pow_pos f.width; omega)

/-! ## The records that wait for the event unit (R450) -/

/-- The records that wait, the sources that lost one, and the event unit's drop counters and status stand. -/
def SameRecords (s u : State) : Prop :=
  u.evt.waiting = s.evt.waiting ∧ u.evt.lostSrc = s.evt.lostSrc ∧ u.reg R.EVT_CNT = s.reg R.EVT_CNT
    ∧ u.reg R.EVT_STATUS = s.reg R.EVT_STATUS

/-- No record that waits goes, and a loss that stands in the status stays. -/
def KeepsRecords (s u : State) : Prop :=
  s.evt.waiting <+: u.evt.waiting ∧ (s.fld F.EVT_STATUS_LOST = 1 → u.fld F.EVT_STATUS_LOST = 1)

theorem SameRecords.refl {s : State} : SameRecords s s := ⟨rfl, rfl, rfl, rfl⟩

theorem SameRecords.trans {s t u : State} (h : SameRecords s t) (k : SameRecords t u) : SameRecords s u := by
  obtain ⟨h1, h2, h3, h4⟩ := h
  obtain ⟨k1, k2, k3, k4⟩ := k
  exact ⟨k1.trans h1, k2.trans h2, k3.trans h3, k4.trans h4⟩

theorem OnlyChanges.sameRecords {parts : List Part} {touch : Nat → Prop} {s u : State} (h : OnlyChanges parts touch s u)
    (hp : Part.evt ∉ parts) (hc : ¬ touch R.EVT_CNT) (hs : ¬ touch R.EVT_STATUS) : SameRecords s u := by
  have e : u.evt = s.evt := h.2.1 .evt hp
  exact ⟨by rw [e], by rw [e], h.2.2 _ hc, h.2.2 _ hs⟩

theorem SameRecords.keeps {s u : State} (h : SameRecords s u) : KeepsRecords s u := by
  obtain ⟨hw, -, -, hs⟩ := h
  exact ⟨by rw [hw], fun k => by rwa [State.fld, show u.reg F.EVT_STATUS_LOST.addr = _ from hs]⟩

theorem KeepsRecords.trans {s t u : State} (h : KeepsRecords s t) (k : KeepsRecords t u) : KeepsRecords s u :=
  ⟨h.1.trans k.1, fun e => k.2 (h.2 e)⟩

/-- Where the records stand, an event logged after is one logged before. -/
theorem Logged.of_same {s s' u u' : State} {tide src code : Nat} {host : Bool} {d : List (Nat × Nat)} (hs : SameRecords s s')
    (hu : SameRecords u u') (h : Logged s' u tide src code host d) : Logged s u' tide src code host d := by
  obtain ⟨s1, s2, s3, s4⟩ := hs
  obtain ⟨u1, u2, u3, u4⟩ := hu
  have e1 : u'.fld F.EVT_CNT_SRC_DROP = u.fld F.EVT_CNT_SRC_DROP := by simp only [State.fld, F.EVT_CNT_SRC_DROP, u3]
  have e2 : u'.fld F.EVT_STATUS_LOST = u.fld F.EVT_STATUS_LOST := by simp only [State.fld, F.EVT_STATUS_LOST, u4]
  have e3 : s'.fld F.EVT_CNT_SRC_DROP = s.fld F.EVT_CNT_SRC_DROP := by simp only [State.fld, F.EVT_CNT_SRC_DROP, s3]
  have e4 : s'.fld F.EVT_STATUS_REPLAY_RUN = s.fld F.EVT_STATUS_REPLAY_RUN := by
    simp only [State.fld, F.EVT_STATUS_REPLAY_RUN, s4]
  simpa only [Logged, s1, s2, u1, u2, e1, e2, e3, e4] using h

theorem noteTrigger_sameRecords (s : State) (code tide : Nat) : SameRecords s (s.noteTrigger code tide) := by
  unfold State.noteTrigger
  split
  · exact ⟨rfl, rfl, rfl, rfl⟩
  · exact .refl

theorem signal_sameRecords (s : State) (v : Nat) : SameRecords s (s.signal v) := by
  unfold State.signal
  split
  · exact ⟨rfl, rfl, rfl, rfl⟩
  · exact (OnlyChanges.refl (parts := []) (touch := (· = R.MBX_PBA))).setReg rfl |>.sameRecords (by simp)
      (by decide) (by decide)

/-- A record that arises waits behind the others, or is dropped and counted (R450). -/
theorem arise_cases (s : State) (src : Nat) (r : BitVec 256) :
    if (s.evt.waiting.filter (fun p => p.1 == src)).length < 4 then
      (s.arise src r).evt.waiting = s.evt.waiting ++ [(src, if s.evt.lostSrc.contains src then markLost r else r)]
        ∧ (s.arise src r).regs = s.regs
    else (s.arise src r).evt.waiting = s.evt.waiting ∧ src ∈ (s.arise src r).evt.lostSrc
      ∧ (s.arise src r).fld F.EVT_CNT_SRC_DROP = satAdd 16 (s.fld F.EVT_CNT_SRC_DROP) 1
      ∧ (s.arise src r).fld F.EVT_STATUS_LOST = 1 := by
  unfold State.arise
  split
  · exact ⟨rfl, rfl⟩
  · refine ⟨rfl, List.mem_cons_self, ?_, ?_⟩
    · exact (State.fld_setFld_ne _ F.EVT_STATUS_LOST F.EVT_CNT_SRC_DROP 1 (by decide)).trans
        (State.fld_incFld_same _ F.EVT_CNT_SRC_DROP 1 (by decide))
    · exact State.fld_setFld_same _ F.EVT_STATUS_LOST 1 (by decide)

theorem arise_keepsRecords (s : State) (src : Nat) (r : BitVec 256) : KeepsRecords s (s.arise src r) := by
  have h := arise_cases s src r
  split at h
  · obtain ⟨hw, hr⟩ := h
    exact ⟨by rw [hw]; exact ⟨_, rfl⟩, fun k => by rwa [State.fld, State.reg, hr]⟩
  · obtain ⟨hw, -, -, hl⟩ := h
    exact ⟨by rw [hw], fun _ => hl⟩

/-- Logging is its record's arising: what follows leaves the records alone. -/
theorem logAt_sameRecords (s : State) (tide src code : Nat) (host : Bool) (d : List (Nat × Nat)) :
    SameRecords (s.arise src (mkRecord tide src code (b2n host + 2 * s.fld F.EVT_STATUS_REPLAY_RUN) (packDetail d 0)))
      (s.logAt tide src code host d) := by
  unfold State.logAt
  split
  · exact (noteTrigger_sameRecords _ _ _).trans (signal_sameRecords _ _)
  · exact noteTrigger_sameRecords _ _ _

theorem logAt_keepsRecords (s : State) (tide src code : Nat) (host : Bool) (d : List (Nat × Nat)) :
    KeepsRecords s (s.logAt tide src code host d) :=
  (arise_keepsRecords _ _ _).trans (logAt_sameRecords ..).keeps

theorem logAt_logged (s : State) (tide src code : Nat) (host : Bool) (d : List (Nat × Nat)) :
    Logged s (s.logAt tide src code host d) tide src code host d := by
  refine .of_same .refl (logAt_sameRecords ..) ?_
  have h := arise_cases s src (mkRecord tide src code (b2n host + 2 * s.fld F.EVT_STATUS_REPLAY_RUN) (packDetail d 0))
  unfold Logged
  split
  · next hc =>
    rw [if_pos hc] at h
    exact h.1
  · next hc => rwa [if_neg hc] at h

theorem logTile_logged (s : State) (t code : Nat) (host : Bool) (d : List (Nat × Nat)) :
    Logged s (s.logTile t code host d) (s.tile t).seen t code host d := logAt_logged ..

/-! ## Other streams -/

theorem OtherStreams.trans {s t u : State} {tile st : Nat} (h : OtherStreams s t tile st) (k : OtherStreams t u tile st) :
    OtherStreams s u tile st := fun a b hb hn => (k a b hb hn).trans (h a b hb hn)

theorem OnlyChanges.otherStreams {parts : List Part} {touch : Nat → Prop} {s u : State} (h : OnlyChanges parts touch s u)
    (hp : Part.strm ∉ parts) (tile st : Nat) : OtherStreams s u tile st := fun a b _ _ => h.stream_eq hp a b

theorem otherStreams_setStream (s : State) (t : Nat) {st : Nat} (hst : st < 8) (h : StreamHid) :
    OtherStreams s (s.setStream t st h) t st := fun a b hb hn =>
  Store.get_put_other (fun _ => StreamHid.init) s.strm h fun e => hn (by rw [Prod.mk.injEq]; omega)

/-! ## A stream that goes on -/

/-- What following an instruction does in a tile: its stream's status and hidden record move, no other stream's, and the log may
grow. -/
structure StreamMoves (t st : Nat) (s u : State) : Prop where
  frame : OnlyChanges [.strm, .evt, .host] (fun b => b = R.TSQ_STREAM_STATUS t st ∨ logReg b) s u
  others : OtherStreams s u t st
  records : KeepsRecords s u

section
variable {t st : Nat} {s u : State}

theorem StreamMoves.refl : StreamMoves t st s s := ⟨.refl, fun _ _ _ _ => rfl, SameRecords.refl.keeps⟩

theorem StreamMoves.ite {c : Prop} [Decidable c] {a b : State} (ha : c → StreamMoves t st s a)
    (hb : ¬c → StreamMoves t st s b) : StreamMoves t st s (if c then a else b) := by
  split
  · exact ha ‹_›
  · exact hb ‹_›

theorem StreamMoves.logTile (h : StreamMoves t st s u) {a code : Nat} {host : Bool} {d : List (Nat × Nat)} :
    StreamMoves t st s (u.logTile a code host d) where
  frame := h.frame.logTile (by simp) (by simp) (fun _ => .inr)
  others := h.others.trans ((OnlyChanges.refl.logTile (parts := [.evt, .host]) (touch := logReg) (by simp) (by simp)
    (fun _ k => k)).otherStreams (by simp) t st)
  records := h.records.trans (logAt_keepsRecords ..)

theorem StreamMoves.setStatus (h : StreamMoves t st s u) {f : Field} {v : Nat} (hf : f.addr = R.TSQ_STREAM_STATUS t st) :
    StreamMoves t st s (u.setFld f v) where
  frame := h.frame.setFld (.inl hf)
  others := h.others
  records := h.records.trans (((OnlyChanges.refl (parts := []) (touch := (· = R.TSQ_STREAM_STATUS t st))).setFld
    (v := v) hf).sameRecords (by simp) (by simp only [R.EVT_CNT, R.TSQ_STREAM_STATUS]; omega)
    (by simp only [R.EVT_STATUS, R.TSQ_STREAM_STATUS]; omega)).keeps

variable (hst : st < 8)
include hst

theorem StreamMoves.setStream (h : StreamMoves t st s u) {r : StreamHid} : StreamMoves t st s (u.setStream t st r) where
  frame := h.frame.setStream (by simp)
  others := h.others.trans (otherStreams_setStream u t hst r)
  records := h.records.trans (SameRecords.keeps ⟨rfl, rfl, rfl, rfl⟩)

theorem StreamMoves.haltDrain (h : StreamMoves t st s u) {r : Nat} : StreamMoves t st s (u.haltDrain t st r) :=
  .ite (fun _ => ((h.setStream hst).setStatus rfl).setStatus rfl) (fun _ => (h.setStream hst).setStatus rfl)

theorem StreamMoves.breakDrain (h : StreamMoves t st s u) {c : Nat} : StreamMoves t st s (u.breakDrain t st c) :=
  (h.setStream hst).setStatus rfl

theorem StreamMoves.setPc (h : StreamMoves t st s u) {p : Nat} : StreamMoves t st s (u.setPc t st p) :=
  .ite (fun _ => h.setStatus rfl) (fun _ => (h.setStatus rfl).logTile.haltDrain hst)

/-- An instruction retires: only its stream moves. -/
theorem retire_moves (p : Nat) : StreamMoves t st s (s.retire t st p) := by
  have k (h0 : StreamHid) (ls : List LoopLevel) (q : Nat) :
      StreamMoves t st s ((((s.setStream t st h0).setStState t st stRUN).setLoops t st ls).setPc t st q) :=
    ((((StreamMoves.refl.setStream hst).setStatus rfl).setStream hst).setStatus rfl).setPc hst
  unfold State.retire
  extract_lets r src s0 s1 n
  have k1 : StreamMoves t st s s1 := k _ _ _
  clear_value s1
  exact .ite (fun _ => k1) (fun _ => .ite (fun _ => k1.breakDrain hst)
    (fun _ => .ite (fun _ => (k1.setStream hst).breakDrain hst) (fun _ => k1)))

end

/-! ## The issue's counting -/

/-- The registers that counting an issue writes: the stream's instruction count and the tile's event counters (R95, R98). -/
def issueReg (t st a : Nat) : Prop := a = R.TSQ_STREAM_ICOUNT t st ∨ ∃ i, i < 8 ∧ a = R.TSQ_EVCNT_VALUE t i

/-- The event counters alone. -/
def eventReg (t a : Nat) : Prop := ∃ i, i < 8 ∧ a = R.TSQ_EVCNT_VALUE t i

theorem countEv_frame (s : State) (t sel st n : Nat) : OnlyChanges [] (eventReg t) s (s.countEv t sel st n) :=
  .foldl (fun _ i hi k => .ite (fun _ => k.incFld ⟨i, List.mem_range.1 hi, rfl⟩) (fun _ => k)) .refl

theorem countHeld_frame (s : State) (t st : Nat) (rs : List Nat) (free : Nat) :
    OnlyChanges [] (eventReg t) s (s.countHeld t st rs free) := by
  have one (sel d : Nat) (u : State) : OnlyChanges [] (eventReg t) u (if d = 0 then u else u.countEv t sel st d) :=
    .ite (fun _ => .refl) (fun _ => countEv_frame ..)
  unfold State.countHeld
  exact (one _ _ _).trans (one _ _ _)

theorem icount_not_eventReg (t : Nat) {st : Nat} (hst : st < 8) : ¬ eventReg t (R.TSQ_STREAM_ICOUNT t st) := by
  rintro ⟨i, hi, h⟩
  simp only [R.TSQ_STREAM_ICOUNT, R.TSQ_EVCNT_VALUE] at h
  omega

/-- What an issue has left as its instruction's own work begins: one more instruction counted, event counters raised, units taken;
its stream's loops and single step stand. -/
structure IssueCounted (t st : Nat) (s u : State) : Prop where
  frame : OnlyChanges [.strm, .engs] (issueReg t st) s u
  others : OtherStreams s u t st
  loops : (u.stream t st).loops = (s.stream t st).loops
  step : (u.stream t st).step = (s.stream t st).step
  issued : Issued s u t st

theorem countIssue_counted (s : State) (t : Nat) {st : Nat} (hst : st < 8) : IssueCounted t st s (s.countIssue t st) := by
  have hinc : OnlyChanges [] (issueReg t st) s (s.incFld (F.TSQ_STREAM_ICOUNT_ICOUNT t st) 1) :=
    OnlyChanges.refl.incFld (.inl rfl)
  have hev := countEv_frame (s.incFld (F.TSQ_STREAM_ICOUNT_ICOUNT t st) 1) t 0x02 st 1
  have hs : ((s.incFld (F.TSQ_STREAM_ICOUNT_ICOUNT t st) 1).countEv t 0x02 st 1).stream t st = s.stream t st :=
    (hev.stream_eq (by simp) t st).trans (hinc.stream_eq (by simp) t st)
  constructor
  · exact ((hinc.trans (hev.mono (by simp) fun _ => .inr)).mono (by simp) (fun _ k => k)).setStream (by simp)
  · exact ((hinc.trans (hev.mono (by simp) fun _ => .inr)).otherStreams (by simp) t st).trans
      (otherStreams_setStream _ t hst _)
  · rw [State.countIssue, State.stream_setStream, hs]
  · rw [State.countIssue, State.stream_setStream, hs]
  · unfold Issued State.countIssue
    rw [fld_setStream, hev.fld_eq (icount_not_eventReg t hst), State.fld_incFld_same _ _ _ (by simp [F.TSQ_STREAM_ICOUNT_ICOUNT])]
    rfl

/-- The event counters may be raised before an issue is counted. -/
theorem IssueCounted.after {t st : Nat} {s u v : State} (hst : st < 8) (h : OnlyChanges [] (eventReg t) s u)
    (k : IssueCounted t st u v) : IssueCounted t st s v where
  frame := (h.mono (by simp) fun _ => .inr).trans k.frame
  others := (h.otherStreams (by simp) t st).trans k.others
  loops := by rw [k.loops, h.stream_eq (by simp)]
  step := by rw [k.step, h.stream_eq (by simp)]
  issued := by
    have := k.issued
    rwa [Issued, h.fld_eq (icount_not_eventReg t hst)] at this

/-- And work on the engines' units and the event counters after. -/
theorem IssueCounted.before {t st : Nat} {s u v : State} (hst : st < 8) (k : IssueCounted t st s u)
    (h : OnlyChanges [.engs] (eventReg t) u v) : IssueCounted t st s v where
  frame := k.frame.trans (h.mono (by simp) fun _ => .inr)
  others := k.others.trans (h.otherStreams (by simp) t st)
  loops := by rw [h.stream_eq (by simp), k.loops]
  step := by rw [h.stream_eq (by simp), k.step]
  issued := by rw [Issued, h.fld_eq (icount_not_eventReg t hst)]; exact k.issued

/-- The state in which a vector instruction's own work begins. -/
def vecIssued (s0 : State) (i : Iss) (e op bits : Nat) : State :=
  let us := vecUnits op (vecTy op bits) (bits % 1024)
  (((s0.countHeld i.t i.st (vecReads op bits) ((s0.eng i.t e).freeAt us)).countIssue i.t i.st).takeUnits i.t e us).countEv i.t
    (0x0D + e) i.st 1

theorem vecIssued_counted (s0 : State) (i : Iss) (e op bits : Nat) :
    IssueCounted i.t i.st s0 (vecIssued s0 i e op bits) := by
  unfold vecIssued State.takeUnits
  exact ((IssueCounted.after i.st.isLt (countHeld_frame ..) (countIssue_counted _ _ i.st.isLt)).before i.st.isLt
    (OnlyChanges.refl.setEng (by simp))).before i.st.isLt ((countEv_frame ..).mono (by simp) fun _ k => k)

/-- A legal vector instruction that issues: its own work, then its stream goes on. -/
theorem vecIssue_issues {s : State} {i : Iss} {e op bits : Nat} (h : VectorIssues s i e) (hl : vecLegal op bits = true)
    (body : Nat → State → State) :
    s.vecIssue i op bits body = (body e (vecIssued (s.advance i.t i.ac) i e op bits)).retireNext i.t i.st := by
  obtain ⟨⟨hrun, htag⟩, he⟩ := h
  simp [State.vecIssue, hrun, htag, he, hl, vecIssued]

/-- The same with the state in which the work begins not named. -/
theorem vecIssue_splits {s : State} {i : Iss} {e op bits : Nat} (h : VectorIssues s i e) (hl : vecLegal op bits = true)
    (body : Nat → State → State) : ∃ s1, IssueCounted i.t i.st (s.advance i.t i.ac) s1
      ∧ s.vecIssue i op bits body = (body e s1).retireNext i.t i.st :=
  ⟨_, vecIssued_counted .., vecIssue_issues h hl body⟩

/-! ## The instruction and its stream together -/

/-- The registers of a stream from which it goes on. -/
def ownReg (t st a : Nat) : Prop :=
  a = R.TSQ_STREAM_STATUS t st ∨ a = R.TSQ_STREAM_ICOUNT t st ∨ a = R.TSQ_STREAM_BRK_COUNT t st

/-- What a vector instruction's own work may write: the audit drop count, the log, and what `extra` names. -/
def workReg (t : Nat) (extra : Nat → Prop) (a : Nat) : Prop := a = R.TSQ_AUDIT_CNT t ∨ logReg a ∨ extra a

theorem ownReg_not_workReg {t st : Nat} (hst : st < 8) {extra : Nat → Prop} (hx : ∀ a, extra a → ¬ ownReg t st a) {a : Nat}
    (h : ownReg t st a) : ¬ workReg t extra a := by
  rintro (k | k | k)
  · simp only [ownReg, R.TSQ_STREAM_STATUS, R.TSQ_STREAM_ICOUNT, R.TSQ_STREAM_BRK_COUNT, R.TSQ_AUDIT_CNT] at h k
    omega
  · simp only [ownReg, logReg, R.TSQ_STREAM_STATUS, R.TSQ_STREAM_ICOUNT, R.TSQ_STREAM_BRK_COUNT, R.EVT_CNT, R.EVT_STATUS,
      R.MBX_PBA] at h k
    omega
  · exact hx a k h

theorem ownReg_not_issueReg {t st : Nat} (hst : st < 8) {a : Nat} (h : ownReg t st a) (hn : a ≠ R.TSQ_STREAM_ICOUNT t st) :
    ¬ issueReg t st a := by
  rintro (k | ⟨j, hj, k⟩)
  · exact hn k
  · simp only [ownReg, R.TSQ_STREAM_STATUS, R.TSQ_STREAM_ICOUNT, R.TSQ_STREAM_BRK_COUNT, R.TSQ_EVCNT_VALUE] at h k
    omega

/-- The program counter at which an instruction issued. -/
theorem IssueCounted.pc_eq {t st : Nat} {s u : State} (hst : st < 8) (h : IssueCounted t st s u) : u.pc t st = s.pc t st :=
  h.frame.fld_eq (ownReg_not_issueReg hst (.inl rfl) (by
    simp [F.TSQ_STREAM_STATUS_PC, R.TSQ_STREAM_STATUS, R.TSQ_STREAM_ICOUNT]))

/-- An instruction's own work `s1` to `s2`, between its issue and its stream's going on, runs as a vector instruction does. -/
theorem vectorRuns_of_work {s0 s1 s2 : State} {i : Iss} {parts : List Part} {extra : Nat → Prop}
    (hi : IssueCounted i.t i.st s0 s1)
    (hw : OnlyChanges ([.tiles, .engs, .evt, .host] ++ parts) (workReg i.t extra) s1 s2) (hp : Part.strm ∉ parts)
    (hx : ∀ a, extra a → ¬ ownReg i.t i.st a) (hv : ∀ v ∈ (s1.tile i.t).vev, v ∈ (s2.tile i.t).vev) :
    vectorRuns s0 (s2.retireNext i.t i.st) i parts extra := by
  have hst := i.st.isLt
  have hm : StreamMoves i.t i.st s2 (s2.retireNext i.t i.st) := retire_moves hst _
  have hown {f : Field} (hf : ownReg i.t i.st f.addr) : s2.fld f = s1.fld f := hw.fld_eq (ownReg_not_workReg hst hx hf)
  have hstrm : s2.stream i.t i.st = s1.stream i.t i.st := hw.stream_eq (by simp [hp]) ..
  have hpc : s2.pc i.t i.st = s0.pc i.t i.st := (hown (.inl rfl)).trans (hi.pc_eq hst)
  have hbrk : s2.fld (F.TSQ_STREAM_BRK_COUNT_COUNT i.t i.st) = s0.fld (F.TSQ_STREAM_BRK_COUNT_COUNT i.t i.st) :=
    (hown (.inr (.inr rfl))).trans (hi.frame.fld_eq (ownReg_not_issueReg hst (.inr (.inr rfl)) (by
      simp [F.TSQ_STREAM_BRK_COUNT_COUNT, R.TSQ_STREAM_BRK_COUNT, R.TSQ_STREAM_ICOUNT])))
  refine ⟨?_, ?_, ?_, ?_, ?_⟩
  · have hic : ¬ (R.TSQ_STREAM_ICOUNT i.t i.st = R.TSQ_STREAM_STATUS i.t i.st ∨ logReg (R.TSQ_STREAM_ICOUNT i.t i.st)) := by
      simp only [logReg, R.TSQ_STREAM_STATUS, R.TSQ_STREAM_ICOUNT, R.EVT_CNT, R.EVT_STATUS, R.MBX_PBA]
      omega
    rw [Issued, hm.frame.fld_eq hic, hown (.inr (.inl rfl))]
    exact hi.issued
  · have hg := retire_goesOn s2 i.t i.st (s2.pc i.t i.st + 8)
    rw [hpc, hstrm, hi.loops] at hg
    rw [State.retireNext, hpc]
    exact ⟨fun hq hb => hg.1 hq ⟨by rw [hbrk]; exact hb.1, by rw [hstrm, hi.step]; exact hb.2⟩, hg.2⟩
  · exact (hi.others.trans (hw.otherStreams (by simp [hp]) _ _)).trans hm.others
  · intro v hv0
    rw [hm.frame.tile_eq (by simp)]
    exact hv v (by rwa [hi.frame.tile_eq (by simp)])
  · have f1 := hi.frame.mono (ps := [.strm, .tiles, .engs, .evt, .host] ++ parts)
      (f := fun b => streamReg i.t i.st b ∨ b = R.TSQ_AUDIT_CNT i.t ∨ extra b) (by simp) (by
        rintro a (k | k)
        · exact .inl (.inr (.inl k))
        · exact .inl (.inr (.inr (.inl k))))
    refine (f1.trans (hw.mono ?_ ?_)).trans (hm.frame.mono (by simp) ?_)
    · intro p k
      simp only [List.mem_append, List.mem_cons, List.not_mem_nil, or_false] at k ⊢
      tauto
    · rintro a (k | k | k)
      · exact .inr (.inl k)
      · exact .inl (.inr (.inr (.inr k)))
      · exact .inr (.inr k)
    · rintro a (k | k)
      · exact .inl (.inl k)
      · exact .inl (.inr (.inr (.inr k)))

/-! ## The plan of what lands -/

/-- The records an audit finds are of its tile. -/
theorem auditRead_tile {s : State} {t e st pc reg at' : Nat} {r : AuditRec} (h : r ∈ s.auditRead t e st pc reg at') :
    r.t = t := by
  simp only [State.auditRead, List.mem_filterMap] at h
  obtain ⟨b, -, h⟩ := h
  split_ifs at h <;> cases h <;> rfl

theorem auditWrite_tile {s : State} {t e st pc reg vis : Nat} {kept : Bool} {r : AuditRec}
    (h : r ∈ s.auditWrite t e st pc reg vis kept) : r.t = t := by
  simp only [State.auditWrite, List.mem_append, List.mem_filterMap] at h
  rcases h with ⟨b, -, h⟩ | h
  · split_ifs at h <;> cases h <;> rfl
  · split_ifs at h
    · obtain ⟨b, -, h⟩ := List.mem_filterMap.1 h
      split_ifs at h
      cases h
      rfl
    · cases h

theorem auditArise_frame (s : State) (r : AuditRec) : OnlyChanges [.evt] (· = R.TSQ_AUDIT_CNT r.t) s (s.auditArise r) := by
  unfold State.auditArise
  exact .ite (fun _ => OnlyChanges.refl.upd rfl rfl (fun p n => by cases p <;> first | rfl | simp at n))
    (fun _ => OnlyChanges.refl.incFld rfl)

theorem auditArise_waiting (s : State) (r : AuditRec) : (s.auditArise r).evt.waiting = s.evt.waiting := by
  unfold State.auditArise
  split
  · rfl
  · rw [State.incFld_evt]

/-- Audit records of one tile that arise. -/
theorem audit_fold {t : Nat} (rs : List AuditRec) (hr : ∀ r ∈ rs, r.t = t) (s : State) :
    OnlyChanges [.evt] (· = R.TSQ_AUDIT_CNT t) s (rs.foldl (fun s r => s.auditArise r) s)
      ∧ (rs.foldl (fun s r => s.auditArise r) s).evt.waiting = s.evt.waiting := by
  induction rs generalizing s with
  | nil => exact ⟨.refl, rfl⟩
  | cons r rs ih =>
    obtain ⟨h1, h2⟩ := ih (fun x hx => hr x (by simp [hx])) (s.auditArise r)
    have h0 := auditArise_frame s r
    rw [hr r (by simp)] at h0
    exact ⟨h0.trans h1, h2.trans (auditArise_waiting s r)⟩

/-- The events of a plan as they stand in flight: by ac from the issue, in issue order. -/
def VPlan.inFlight (p : VPlan) (h : TileHid) (e st pc : Nat) : List VEvent :=
  p.evs.map (fun v => VEvent.mk (h.ac + v.1) v.2.1 h.vseq e st pc v.2.2)

/-- A plan entered changes the audit, the scoreboard and what is in flight, to which it adds its events. -/
theorem runPlan_spec (s : State) (t e st pc : Nat) (p : VPlan) :
    OnlyChanges [.tiles, .engs, .evt] (· = R.TSQ_AUDIT_CNT t) s (s.runPlan t e st pc p)
      ∧ ((s.runPlan t e st pc p).tile t).vev = p.inFlight (s.tile t) e st pc ++ (s.tile t).vev
      ∧ KeepsRecords s (s.runPlan t e st pc p) := by
  unfold State.runPlan
  extract_lets h recs s1 g s2 k
  have hr : ∀ r ∈ recs, r.t = t := by
    intro r m
    simp only [recs] at m
    split at m
    · rcases List.mem_append.1 m with m | m <;> obtain ⟨_, _, m⟩ := List.mem_flatMap.1 m
      · exact auditRead_tile m
      · exact auditWrite_tile m
    · simp at m
  obtain ⟨h1, hw⟩ : OnlyChanges [.evt] (· = R.TSQ_AUDIT_CNT t) s s1 ∧ s1.evt.waiting = s.evt.waiting := audit_fold recs hr s
  have h2 : OnlyChanges [.engs, .evt] (· = R.TSQ_AUDIT_CNT t) s s2 := (h1.mono (by simp) fun _ e => e).setEng (by simp)
  have hk : k = s.tile t := h2.tile_eq (by simp) t
  have hkeep : KeepsRecords s s1 := by
    refine ⟨by rw [hw], fun e => (h1.fld_eq ?_).trans e⟩
    simp only [F.EVT_STATUS_LOST, R.EVT_STATUS, R.TSQ_AUDIT_CNT]
    omega
  refine ⟨(h2.mono (by simp) fun _ e => e).setTile (by simp), ?_, ?_⟩
  · rw [State.tile_setTile, if_pos rfl, hk]
    rfl
  · exact hkeep.trans ((((OnlyChanges.refl (parts := [.tiles, .engs]) (touch := fun _ => False)).setEng (by simp)).setTile
      (by simp)).sameRecords (by simp) id id).keeps

/-- Each event of a plan is in flight once the plan is entered. -/
theorem VPlan.mem_inFlight {p : VPlan} {off phase : Nat} {op : VOp} (h : (off, phase, op) ∈ p.evs) (t : TileHid) (e st pc : Nat) :
    VEvent.mk (t.ac + off) phase t.vseq e st pc op ∈ p.inFlight t e st pc := List.mem_map_of_mem h

/-- A plan is entered at the issue's ac, PC and place in the issue order. -/
theorem runPlan_work {s0 s1 : State} {i : Iss} {e : Nat} (h : IssueCounted i.t i.st s0 s1) (p : VPlan) :
    OnlyChanges [.tiles, .engs, .evt] (· = R.TSQ_AUDIT_CNT i.t) s1 (s1.runPlan i.t e i.st (s1.pc i.t i.st) p)
      ∧ ((s1.runPlan i.t e i.st (s1.pc i.t i.st) p).tile i.t).vev
        = p.inFlight (s0.tile i.t) e i.st (s0.pc i.t i.st) ++ (s0.tile i.t).vev := by
  obtain ⟨hf, hv, -⟩ := runPlan_spec s1 i.t e i.st (s1.pc i.t i.st) p
  refine ⟨hf, ?_⟩
  rw [hv, h.pc_eq i.st.isLt, h.frame.tile_eq (by simp)]

/-- An instruction whose own work is a plan: it runs, and its events are in flight before those that were. -/
theorem vecIssue_runPlan {s : State} {i : Iss} {e op bits : Nat} (h : VectorIssues s i e) (hl : vecLegal op bits = true)
    (plan : Nat → State → VPlan) :
    let s0 := s.advance i.t i.ac
    let u := s.vecIssue i op bits (fun e s => s.runPlan i.t e i.st (s.pc i.t i.st) (plan e s))
    (u.tile i.t).vev = (plan e (vecIssued s0 i e op bits)).inFlight (s0.tile i.t) e i.st (s0.pc i.t i.st) ++ (s0.tile i.t).vev
      ∧ vectorGoesOn s0 u i (fun _ => False) := by
  intro s0 u
  have hi := vecIssued_counted s0 i e op bits
  obtain ⟨hf, hv⟩ := runPlan_work (e := e) hi (plan e (vecIssued s0 i e op bits))
  have hu : u = _ := vecIssue_issues h hl _
  rw [hu]
  refine ⟨?_, vectorRuns_of_work hi (hf.mono (by simp) fun _ => .inl) (by simp) (fun _ => False.elim) ?_⟩
  · rw [← hv]
    exact congrArg _ ((retire_moves i.st.isLt _).frame.tile_eq (by simp) _)
  · intro v hm
    rw [hv, ← hi.frame.tile_eq (by simp)]
    exact List.mem_append_right _ hm

/-- The type field of a vector instruction's operand bits (R140). -/
theorem vecTy_vecBits {op : Nat} (hop : op < 0x40) (a : VArgs) : vecTy op (vecBits a) = a.ty.toNat := by
  have hc : ¬ (0x40 ≤ op ∧ op ≤ 0x45) := by omega
  rw [vecTy, if_neg hc]
  apply Nat.eq_of_testBit_eq
  intro k
  rw [testBit_bitsOf]
  by_cases hk : k < 4
  · have hx : a.x.toNat.testBit (10 + k) = false :=
      Nat.testBit_lt_two_pow (Nat.lt_of_lt_of_le a.x.isLt (Nat.pow_le_pow_right (by decide) (by omega)))
    have h38 : ¬ 38 ≤ 10 + k := by omega
    have h32 : ¬ 32 ≤ 10 + k := by omega
    have h26 : ¬ 26 ≤ 10 + k := by omega
    have h20 : ¬ 20 ≤ 10 + k := by omega
    have h16 : ¬ 16 ≤ 10 + k := by omega
    have h15 : ¬ 15 ≤ 10 + k := by omega
    have h14 : ¬ 14 ≤ 10 + k := by omega
    simp [vecBits, Nat.testBit_or, Nat.testBit_shiftLeft, hk, hx, h38, h32, h26, h20, h16, h15, h14]
  · have hty : a.ty.toNat.testBit k = false :=
      Nat.testBit_lt_two_pow (Nat.lt_of_lt_of_le a.ty.isLt (Nat.pow_le_pow_right (by decide) (by omega)))
    simp [hk, hty]

end Sys2Proof.Machine
end

section
/-! SUPPORT. Element-wise results (R144) and compares (R147), with the settlement of O29. -/
namespace Sys2Proof.Machine

/-! ## The elements a destination takes (R144) -/

/-- Among entries made position by position, each under its position's key, those of a key are its position's. -/
theorem filter_filterMap_range {β : Type} (key : β → Nat) (g : Nat → Option β) (hg : ∀ i x, g i = some x → key x = i)
    (n k : Nat) : ((List.range n).filterMap g).filter (fun x => key x == k) = if k < n then (g k).toList else [] := by
  induction n with
  | zero => rfl
  | succ n ih =>
    have hlast : ([n].filterMap g).filter (fun x => key x == k) = if k = n then (g k).toList else [] := by
      cases hx : g n with
      | none =>
        simp only [List.filterMap_cons, List.filterMap_nil, hx, List.filter_nil]
        split
        · next e => rw [e, hx]; rfl
        · rfl
      | some x =>
        have hk := hg n x hx
        by_cases e : k = n
        · subst e; simp [hx, hk]
        · simp [hx, hk, e, Ne.symm e]
    rw [List.range_succ, List.filterMap_append, List.filter_append, ih, hlast]
    rcases Nat.lt_trichotomy k n with h | h | h
    · simp [h, Nat.lt_succ_of_lt h, Nat.ne_of_lt h]
    · simp [h]
    · have : ¬ k < n + 1 := by omega
      simp [Nat.not_lt_of_gt h, this, Nat.ne_of_gt h]

/-- An element's activity and its mask bit's poison, in the terms of the statements. -/
theorem activeAt_eq (s : State) (t e : Nat) (mr : BitVec 4) (me : Bool) (w k : Nat) :
    (s.activeAt t e mr.toNat me (s.vcount t e w) k).1 = activeElement s t e mr me w k
      ∧ (activeElement s t e mr me w k = true →
        (s.activeAt t e mr.toNat me (s.vcount t e w) k).2 = maskPoison s t e mr me k) := by
  have hn : s.vcount t e w = elementCount s t e w := rfl
  unfold State.activeAt activeElement maskPoison
  rw [hn]
  by_cases h : k < elementCount s t e w <;> cases me <;> simp [h]

/-- What an element-wise instruction lands is what R144 says. -/
theorem elementwise_lands (s : State) (t e : Nat) (mr : BitVec 4) (me z : Bool) (w : Nat) (f : Nat → Nat × Bool × Nat) :
    landsElements s t e mr me z w (fun k => (f k).1) (fun k => (f k).2.1)
      (s.elementwise t e mr.toNat me z w (s.vcount t e w) f).1 := by
  intro k hk
  obtain ⟨hact, hbad⟩ := activeAt_eq s t e mr me w k
  simp only [State.elementwise, List.map_filterMap]
  refine (filter_filterMap_range VEl.i _ ?_ (nmax w) k).trans ?_
  · intro i x hx
    split_ifs at hx <;> cases hx <;> rfl
  · rw [if_pos (show k < nmax w from hk), hact]
    cases ha : activeElement s t e mr me w k with
    | true => simp [hbad ha]
    | false => cases z <;> simp

/-- The vector length that an instruction meets is that before its issue was counted. -/
theorem IssueCounted.elementCount_eq {t st e : Nat} {s u : State} (h : IssueCounted t st s u) (w : Nat) :
    elementCount u t e w = elementCount s t e w := by
  have hv : u.fld (F.VXE_VL_VL t e) = s.fld (F.VXE_VL_VL t e) := h.frame.fld_eq (by
    simp only [issueReg, F.VXE_VL_VL, R.VXE_VL, R.TSQ_STREAM_ICOUNT, R.TSQ_EVCNT_VALUE]
    rintro (k | ⟨i, hi, k⟩) <;> omega)
  simp only [elementCount, hv]

/-- And so is what its active elements are: those that land of it are those that land as of the issue. -/
theorem IssueCounted.landsElements_before {t st e : Nat} {s u : State} (h : IssueCounted t st s u)
    {mr : BitVec 4} {me z : Bool} {w : Nat} {value : Nat → Nat} {bad : Nat → Bool} {els : List VEl}
    (k : landsElements u t e mr me z w value bad els) : landsElements s t e mr me z w value bad els := by
  have hm : u.mreg t e mr.toNat = s.mreg t e mr.toNat := h.frame.mreg_eq (by simp) ..
  have ha : activeElement u t e mr me w = activeElement s t e mr me w := by
    funext j
    rw [activeElement, activeElement, h.elementCount_eq, hm]
  have hp : maskPoison u t e mr me = maskPoison s t e mr me := by
    funext j
    rw [maskPoison, maskPoison, hm]
  rwa [landsElements, ha, hp] at k

/-! ## Compares (R147) -/

/-- A NaN operand is neither less nor equal, but unordered. -/
theorem compareRule_nan {ty x y : Nat} {f : Fmt} (hf : fmtOf ty = some f)
    (h : (f.decode x).isNan = true ∨ (f.decode y).isNan = true) : compareRule ty x y = (false, false, true) := by
  have hn : ((f.decode x).isNan || (f.decode y).isNan) = true := by rcases h with h | h <;> simp [h]
  simp [compareRule, hf, hn]

/-- The model's compare is the rule's. -/
theorem cmpPair_eq (ty x y : Nat) : cmpPair ty x y = compareRule ty x y := by
  unfold cmpPair compareRule
  cases fmtOf ty with
  | none => rfl
  | some f =>
    dsimp only
    cases h : (f.decode x).isNan || (f.decode y).isNan <;> simp

/-- Unordered operands are neither less nor equal. -/
theorem compareRule_unordered {ty x y : Nat} (h : (compareRule ty x y).2.2 = true) :
    (compareRule ty x y).1 = false ∧ (compareRule ty x y).2.1 = false := by
  unfold compareRule at h ⊢
  cases hf : fmtOf ty with
  | none => simp [hf] at h
  | some f => simp only [hf] at h ⊢; simp [h]

theorem cmpCond_eq (ty c x y : Nat) : cmpCond ty c x y = conditionHolds c (compareRule ty x y) := by
  have hu := @compareRule_unordered ty x y
  unfold cmpCond
  rw [cmpPair_eq]
  generalize compareRule ty x y = r at *
  obtain ⟨lt, eq, un⟩ := r
  match c with
  | 0 | 1 | 2 | 6 => rfl
  | 3 | 4 | 5 =>
    cases un with
    | false => simp [conditionHolds]
    | true => obtain ⟨rfl, rfl⟩ := hu rfl; rfl
  | _ + 7 => rfl

/-- Of unordered operands NE and UNORD hold alone. -/
theorem conditionHolds_nan (c : Nat) : conditionHolds c (false, false, true) = true ↔ c = 1 ∨ c = 6 := by
  match c with
  | 0 | 1 | 2 | 3 | 4 | 5 | 6 => decide
  | n + 7 => simp [conditionHolds]

/-- The bits VCMP lands, from the elements that carry its conditions. -/
def compareBits (els : List VEl) : List (Nat × Bool × Bool) := els.map (fun x => (x.i, x.v == 1, x.p))

/-- Conditions as elements give the mask bits of R147. -/
theorem compareBits_lands {s : State} {t e : Nat} {mr : BitVec 4} {me z : Bool} {w : Nat} {cond bad : Nat → Bool} {els : List VEl}
    (h : landsElements s t e mr me z w (fun k => b2n (cond k)) bad els) (k : Nat) (hk : k < 8192 / w) :
    (compareBits els).filter (fun x => x.1 == k) =
      (if activeElement s t e mr me w k then [(k, cond k, bad k || maskPoison s t e mr me k)]
        else if z then [(k, false, false)] else []) := by
  have hb (c : Bool) : (b2n c == 1) = c := by cases c <;> rfl
  have := congrArg compareBits (h k hk)
  rw [compareBits, List.filter_map]
  refine this.trans ?_
  split
  · simp [compareBits, hb]
  · cases z <;> rfl

/-- The latency of a compare (R87). -/
def compareLat (a : VArgs) : Nat := if a.ty.toNat = 6 then 3 else 2

/-- The elements that carry VCMP's conditions. -/
def compareElements (s : State) (i : Iss) (e : Nat) (a : VArgs) : List VEl :=
  let w := tyWidth a.ty.toNat
  let ra := s.vreg i.t e a.va.toNat
  let rb := s.vreg i.t e a.vb.toNat
  (s.elementwise i.t e a.mr.toNat a.me a.z w (s.vcount i.t e w) (fun k =>
    (b2n (cmpCond a.ty.toNat (bitsOf a.x.toNat 0 3) (ra.el w k) (rb.el w k)), ra.elPoison w k || rb.elPoison w k, 0))).1

/-- VCMP's plan: the mask's write-back alone. -/
def comparePlan (i : Iss) (a : VArgs) (e : Nat) (s : State) : VPlan where
  srcs := [(a.va.toNat, 0), (a.vb.toNat, 0)] ++ maskSrc a.mr.toNat a.me
  dsts := [(64 + bitsOf a.vd.toNat 0 4, compareLat a)]
  kept := decide ((compareElements s i e a).length < nmax (tyWidth a.ty.toNat))
  evs := [(compareLat a, 3, .wbM (bitsOf a.vd.toNat 0 4) (compareBits (compareElements s i e a)))]

theorem exec_vcmp (i : Iss) (a : VArgs) (s : State) : Machine.exec (.vcmp i a) s = .next (s.vecIssue i 0x16 (vecBits a)
    (fun e s => s.runPlan i.t e i.st (s.pc i.t i.st) (comparePlan i a e s))) := rfl

/-- The elements carry the rule's conditions on the sources as they stood at issue. -/
theorem compareElements_lands {s0 s1 : State} {i : Iss} {e : Nat} (h : IssueCounted i.t i.st s0 s1) (a : VArgs) :
    let w := tyWidth a.ty.toNat
    let va := s0.vreg i.t e a.va.toNat
    let vb := s0.vreg i.t e a.vb.toNat
    landsElements s0 i.t e a.mr a.me a.z w
      (fun k => b2n (conditionHolds (a.x.toNat % 8) (compareRule a.ty.toNat (va.el w k) (vb.el w k))))
      (fun k => va.elPoison w k || vb.elPoison w k) (compareElements s1 i e a) := by
  have hx : bitsOf a.x.toNat 0 3 = a.x.toNat % 8 := by simp [bitsOf]
  have hl := h.landsElements_before (elementwise_lands s1 i.t e a.mr a.me a.z (tyWidth a.ty.toNat) (fun k =>
    (b2n (cmpCond a.ty.toNat (bitsOf a.x.toNat 0 3) ((s1.vreg i.t e a.va.toNat).el (tyWidth a.ty.toNat) k)
        ((s1.vreg i.t e a.vb.toNat).el (tyWidth a.ty.toNat) k)),
      (s1.vreg i.t e a.va.toNat).elPoison (tyWidth a.ty.toNat) k
        || (s1.vreg i.t e a.vb.toNat).elPoison (tyWidth a.ty.toNat) k, 0)))
  simpa only [compareElements, cmpCond_eq, hx, h.frame.vreg_eq (by simp : Part.vregs ∉ _)] using hl

theorem vcmp_legal {a : VArgs} (h : a.ty.toNat ≤ 6) : vecLegal 0x16 (vecBits a) = true := by
  simpa [vecLegal, vecTy_vecBits (show 0x16 < 0x40 by decide)] using h

/-- Settles O29: the model's compare is the rule's, and its plan holds the mask's write-back alone. -/
theorem vectorCompare : Obligations.VectorCompare := by
  unfold Obligations.VectorCompare
  refine ⟨fun i a e s h hty => ?_, fun ty c x y f hf hn => ?_, fun ty h3 h6 => ?_⟩
  · intro s0 w va vb lat
    have hi := vecIssued_counted s0 i e 0x16 (vecBits a)
    obtain ⟨hv, hg⟩ := vecIssue_runPlan h (vcmp_legal hty) (comparePlan i a)
    refine ⟨_, exec_vcmp i a s, ⟨compareBits (compareElements (vecIssued s0 i e 0x16 (vecBits a)) i e a), ?_,
      fun k hk => ?_⟩, hg⟩
    · rw [show a.vd.toNat % 16 = bitsOf a.vd.toNat 0 4 by simp [bitsOf]]
      exact hv
    · exact compareBits_lands (compareElements_lands hi a) k hk
  · rw [compareRule_nan hf hn]
    exact conditionHolds_nan c
  · interval_cases ty <;> decide

end Sys2Proof.Machine
end

section
/-! SUPPORT. The finished-tile queue's reading side (R170 to R174, R179), with the settlement of O39. -/
namespace Sys2Proof.Machine

/-! ## The queue's registers and banks -/

/-- The registers of a tile's finished-tile queue (R179). -/
def ftqReg (t a : Nat) : Prop := R.FTQ_CTL t ≤ a ∧ a ≤ R.FTQ_CNT_UNDERRUN t

/-- The queue's registers and banks stand. -/
def SameQueue (t : Nat) (s u : State) : Prop :=
  (∀ a, ftqReg t a → u.reg a = s.reg a) ∧ ∀ b, u.ftqBank t b = s.ftqBank t b

theorem SameQueue.fld {t : Nat} {s u : State} (h : SameQueue t s u) {f : Field} (hf : ftqReg t f.addr) : u.fld f = s.fld f := by
  simp only [State.fld, h.1 _ hf]

theorem OnlyChanges.sameQueue {parts : List Part} {touch : Nat → Prop} {s u : State} (h : OnlyChanges parts touch s u)
    (hp : Part.ftq ∉ parts) {t : Nat} (ht : ∀ a, ftqReg t a → ¬ touch a) : SameQueue t s u :=
  ⟨fun a ha => h.2.2 a (ht a ha), h.ftqBank_eq hp t⟩

theorem SameQueue.trans {t : Nat} {s u v : State} (h : SameQueue t s u) (k : SameQueue t u v) : SameQueue t s v :=
  ⟨fun a ha => (k.1 a ha).trans (h.1 a ha), fun b => (k.2 b).trans (h.2 b)⟩

theorem ftqReg_ctl (t : Nat) : ftqReg t (R.FTQ_CTL t) := by simp only [ftqReg, R.FTQ_CTL, R.FTQ_CNT_UNDERRUN]; omega
theorem ftqReg_status (t : Nat) : ftqReg t (R.FTQ_STATUS t) := by
  simp only [ftqReg, R.FTQ_CTL, R.FTQ_STATUS, R.FTQ_CNT_UNDERRUN]; omega
theorem ftqReg_drops (t : Nat) : ftqReg t (R.FTQ_CNT_DROPS t) := by
  simp only [ftqReg, R.FTQ_CTL, R.FTQ_CNT_DROPS, R.FTQ_CNT_UNDERRUN]; omega
theorem ftqReg_underrun (t : Nat) : ftqReg t (R.FTQ_CNT_UNDERRUN t) := by
  simp only [ftqReg, R.FTQ_CTL, R.FTQ_CNT_UNDERRUN]; omega
theorem ftqReg_bank (t : Nat) {b : Nat} (hb : b < 2) : ftqReg t (R.FTQ_BANK t b) := by
  simp only [ftqReg, R.FTQ_CTL, R.FTQ_BANK, R.FTQ_CNT_UNDERRUN]; omega

theorem ftqReg_not_logReg {t : Fin 144} {a : Nat} (h : ftqReg t a) : ¬ logReg a := by
  have := t.isLt
  simp only [ftqReg, logReg, R.FTQ_CTL, R.FTQ_CNT_UNDERRUN, R.EVT_CNT, R.EVT_STATUS, R.MBX_PBA] at h ⊢
  omega

theorem ftqReg_not_issueReg {t st : Nat} (hst : st < 8) {a : Nat} (h : ftqReg t a) : ¬ issueReg t st a := by
  simp only [ftqReg, issueReg, R.FTQ_CTL, R.FTQ_CNT_UNDERRUN, R.TSQ_STREAM_ICOUNT, R.TSQ_EVCNT_VALUE] at h ⊢
  rintro (k | ⟨j, hj, k⟩) <;> omega

theorem ftqReg_not_ownReg {t st : Nat} (hst : st < 8) {a : Nat} (h : ftqReg t a) : ¬ ownReg t st a := by
  simp only [ftqReg, ownReg, R.FTQ_CTL, R.FTQ_CNT_UNDERRUN, R.TSQ_STREAM_STATUS, R.TSQ_STREAM_ICOUNT,
    R.TSQ_STREAM_BRK_COUNT] at h ⊢
  omega

theorem ftqReg_not_audit {t a : Nat} (h : ftqReg t a) : a ≠ R.TSQ_AUDIT_CNT t := by
  simp only [ftqReg, R.FTQ_CTL, R.FTQ_CNT_UNDERRUN, R.TSQ_AUDIT_CNT] at h ⊢
  omega

theorem IssueCounted.sameQueue {t st : Nat} {s u : State} (hst : st < 8) (h : IssueCounted t st s u) : SameQueue t s u :=
  h.frame.sameQueue (by simp) fun _ => ftqReg_not_issueReg hst

theorem StreamMoves.sameQueue {t : Fin 144} {st : Nat} {s u : State} (hst : st < 8) (h : StreamMoves t st s u) :
    SameQueue t s u :=
  h.frame.sameQueue (by simp) fun _ ha k =>
    k.elim (fun k => ftqReg_not_ownReg hst ha (.inl k)) (ftqReg_not_logReg ha)

theorem ftqBank_setFtqBank (s : State) (t b c : Nat) (k : FtqBank) :
    (s.setFtqBank t b k).ftqBank t c = if c = b then k else s.ftqBank t c := by
  have h := Store.get_put (fun _ => FtqBank.empty) s.ftq (t * 2 + b) (t * 2 + c) k
  simpa [State.ftqBank, State.setFtqBank] using h

theorem ftqBank_setFld (s : State) (f : Field) (v t b : Nat) : (s.setFld f v).ftqBank t b = s.ftqBank t b := by
  simp only [State.ftqBank, State.setFld_ftq]

theorem fFtqBank_addr (t b : Nat) : (fFtqBank t b).addr = R.FTQ_STATUS t := by
  unfold fFtqBank
  split <;> rfl

theorem fFtqBank_fits (t b : Nat) : (fFtqBank t b).lo + (fFtqBank t b).width ≤ 64 ∧ (fFtqBank t b).width = 2 := by
  unfold fFtqBank
  split <;> exact ⟨by simp [F.FTQ_STATUS_BANK0, F.FTQ_STATUS_BANK1], rfl⟩

/-- A bank's state code set. -/
theorem fFtqBank_set (s : State) (t b : Nat) {v : Nat} (hv : v < 4) : (s.setFld (fFtqBank t b) v).fld (fFtqBank t b) = v := by
  obtain ⟨hf, hw⟩ := fFtqBank_fits t b
  rw [State.fld_setFld_same _ _ _ hf, hw]
  exact Nat.mod_eq_of_lt hv

/-- The other bank's is left alone. -/
theorem fFtqBank_set_other (s : State) (t v : Nat) {b c : Nat} (hb : b < 2) (hc : c < 2) (h : c ≠ b) :
    (s.setFld (fFtqBank t b) v).fld (fFtqBank t c) = s.fld (fFtqBank t c) := by
  refine State.fld_setFld_apart _ _ _ _ (fFtqBank_fits t b).1 ?_
  have h0 : ∀ d, (fFtqBank t d).lo = if d = 0 then 0 else 2 := fun d => by unfold fFtqBank; split <;> rfl
  rw [h0, h0, (fFtqBank_fits t b).2, (fFtqBank_fits t c).2]
  split <;> split <;> omega

/-- The state codes lie in FTQ_STATUS, apart from a bank's own register. -/
theorem fFtqBank_setBank (s : State) (t b : Nat) {c : Nat} {f : Field} {v : Nat} (hf : f.addr = R.FTQ_BANK t c) :
    (s.setFld f v).fld (fFtqBank t b) = s.fld (fFtqBank t b) := by
  refine State.fld_setFld_ne _ _ _ _ ?_
  rw [fFtqBank_addr, hf]
  simp only [R.FTQ_STATUS, R.FTQ_BANK]
  omega

/-! ## Which bank an engine reads (R170, R171) -/

/-- Engine `e` may read bank `b`, as the pick tests it. -/
def State.ftqMayRead (s : State) (t e b : Nat) : Bool :=
  s.ftqAvail t b && (match s.fld (F.FTQ_CTL_CONSUMER t) with
    | 0 => e == 0
    | 1 => e == 1
    | _ => e == b)

theorem ftqPick_eq (s : State) (t e : Nat) :
    s.ftqPick t e = [(s.tile t).nextPkt % 2, 1 - (s.tile t).nextPkt % 2].find? (s.ftqMayRead t e) := rfl

theorem bankReadable_iff (s : State) (t e b : Nat) : bankReadable s t e b ↔ s.ftqMayRead t e b = true := by
  unfold bankReadable State.ftqMayRead State.ftqAvail fFtqBank
  generalize s.fld (F.FTQ_CTL_CONSUMER t) = c
  match c with
  | 0 | 1 | _ + 2 => simp [and_assoc]

/-- An engine that may read a bank picks it, if it may not read that of the older packet instead. -/
theorem ftqPick_some {s : State} {t e b : Nat} (hb : b < 2) (h : bankReadable s t e b)
    (hold : b = (s.tile t).nextPkt % 2 ∨ ¬ bankReadable s t e ((s.tile t).nextPkt % 2)) : s.ftqPick t e = some b := by
  rw [ftqPick_eq]
  rw [bankReadable_iff] at h hold
  by_cases ho : s.ftqMayRead t e ((s.tile t).nextPkt % 2) = true
  · obtain rfl := hold.resolve_right (not_not_intro ho)
    exact List.find?_cons_of_pos ho
  · have hne : 1 - (s.tile t).nextPkt % 2 = b := by
      have : b ≠ (s.tile t).nextPkt % 2 := fun k => ho (k ▸ h)
      omega
    rw [List.find?_cons_of_neg ho, hne, List.find?_cons_of_pos h]

theorem ftqPick_none {s : State} {t e : Nat} (h0 : ¬ bankReadable s t e 0) (h1 : ¬ bankReadable s t e 1) :
    s.ftqPick t e = none := by
  have h (b : Nat) (hb : b < 2) : ¬ s.ftqMayRead t e b = true := by
    rw [← bankReadable_iff]
    match b with
    | 0 => exact h0
    | 1 => exact h1
  rw [ftqPick_eq, List.find?_cons_of_neg (h _ (Nat.mod_lt _ (by decide))), List.find?_cons_of_neg (h _ (by omega)),
    List.find?_nil]

theorem bankReadable_congr {s u : State} {t : Nat} (h : SameQueue t s u) (ht : u.tile t = s.tile t) (e b : Nat) :
    bankReadable u t e b ↔ bankReadable s t e b := by
  have hb : u.fld (if b = 0 then F.FTQ_STATUS_BANK0 t else F.FTQ_STATUS_BANK1 t)
      = s.fld (if b = 0 then F.FTQ_STATUS_BANK0 t else F.FTQ_STATUS_BANK1 t) :=
    h.fld (by change ftqReg t (fFtqBank t b).addr; rw [fFtqBank_addr]; exact ftqReg_status t)
  have hc : u.fld (F.FTQ_CTL_CONSUMER t) = s.fld (F.FTQ_CTL_CONSUMER t) := h.fld (ftqReg_ctl t)
  unfold bankReadable
  rw [hb, hc, h.2, ht]

/-! ## A bank released (R170, R172, R173) -/

/-- A packet is formed for the next bank. -/
def packetFormed (s : State) (t : Nat) : Bool := (s.mxau t).run.any (fun r => !r.pkts.isEmpty)

theorem ftqFill_eq (s : State) (t : Nat) : s.ftqFill t =
    if s.fld (fFtqBank t ((s.tile t).nextPkt % 2)) = 0 ∧ packetFormed s t = true then
      s.setFld (fFtqBank t ((s.tile t).nextPkt % 2)) 1
    else s := rfl

/-- The next packet takes its own bank, where that is empty, and no other. -/
theorem ftqFill_spec (s : State) (t : Nat) {b : Nat} (hb : b < 2) (he : s.fld (fFtqBank t b) = 0) :
    OnlyChanges [] (· = R.FTQ_STATUS t) s (s.ftqFill t)
      ∧ (s.ftqFill t).fld (fFtqBank t b) = if b = (s.tile t).nextPkt % 2 ∧ packetFormed s t = true then 1 else 0 := by
  rw [ftqFill_eq]
  constructor
  · exact .ite (fun _ => OnlyChanges.refl.setFld (fFtqBank_addr t _)) (fun _ => .refl)
  · by_cases hn : b = (s.tile t).nextPkt % 2
    · rw [← hn]
      by_cases hf : packetFormed s t = true
      · rw [if_pos ⟨he, hf⟩, if_pos ⟨rfl, hf⟩, fFtqBank_set _ _ _ (by decide)]
      · rw [if_neg (fun k => hf k.2), if_neg (fun k => hf k.2), he]
    · rw [if_neg (show ¬ (b = (s.tile t).nextPkt % 2 ∧ packetFormed s t = true) from fun k => hn k.1)]
      split
      · rw [fFtqBank_set_other _ _ _ (Nat.mod_lt _ (by decide)) hb hn, he]
      · exact he

/-- A bank has been emptied from `s` to `u`: EMPTY, or FILLING with a packet formed for it, and nothing read of it. -/
def Emptied (s u : State) (t b : Nat) : Prop :=
  u.fld (fFtqBank t b) = (if b = (s.tile t).nextPkt % 2 ∧ packetFormed s t = true then 1 else 0)
    ∧ u.fld (F.FTQ_BANK_LEN t b) = 0 ∧ u.fld (F.FTQ_BANK_POS t b) = 0 ∧ u.ftqBank t b = FtqBank.empty

theorem ftqRelease_spec (s : State) (t : Nat) {b : Nat} (hb : b < 2) :
    OnlyChanges [.ftq, .evt, .host] (fun a => a = R.FTQ_STATUS t ∨ a = R.FTQ_BANK t b ∨ logReg a) s (s.ftqRelease t b)
      ∧ Emptied s (s.ftqRelease t b) t b ∧ (s.ftqRelease t b).ftqBank t (1 - b) = s.ftqBank t (1 - b) := by
  unfold State.ftqRelease
  extract_lets k s1 s2
  have h1 : OnlyChanges [.evt, .host] logReg s s1 :=
    .ite (fun _ => .refl) (fun _ => OnlyChanges.refl.logTile (by simp) (by simp) (fun _ h => h))
  have h2 : OnlyChanges [.ftq, .evt, .host] (fun a => a = R.FTQ_STATUS t ∨ a = R.FTQ_BANK t b ∨ logReg a) s s2 :=
    ((h1.mono (by simp) (fun _ h => .inr (.inr h))).setFtqBank (by simp)).setFld (.inl (fFtqBank_addr t b))
  generalize hs3 : (s2.setFld (F.FTQ_BANK_LEN t b) 0).setFld (F.FTQ_BANK_POS t b) 0 = s3
  have h3 : OnlyChanges [.ftq, .evt, .host] (fun a => a = R.FTQ_STATUS t ∨ a = R.FTQ_BANK t b ∨ logReg a) s s3 :=
    hs3 ▸ (h2.setFld (.inr (.inl rfl))).setFld (.inr (.inl rfl))
  have hcode : s3.fld (fFtqBank t b) = 0 := by
    rw [← hs3, fFtqBank_setBank _ _ _ rfl, fFtqBank_setBank _ _ _ rfl]
    exact fFtqBank_set _ _ _ (by decide)
  have hlen : s3.fld (F.FTQ_BANK_LEN t b) = 0 := by
    rw [← hs3, State.fld_setFld_apart _ _ _ _ (by simp [F.FTQ_BANK_POS]) (by simp [F.FTQ_BANK_POS, F.FTQ_BANK_LEN]),
      State.fld_setFld_same _ _ _ (by simp [F.FTQ_BANK_LEN]), Nat.zero_mod]
  have hpos : s3.fld (F.FTQ_BANK_POS t b) = 0 := by
    rw [← hs3, State.fld_setFld_same _ _ _ (by simp [F.FTQ_BANK_POS]), Nat.zero_mod]
  have hbank (c : Nat) : s3.ftqBank t c = if c = b then FtqBank.empty else s.ftqBank t c := by
    rw [← hs3, ftqBank_setFld, ftqBank_setFld, ftqBank_setFld, ftqBank_setFtqBank, h1.ftqBank_eq (by simp)]
  obtain ⟨hf, hfill⟩ := ftqFill_spec s3 t hb hcode
  have hreg : ¬ (R.FTQ_BANK t b = R.FTQ_STATUS t) := by simp only [R.FTQ_STATUS, R.FTQ_BANK]; omega
  have hform : packetFormed s3 t = packetFormed s t := by rw [packetFormed, packetFormed, h3.mxau_eq (by simp)]
  refine ⟨h3.trans (hf.mono (by simp) fun _ => .inl), ⟨?_, ?_, ?_, ?_⟩, ?_⟩
  · rw [hfill, h3.tile_eq (by simp), hform]
  · rw [hf.fld_eq hreg, hlen]
  · rw [hf.fld_eq hreg, hpos]
  · rw [hf.ftqBank_eq (by simp), hbank, if_pos rfl]
  · rw [hf.ftqBank_eq (by simp), hbank, if_neg (by omega)]

theorem Emptied.congr {s s' u u' : State} {t b : Nat} (h : Emptied s u t b) (hb : b < 2) (ht : s.tile t = s'.tile t)
    (hm : s.mxau t = s'.mxau t) (hq : SameQueue t u u') : Emptied s' u' t b := by
  obtain ⟨h1, h2, h3, h4⟩ := h
  refine ⟨?_, ?_, ?_, ?_⟩
  · rw [hq.fld (by rw [fFtqBank_addr]; exact ftqReg_status t), h1, ht, packetFormed, packetFormed, hm]
  · rw [hq.fld (ftqReg_bank t hb), h2]
  · rw [hq.fld (ftqReg_bank t hb), h3]
  · rw [hq.2, h4]

/-! ## The next 1 KiB taken (R172, R175) -/

/-- The bytes a pop of bank `b` delivers, and their words. -/
def popBytes (s : State) (t b : Nat) : Nat := min 1024 (s.fld (F.FTQ_BANK_LEN t b) - s.fld (F.FTQ_BANK_POS t b))

def popWords (s : State) (t b : Nat) : List (Word × Bool) :=
  ((s.ftqBank t b).words.drop (s.fld (F.FTQ_BANK_POS t b) / 8)).take 128

/-- The state in which a pop of bank `b` has delivered: bad-parity words counted, the bank READING. -/
def ftqDelivered (s : State) (i : Iss) (e b : Nat) : State :=
  let bad := ((popWords s i.t b).filter (fun x => x.2)).length
  let s1 := if bad = 0 then s else
    (((s.set1 (F.FTQ_STATUS_PARITY i.t)).set1 (F.FTQ_STATUS_POISON i.t)).incFld (F.FTQ_CNT_PARITY_VALUE i.t) bad).incFld
      (F.VXE_POISON_CNT_IN i.t e) ((popLanes (popWords s i.t b) (popBytes s i.t b)).filter (fun x => x.p)).length
  (s1.setFtqBank i.t b { s.ftqBank i.t b with bad := (s.ftqBank i.t b).bad + bad }).setFld (fFtqBank i.t b) 3

theorem ftqTake_some {s : State} {i : Iss} {e b : Nat} (h : s.ftqPick i.t e = some b) (op : Nat) :
    s.ftqTake i e op =
      (if s.fld (F.FTQ_BANK_LEN i.t b) ≤ s.fld (F.FTQ_BANK_POS i.t b) + popBytes s i.t b then
          (ftqDelivered s i e b).ftqRelease i.t b
        else (ftqDelivered s i e b).setFld (F.FTQ_BANK_POS i.t b) (s.fld (F.FTQ_BANK_POS i.t b) + popBytes s i.t b),
        popWords s i.t b, popBytes s i.t b) := by
  unfold State.ftqTake
  rw [h]
  rfl

/-- The registers a pop or a drop may write beside the log. -/
def readReg (t e a : Nat) : Prop :=
  a = R.FTQ_STATUS t ∨ (∃ k, k < 2 ∧ a = R.FTQ_BANK t k) ∨ a = R.FTQ_CNT_PARITY t ∨ a = R.FTQ_CNT_DROPS t
    ∨ a = R.VXE_POISON_CNT t e ∨ logReg a

theorem ftqDelivered_spec (s : State) (i : Iss) (e : Nat) {b : Nat} :
    OnlyChanges [.ftq] (fun a => a = R.FTQ_STATUS i.t ∨ a = R.FTQ_CNT_PARITY i.t ∨ a = R.VXE_POISON_CNT i.t e) s
        (ftqDelivered s i e b)
      ∧ (ftqDelivered s i e b).fld (fFtqBank i.t b) = 3
      ∧ ((ftqDelivered s i e b).ftqBank i.t b).words = (s.ftqBank i.t b).words
      ∧ ∀ c, c ≠ b → (ftqDelivered s i e b).ftqBank i.t c = s.ftqBank i.t c := by
  unfold ftqDelivered
  extract_lets bad s1
  have h1 : OnlyChanges [] (fun a => a = R.FTQ_STATUS i.t ∨ a = R.FTQ_CNT_PARITY i.t ∨ a = R.VXE_POISON_CNT i.t e) s s1 :=
    .ite (fun _ => .refl) (fun _ => (((OnlyChanges.refl.set1 (.inl rfl)).set1 (.inl rfl)).incFld (.inr (.inl rfl))).incFld
      (.inr (.inr rfl)))
  refine ⟨((h1.mono (by simp) fun _ h => h).setFtqBank (by simp)).setFld (.inl (fFtqBank_addr i.t b)),
    fFtqBank_set _ _ _ (by decide), ?_, fun c hc => ?_⟩
  · rw [ftqBank_setFld, ftqBank_setFtqBank, if_pos rfl]
  · rw [ftqBank_setFld, ftqBank_setFtqBank, if_neg hc, h1.ftqBank_eq (by simp)]

/-- What a pop of bank `b` does to the queue: the bank is released with the packet's last byte, else the read position moves on;
the other bank stands. -/
theorem ftqTake_spec {s : State} {i : Iss} {e b : Nat} (hb : b < 2) (h : s.ftqPick i.t e = some b) (op : Nat) :
    let pos := s.fld (F.FTQ_BANK_POS i.t b)
    let size := s.fld (F.FTQ_BANK_LEN i.t b)
    let u := (s.ftqTake i e op).1
    OnlyChanges [.ftq, .evt, .host] (readReg i.t e) s u
      ∧ (size ≤ pos + popBytes s i.t b → Emptied s u i.t b)
      ∧ (pos + popBytes s i.t b < size → u.fld (fFtqBank i.t b) = 3 ∧ u.fld (F.FTQ_BANK_POS i.t b) = pos + popBytes s i.t b
          ∧ (u.ftqBank i.t b).words = (s.ftqBank i.t b).words)
      ∧ u.ftqBank i.t (1 - b) = s.ftqBank i.t (1 - b)
      ∧ u.fld (F.FTQ_BANK_POS i.t (1 - b)) = s.fld (F.FTQ_BANK_POS i.t (1 - b)) := by
  intro pos size u
  obtain ⟨hd, hcode, hwords, hother⟩ := ftqDelivered_spec s i e (b := b)
  have hu : u = if size ≤ pos + popBytes s i.t b then (ftqDelivered s i e b).ftqRelease i.t b
      else (ftqDelivered s i e b).setFld (F.FTQ_BANK_POS i.t b) (pos + popBytes s i.t b) := by
    simp only [u, ftqTake_some h]
    rfl
  have hd' : OnlyChanges [.ftq, .evt, .host] (readReg i.t e) s (ftqDelivered s i e b) := hd.mono (by simp) (by
    rintro a (k | k | k)
    · exact .inl k
    · exact .inr (.inr (.inl k))
    · exact .inr (.inr (.inr (.inr (.inl k)))))
  have hposne : ¬ (R.FTQ_BANK i.t (1 - b) = R.FTQ_BANK i.t b) := by simp only [R.FTQ_BANK]; omega
  have hpos1 : (ftqDelivered s i e b).fld (F.FTQ_BANK_POS i.t (1 - b)) = s.fld (F.FTQ_BANK_POS i.t (1 - b)) := hd.fld_eq (by
    simp only [F.FTQ_BANK_POS, R.FTQ_BANK, R.FTQ_STATUS, R.FTQ_CNT_PARITY, R.VXE_POISON_CNT]
    omega)
  by_cases hc : size ≤ pos + popBytes s i.t b
  · rw [if_pos hc] at hu
    obtain ⟨hr, hemp, hbank⟩ := ftqRelease_spec (ftqDelivered s i e b) i.t hb
    rw [hu]
    refine ⟨hd'.trans (hr.mono (by simp) ?_), fun _ => ?_, fun k => absurd k (Nat.not_lt.2 hc), ?_, ?_⟩
    · rintro a (k | k | k)
      · exact .inl k
      · exact .inr (.inl ⟨b, hb, k⟩)
      · exact .inr (.inr (.inr (.inr (.inr k))))
    · exact hemp.congr hb (hd.tile_eq (by simp) _) (hd.mxau_eq (by simp) _) ⟨fun _ _ => rfl, fun _ => rfl⟩
    · rw [hbank, hother _ (by omega)]
    · refine (hr.fld_eq ?_).trans hpos1
      rintro (k | k | k)
      · simp only [F.FTQ_BANK_POS, R.FTQ_BANK, R.FTQ_STATUS] at k
        omega
      · exact hposne k
      · exact ftqReg_not_logReg (t := i.t) (ftqReg_bank _ (by omega)) k
  · rw [if_neg hc] at hu
    have hlt : pos + popBytes s i.t b < 2 ^ 16 := by
      have : size < 2 ^ 16 := Nat.mod_lt _ (Nat.two_pow_pos 16)
      omega
    rw [hu]
    refine ⟨hd'.setFld (.inr (.inl ⟨b, hb, rfl⟩)), fun k => absurd k hc, fun _ => ⟨?_, ?_, ?_⟩, ?_, ?_⟩
    · rw [fFtqBank_setBank _ _ _ rfl, hcode]
    · rw [State.fld_setFld_same _ _ _ (by simp [F.FTQ_BANK_POS])]
      exact Nat.mod_eq_of_lt hlt
    · rw [ftqBank_setFld, hwords]
    · rw [ftqBank_setFld, hother _ (by omega)]
    · rw [State.fld_setFld_ne _ _ _ _ hposne, hpos1]

/-! ## Pops and drops (R172 to R174) -/

theorem readReg_not_ownReg {t e st : Nat} (hst : st < 8) {a : Nat} (h : readReg t e a) : ¬ ownReg t st a := by
  intro k
  rcases h with h | ⟨b, hb, h⟩ | h | h | h | h
  · exact ftqReg_not_ownReg hst (h ▸ ftqReg_status t) k
  · exact ftqReg_not_ownReg hst (h ▸ ftqReg_bank t hb) k
  · simp only [ownReg, R.TSQ_STREAM_STATUS, R.TSQ_STREAM_ICOUNT, R.TSQ_STREAM_BRK_COUNT, R.FTQ_CNT_PARITY] at h k
    omega
  · exact ftqReg_not_ownReg hst (h ▸ ftqReg_drops t) k
  · simp only [ownReg, R.TSQ_STREAM_STATUS, R.TSQ_STREAM_ICOUNT, R.TSQ_STREAM_BRK_COUNT, R.VXE_POISON_CNT] at h k
    omega
  · exact ownReg_not_workReg hst (extra := fun _ => False) (fun _ => False.elim) k (.inr (.inl h))

/-- What a pop has in flight: the lanes' write-back, under X[0] the mask's, and POISON where a delivered word is poisoned. -/
def popPlan (a : VArgs) (ws : List (Word × Bool)) (n : Nat) : VPlan :=
  let m := bitsOf a.vc.toNat 0 4
  { srcs := [], dsts := (a.vd.toNat, 4) :: (if a.x.getLsbD 0 then [(64 + m, 4)] else []), kept := false
    evs := (4, 3, .wbV a.vd.toNat 32 (popLanes ws n)) ::
      (if a.x.getLsbD 0 then [(4, 3, .wbM m ((List.range 1024).map (fun k => (k, decide (4 * k < n), false))))] else [])
      ++ statusEv 4 (if ws.any (fun x => x.2) then stPOISON else 0) }

theorem ftqPopBody_eq (s : State) (i : Iss) (e : Nat) (a : VArgs) : s.ftqPopBody i e a =
    (s.ftqTake i e 0x48).1.runPlan i.t e i.st (s.pc i.t i.st)
      (popPlan a (s.ftqTake i e 0x48).2.1 (s.ftqTake i e 0x48).2.2) := rfl

/-- The lanes a pop writes, one by one. -/
theorem popLanes_eq (ws : List (Word × Bool)) (n : Nat) : popLanes ws n = (List.range 256).map (fun l => match ws[l / 2]? with
    | some x => if 4 * l < n then VEl.mk l (x.1.toNat / 2 ^ (32 * (l % 2)) % 2 ^ 32) x.2 else VEl.mk l 0 false
    | none => VEl.mk l 0 false) := by
  refine List.map_congr_left fun l _ => ?_
  by_cases h : 4 * l < n <;> cases ws[l / 2]? <;> simp [h, bitsOf, Nat.shiftRight_eq_div_pow]

theorem popLanes_nil : popLanes [] 0 = (List.range 256).map (fun l => VEl.mk l 0 false) := popLanes_eq [] 0

/-- A pop after its take: the plan entered and the stream gone on leave the queue as the take left it. -/
theorem pop_lands {s0 s1 : State} {i : Iss} {e : Nat} {a : VArgs} (hi : IssueCounted i.t i.st s0 s1)
    (ht : (s1.ftqTake i e 0x48).1.tile i.t = s1.tile i.t) :
    let ws := (s1.ftqTake i e 0x48).2.1
    let n := (s1.ftqTake i e 0x48).2.2
    let v := s1.ftqPopBody i e a
    let u := v.retireNext i.t i.st
    OnlyChanges [.tiles, .engs, .evt] (· = R.TSQ_AUDIT_CNT i.t) (s1.ftqTake i e 0x48).1 v
      ∧ SameQueue i.t (s1.ftqTake i e 0x48).1 u ∧ KeepsRecords (s1.ftqTake i e 0x48).1 u
      ∧ Scheduled s0 u i e 4 3 (.wbV a.vd.toNat 32 (popLanes ws n))
      ∧ (a.x.getLsbD 0 = true → Scheduled s0 u i e 4 3
          (.wbM (a.vc.toNat % 16) ((List.range 1024).map (fun k => (k, decide (4 * k < n), false)))))
      ∧ ∀ x ∈ (s1.tile i.t).vev, x ∈ (v.tile i.t).vev := by
  intro ws n v u
  have hm : StreamMoves i.t i.st v u := retire_moves i.st.isLt _
  obtain ⟨hf, hv, hk⟩ := runPlan_spec (s1.ftqTake i e 0x48).1 i.t e i.st (s1.pc i.t i.st) (popPlan a ws n)
  rw [← ftqPopBody_eq] at hf hv hk
  rw [ht, hi.pc_eq i.st.isLt] at hv
  have hu : (u.tile i.t).vev
      = (popPlan a ws n).inFlight (s0.tile i.t) e i.st (s0.pc i.t i.st) ++ (s1.tile i.t).vev := by
    rw [hm.frame.tile_eq (by simp), hv, hi.frame.tile_eq (by simp)]
  refine ⟨hf, ?_, hk.trans hm.records, ?_, fun hx => ?_, fun x hx => ?_⟩
  · exact (hf.sameQueue (by simp) fun _ ha => ftqReg_not_audit ha).trans (hm.sameQueue i.st.isLt)
  · rw [Scheduled, hu]
    exact List.mem_append_left _ (VPlan.mem_inFlight (by simp [popPlan]) ..)
  · rw [Scheduled, hu, show a.vc.toNat % 16 = bitsOf a.vc.toNat 0 4 by simp [bitsOf]]
    exact List.mem_append_left _ (VPlan.mem_inFlight (by simp [popPlan, hx]) ..)
  · rw [hv]
    exact List.mem_append_right _ hx

/-- A pop that issues: its own work, then its stream goes on. -/
theorem exec_ftqPop {s : State} {i : Iss} {e : Nat} (h : VectorIssues s i e) (a : VArgs) :
    ∃ s1, IssueCounted i.t i.st (s.advance i.t i.ac) s1
      ∧ Machine.exec (.ftqPop i a) s = .next ((s1.ftqPopBody i e a).retireNext i.t i.st) := by
  obtain ⟨s1, hi, hu⟩ := vecIssue_splits h (show vecLegal 0x48 (vecBits a) = true from rfl) (fun e s => s.ftqPopBody i e a)
  exact ⟨s1, hi, congrArg Host.Outcome.next hu⟩

/-- And a drop. -/
theorem exec_ftqDrop {s : State} {i : Iss} {e : Nat} (h : VectorIssues s i e) (a : VArgs) :
    ∃ s1, IssueCounted i.t i.st (s.advance i.t i.ac) s1
      ∧ Machine.exec (.ftqDrop i a) s = .next ((s1.ftqDropBody i e).retireNext i.t i.st) := by
  obtain ⟨s1, hi, hu⟩ := vecIssue_splits h (show vecLegal 0x49 (vecBits a) = true from rfl) (fun e s => s.ftqDropBody i e)
  exact ⟨s1, hi, congrArg Host.Outcome.next hu⟩

/-! ## No packet (R174) -/

theorem ftqUnderrun_spec (s : State) (i : Iss) (e op : Nat) :
    OnlyChanges [.evt, .host] (fun a => a = R.FTQ_STATUS i.t ∨ a = R.FTQ_CNT_UNDERRUN i.t ∨ logReg a) s (s.ftqUnderrun i e op)
      ∧ (s.ftqUnderrun i e op).fld (F.FTQ_STATUS_UNDERRUN i.t) = 1
      ∧ (s.ftqUnderrun i e op).fld (F.FTQ_CNT_UNDERRUN_VALUE i.t) = satAdd 64 (s.fld (F.FTQ_CNT_UNDERRUN_VALUE i.t)) 1
      ∧ Logged s (s.ftqUnderrun i e op) (s.tile i.t).seen i.t 0x0411 false [(1, e), (1, i.st), (4, s.pc i.t i.st), (1, op)] := by
  unfold State.ftqUnderrun
  generalize hs1 : s.set1 (F.FTQ_STATUS_UNDERRUN i.t) = s1
  generalize hs2 : s1.incFld (F.FTQ_CNT_UNDERRUN_VALUE i.t) 1 = s2
  have hne : R.FTQ_STATUS i.t ≠ R.FTQ_CNT_UNDERRUN i.t := by simp only [R.FTQ_STATUS, R.FTQ_CNT_UNDERRUN]; omega
  have h1 : OnlyChanges [] (· = R.FTQ_STATUS i.t) s s1 := hs1 ▸ OnlyChanges.refl.set1 rfl
  have h2 : OnlyChanges [] (· = R.FTQ_CNT_UNDERRUN i.t) s1 s2 := hs2 ▸ OnlyChanges.refl.incFld rfl
  have h12 : OnlyChanges [] (fun a => a = R.FTQ_STATUS i.t ∨ a = R.FTQ_CNT_UNDERRUN i.t) s s2 :=
    (h1.mono (by simp) fun _ => .inl).trans (h2.mono (by simp) fun _ => .inr)
  have hlog := (OnlyChanges.refl (s := s2)).logTile (parts := [.evt, .host]) (touch := logReg) (a := i.t) (code := 0x0411)
    (host := false) (d := [(1, e), (1, i.st), (4, s.pc i.t i.st), (1, op)]) (by simp) (by simp) fun _ h => h
  have hsame : SameRecords s s2 := h12.sameRecords (by simp)
    (fun k => k.elim (fun k => ftqReg_not_logReg (k ▸ ftqReg_status i.t) (.inl rfl))
      (fun k => ftqReg_not_logReg (k ▸ ftqReg_underrun i.t) (.inl rfl)))
    (fun k => k.elim (fun k => ftqReg_not_logReg (k ▸ ftqReg_status i.t) (.inr (.inl rfl)))
      (fun k => ftqReg_not_logReg (k ▸ ftqReg_underrun i.t) (.inr (.inl rfl))))
  refine ⟨?_, ?_, ?_, ?_⟩
  · exact (h12.mono (by simp) fun _ k => k.elim .inl fun k => .inr (.inl k)).trans (hlog.mono (by simp) fun _ k => .inr (.inr k))
  · rw [hlog.fld_eq (ftqReg_not_logReg (ftqReg_status i.t)), h2.fld_eq hne, ← hs1]
    exact State.fld_setFld_same _ _ _ (by simp [F.FTQ_STATUS_UNDERRUN])
  · rw [hlog.fld_eq (ftqReg_not_logReg (ftqReg_underrun i.t)), ← hs2,
      State.fld_incFld_same _ _ _ (by simp [F.FTQ_CNT_UNDERRUN_VALUE]), h1.fld_eq hne.symm]
    rfl
  · have h := logTile_logged s2 i.t 0x0411 false [(1, e), (1, i.st), (4, s.pc i.t i.st), (1, op)]
    rw [h12.tile_eq (by simp)] at h
    exact .of_same hsame .refl h

/-- A record logged first stays so through what keeps the records. -/
theorem Logged.first {s m u : State} {tide src code : Nat} {host : Bool} {d : List (Nat × Nat)}
    (h : Logged s m tide src code host d)
    (k : KeepsRecords m u) : LoggedFirst s u tide src code host d := ⟨m, h, k.1, k.2⟩

/-- What a pop or a drop without a packet leaves beside its stream's going on (R174). -/
theorem underrun_lands {s0 s1 u : State} {i : Iss} {e op : Nat} (hi : IssueCounted i.t i.st s0 s1)
    (hq : SameQueue i.t (s1.ftqUnderrun i e op) u) (hk : KeepsRecords (s1.ftqUnderrun i e op) u) :
    u.fld (F.FTQ_STATUS_UNDERRUN i.t) = 1
      ∧ u.fld (F.FTQ_CNT_UNDERRUN_VALUE i.t) = satAdd 64 (s0.fld (F.FTQ_CNT_UNDERRUN_VALUE i.t)) 1
      ∧ LoggedFirst s0 u (s0.tile i.t).seen i.t 0x0411 false [(1, e), (1, i.st), (4, s0.pc i.t i.st), (1, op)] := by
  obtain ⟨-, hflag, hcnt, hlog⟩ := ftqUnderrun_spec s1 i e op
  have hsame : SameRecords s0 s1 := hi.frame.sameRecords (by simp)
    (by simp only [issueReg, R.EVT_CNT, R.TSQ_STREAM_ICOUNT, R.TSQ_EVCNT_VALUE]; rintro (k | ⟨j, hj, k⟩) <;> omega)
    (by simp only [issueReg, R.EVT_STATUS, R.TSQ_STREAM_ICOUNT, R.TSQ_EVCNT_VALUE]; rintro (k | ⟨j, hj, k⟩) <;> omega)
  rw [hi.frame.tile_eq (by simp), hi.pc_eq i.st.isLt] at hlog
  refine ⟨by rw [hq.fld (ftqReg_status i.t), hflag], ?_, (Logged.of_same hsame .refl hlog).first hk⟩
  rw [hq.fld (ftqReg_underrun i.t), hcnt, (hi.sameQueue i.st.isLt).fld (ftqReg_underrun i.t)]

/-! ## FTQ_CTL (R179) -/

/-- A note of a register write leaves its marks in the log and in MBX_STATUS alone (R284, R407). -/
theorem noteBy_frame (s : State) (m : Master) (a : Nat) :
    OnlyChanges [.evt, .host] (fun b => logReg b ∨ b = R.MBX_STATUS) s (s.noteBy m a) := by
  unfold State.noteBy State.noteRegWrite
  split
  · exact .refl
  · refine .ite (fun _ => .refl) fun _ => .ite (fun _ => ?_) fun _ => .ite (fun _ => .refl) fun _ => ?_
    · exact (OnlyChanges.refl.set1 (.inr rfl)).logDev (by simp) (by simp) fun _ => .inl
    · exact OnlyChanges.refl.oncePerTide (by simp) fun _ h =>
        .ite (fun _ => h.logTile (by simp) (by simp) fun _ => .inl) (fun _ => h.logDev (by simp) (by simp) fun _ => .inl)

/-- A field of a word under a mask that holds the whole field. -/
theorem bitsOf_and_mask {v m : Word} {lo width : Nat} (h : ∀ k < width, m.getLsbD (lo + k) = true) :
    bitsOf (v &&& m).toNat lo width = v.toNat / 2 ^ lo % 2 ^ width := by
  rw [← Nat.shiftRight_eq_div_pow]
  change _ = bitsOf v.toNat lo width
  apply Nat.eq_of_testBit_eq
  intro k
  rw [testBit_bitsOf, testBit_bitsOf]
  by_cases hk : k < width
  · rw [BitVec.testBit_toNat, BitVec.testBit_toNat, BitVec.getLsbD_and, h k hk, Bool.and_true]
  · simp [hk]

theorem ftqReg_not_note {t : Fin 144} {a : Nat} (h : ftqReg t a) : ¬ (logReg a ∨ a = R.MBX_STATUS) := by
  rintro (k | k)
  · exact ftqReg_not_logReg h k
  · have := t.isLt
    simp only [ftqReg, R.FTQ_CTL, R.FTQ_CNT_UNDERRUN, R.MBX_STATUS] at h k
    omega

theorem noteBy_sameQueue (s : State) (m : Master) (a : Nat) (t : Fin 144) : SameQueue t s (s.noteBy m a) :=
  (noteBy_frame s m a).sameQueue (by simp) fun _ => ftqReg_not_note

theorem exec_ftqCtlWrite (m : Master) (t : Fin 144) (v : BitVec 64) (s : State) :
    Machine.exec (.ftqCtlWrite m t v) s = .next ((s.noteBy m (R.FTQ_CTL t)).ftqCtl t v) := rfl

/-- FTQ_CTL may be written: both banks empty, CONSUMER not 3 (R179). -/
def ctlMayWrite (s : State) (t : Nat) (v : Word) : Prop :=
  s.fld (F.FTQ_STATUS_BANK0 t) = 0 ∧ s.fld (F.FTQ_STATUS_BANK1 t) = 0 ∧ v.toNat % 4 ≠ 3

theorem ftqCtl_accepted {s : State} {t : Nat} {v : Word} (h : ctlMayWrite s t v) :
    s.ftqCtl t v = s.setReg (R.FTQ_CTL t) (v &&& 0xFFF0FFF0007) := by
  obtain ⟨h0, h1, h3⟩ := h
  have hv : bitsOf v.toNat 0 2 ≠ 3 := by simpa [bitsOf] using h3
  exact if_neg (by rintro (k | k | k); exacts [k h0, k h1, hv k])

theorem ftqCtl_refused {s : State} {t : Nat} {v : Word} (h : ¬ ctlMayWrite s t v) :
    s.ftqCtl t v = s.set1 (F.FTQ_STATUS_CFG_ERR t) := by
  refine if_pos ?_
  have hv : bitsOf v.toNat 0 2 = v.toNat % 4 := by simp [bitsOf]
  rw [hv]
  unfold ctlMayWrite at h
  tauto

theorem ctlMayWrite_congr {s u : State} {t : Nat} (h : SameQueue t s u) (v : Word) : ctlMayWrite u t v ↔ ctlMayWrite s t v := by
  unfold ctlMayWrite
  rw [h.fld (ftqReg_status t), h.fld (ftqReg_status t)]

/-- A write of FTQ_CTL that may be: the fields take the word's bits. -/
theorem ftqCtlWrite_accepted (m : Master) (t : Fin 144) {v : Word} {s : State} (h : ctlMayWrite s t v) :
    Reaches (Machine.exec (.ftqCtlWrite m t v) s) (fun u =>
      u.fld (F.FTQ_CTL_CONSUMER t) = v.toNat % 4 ∧ u.fld (F.FTQ_CTL_PKT_TOK_EN t) = v.toNat / 4 % 2
        ∧ u.fld (F.FTQ_CTL_PKT_TOKEN0 t) = v.toNat / 2 ^ 16 % 4096 ∧ u.fld (F.FTQ_CTL_PKT_TOKEN1 t) = v.toNat / 2 ^ 32 % 4096
        ∧ WriteChanges [] (fun b => b = R.FTQ_CTL t) s u) := by
  have hw : (s.noteBy m (R.FTQ_CTL t)).ftqCtl t v = _ := ftqCtl_accepted ((ctlMayWrite_congr (noteBy_sameQueue ..) v).2 h)
  refine ⟨_, exec_ftqCtlWrite m t v s, ?_⟩
  rw [hw]
  have hfld (lo width : Nat) (hm : ∀ k < width, (0xFFF0FFF0007 : Word).getLsbD (lo + k) = true) :
      ((s.noteBy m (R.FTQ_CTL t)).setReg (R.FTQ_CTL t) (v &&& 0xFFF0FFF0007)).fld ⟨R.FTQ_CTL t, lo, width⟩
        = v.toNat / 2 ^ lo % 2 ^ width := by
    rw [State.fld, State.reg_setReg_same, bitsOf_and_mask hm]
  refine ⟨?_, hfld 2 1 (by decide), hfld 16 12 (by decide), hfld 32 12 (by decide), ?_⟩
  · exact (hfld 0 2 (by decide)).trans (by norm_num)
  · exact ((noteBy_frame s m _).mono (by simp) fun _ => .inr).setReg (.inl rfl)

theorem ftqCtlWrite_refused (m : Master) (t : Fin 144) {v : Word} {s : State} (h : ¬ ctlMayWrite s t v) :
    Reaches (Machine.exec (.ftqCtlWrite m t v) s) (fun u =>
      u.fld (F.FTQ_STATUS_CFG_ERR t) = 1 ∧ WriteChanges [] (fun b => b = R.FTQ_STATUS t) s u) := by
  have hw : (s.noteBy m (R.FTQ_CTL t)).ftqCtl t v = _ :=
    ftqCtl_refused (fun k => h ((ctlMayWrite_congr (noteBy_sameQueue ..) v).1 k))
  refine ⟨_, exec_ftqCtlWrite m t v s, ?_⟩
  rw [hw]
  exact ⟨State.fld_setFld_same _ _ _ (by simp [F.FTQ_STATUS_CFG_ERR]),
    ((noteBy_frame s m _).mono (by simp) fun _ => .inr).set1 (.inl rfl)⟩

/-! ## The reading side as a whole -/

/-- The issue's counting leaves the packets as they are: what an engine may read, and the older of them. -/
theorem IssueCounted.readable_iff {t st : Nat} {s u : State} (hst : st < 8) (h : IssueCounted t st s u) (e b : Nat) :
    bankReadable u t e b ↔ bankReadable s t e b :=
  bankReadable_congr (h.sameQueue hst) (h.frame.tile_eq (by simp) t) e b

/-- The audit's registers, the log's and what a pop or a drop writes. -/
theorem ftqRead_frame {t e : Nat} {s u : State} (h : OnlyChanges [.ftq, .evt, .host] (readReg t e) s u) :
    OnlyChanges ([.tiles, .engs, .evt, .host] ++ [.ftq]) (workReg t (readReg t e)) s u :=
  h.mono (by simp) fun _ => (.inr <| .inr ·)

/-- An instruction of the queue at its issue: the bank picked, as the statements name it. -/
theorem issued_pick {s0 s1 : State} {i : Iss} {e b : Nat} (hi : IssueCounted i.t i.st s0 s1) (hb : b < 2)
    (h : bankReadable s0 i.t e b)
    (ho : b = (s0.tile i.t).nextPkt % 2 ∨ ¬ bankReadable s0 i.t e ((s0.tile i.t).nextPkt % 2)) : s1.ftqPick i.t e = some b := by
  refine ftqPick_some hb ((hi.readable_iff i.st.isLt e b).2 h) ?_
  rwa [hi.readable_iff i.st.isLt, hi.frame.tile_eq (by simp)]

theorem ftqPop_delivers {s : State} {i : Iss} {a : VArgs} {e b : Nat} (h : VectorIssues s i e) (hb : b < 2) :
    let s0 := s.advance i.t i.ac
    let pos := s0.fld (F.FTQ_BANK_POS i.t b)
    let size := s0.fld (F.FTQ_BANK_LEN i.t b)
    let n := popBytes s0 i.t b
    bankReadable s0 i.t e b → (b = (s0.tile i.t).nextPkt % 2 ∨ ¬ bankReadable s0 i.t e ((s0.tile i.t).nextPkt % 2)) →
    Reaches (Machine.exec (.ftqPop i a) s) (fun u =>
      Scheduled s0 u i e 4 3 (.wbV a.vd.toNat 32 (popLanes (popWords s0 i.t b) n))
        ∧ (a.x.getLsbD 0 = true → Scheduled s0 u i e 4 3
            (.wbM (a.vc.toNat % 16) ((List.range 1024).map (fun k => (k, decide (4 * k < n), false)))))
        ∧ (size ≤ pos + n → Emptied s0 u i.t b)
        ∧ (pos + n < size → u.fld (fFtqBank i.t b) = 3 ∧ u.fld (F.FTQ_BANK_POS i.t b) = pos + n
            ∧ (u.ftqBank i.t b).words = (s0.ftqBank i.t b).words)
        ∧ u.ftqBank i.t (1 - b) = s0.ftqBank i.t (1 - b)
        ∧ u.fld (F.FTQ_BANK_POS i.t (1 - b)) = s0.fld (F.FTQ_BANK_POS i.t (1 - b))
        ∧ vectorRuns s0 u i [.ftq] (readReg i.t e)) := by
  intro s0 pos size n hr ho
  obtain ⟨s1, hi, hu⟩ : ∃ s1, IssueCounted i.t i.st s0 s1 ∧ _ := exec_ftqPop h a
  refine ⟨_, hu, ?_⟩
  have hq := hi.sameQueue i.st.isLt
  have hpick := issued_pick hi hb hr ho
  obtain ⟨hf, hemp, hmore, hother, hopos⟩ := ftqTake_spec hb hpick 0x48
  obtain ⟨hrun, hsame, -, hlanes, hmask, hvev⟩ := pop_lands (a := a) hi (hf.tile_eq (by simp) _)
  have hp : s1.fld (F.FTQ_BANK_POS i.t b) = pos := hq.fld (ftqReg_bank _ hb)
  have hz : s1.fld (F.FTQ_BANK_LEN i.t b) = size := hq.fld (ftqReg_bank _ hb)
  have hn : popBytes s1 i.t b = n := by rw [popBytes, hp, hz]; rfl
  have hws : popWords s1 i.t b = popWords s0 i.t b := by rw [popWords, popWords, hp, hq.2]
  have hb1 : 1 - b < 2 := by omega
  rw [hp, hz, hn] at hemp hmore
  rw [ftqTake_some hpick] at hlanes hmask
  dsimp only at hlanes hmask
  rw [hn] at hlanes hmask
  rw [hws] at hlanes
  refine ⟨hlanes, hmask, fun hc => ?_, fun hc => ?_, ?_, ?_, ?_⟩
  · exact (hemp hc).congr hb (hi.frame.tile_eq (by simp) _) (hi.frame.mxau_eq (by simp) _) hsame
  · obtain ⟨h1, h2, h3⟩ := hmore hc
    refine ⟨?_, ?_, ?_⟩
    · rw [hsame.fld (by rw [fFtqBank_addr]; exact ftqReg_status _), h1]
    · rw [hsame.fld (ftqReg_bank _ hb), h2]
    · rw [hsame.2, h3, hq.2]
  · rw [hsame.2, hother, hq.2]
  · rw [hsame.fld (ftqReg_bank _ hb1), hopos, hq.fld (ftqReg_bank _ hb1)]
  · exact vectorRuns_of_work hi ((ftqRead_frame hf).trans (hrun.mono (by simp) fun _ => .inl)) (by simp)
      (fun _ => readReg_not_ownReg i.st.isLt) hvev

theorem ftqDrop_releases {s : State} {i : Iss} {a : VArgs} {e b : Nat} (h : VectorIssues s i e) (hb : b < 2) :
    let s0 := s.advance i.t i.ac
    bankReadable s0 i.t e b → (b = (s0.tile i.t).nextPkt % 2 ∨ ¬ bankReadable s0 i.t e ((s0.tile i.t).nextPkt % 2)) →
    Reaches (Machine.exec (.ftqDrop i a) s) (fun u =>
      Emptied s0 u i.t b ∧ u.fld (F.FTQ_CNT_DROPS_VALUE i.t) = satAdd 64 (s0.fld (F.FTQ_CNT_DROPS_VALUE i.t)) 1
        ∧ u.ftqBank i.t (1 - b) = s0.ftqBank i.t (1 - b) ∧ vectorRuns s0 u i [.ftq] (readReg i.t e)) := by
  intro s0 hr ho
  obtain ⟨s1, hi, hu⟩ : ∃ s1, IssueCounted i.t i.st s0 s1 ∧ _ := exec_ftqDrop h a
  refine ⟨_, hu, ?_⟩
  have hq := hi.sameQueue i.st.isLt
  have hbody : s1.ftqDropBody i e = (s1.incFld (F.FTQ_CNT_DROPS_VALUE i.t) 1).ftqRelease i.t b := by
    rw [State.ftqDropBody, issued_pick hi hb hr ho]
  generalize hs2 : s1.incFld (F.FTQ_CNT_DROPS_VALUE i.t) 1 = s2 at hbody
  have h2 : OnlyChanges [] (· = R.FTQ_CNT_DROPS i.t) s1 s2 := hs2 ▸ OnlyChanges.refl.incFld rfl
  obtain ⟨hf, hemp, hother⟩ := ftqRelease_spec s2 i.t hb
  rw [← hbody] at hf hemp hother
  have hm := retire_moves i.st.isLt (s := s1.ftqDropBody i e) (t := i.t) ((s1.ftqDropBody i e).pc i.t i.st + 8)
  have hsame : SameQueue i.t (s1.ftqDropBody i e) ((s1.ftqDropBody i e).retireNext i.t i.st) := hm.sameQueue i.st.isLt
  have hdrops : ¬ (R.FTQ_CNT_DROPS i.t = R.FTQ_STATUS i.t ∨ R.FTQ_CNT_DROPS i.t = R.FTQ_BANK i.t b
      ∨ logReg (R.FTQ_CNT_DROPS i.t)) := by
    rintro (k | k | k)
    · simp only [R.FTQ_CNT_DROPS, R.FTQ_STATUS] at k; omega
    · simp only [R.FTQ_CNT_DROPS, R.FTQ_BANK] at k; omega
    · exact ftqReg_not_logReg (ftqReg_drops i.t) k
  have hread : OnlyChanges [.ftq, .evt, .host] (readReg i.t e) s1 (s1.ftqDropBody i e) :=
    (h2.mono (by simp) fun _ k => .inr (.inr (.inr (.inl k)))).trans (hf.mono (by simp) (by
      rintro x (k | k | k)
      · exact .inl k
      · exact .inr (.inl ⟨b, hb, k⟩)
      · exact .inr (.inr (.inr (.inr (.inr k))))))
  refine ⟨?_, ?_, ?_, ?_⟩
  · exact hemp.congr hb ((h2.tile_eq (by simp) _).trans (hi.frame.tile_eq (by simp) _))
      ((h2.mxau_eq (by simp) _).trans (hi.frame.mxau_eq (by simp) _)) hsame
  · rw [hsame.fld (ftqReg_drops _), hf.fld_eq hdrops, ← hs2,
      State.fld_incFld_same _ _ _ (by simp [F.FTQ_CNT_DROPS_VALUE]), hq.fld (ftqReg_drops _)]
    rfl
  · rw [hsame.2, hother, h2.ftqBank_eq (by simp), hq.2]
  · exact vectorRuns_of_work hi (ftqRead_frame hread) (by simp) (fun _ => readReg_not_ownReg i.st.isLt)
      (fun v hv => by rwa [hread.tile_eq (by simp)])

/-- The registers of an underrun are none of the stream's. -/
theorem underrunReg_not_ownReg {t st : Nat} (hst : st < 8) (a : Nat) (h : a = R.FTQ_STATUS t ∨ a = R.FTQ_CNT_UNDERRUN t) :
    ¬ ownReg t st a :=
  ftqReg_not_ownReg hst (h.elim (fun k => k ▸ ftqReg_status t) (fun k => k ▸ ftqReg_underrun t))

theorem underrun_work {s : State} {i : Iss} {e op : Nat} :
    OnlyChanges [.tiles, .engs, .evt, .host] (workReg i.t (fun b => b = R.FTQ_STATUS i.t ∨ b = R.FTQ_CNT_UNDERRUN i.t)) s
      (s.ftqUnderrun i e op) :=
  (ftqUnderrun_spec s i e op).1.mono (by simp) (by
    rintro a (k | k | k)
    · exact .inr (.inr (.inl k))
    · exact .inr (.inr (.inr k))
    · exact .inr (.inl k))

/-- What R174 says of an underrun, in the terms of the statements. -/
def Underruns (s0 u : State) (i : Iss) (e op : Nat) : Prop :=
  u.fld (F.FTQ_STATUS_UNDERRUN i.t) = 1
    ∧ u.fld (F.FTQ_CNT_UNDERRUN_VALUE i.t) = satAdd 64 (s0.fld (F.FTQ_CNT_UNDERRUN_VALUE i.t)) 1
    ∧ LoggedFirst s0 u (s0.tile i.t).seen i.t 0x0411 false [(1, e), (1, i.st), (4, s0.pc i.t i.st), (1, op)]
    ∧ vectorGoesOn s0 u i (fun b => b = R.FTQ_STATUS i.t ∨ b = R.FTQ_CNT_UNDERRUN i.t)

theorem ftqPop_underruns {s : State} {i : Iss} {a : VArgs} {e : Nat} (h : VectorIssues s i e) :
    let s0 := s.advance i.t i.ac
    ¬ bankReadable s0 i.t e 0 → ¬ bankReadable s0 i.t e 1 →
    Reaches (Machine.exec (.ftqPop i a) s) (fun u =>
      Scheduled s0 u i e 4 3 (.wbV a.vd.toNat 32 ((List.range 256).map (fun l => VEl.mk l 0 false)))
        ∧ (a.x.getLsbD 0 = true → Scheduled s0 u i e 4 3
            (.wbM (a.vc.toNat % 16) ((List.range 1024).map (fun k => (k, false, false)))))
        ∧ Underruns s0 u i e 0x48) := by
  intro s0 h0 h1
  obtain ⟨s1, hi, hu⟩ : ∃ s1, IssueCounted i.t i.st s0 s1 ∧ _ := exec_ftqPop h a
  refine ⟨_, hu, ?_⟩
  have hpick : s1.ftqPick i.t e = none :=
    ftqPick_none (by rwa [hi.readable_iff i.st.isLt]) (by rwa [hi.readable_iff i.st.isLt])
  have htake : s1.ftqTake i e 0x48 = (s1.ftqUnderrun i e 0x48, [], 0) := by rw [State.ftqTake, hpick]
  have hl := pop_lands (e := e) (a := a) hi (by rw [htake]; exact (ftqUnderrun_spec ..).1.tile_eq (by simp) _)
  rw [htake] at hl
  obtain ⟨hrun, hsame, hkeep, hlanes, hmask, hvev⟩ := hl
  obtain ⟨hflag, hcnt, hlog⟩ := underrun_lands hi hsame hkeep
  refine ⟨?_, fun hx => ?_, hflag, hcnt, hlog, ?_⟩
  · rw [← popLanes_nil]
    exact hlanes
  · simpa using hmask hx
  · exact vectorRuns_of_work hi ((underrun_work.trans (hrun.mono (by simp) fun _ => .inl)).mono (by simp) fun _ k => k)
      (by simp) (underrunReg_not_ownReg i.st.isLt) hvev

theorem ftqDrop_underruns {s : State} {i : Iss} {a : VArgs} {e : Nat} (h : VectorIssues s i e) :
    let s0 := s.advance i.t i.ac
    ¬ bankReadable s0 i.t e 0 → ¬ bankReadable s0 i.t e 1 →
    Reaches (Machine.exec (.ftqDrop i a) s) (fun u => (u.tile i.t).vev = (s0.tile i.t).vev ∧ Underruns s0 u i e 0x49) := by
  intro s0 h0 h1
  obtain ⟨s1, hi, hu⟩ : ∃ s1, IssueCounted i.t i.st s0 s1 ∧ _ := exec_ftqDrop h a
  refine ⟨_, hu, ?_⟩
  have hpick : s1.ftqPick i.t e = none :=
    ftqPick_none (by rwa [hi.readable_iff i.st.isLt]) (by rwa [hi.readable_iff i.st.isLt])
  have hbody : s1.ftqDropBody i e = s1.ftqUnderrun i e 0x49 := by rw [State.ftqDropBody, hpick]
  rw [hbody]
  have hm : StreamMoves i.t i.st (s1.ftqUnderrun i e 0x49) ((s1.ftqUnderrun i e 0x49).retireNext i.t i.st) :=
    retire_moves i.st.isLt _
  have htile : (s1.ftqUnderrun i e 0x49).tile i.t = s1.tile i.t := (ftqUnderrun_spec ..).1.tile_eq (by simp) _
  obtain ⟨hflag, hcnt, hlog⟩ := underrun_lands hi (hm.sameQueue i.st.isLt) hm.records
  refine ⟨?_, hflag, hcnt, hlog, ?_⟩
  · rw [hm.frame.tile_eq (by simp), htile, hi.frame.tile_eq (by simp)]
  · exact vectorRuns_of_work hi (underrun_work.mono (by simp) fun _ k => k) (by simp) (underrunReg_not_ownReg i.st.isLt)
      (fun v hv => by rwa [htile])

/-- Settles O39: a pop or a drop with a packet takes or releases the bank picked, without one underruns, and FTQ_CTL is written by
its rule. -/
theorem finishedTileQueue : Obligations.FinishedTileQueue := by
  unfold Obligations.FinishedTileQueue
  refine ⟨fun i a e s h => ⟨fun b hb hr ho => ⟨?_, ftqDrop_releases h hb hr ho⟩, fun h0 h1 =>
    ⟨ftqPop_underruns h h0 h1, ftqDrop_underruns h h0 h1⟩⟩,
    fun m t v s => ⟨ftqCtlWrite_accepted m t, ftqCtlWrite_refused m t⟩⟩
  obtain ⟨u, hu, hlanes, hrest⟩ := ftqPop_delivers (a := a) h hb hr ho
  rw [popLanes_eq] at hlanes
  exact ⟨u, hu, hlanes, hrest⟩

end Sys2Proof.Machine
end

section
/-! SUPPORT. The device ID, requests without an answer, and the message check unit (R310, R313, R325, R326), with the settlement of
O51. -/
namespace Sys2Proof.Machine

/-! ## The running value bit by bit (R325) -/

/-- One step of the register takes the lowest bit of what is folded into it; the bits above stay folded in. -/
theorem crcBit_xor (c n : Nat) : crcBit (c ^^^ n) = crcOneBit c (n % 2) ^^^ n / 2 := by
  unfold crcBit crcOneBit
  rw [Nat.xor_mod_two_eq, Nat.xor_div_two, Nat.add_mod_mod]
  split
  · exact Nat.xor_right_comm _ _ _
  · rfl

theorem crcBit_iterate_xor (c n k : Nat) :
    crcBit^[k] (c ^^^ n) = ((List.range k).map (fun i => n / 2 ^ i % 2)).foldl crcOneBit c ^^^ n / 2 ^ k := by
  induction k with
  | zero => simp
  | succ k ih =>
    rw [Function.iterate_succ_apply', ih, crcBit_xor, List.range_succ, List.map_append, List.foldl_append, Nat.div_div_eq_div_mul,
      Nat.pow_succ]
    rfl

/-- A byte taken into the register is its eight bits, least significant first. -/
theorem crcByte_eq_lowBits (c : Nat) (b : Byte) : crcByte c b = (lowBits 1 b.toNat).foldl crcOneBit c := by
  have h := crcBit_iterate_xor c b.toNat 8
  rw [Nat.div_eq_of_lt b.isLt, Nat.xor_zero] at h
  exact h

theorem lowBits_one_ofNat (v : Nat) : lowBits 1 (BitVec.ofNat 8 v).toNat = lowBits 1 v := by
  refine List.map_congr_left fun k hk => ?_
  have hd : 2 ^ k * 2 ∣ 2 ^ 8 := pow_dvd_pow 2 (List.mem_range.1 hk)
  rw [BitVec.toNat_ofNat, ← Nat.mod_mul_right_div_self, Nat.mod_mod_of_dvd _ hd, Nat.mod_mul_right_div_self]

theorem lowBits_succ (n v : Nat) : lowBits (n + 1) v = lowBits 1 v ++ lowBits n (v / 256) := by
  unfold lowBits
  rw [Nat.mul_add, Nat.add_comm, List.range_add, List.map_append, List.map_map]
  congr 1
  refine List.map_congr_left fun k _ => ?_
  rw [Nat.div_div_eq_div_mul, Function.comp_apply, Nat.pow_add]

/-- The little-endian bytes of a number taken in turn are its bits taken in turn. -/
theorem crcRun_leBytes (n c v : Nat) : crcRun c (leBytes n v) = (lowBits n v).foldl crcOneBit c := by
  induction n generalizing c v with
  | zero => rfl
  | succ n ih =>
    calc crcRun c (leBytes (n + 1) v)
      _ = crcRun (crcByte c (BitVec.ofNat 8 v)) (leBytes n (v / 256)) := rfl
      _ = (lowBits n (v / 256)).foldl crcOneBit ((lowBits 1 v).foldl crcOneBit c) := by
        rw [ih, crcByte_eq_lowBits, lowBits_one_ofNat]
      _ = (lowBits (n + 1) v).foldl crcOneBit c := by rw [lowBits_succ n, List.foldl_append]

theorem crcOneBit_lt {c : Nat} (b : Nat) (h : c < 2 ^ 32) : crcOneBit c b < 2 ^ 32 := by
  have hc : c / 2 < 2 ^ 32 := by omega
  unfold crcOneBit
  split
  · exact Nat.xor_lt_two_pow hc (by decide)
  · exact hc

theorem foldl_crcOneBit_lt (bs : List Nat) {c : Nat} (h : c < 2 ^ 32) : bs.foldl crcOneBit c < 2 ^ 32 :=
  List.foldlRecOn (motive := (· < 2 ^ 32)) bs crcOneBit h fun _ hx b _ => crcOneBit_lt b hx

/-! ## The check unit (R325, R326) -/

/-- The running value is `x`, RESULT its complement, and nothing else has changed. -/
def McrcBecomes (s u : State) (x : Nat) : Prop :=
  u.fld F.FAB_MCRC_VALUE_VALUE = x ∧ u.fld F.FAB_MCRC_RESULT_RESULT = x ^^^ 0xFFFFFFFF
    ∧ OnlyChanges [] (fun b => b = R.FAB_MCRC_VALUE ∨ b = R.FAB_MCRC_RESULT) s u

theorem setMcrc_becomes (s : State) {x : Nat} (hx : x < 2 ^ 32) : McrcBecomes s (s.setMcrc x) x := by
  refine ⟨?_, ?_, (OnlyChanges.refl.setFld (.inl rfl)).setFld (.inr rfl)⟩
  · rw [State.setMcrc, State.fld_setFld_ne _ _ _ _ (by decide), State.fld_setFld_same _ _ _ (by decide)]
    exact Nat.mod_eq_of_lt hx
  · rw [State.setMcrc, State.fld_setFld_same _ _ _ (by decide), Nat.mod_eq_of_lt hx]
    exact Nat.mod_eq_of_lt (Nat.xor_lt_two_pow hx (by decide))

theorem mcrcFeed_becomes (s : State) (n v : Nat) :
    McrcBecomes s (s.mcrcFeed n v) ((lowBits n v).foldl crcOneBit (s.fld F.FAB_MCRC_VALUE_VALUE)) := by
  rw [State.mcrcFeed, crcRun_leBytes]
  exact setMcrc_becomes s (foldl_crcOneBit_lt _ (Nat.mod_lt _ (Nat.two_pow_pos 32)))

/-! ## The device ID (R313) -/

theorem fabIdWrite_busy {s : State} (v : Word) (h : s.anyActive = true ∨ s.fab.reqs ≠ []) :
    s.fabIdWrite v = s.set1 F.FAB_STATUS_CFG_ERR := if_pos (by simpa using h)

theorem fabIdWrite_quiet {s : State} (v : Word) (h : ¬ (s.anyActive = true ∨ s.fab.reqs ≠ [])) :
    s.fabIdWrite v = s.setReg R.FAB_ID (v &&& 0x1FFFF) := if_neg (by simpa using h)

theorem fabIdWrite_refused {s : State} (v : Word) (h : s.anyActive = true ∨ s.fab.reqs ≠ []) :
    (s.fabIdWrite v).fld F.FAB_STATUS_CFG_ERR = 1 ∧ OnlyChanges [] (fun b => b = R.FAB_STATUS) s (s.fabIdWrite v) := by
  rw [fabIdWrite_busy v h]
  exact ⟨State.fld_setFld_same _ _ _ (by decide), OnlyChanges.refl.set1 rfl⟩

theorem fabIdWrite_accepted {s : State} (v : Word) (h : ¬ (s.anyActive = true ∨ s.fab.reqs ≠ [])) :
    (s.fabIdWrite v).fld F.FAB_ID_ID = v.toNat % 2 ^ 16 ∧ (s.fabIdWrite v).fld F.FAB_ID_VALID = v.toNat / 2 ^ 16 % 2
      ∧ OnlyChanges [] (fun b => b = R.FAB_ID) s (s.fabIdWrite v) := by
  rw [fabIdWrite_quiet v h]
  have hfld (lo width : Nat) (hm : ∀ k < width, (0x1FFFF : Word).getLsbD (lo + k) = true) :
      (s.setReg R.FAB_ID (v &&& 0x1FFFF)).fld ⟨R.FAB_ID, lo, width⟩ = v.toNat / 2 ^ lo % 2 ^ width := by
    rw [State.fld, State.reg_setReg_same, bitsOf_and_mask hm]
  exact ⟨(hfld 0 16 (by decide)).trans (by rw [Nat.pow_zero, Nat.div_one]), hfld 16 1 (by decide), OnlyChanges.refl.setReg rfl⟩

/-! ## Requests without an answer (R310) -/

theorem OnlyChanges.setReqs {parts : List Part} {touch : Nat → Prop} {s u : State} {rs : List FabReq}
    (h : OnlyChanges parts touch s u) (hp : Part.fab ∈ parts) (ht : touch R.FAB_STATUS) :
    OnlyChanges parts touch s (u.setReqs rs) :=
  (h.upd (u := { u with fab := { u.fab with reqs := rs } }) rfl rfl
    (fun p n => by cases p <;> first | rfl | exact absurd hp n)).setFld ht

theorem OnlyChanges.setQueue {parts : List Part} {touch : Nat → Prop} {s u : State} {q : Nat} {x : Option Queue}
    (h : OnlyChanges parts touch s u) (hp : Part.que ∈ parts) (ht : touch R.QUE_STATUS) :
    OnlyChanges parts touch s (u.setQueue q x) :=
  (h.upd (u := { u with que := { u.que with q := Store.put (fun _ => none) u.que.q q x } }) rfl rfl
    (fun p n => by cases p <;> first | rfl | exact absurd hp n)).setFld ht

theorem OnlyChanges.queue_eq {parts : List Part} {touch : Nat → Prop} {s u : State} (h : OnlyChanges parts touch s u)
    (hp : Part.que ∉ parts) (q : Nat) : u.queue q = s.queue q := by
  simp only [State.queue, show u.que = s.que from h.2.1 .que hp]

@[simp] theorem queue_setQueue (s : State) (q : Nat) (x : Option Queue) : (s.setQueue q x).queue q = x :=
  Store.get_put_same (fun _ => none) s.que.q q x

/-- The state in which a request's time is up, before its requester proceeds: no longer outstanding, counted. -/
def timeoutCounted (s : State) (r : FabReq) : State :=
  ((s.dropReq r).incFld F.FAB_CNT_REQ_TIMEOUT_VALUE 1).set1 F.FAB_STATUS_REQ_TIMEOUT

/-- And logged, once per tide and unit. -/
def timeoutLogged (s : State) (r : FabReq) : State :=
  (timeoutCounted s r).oncePerTide (0x0905, r.unit, 0) (fun s =>
    s.logDev srcFAB 0x0905 false [(2, r.unit), (2, r.dst), (1, r.opc), (4, r.tag)])

theorem exec_fabReqTimeout_some {s : State} {tag : BitVec 32} {r : FabReq} (h : s.reqOf tag.toNat = some r) :
    Machine.exec (.fabReqTimeout tag) s = .next ((timeoutLogged s r).deliver r.cl (.fail quTIMEOUT)) := by
  change execFabReqTimeout tag s = _
  rw [execFabReqTimeout, h]
  rfl

theorem exec_fabReqTimeout_none {s : State} {tag : BitVec 32} (h : s.reqOf tag.toNat = none) :
    Machine.exec (.fabReqTimeout tag) s = .next s := by
  change execFabReqTimeout tag s = _
  rw [execFabReqTimeout, h]

/-- The registers a request without an answer may write. -/
def timeoutReg (a : Nat) : Prop := a = R.FAB_STATUS ∨ a = R.FAB_CNT_REQ_TIMEOUT ∨ logReg a

theorem timeoutCounted_frame (s : State) (r : FabReq) : OnlyChanges [.fab] timeoutReg s (timeoutCounted s r) :=
  ((OnlyChanges.refl.setReqs (by simp) (.inl rfl)).incFld (.inr (.inl rfl))).set1 (.inl rfl)

theorem timeoutLogged_logs (s : State) (r : FabReq) :
    OnlyChanges [.evt, .host] logReg (timeoutCounted s r) (timeoutLogged s r) :=
  OnlyChanges.refl.oncePerTide (by simp) fun _ h => h.logDev (by simp) (by simp) fun _ k => k

theorem timeoutLogged_frame (s : State) (r : FabReq) :
    OnlyChanges [.fab, .evt, .host] timeoutReg s (timeoutLogged s r) :=
  ((timeoutCounted_frame s r).mono (by simp) fun _ k => k).trans
    ((timeoutLogged_logs s r).mono (by simp) fun _ k => .inr (.inr k))

theorem timeoutReg_fabric {a : Nat} (h : timeoutReg a) : blockReg 2 a ∨ logReg a := by
  rcases h with rfl | rfl | h
  · exact .inl (by unfold blockReg; decide)
  · exact .inl (by unfold blockReg; decide)
  · exact .inr h

/-- What R310 says of the fabric unit's registers when a request's time is up. -/
theorem timeoutLogged_counts (s : State) (r : FabReq) :
    (timeoutLogged s r).fab.reqs = s.fab.reqs.erase r
      ∧ (timeoutLogged s r).fld F.FAB_STATUS_OUTSTANDING = (s.fab.reqs.erase r).length % 2 ^ 32
      ∧ (timeoutLogged s r).fld F.FAB_CNT_REQ_TIMEOUT_VALUE = satAdd 64 (s.fld F.FAB_CNT_REQ_TIMEOUT_VALUE) 1
      ∧ (timeoutLogged s r).fld F.FAB_STATUS_REQ_TIMEOUT = 1 := by
  have hl := timeoutLogged_logs s r
  have hstatus : ¬ logReg R.FAB_STATUS := by unfold logReg; decide
  have hcnt : ¬ logReg R.FAB_CNT_REQ_TIMEOUT := by unfold logReg; decide
  have hdrop : (s.dropReq r).fld F.FAB_CNT_REQ_TIMEOUT_VALUE = s.fld F.FAB_CNT_REQ_TIMEOUT_VALUE :=
    (OnlyChanges.refl.setReqs (parts := [.fab]) (touch := (· = R.FAB_STATUS)) (by simp) rfl).fld_eq (by decide)
  refine ⟨?_, ?_, ?_, ?_⟩
  · rw [show (timeoutLogged s r).fab = (timeoutCounted s r).fab from hl.2.1 .fab (by simp)]
    rfl
  · rw [hl.fld_eq hstatus, timeoutCounted, State.set1, State.fld_setFld_apart _ _ _ _ (by decide) (by decide), State.incFld,
      State.fld_setFld_ne _ _ _ _ (by decide)]
    exact State.fld_setFld_same _ _ _ (by decide)
  · rw [hl.fld_eq hcnt, timeoutCounted, State.set1, State.fld_setFld_ne _ _ _ _ (by decide),
      State.fld_incFld_same _ _ _ (by decide), hdrop]
    rfl
  · rw [hl.fld_eq hstatus, timeoutCounted]
    exact State.fld_setFld_same _ _ _ (by decide)

/-! ## A queue whose packet got no answer (R319) -/

/-- The registers of a gradient channel's links (R346): those `greOfQueue` reads. -/
def linkReg (a : Nat) : Prop := ∃ c < 256, a = R.GRE_CHAN_CFG c ∨ a = R.GRE_CHAN_LINK c ∨ a = R.GRE_CHAN_STATE c

theorem linkReg_not_timeoutReg {a : Nat} (h : linkReg a) : ¬ timeoutReg a := by
  obtain ⟨c, hc, h⟩ := h
  simp only [timeoutReg, logReg, R.GRE_CHAN_CFG, R.GRE_CHAN_LINK, R.GRE_CHAN_STATE, R.FAB_STATUS, R.FAB_CNT_REQ_TIMEOUT, R.EVT_CNT,
    R.EVT_STATUS, R.MBX_PBA] at h ⊢
  omega

theorem linkReg_not_queueLog {a : Nat} (h : linkReg a) : ¬ (a = R.QUE_STATUS ∨ logReg a) := by
  obtain ⟨c, hc, h⟩ := h
  simp only [logReg, R.GRE_CHAN_CFG, R.GRE_CHAN_LINK, R.GRE_CHAN_STATE, R.QUE_STATUS, R.EVT_CNT, R.EVT_STATUS, R.MBX_PBA] at h ⊢
  omega

/-- A queue of no channel stays one where the channels' link registers stand. -/
theorem OnlyChanges.greOfQueue_none {parts : List Part} {touch : Nat → Prop} {s u : State} (h : OnlyChanges parts touch s u)
    (ht : ∀ a, linkReg a → ¬ touch a) {q : Nat} (hq : s.greOfQueue q = none) : u.greOfQueue q = none := by
  unfold State.greOfQueue at hq ⊢
  rw [List.findSome?_eq_none_iff] at hq ⊢
  intro c hc
  have e {f : Field} (hf : f.addr = R.GRE_CHAN_CFG c ∨ f.addr = R.GRE_CHAN_LINK c ∨ f.addr = R.GRE_CHAN_STATE c) :
      u.fld f = s.fld f := h.fld_eq (ht _ ⟨c, List.mem_range.1 hc, hf⟩)
  have hlinks : u.greLinks c = s.greLinks c := by
    unfold State.greLinks
    rw [e (f := F.GRE_CHAN_CFG_TOPO c) (.inl rfl), e (f := F.GRE_CHAN_CFG_CHILDREN c) (.inl rfl)]
  rw [e (f := F.GRE_CHAN_LINK_QBASE c) (.inr (.inl rfl)), e (f := F.GRE_CHAN_STATE_STATE c) (.inr (.inr rfl)), hlinks]
  exact hq c hc

/-- A descriptor of a queue of no channel fails: the queue is in ERROR, and memory stands. -/
theorem queFail_spec {s : State} {q : Nat} (x : Queue) (d : QueDesc) (code : Nat) (hq : s.greOfQueue q = none) :
    (∃ y, (s.queFail q x d code).queue q = some y ∧ y.state = quERROR)
      ∧ (s.queFail q x d code).fld F.QUE_STATUS_QUEUE_ERROR = 1 ∧ (s.queFail q x d code).mem = s.mem := by
  unfold State.queFail
  extract_lets _ x1
  generalize hs1 : (s.setQueue q (some x1)).set1 F.QUE_STATUS_QUEUE_ERROR = s1
  generalize hs2 : s1.logDev srcQUE 0x0910 true [(2, q), (4, d.idx), (1, code)] = s2
  have h1 : OnlyChanges [.que] (fun a => a = R.QUE_STATUS ∨ logReg a) s s1 :=
    hs1 ▸ (OnlyChanges.refl.setQueue (by simp) (.inl rfl)).set1 (.inl rfl)
  have h2 : OnlyChanges [.evt, .host] logReg s1 s2 := hs2 ▸ OnlyChanges.refl.logDev (by simp) (by simp) fun _ k => k
  have h : OnlyChanges [.que, .evt, .host] (fun a => a = R.QUE_STATUS ∨ logReg a) s s2 :=
    (h1.mono (by simp) fun _ k => k).trans (h2.mono (by simp) fun _ => .inr)
  rw [State.greQueueError, h.greOfQueue_none (fun _ => linkReg_not_queueLog) hq]
  refine ⟨⟨x1, ?_, rfl⟩, ?_, h.2.1 .mem (by simp)⟩
  · rw [h2.queue_eq (by simp), ← hs1]
    exact queue_setQueue s q (some x1)
  · rw [h2.fld_eq (show ¬ logReg R.QUE_STATUS by unfold logReg; decide), ← hs1]
    exact State.fld_setFld_same _ _ _ (by decide)

/-- An error answer to a descriptor without end-to-end checks fails it. -/
theorem queAnswer_fail {s : State} {q idx tries : Nat} {x : Queue} {d : QueDesc} (hq : s.queue q = some x)
    (hd : x.infl.find? (fun y => y.idx == idx && y.tries == tries && !y.done) = some d) (he : d.e2e x = false) (k code : Nat) :
    s.queAnswer q idx tries k (.fail code) = s.queFail q x d code := by
  simp only [State.queAnswer, hq, hd, he, Bool.false_and, Bool.false_eq_true, if_false]

theorem fabReqTimeout_queue {s : State} {tag : BitVec 32} {r : FabReq} {q idx tries k : Nat} {x : Queue} {d : QueDesc}
    (hr : s.reqOf tag.toNat = some r) (hcl : r.cl = .queue q idx tries k) (hq : s.queue q = some x)
    (hd : x.infl.find? (fun y => y.idx == idx && y.tries == tries && !y.done) = some d) (he : d.e2e x = false)
    (hg : s.greOfQueue q = none) :
    Reaches (Machine.exec (.fabReqTimeout tag) s) (fun u => ∃ y, u.queue q = some y ∧ y.state = quERROR
      ∧ u.fld F.QUE_STATUS_QUEUE_ERROR = 1 ∧ u.mem = s.mem) := by
  have hf := timeoutLogged_frame s r
  have hans : (timeoutLogged s r).deliver r.cl (.fail quTIMEOUT) = (timeoutLogged s r).queFail q x d quTIMEOUT := by
    rw [hcl]
    exact queAnswer_fail ((hf.queue_eq (by simp) q).trans hq) hd he k quTIMEOUT
  obtain ⟨⟨y, hy, hstate⟩, herr, hmem⟩ :=
    queFail_spec x d quTIMEOUT (hf.greOfQueue_none (fun _ => linkReg_not_timeoutReg) hg)
  refine ⟨_, exec_fabReqTimeout_some hr, ?_⟩
  rw [hans]
  exact ⟨y, hy, hstate, herr, hmem.trans (hf.2.1 .mem (by simp))⟩

theorem fabReqTimeout_counted {s : State} {tag : BitVec 32} {r : FabReq} (hr : s.reqOf tag.toNat = some r) (hcl : r.cl = .none) :
    Reaches (Machine.exec (.fabReqTimeout tag) s) (fun u =>
      u.fab.reqs = s.fab.reqs.erase r ∧ u.fld F.FAB_STATUS_OUTSTANDING = (s.fab.reqs.erase r).length % 2 ^ 32
        ∧ u.fld F.FAB_CNT_REQ_TIMEOUT_VALUE = satAdd 64 (s.fld F.FAB_CNT_REQ_TIMEOUT_VALUE) 1
        ∧ u.fld F.FAB_STATUS_REQ_TIMEOUT = 1 ∧ fabricOnly [] s u) := by
  obtain ⟨hreqs, hout, hcnt, hflag⟩ := timeoutLogged_counts s r
  refine ⟨timeoutLogged s r, ?_, hreqs, hout, hcnt, hflag, ?_⟩
  · rw [exec_fabReqTimeout_some hr, hcl]
    rfl
  · exact (timeoutLogged_frame s r).mono (by simp) fun _ => timeoutReg_fabric

/-- Settles O51: a data write is its bits taken one by one, since folding a number into the register commutes with its steps; a
request's timeout leaves a queue's requester in ERROR; FAB_ID is written on a quiet device alone. -/
theorem fabricIdentityAndCheck : Obligations.FabricIdentityAndCheck := by
  unfold Obligations.FabricIdentityAndCheck
  refine ⟨fun v s => ⟨fun hb => ⟨_, rfl, fabIdWrite_refused v hb⟩, fun hb => ⟨_, rfl, fabIdWrite_accepted v hb⟩⟩,
    fun tag s => ⟨fun r hr hcl => fabReqTimeout_counted hr hcl,
      fun r q idx tries k x d hr hcl hq hd he hg => fabReqTimeout_queue hr hcl hq hd he hg, exec_fabReqTimeout_none⟩,
    fun v s => ⟨?_, ?_, ?_, ?_, ?_⟩⟩
  · exact ⟨_, rfl, mcrcFeed_becomes s 1 v.toNat⟩
  · exact ⟨_, rfl, mcrcFeed_becomes s 2 v.toNat⟩
  · exact ⟨_, rfl, mcrcFeed_becomes s 4 v.toNat⟩
  · exact ⟨_, rfl, setMcrc_becomes s (by decide)⟩
  · exact ⟨_, rfl, setMcrc_becomes s v.isLt⟩

end Sys2Proof.Machine
end
